-- ==== Sys2Proof/Word.lean ====
section
/-! DEFINITION. The word types of the EV-192 and their plainest arithmetic (R2, R3, R48). -/

namespace Sys2Proof

/-- A byte of memory. -/
abbrev Byte := BitVec 8

/-- A 32-bit word: a general register, an instruction word, a literal (R3). -/
abbrev Word := BitVec 32

/-- A 64-bit value: a buffer pointer or a register pair (R49). -/
abbrev Quad := BitVec 64

/-- A general-register or predicate field of an instruction word (R91). -/
abbrev Reg := BitVec 7

/-- A 32-bit word of a natural number, modulo 2^32. -/
def word (n : Nat) : Word := BitVec.ofNat 32 n

end Sys2Proof
end

