-- ==== Sys2Proof/Machine/Bits.lean ====
section
/-! DEFINITION. Bit fields, sign extension and patterns of integers (R3, R76). -/

namespace Sys2Proof

/-- The bits [hi:lo] of a number (R3). -/
def bitsOf (n hi lo : Nat) : Nat := (n / 2 ^ lo) % 2 ^ (hi + 1 - lo)

/-- Bit i of a number. -/
def bitOf (n i : Nat) : Bool := (n / 2 ^ i) % 2 == 1

/-- 1 for true and 0 for false. -/
def boolNat (b : Bool) : Nat := if b then 1 else 0

/-- The two's-complement reading of the low n bits of x (R76, sext). -/
def sextInt (x n : Nat) : Int :=
  let y := x % 2 ^ n
  if 2 ^ n ≤ 2 * y then (y : Int) - (2 ^ n : Nat) else (y : Int)

/-- An integer as an n-bit pattern, modulo 2^n. -/
def intBits (i : Int) (n : Nat) : Nat := (i % (2 ^ n : Nat)).toNat

/-- An integer as a 32-bit word, modulo 2^32. -/
def wordOfInt (i : Int) : Word := word (intBits i 32)

end Sys2Proof
end

