-- ==== Sys2Proof/Machine/Num.lean ====
section
/-! DEFINITION. Number formats and arithmetic (02_numbers, R47 to R62, R73 to R76): the value of every pattern, exact
arithmetic on values, and the rounding, saturation and flags of every result. -/

namespace Sys2Proof.Machine

/-! ### Flags as bits of FLAGS (R66 Table 5) -/

/-- INVL. -/
abbrev fINVL : Nat := 1
/-- DIVZ. -/
abbrev fDIVZ : Nat := 2
/-- OVFL. -/
abbrev fOVFL : Nat := 4
/-- UNDF. -/
abbrev fUNDF : Nat := 8
/-- INEX. -/
abbrev fINEX : Nat := 16
/-- SATD. -/
abbrev fSATD : Nat := 32

/-- A flag mask when a condition holds. -/
def flagIf (c : Bool) (f : Nat) : Nat := if c then f else 0

/-! ### Formats and values (R47) -/

/-- The floating-point element formats of R47 Table 1. -/
inductive Fmt where
  | f32 | f16 | bf16 | e4m3 | e5m2
  deriving DecidableEq, Repr, Inhabited

/-- Exponent field width. -/
def Fmt.eb : Fmt → Nat
  | .f32 => 8 | .f16 => 5 | .bf16 => 8 | .e4m3 => 4 | .e5m2 => 5

/-- Fraction field width. -/
def Fmt.fb : Fmt → Nat
  | .f32 => 23 | .f16 => 10 | .bf16 => 7 | .e4m3 => 3 | .e5m2 => 2

/-- Exponent bias. -/
def Fmt.bias (f : Fmt) : Nat := 2 ^ (f.eb - 1) - 1

/-- Width in bits. -/
def Fmt.width (f : Fmt) : Nat := 1 + f.eb + f.fb

/-- Whether the format has infinities (R76). -/
def Fmt.hasInf (f : Fmt) : Bool := f != .e4m3

/-- The canonical NaN of R47 Table 1. -/
def Fmt.canonNan : Fmt → Nat
  | .f32 => 0x7FC00000 | .f16 => 0x7E00 | .bf16 => 0x7FC0 | .e4m3 => 0x7F | .e5m2 => 0x7E

/-- The pattern of positive infinity, where the format has one. -/
def Fmt.infBits (f : Fmt) : Nat := (2 ^ f.eb - 1) * 2 ^ f.fb

/-- The pattern of the largest finite magnitude. -/
def Fmt.maxBits : Fmt → Nat
  | .e4m3 => 0x7E
  | f => f.infBits - 1

/-- The least normal exponent, 1 − bias. -/
def Fmt.emin (f : Fmt) : Int := 1 - (f.bias : Int)

/-- A value of a floating-point pattern: a finite magnitude m × 2^e with a sign, an infinity, or a NaN. -/
inductive Val where
  | fin (neg : Bool) (m : Nat) (e : Int)
  | inf (neg : Bool)
  | nan (sig : Bool)
  deriving DecidableEq, Repr, Inhabited

/-- value_of (R76) by R47. -/
def unpack (f : Fmt) (bits : Nat) : Val :=
  let s := bitOf bits (f.width - 1)
  let ex := bitsOf bits (f.width - 2) f.fb
  let fr := bits % 2 ^ f.fb
  if ex == 2 ^ f.eb - 1 && (f.hasInf || fr == 7) then
    if f.hasInf && fr == 0 then .inf s
    else .nan (f.hasInf && !bitOf fr (f.fb - 1))
  else if ex == 0 then .fin s fr (f.emin - f.fb)
  else .fin s (fr + 2 ^ f.fb) ((ex : Int) - f.bias - f.fb)

/-- The sign bit of a format. -/
def signBits (f : Fmt) (neg : Bool) : Nat := if neg then 2 ^ (f.width - 1) else 0

/-- The pattern of a finite magnitude m × 2^q of the format, where q is the unit of its binade (or of the subnormals). -/
def packFin (f : Fmt) (neg : Bool) (m : Nat) (q : Int) : Nat :=
  signBits f neg +
    (if m < 2 ^ f.fb then m
     else ((q + f.fb + f.bias).toNat) * 2 ^ f.fb + (m - 2 ^ f.fb))

/-- The rounding modes of RMODE (R59). -/
inductive Rnd where
  | rne | rtz | rup | rdn | rna
  deriving DecidableEq, Repr, Inhabited

/-- MODE of an RMODE value (R59). -/
def rndOf (rmode : Nat) : Rnd :=
  match rmode % 8 with
  | 1 => .rtz | 2 => .rup | 3 => .rdn | 4 => .rna | _ => .rne

/-- Whether a magnitude with quotient q, remainder r of 2^s, and a further nonzero part when sticky, rounds up. -/
def roundUp (mode : Rnd) (neg : Bool) (q r s : Nat) (sticky : Bool) : Bool :=
  let part := r != 0 || sticky
  let half := 2 ^ s / 2
  match mode with
  | .rtz => false
  | .rup => part && !neg
  | .rdn => part && neg
  | .rne => s != 0 && (half < r || (r == half && (sticky || q % 2 == 1)))
  | .rna => s != 0 && half ≤ r

/-- The magnitude m × 2^e, with a further part below one unit when sticky, rounded at the unit 2^q: the count of units and
whether it differs. -/
def roundAt (mode : Rnd) (neg : Bool) (m : Nat) (e q : Int) (sticky : Bool) : Nat × Bool :=
  if q ≤ e then (m * 2 ^ (e - q).toNat, sticky)
  else
    let s := (q - e).toNat
    let n := m / 2 ^ s
    let r := m % 2 ^ s
    (if roundUp mode neg n r s sticky then n + 1 else n, r != 0 || sticky)

/-- What rounding a nonzero magnitude to a format gives (R55, R61): the magnitude as units of 2^q after renormalising,
whether it differs, overflows, or is tiny. -/
structure Rounded where
  m : Nat
  q : Int
  inexact : Bool
  ovf : Bool
  tiny : Bool
  deriving DecidableEq, Repr

/-- round_mode (R76), with the tests of R55. -/
def roundMag (f : Fmt) (mode : Rnd) (neg : Bool) (m : Nat) (e : Int) (sticky : Bool) : Rounded :=
  let ex : Int := (Nat.log2 m : Int) + e
  let q : Int := max ex f.emin - f.fb
  let (n, ix) := roundAt mode neg m e q sticky
  let carry := 2 ^ (f.fb + 1) ≤ n
  let n' := if carry then n / 2 else n
  let q' := if carry then q + 1 else q
  let mx := unpack f f.maxBits
  let ovf := match mx with
    | .fin _ mm me => decide (me < q' ∨ (me = q' ∧ mm < n'))
    | _ => false
  let tiny :=
    if f.emin ≤ ex then false
    else if ex < f.emin - 1 then true
    else decide ((roundAt mode neg m e (ex - f.fb) sticky).1 < 2 ^ (f.fb + 1))
  { m := n', q := q', inexact := ix, ovf := ovf, tiny := tiny }

/-- overflow_result (R61 Table 3). -/
def overflowBits (f : Fmt) (mode : Rnd) (neg : Bool) : Nat :=
  let toInf := match mode with
    | .rne => true | .rna => true | .rtz => false | .rup => !neg | .rdn => neg
  if toInf then (if f.hasInf then signBits f neg + f.infBits else f.canonNan)
  else signBits f neg + f.maxBits

/-- A finite magnitude delivered in a format, with the flags of R55 and R61 and the clamp of SAT: bits and flags. -/
def deliver (f : Fmt) (mode : Rnd) (sat neg : Bool) (m : Nat) (e : Int) (sticky : Bool) : Nat × Nat :=
  if m == 0 && !sticky then (signBits f neg, 0)
  else
    let r := roundMag f mode neg m e sticky
    if r.ovf then
      if sat then (signBits f neg + f.maxBits, fINEX ||| fSATD)
      else (overflowBits f mode neg, fINEX ||| fOVFL)
    else
      (packFin f neg r.m r.q,
        flagIf r.inexact fINEX ||| flagIf (r.tiny && r.inexact) fUNDF)

/-- round_rne of a finite value (R76). -/
def deliverRne (f : Fmt) (neg : Bool) (m : Nat) (e : Int) (sticky : Bool := false) : Nat × Nat :=
  deliver f .rne false neg m e sticky

/-- convert_fp (R61) of a value under RMODE m. -/
def convertFp (f : Fmt) (rmode : Nat) (x : Val) : Nat × Nat :=
  let sat := bitOf rmode 3
  match x with
  | .nan sig => (f.canonNan, flagIf sig fINVL)
  | .inf neg =>
    if sat then (signBits f neg + f.maxBits, fSATD)
    else if f.hasInf then (signBits f neg + f.infBits, 0)
    else (f.canonNan, fINVL)
  | .fin neg m e => deliver f (rndOf rmode) sat neg m e false

/-- A value rounded to an integer by a mode, and whether it differs. -/
def roundInt (mode : Rnd) (neg : Bool) (m : Nat) (e : Int) : Int × Bool :=
  let (n, ix) := roundAt mode neg m e 0 false
  (if neg then -(n : Int) else n, ix)

/-- convert_int (R62) to the range lo to hi. -/
def convertInt (lo hi : Int) (rmode : Nat) (x : Val) : Int × Nat :=
  match x with
  | .nan _ => (0, fINVL)
  | .inf neg => (if neg then lo else hi, fINVL)
  | .fin neg m e =>
    let (i, ix) := roundInt (rndOf rmode) neg m e
    if i < lo then (lo, fINVL)
    else if hi < i then (hi, fINVL)
    else (i, flagIf ix fINEX)

/-- A widening conversion (R60, R143): exact, canonical NaN, invalid for a signalling NaN. -/
def widen (f : Fmt) (bits : Nat) : Nat × Nat :=
  match unpack f bits with
  | .nan sig => (Fmt.f32.canonNan, flagIf sig fINVL)
  | .inf neg => (signBits .f32 neg + Fmt.f32.infBits, 0)
  | .fin neg m e => ((deliverRne .f32 neg m e).1, 0)

/-! ### Exact arithmetic (R52) -/

/-- Whether a value is a signalling NaN. -/
def Val.isSnan : Val → Bool
  | .nan s => s
  | _ => false

/-- Whether a value is a NaN. -/
def Val.isNan : Val → Bool
  | .nan _ => true
  | _ => false

/-- The signed integer of a finite magnitude at the unit 2^q, for q at most its exponent. -/
def scaleTo (neg : Bool) (m : Nat) (e q : Int) : Int :=
  let n : Int := (m * 2 ^ (e - q).toNat : Nat)
  if neg then -n else n

/-- The negation of a value. -/
def Val.negate : Val → Val
  | .fin n m e => .fin (!n) m e
  | .inf n => .inf (!n)
  | .nan s => .nan s

/-- The exact product of two values; none where R52 calls it invalid. -/
def mulVal (x y : Val) : Option Val :=
  match x, y with
  | .nan _, _ => some (.nan false)
  | _, .nan _ => some (.nan false)
  | .inf s, .inf t => some (.inf (s != t))
  | .inf s, .fin t m _ => if m == 0 then none else some (.inf (s != t))
  | .fin s m _, .inf t => if m == 0 then none else some (.inf (s != t))
  | .fin s m e, .fin t n d => some (.fin (s != t) (m * n) (e + d))

/-- The exact sum of two values; none where R52 calls it invalid. An exact zero sum is +0 unless both addends are −0. -/
def addVal (x y : Val) : Option Val :=
  match x, y with
  | .nan _, _ => some (.nan false)
  | _, .nan _ => some (.nan false)
  | .inf s, .inf t => if s == t then some (.inf s) else none
  | .inf s, .fin _ _ _ => some (.inf s)
  | .fin _ _ _, .inf t => some (.inf t)
  | .fin s m e, .fin t n d =>
    let q := min e d
    let i := scaleTo s m e q + scaleTo t n d q
    if i == 0 then some (.fin (s && t && m == 0 && n == 0) 0 q)
    else some (.fin (decide (i < 0)) i.natAbs q)

/-- Delivers an operation's exact result by RNE (R51, R52, R55); snan tells that an operand was a signalling NaN. -/
def finish (f : Fmt) (snan : Bool) (r : Option Val) : Nat × Nat :=
  match r with
  | none => (f.canonNan, fINVL)
  | some (.nan _) => (f.canonNan, flagIf snan fINVL)
  | some (.inf neg) => (signBits f neg + f.infBits, 0)
  | some (.fin neg m e) => deliverRne f neg m e

/-- FADD and the element adds (R130, R132). -/
def fpAdd (f : Fmt) (a b : Nat) : Nat × Nat :=
  let x := unpack f a
  let y := unpack f b
  finish f (x.isSnan || y.isSnan) (addVal x y)

/-- FSUB (R130). -/
def fpSub (f : Fmt) (a b : Nat) : Nat × Nat :=
  let x := unpack f a
  let y := unpack f b
  finish f (x.isSnan || y.isSnan) (addVal x y.negate)

/-- FMUL and HMUL2's elements (R130, R132). -/
def fpMul (f : Fmt) (a b : Nat) : Nat × Nat :=
  let x := unpack f a
  let y := unpack f b
  finish f (x.isSnan || y.isSnan) (mulVal x y)

/-- fma (R76): a × b + c from the exact product and sum, rounded once. -/
def fpFma (f : Fmt) (a b c : Nat) : Nat × Nat :=
  let x := unpack f a
  let y := unpack f b
  let z := unpack f c
  finish f (x.isSnan || y.isSnan || z.isSnan) ((mulVal x y).bind fun p => addVal p z)

/-- The place of an F32 pattern that is no NaN in the order of R53, with −0 below +0. -/
def orderKey (a : Nat) : Int :=
  if bitOf a 31 then -((a % 2 ^ 31 : Nat) : Int) - 1 else ((a % 2 ^ 31 : Nat) : Int)

/-- FMIN and FMAX (R53, R131): greater picks the larger. -/
def fpPick (greater : Bool) (a b : Nat) : Nat × Nat :=
  let x := unpack .f32 a
  let y := unpack .f32 b
  let fl := flagIf (x.isSnan || y.isSnan) fINVL
  if x.isNan then (if y.isNan then (Fmt.f32.canonNan, fl) else (b, fl))
  else if y.isNan then (a, fl)
  else if decide (orderKey a < orderKey b) != greater then (a, fl) else (b, fl)

/-- The compares of R124: less, equal, unordered. -/
inductive FCmp where
  | lt | eq | gt | un
  deriving DecidableEq, Repr

/-- The comparison of two F32 patterns, with −0 = +0. -/
def fpCmp (a b : Nat) : FCmp :=
  if (unpack .f32 a).isNan || (unpack .f32 b).isNan then .un
  else
    let za := a % 2 ^ 31 == 0
    let zb := b % 2 ^ 31 == 0
    let ka := if za then 0 else orderKey a
    let kb := if zb then 0 else orderKey b
    if ka < kb then .lt else if ka = kb then .eq else .gt

/-! ### Codebooks (R57, R58) -/

/-- The value of a BF16 or F32 value times 2^149, an integer for every finite one. -/
def scaled149 : Val → Int
  | .fin neg m e => scaleTo neg m e (-149)
  | _ => 0

/-- The least code of the codes that a test admits. -/
def firstCode (p : Nat → Bool) : Option Nat := (List.range 16).find? p

/-- cb_nearest (R58) on the sixteen BF16 entries: the code and the flags. -/
def cbNearest (entries : List Nat) (x : Nat) : Nat × Nat :=
  let ent (c : Nat) : Val := unpack .bf16 (entries.getD c 0)
  let xv := unpack .f32 x
  let isFin (v : Val) : Bool := match v with | .fin _ _ _ => true | _ => false
  let isInf (v : Val) (n : Bool) : Bool := match v with | .inf s => s == n | _ => false
  let allNan := (firstCode fun c => !(ent c).isNan).isNone
  -- the place of an entry in the order of the extended line, for "greatest value" and "least value"
  let key (v : Val) : Int := match v with
    | .inf true => -(2 : Int) ^ 400
    | .inf false => (2 : Int) ^ 400
    | w => scaled149 w
  match xv with
  | .nan sig => (0, fINVL ||| flagIf sig fINVL)
  | .inf neg =>
    if allNan then (0, fINVL)
    else
      match firstCode fun c => isInf (ent c) neg with
      | some c => (c, 0)
      | none =>
        let best := firstCode fun c => !(ent c).isNan &&
          (List.range 16).all fun k => (ent k).isNan ||
            (if neg then decide (key (ent c) ≤ key (ent k)) else decide (key (ent k) ≤ key (ent c)))
        (best.getD 0, fINEX)
  | .fin neg _ _ =>
    if allNan then (0, fINVL)
    else
      let dist (c : Nat) : Nat := (scaled149 (ent c) - scaled149 xv).natAbs
      match firstCode fun c => isFin (ent c) && (List.range 16).all fun k => !isFin (ent k) || decide (dist c ≤ dist k) with
      | some c => (c, flagIf (dist c != 0) fINEX)
      | none =>
        match firstCode fun c => isInf (ent c) neg with
        | some c => (c, fINEX)
        | none => ((firstCode fun c => isInf (ent c) (!neg)).getD 0, fINEX)

/-! ### Integral rounding and classes (R65, R150) -/

/-- FLOOR, CEIL, TRUNC and RINT (R65, R150). -/
def fpIntegral (mode : Rnd) (a : Nat) : Nat × Nat :=
  match unpack .f32 a with
  | .nan sig => (Fmt.f32.canonNan, flagIf sig fINVL)
  | .inf _ => (a, 0)
  | .fin neg m e =>
    let (n, _) := roundAt mode neg m e 0 false
    ((deliverRne .f32 neg n 0).1, 0)

/-- CLASS.F32 (R150). -/
def fpClass (a : Nat) : Nat :=
  match unpack .f32 a with
  | .nan true => 2 ^ 0
  | .nan false => 2 ^ 1
  | .inf true => 2 ^ 2
  | .inf false => 2 ^ 9
  | .fin neg m _ =>
    if m == 0 then (if neg then 2 ^ 5 else 2 ^ 6)
    else if m < 2 ^ 23 then (if neg then 2 ^ 4 else 2 ^ 7)
    else (if neg then 2 ^ 3 else 2 ^ 8)

/-! ### The wide accumulator (R68 to R70) -/

/-- A wide value (R68): V modulo 2^320 and the four flags. -/
structure Wide where
  v : Nat := 0
  nan : Bool := false
  pinf : Bool := false
  ninf : Bool := false
  ovf : Bool := false
  deriving DecidableEq, Repr, Inhabited

/-- wide_merge (R69). -/
def wideMerge (a b : Wide) : Wide :=
  let s := sextInt a.v 320 + sextInt b.v 320
  { v := intBits s 320
    nan := a.nan || b.nan
    pinf := a.pinf || b.pinf
    ninf := a.ninf || b.ninf
    ovf := a.ovf || b.ovf || decide (s < -(2 : Int) ^ 319) || decide ((2 : Int) ^ 319 ≤ s) }

/-- wide_add (R69) of an F32 pattern. -/
def wideAdd (w : Wide) (x : Nat) : Wide :=
  match unpack .f32 x with
  | .nan _ => { w with nan := true }
  | .inf false => { w with pinf := true }
  | .inf true => { w with ninf := true }
  | v => wideMerge w { v := intBits (scaled149 v) 320 }

/-- wide_round (R70) with the flags that WRND sets. -/
def wideRound (w : Wide) : Nat × Nat :=
  if w.nan || w.ovf || (w.pinf && w.ninf) then
    (Fmt.f32.canonNan, flagIf (w.ovf || (w.pinf && w.ninf)) fINVL)
  else if w.pinf then (Fmt.f32.infBits, 0)
  else if w.ninf then (signBits .f32 true + Fmt.f32.infBits, 0)
  else
    let i := sextInt w.v 320
    deliverRne .f32 (decide (i < 0)) i.natAbs (-149)

/-- The eleven words of a wide value, R68 Table 6. -/
def wideWords (w : Wide) : List Word :=
  ((List.range 10).map fun j => word (w.v / 2 ^ (32 * j))) ++
    [word (boolNat w.nan + 2 * boolNat w.pinf + 4 * boolNat w.ninf + 8 * boolNat w.ovf)]

/-- wide_load (R76) of eleven words; bits [31:4] of the flag word are read as 0. -/
def wideOfWords (ws : List Word) : Wide :=
  let v := (List.range 10).foldl (fun acc j => acc + (ws.getD j 0).toNat * 2 ^ (32 * j)) 0
  let f := (ws.getD 10 0).toNat
  { v := v, nan := bitOf f 0, pinf := bitOf f 1, ninf := bitOf f 2, ovf := bitOf f 3 }

/-! ### Matrix sums (R73, R74) -/

/-- mma_sum (R73): the incoming F32 pattern c and the products of the rows' values under the scales sa + sb. -/
def mmaSum (c : Nat) (ab : List (Val × Val)) (scale : Int) : Nat :=
  let terms := ab.map fun (a, b) =>
    match mulVal a b with
    | none => Val.nan false
    | some (.fin s m e) => Val.fin s m (e + scale)
    | some v => v
  let all := unpack .f32 c :: terms
  let hasNan := all.any Val.isNan
  let pos := all.any fun v => v == .inf false
  let neg := all.any fun v => v == .inf true
  if hasNan || (pos && neg) then Fmt.f32.canonNan
  else if pos then Fmt.f32.infBits
  else if neg then signBits .f32 true + Fmt.f32.infBits
  else
    let i : Int := all.foldl (fun acc v => match v with | .fin s m e => acc + scaleTo s m e (-600) | _ => acc) 0
    (deliverRne .f32 (decide (i < 0)) i.natAbs (-600)).1

/-- mma_sum for MMA.I8 (R74). -/
def mmaSumI8 (c : Nat) (ab : List (Int × Int)) : Nat :=
  intBits ((c : Int) + (ab.map fun (a, b) => a * b).sum) 32

end Sys2Proof.Machine
end

