-- ==== Sys2Proof/Config.lean ====
section
/-! DEFINITION. What the spec leaves to an implementation or leaves open as a value. Each is a constant without a body, so a
statement about it holds for every value it may have. -/

namespace Sys2Proof.Config

/-- Free values, one for each count of State.free: a value that the spec does not state (notes/assumptions/2.md). -/
opaque freeWord : Nat → Word

/-- Pod time in nanoseconds at clock 0, and how far it goes in each clock. The spec ties no value to a clock count (R266). -/
opaque podBase : Nat

@[inherit_doc podBase] opaque podStep : Nat → Nat

/-- Pod time in nanoseconds at a clock of the main clock: it never goes back (R266, GTIME). -/
def podTime : Nat → Nat
  | 0 => podBase
  | n + 1 => podTime n + podStep n

/-- The Rhonacor root key fused at manufacture: the 57 bytes of an Ed448 public key (R425). -/
opaque rootKey : List Byte

/-- The device's identity: the 57 bytes of an Ed448 secret key (R426). -/
opaque identitySecret : List Byte

/-- The voltage that firmware pairs with a main clock, in millivolts (R427). -/
opaque pointVoltage : Nat → Nat

/-- The silicon revision of the discovery table: base-layer step and metal step (R333). -/
opaque siliconRevision : BitVec 16

/-- The periods of the scrubber in clocks, of on-chip arrays and of HBM, that a host's decision sets (R311, R336). The spec gives the
decision no encoding. -/
opaque scrubPeriods : Nat → Nat × Nat

/-- Whether the first clause of a code buffer is resident in a layer's code staging (R350): the layer, and the code pointer. The spec says
of the staging no more. -/
opaque codeStaged : Nat → Nat → Bool

/-- The proportional and integral gains and the integral bound of the power controller (R428). -/
opaque powerGains : Int × Int × Int

/-- The bytes of a save block that holds a number of threads, registers, scratchpad bytes, and tiles (R415). -/
opaque saveBlockBytes : Nat → Nat → Nat → Nat → Nat

/-- The least image version that the fuses admit (R425). -/
opaque fusedMinimum : Nat

end Sys2Proof.Config
end

