-- ==== Sys2Proof/Syntax.lean ====
section
/-! DEFINITION. The instructions and device steps of the EV-192: one constructor for each row of the table of operations and
events. An instruction carries the fields of its word and literal (R88, R91 to R101); a device step carries what the step
names. -/

namespace Sys2Proof

/-- The guard fields of an instruction word: GN and GK (R88). -/
structure Guard where
  n : Bool := false
  k : BitVec 3 := 0
  deriving DecidableEq, Repr, Inhabited

/-- The B operand of an instruction that may take a literal: a register, or the literal (R93). -/
inductive Src where
  | reg (r : Reg)
  | lit (w : Word)
  deriving DecidableEq, Repr, Inhabited

/-- The ordering literal (R94 Table 5). -/
structure OrdLit where
  ofs : BitVec 20
  sfr : Bool
  scr : Reg
  sci : BitVec 3
  deriving DecidableEq, Repr, Inhabited

/-- The scope fields of FENCE (R94). -/
structure ScopeSrc where
  scr : Reg
  sfr : Bool
  sci : BitVec 3
  deriving DecidableEq, Repr, Inhabited

/-- The X literal of the shuffles (R95): an immediate lane value, or a register. -/
inductive LaneSrc where
  | imm (n : BitVec 5)
  | reg (r : Reg)
  deriving DecidableEq, Repr, Inhabited

/-- The A formats of MLOAD (R98 Table 8). -/
inductive AFmt where
  | e4m3 | e5m2 | cb4 | bf16 | f16 | i8
  deriving DecidableEq, Repr, Inhabited

/-- The element formats of a drain (R98 Table 8). -/
inductive DrainFmt where
  | f32 | bf16 | f16 | e4m3
  deriving DecidableEq, Repr, Inhabited

/-- A thread's logical name (R42). -/
structure Name where
  grid : Nat := 0
  team : Nat := 0
  tid : Nat := 0
  deriving DecidableEq, Repr, Inhabited

/-- A page of an owner: device-virtual start and page-size code (R316 PSZ). -/
structure PageKey where
  owner : Nat
  va : Nat
  psz : Nat
  deriving DecidableEq, Repr, Inhabited

/-- A value that a read of the matrix engine takes in place of the current one (R234): for a register of a thread, a scratchpad word
at a physical offset, or a word of a codebook slot, the value that it lost at a place of the matrix log. -/
inductive OperandChoice where
  | reg (thread r pos : Nat)
  | scratch (off pos : Nat)
  | slot (k w pos : Nat)
  deriving DecidableEq, Repr, Inhabited

/-- An uncorrectable error that an array unit reports, an owner made not VALID (R309 Table 6, R417 Table 5), or a correctable error
in a line of an owner, which is corrected where it is found (R309). -/
inductive UnitError where
  | regfile (core lg depth lane : Nat)
  | storeQueue (q : Nat)
  | scratchpad (core team line : Nat)
  | tile (core tile : Nat)
  | l1Line (core line : Nat)
  | icLine (core line : Nat)
  | straitEntry (e : Nat)
  | hbm (phys : Nat)
  | owner (o : Nat)
  | corrected (o : Nat)
  deriving DecidableEq, Repr, Inhabited

/-- What the scrubber does (R311, R329, R303): it reads an HBM atom or a caddy shard, ends a pass that releases a destroyed owner's
tag, ends a pass over the on-chip arrays or over HBM, or takes the periods of its policy (R336). -/
inductive ScrubWhat where
  | atom (phys : Nat)
  | shard (slot gen shard : Nat)
  | tagRelease (owner : Nat)
  | pass (hbm : Bool)
  | policy
  deriving DecidableEq, Repr, Inhabited

/-- What the outside world supplies at bring-up (R421, R422): whether the image could be read and the stacks trained, and which of the
twelve Etlen Link ports were trained. -/
structure BringUp where
  imageRead : Bool
  trained : Bool
  ports : List Bool := List.replicate 12 true
  deriving DecidableEq, Repr, Inhabited

/-- A host CXL.mem access (R302, R312, R419): of the table region or of HBM at a physical byte address; or a host write of
its own memory. -/
inductive HostAccess where
  | readTable (off n : Nat)
  | writeTable (off : Nat) (bytes : List Byte)
  | readHbm (phys n : Nat)
  | writeHbm (phys : Nat) (bytes : List Byte)
  | hostMemory (adr : Nat) (bytes : List Byte)
  deriving DecidableEq, Repr, Inhabited

/-- How a page of another package stands there (R155). -/
inductive RemotePage where
  | present | missing | refused
  deriving DecidableEq, Repr, Inhabited

/-- The atomic operations of R181 Table 8. -/
inductive AtomOp where
  | add | minI32 | maxI32 | minN32 | maxN32 | and | or | xor | xchg | cas | incw | add64 | cas64 | fadd | wadd
  deriving DecidableEq, Repr, Inhabited

/-- A request that arrives over the Etlen Link (R424, R296); or another package's own write of the memory that a REMOTE buffer of this
package reaches, or a change of a page that holds such memory (R155). -/
inductive LinkReq where
  | read (owner idx off n : Nat)
  | write (owner idx off : Nat) (bytes : List Byte)
  | atomic (owner idx off : Nat) (op : AtomOp) (data : List Word)
  | remote (pkg adr : Nat) (bytes : List Byte)
  | page (pkg adr : Nat) (now : RemotePage)
  deriving DecidableEq, Repr, Inhabited

/-- A fabric request that found no path for 100 us (R424): a read, a store or atomic, or a part of a copy's writes. -/
inductive LinkLost where
  | load (r : Nat)
  | store (q : Nat)
  | part (copy dest lo hi : Nat)
  deriving DecidableEq, Repr, Inhabited

/-- The instructions and device steps, one constructor a row of spec/opcode_table.json. -/
inductive Instr where
  /-- ADD: Adds A and B (or a literal) modulo 2^32 into D. (R115) -/
  | add (g : Guard) (u : Bool) (d : Reg) (a : Reg) (b : Src)
  /-- SUB: Subtracts B from A modulo 2^32 into D. (R115) -/
  | sub (g : Guard) (u : Bool) (d : Reg) (a : Reg) (b : Src)
  /-- MUL: Writes the low 32 bits of A times B to D. (R115) -/
  | mul (g : Guard) (u : Bool) (d : Reg) (a : Reg) (b : Src)
  /-- MULH.I32: Writes the high 32 bits of the signed product of A and B to D. (R115) -/
  | mulhI32 (g : Guard) (u : Bool) (d : Reg) (a : Reg) (b : Src)
  /-- MULH.N32: Writes the high 32 bits of the unsigned product of A and B to D. (R115) -/
  | mulhN32 (g : Guard) (u : Bool) (d : Reg) (a : Reg) (b : Src)
  /-- MAD: Adds A times B to D modulo 2^32. (R115) -/
  | mad (g : Guard) (u : Bool) (d : Reg) (a : Reg) (b : Src)
  /-- MADW.I32: Adds the signed 64-bit product of A and B to the even pair D. (R117) -/
  | madwI32 (g : Guard) (u : Bool) (d : Reg) (a : Reg) (b : Src)
  /-- MADW.N32: Adds the unsigned 64-bit product of A and B to the even pair D. (R117) -/
  | madwN32 (g : Guard) (u : Bool) (d : Reg) (a : Reg) (b : Src)
  /-- ADD64: Adds two 64-bit register pairs modulo 2^64. (R117) -/
  | add64 (g : Guard) (u : Bool) (d : Reg) (a : Reg) (b : Reg)
  /-- SUB64: Subtracts one 64-bit register pair from another modulo 2^64. (R117) -/
  | sub64 (g : Guard) (u : Bool) (d : Reg) (a : Reg) (b : Reg)
  /-- ADDS.I32: Adds A and B as I32 with saturation, setting SATD on a clamp. (R116) -/
  | addsI32 (g : Guard) (u : Bool) (d : Reg) (a : Reg) (b : Src)
  /-- SUBS.I32: Subtracts B from A as I32 with saturation, setting SATD on a clamp. (R116) -/
  | subsI32 (g : Guard) (u : Bool) (d : Reg) (a : Reg) (b : Src)
  /-- MIN.I32: Writes the smaller of A and B, read as I32, to D. (R115) -/
  | minI32 (g : Guard) (u : Bool) (d : Reg) (a : Reg) (b : Src)
  /-- MAX.I32: Writes the larger of A and B, read as I32, to D. (R115) -/
  | maxI32 (g : Guard) (u : Bool) (d : Reg) (a : Reg) (b : Src)
  /-- MIN.N32: Writes the smaller of A and B, read as N32, to D. (R115) -/
  | minN32 (g : Guard) (u : Bool) (d : Reg) (a : Reg) (b : Src)
  /-- MAX.N32: Writes the larger of A and B, read as N32, to D. (R115) -/
  | maxN32 (g : Guard) (u : Bool) (d : Reg) (a : Reg) (b : Src)
  /-- AND: Writes the bitwise AND of A and B to D. (R118) -/
  | and (g : Guard) (u : Bool) (d : Reg) (a : Reg) (b : Src)
  /-- OR: Writes the bitwise OR of A and B to D. (R118) -/
  | or (g : Guard) (u : Bool) (d : Reg) (a : Reg) (b : Src)
  /-- XOR: Writes the bitwise XOR of A and B to D. (R118) -/
  | xor (g : Guard) (u : Bool) (d : Reg) (a : Reg) (b : Src)
  /-- ANDN: Writes A AND NOT B to D. (R118) -/
  | andn (g : Guard) (u : Bool) (d : Reg) (a : Reg) (b : Src)
  /-- SHL: Shifts A left by B bits, giving 0 for shifts of 32 or more. (R118) -/
  | shl (g : Guard) (u : Bool) (d : Reg) (a : Reg) (b : Src)
  /-- SHR: Shifts A right logically by B bits. (R118) -/
  | shr (g : Guard) (u : Bool) (d : Reg) (a : Reg) (b : Src)
  /-- SAR: Shifts A right arithmetically by B bits. (R118) -/
  | sar (g : Guard) (u : Bool) (d : Reg) (a : Reg) (b : Src)
  /-- POPC: Writes the number of 1 bits of A to D. (R119) -/
  | popc (g : Guard) (u : Bool) (d : Reg) (a : Reg)
  /-- CLZ: Writes the count of leading zero bits of A to D. (R119) -/
  | clz (g : Guard) (u : Bool) (d : Reg) (a : Reg)
  /-- BREV: Writes A with its bits reversed to D. (R119) -/
  | brev (g : Guard) (u : Bool) (d : Reg) (a : Reg)
  /-- BFE.N32: Extracts a bit field of A placed by B, zero-extended. (R120) -/
  | bfeN32 (g : Guard) (u : Bool) (d : Reg) (a : Reg) (b : Src)
  /-- BFE.I32: Extracts a bit field of A placed by B, sign-extended. (R120) -/
  | bfeI32 (g : Guard) (u : Bool) (d : Reg) (a : Reg) (b : Src)
  /-- BFI: Inserts the low bits of A into a field of D placed by B. (R121) -/
  | bfi (g : Guard) (u : Bool) (d : Reg) (a : Reg) (b : Src)
  /-- PERMB: Builds each byte of D from a selected byte of A and the old D. (R122) -/
  | permb (g : Guard) (u : Bool) (d : Reg) (a : Reg) (b : Src)
  /-- DOT4.I8: Adds four signed byte products of A and B into D. (R123) -/
  | dot4I8 (g : Guard) (u : Bool) (d : Reg) (a : Reg) (b : Src)
  /-- DOT4.N8: Adds four unsigned byte products of A and B into D. (R123) -/
  | dot4N8 (g : Guard) (u : Bool) (d : Reg) (a : Reg) (b : Src)
  /-- SETP.EQ: Sets predicate D when the 32-bit patterns of A and B are equal. (R124) -/
  | setpEq (g : Guard) (u : Bool) (d : Reg) (a : Reg) (b : Src)
  /-- SETP.NE: Sets predicate D when the 32-bit patterns of A and B differ. (R124) -/
  | setpNe (g : Guard) (u : Bool) (d : Reg) (a : Reg) (b : Src)
  /-- SETP.LT.I32: Sets predicate D when A < B as I32. (R124) -/
  | setpLtI32 (g : Guard) (u : Bool) (d : Reg) (a : Reg) (b : Src)
  /-- SETP.LE.I32: Sets predicate D when A <= B as I32. (R124) -/
  | setpLeI32 (g : Guard) (u : Bool) (d : Reg) (a : Reg) (b : Src)
  /-- SETP.LT.N32: Sets predicate D when A < B as N32. (R124) -/
  | setpLtN32 (g : Guard) (u : Bool) (d : Reg) (a : Reg) (b : Src)
  /-- SETP.LE.N32: Sets predicate D when A <= B as N32. (R124) -/
  | setpLeN32 (g : Guard) (u : Bool) (d : Reg) (a : Reg) (b : Src)
  /-- SETP.EQ.F32: Sets predicate D when neither operand is NaN and A = B as F32. (R124) -/
  | setpEqF32 (g : Guard) (u : Bool) (d : Reg) (a : Reg) (b : Src)
  /-- SETP.NE.F32: Sets predicate D when either operand is NaN or A differs from B as F32. (R124) -/
  | setpNeF32 (g : Guard) (u : Bool) (d : Reg) (a : Reg) (b : Src)
  /-- SETP.LT.F32: Sets predicate D when neither operand is NaN and A < B as F32. (R124) -/
  | setpLtF32 (g : Guard) (u : Bool) (d : Reg) (a : Reg) (b : Src)
  /-- SETP.LE.F32: Sets predicate D when neither operand is NaN and A <= B as F32. (R124) -/
  | setpLeF32 (g : Guard) (u : Bool) (d : Reg) (a : Reg) (b : Src)
  /-- SETP.UN.F32: Sets predicate D when either operand is NaN. (R124) -/
  | setpUnF32 (g : Guard) (u : Bool) (d : Reg) (a : Reg) (b : Src)
  /-- SEL: Writes A or B to D, using the guard field as the selector. (R127) -/
  | sel (g : Guard) (u : Bool) (d : Reg) (a : Reg) (b : Src)
  /-- PAND: Sets predicate D to the AND of two predicates. (R125) -/
  | pand (g : Guard) (u : Bool) (d : Reg) (a : Reg) (b : Reg)
  /-- POR: Sets predicate D to the OR of two predicates. (R125) -/
  | por (g : Guard) (u : Bool) (d : Reg) (a : Reg) (b : Reg)
  /-- PXOR: Sets predicate D to the XOR of two predicates. (R125) -/
  | pxor (g : Guard) (u : Bool) (d : Reg) (a : Reg) (b : Reg)
  /-- PANDN: Sets predicate D to pA AND NOT pB. (R125) -/
  | pandn (g : Guard) (u : Bool) (d : Reg) (a : Reg) (b : Reg)
  /-- PPACK: Packs 32 predicates starting at base A into register D. (R126) -/
  | ppack (g : Guard) (u : Bool) (d : Reg) (a : Reg)
  /-- PUNPACK: Writes the 32 bits of register A to predicates starting at base D. (R126) -/
  | punpack (g : Guard) (u : Bool) (d : Reg) (a : Reg)
  /-- MOV: Copies register A and its taint to D. (R128) -/
  | mov (g : Guard) (u : Bool) (d : Reg) (a : Reg)
  /-- MOVI: Writes the sign-extended 14-bit immediate to D, clearing its taint. (R129) -/
  | movi (g : Guard) (u : Bool) (d : Reg) (imm : BitVec 14)
  /-- MOVI: Writes a 32-bit literal word to D, with IMM = 0, clearing its taint. (R129) -/
  | moviLiteral (g : Guard) (u : Bool) (d : Reg) (w : Word)
  /-- FADD: Adds two F32 values, rounding RNE. (R130) -/
  | fadd (g : Guard) (u : Bool) (d : Reg) (a : Reg) (b : Src)
  /-- FSUB: Subtracts two F32 values, rounding RNE. (R130) -/
  | fsub (g : Guard) (u : Bool) (d : Reg) (a : Reg) (b : Src)
  /-- FMUL: Multiplies two F32 values, rounding RNE. (R130) -/
  | fmul (g : Guard) (u : Bool) (d : Reg) (a : Reg) (b : Src)
  /-- FFMA: Computes A times B plus D with one RNE rounding. (R130) -/
  | ffma (g : Guard) (u : Bool) (d : Reg) (a : Reg) (b : Src)
  /-- FMIN: Writes the IEEE minimumNumber of A and B. (R131) -/
  | fmin (g : Guard) (u : Bool) (d : Reg) (a : Reg) (b : Src)
  /-- FMAX: Writes the IEEE maximumNumber of A and B. (R131) -/
  | fmax (g : Guard) (u : Bool) (d : Reg) (a : Reg) (b : Src)
  /-- HFMA2: Computes a packed F16 fused multiply-add per element. (R132) -/
  | hfma2 (g : Guard) (u : Bool) (d : Reg) (a : Reg) (b : Src)
  /-- HADD2: Adds packed F16 elements. (R132) -/
  | hadd2 (g : Guard) (u : Bool) (d : Reg) (a : Reg) (b : Src)
  /-- HMUL2: Multiplies packed F16 elements. (R132) -/
  | hmul2 (g : Guard) (u : Bool) (d : Reg) (a : Reg) (b : Src)
  /-- BFMA2: Computes a packed BF16 fused multiply-add per element. (R132) -/
  | bfma2 (g : Guard) (u : Bool) (d : Reg) (a : Reg) (b : Src)
  /-- MOVS: Reads the numbered special register into D. (R133) -/
  | movs (g : Guard) (u : Bool) (d : Reg) (sr : BitVec 14)
  /-- MOVSW: Writes register D to a writable special register (MEET, MHB, RMODE or FLAGS). (R134) -/
  | movsw (g : Guard) (u : Bool) (d : Reg) (sr : BitVec 14)
  /-- CVT.F32.I32: Converts an I32 to F32 under RMODE. (R143) -/
  | cvtF32I32 (g : Guard) (u : Bool) (d : Reg) (a : Reg) (la : BitVec 4)
  /-- CVT.F32.N32: Converts an N32 to F32 under RMODE. (R143) -/
  | cvtF32N32 (g : Guard) (u : Bool) (d : Reg) (a : Reg) (la : BitVec 4)
  /-- CVT.I32.F32: Converts an F32 to I32 under RMODE. (R143) -/
  | cvtI32F32 (g : Guard) (u : Bool) (d : Reg) (a : Reg) (la : BitVec 4)
  /-- CVT.N32.F32: Converts an F32 to N32 under RMODE. (R143) -/
  | cvtN32F32 (g : Guard) (u : Bool) (d : Reg) (a : Reg) (la : BitVec 4)
  /-- CVT.F16.F32: Converts an F32 to F16 under RMODE. (R143) -/
  | cvtF16F32 (g : Guard) (u : Bool) (d : Reg) (a : Reg) (la : BitVec 4)
  /-- CVT.BF16.F32: Converts an F32 to BF16 under RMODE. (R143) -/
  | cvtBf16F32 (g : Guard) (u : Bool) (d : Reg) (a : Reg) (la : BitVec 4)
  /-- CVT.E4M3.F32: Converts an F32 to E4M3 under RMODE. (R143) -/
  | cvtE4m3F32 (g : Guard) (u : Bool) (d : Reg) (a : Reg) (la : BitVec 4)
  /-- CVT.E5M2.F32: Converts an F32 to E5M2 under RMODE. (R143) -/
  | cvtE5m2F32 (g : Guard) (u : Bool) (d : Reg) (a : Reg) (la : BitVec 4)
  /-- CVT.F32.F16: Widens a selected F16 element to F32 exactly. (R143) -/
  | cvtF32F16 (g : Guard) (u : Bool) (d : Reg) (a : Reg) (la : BitVec 4) (sel : BitVec 1)
  /-- CVT.F32.BF16: Widens a selected BF16 element to F32 exactly. (R143) -/
  | cvtF32Bf16 (g : Guard) (u : Bool) (d : Reg) (a : Reg) (la : BitVec 4) (sel : BitVec 1)
  /-- CVT.F32.E4M3: Widens a selected E4M3 byte to F32 exactly. (R143) -/
  | cvtF32E4m3 (g : Guard) (u : Bool) (d : Reg) (a : Reg) (la : BitVec 4) (sel : BitVec 2)
  /-- CVT.F32.E5M2: Widens a selected E5M2 byte to F32 exactly. (R143) -/
  | cvtF32E5m2 (g : Guard) (u : Bool) (d : Reg) (a : Reg) (la : BitVec 4) (sel : BitVec 2)
  /-- UNPK8.CB4: Expands eight CB4 codes into BF16 entries of a codebook slot. (R146) -/
  | unpk8Cb4 (g : Guard) (u : Bool) (d : Reg) (a : Reg) (la : BitVec 4) (sel : BitVec 3)
  /-- QNT.CB4: Quantises eight F32 registers to nearest-entry CB4 codes of a slot. (R147) -/
  | qntCb4 (g : Guard) (u : Bool) (d : Reg) (a : Reg) (la : BitVec 4) (sel : BitVec 3)
  /-- PK4.E4M3: Converts four F32 registers to E4M3 and packs them. (R144) -/
  | pk4E4m3 (g : Guard) (u : Bool) (d : Reg) (a : Reg) (la : BitVec 4)
  /-- PK4.E5M2: Converts four F32 registers to E5M2 and packs them. (R144) -/
  | pk4E5m2 (g : Guard) (u : Bool) (d : Reg) (a : Reg) (la : BitVec 4)
  /-- UNPK4.E4M3: Widens four packed E4M3 bytes into four F32 registers. (R145) -/
  | unpk4E4m3 (g : Guard) (u : Bool) (d : Reg) (a : Reg) (la : BitVec 4)
  /-- UNPK4.E5M2: Widens four packed E5M2 bytes into four F32 registers. (R145) -/
  | unpk4E5m2 (g : Guard) (u : Bool) (d : Reg) (a : Reg) (la : BitVec 4)
  /-- PK2.BF16: Converts two F32 registers to BF16 and packs them. (R144) -/
  | pk2Bf16 (g : Guard) (u : Bool) (d : Reg) (a : Reg) (la : BitVec 4)
  /-- PK2.F16: Converts two F32 registers to F16 and packs them. (R144) -/
  | pk2F16 (g : Guard) (u : Bool) (d : Reg) (a : Reg) (la : BitVec 4)
  /-- RCP.F32: Computes the correctly rounded reciprocal. (R149) -/
  | rcpF32 (g : Guard) (u : Bool) (d : Reg) (a : Reg) (la : BitVec 4)
  /-- RSQ.F32: Computes the correctly rounded reciprocal square root. (R149) -/
  | rsqF32 (g : Guard) (u : Bool) (d : Reg) (a : Reg) (la : BitVec 4)
  /-- SQRT.F32: Computes the correctly rounded square root. (R149) -/
  | sqrtF32 (g : Guard) (u : Bool) (d : Reg) (a : Reg) (la : BitVec 4)
  /-- DIV.F32: Divides register A by register A+1, correctly rounded. (R149) -/
  | divF32 (g : Guard) (u : Bool) (d : Reg) (a : Reg) (la : BitVec 4)
  /-- EXP2.F32: Computes the correctly rounded base-2 exponential. (R149) -/
  | exp2F32 (g : Guard) (u : Bool) (d : Reg) (a : Reg) (la : BitVec 4)
  /-- LOG2.F32: Computes the correctly rounded base-2 logarithm. (R149) -/
  | log2F32 (g : Guard) (u : Bool) (d : Reg) (a : Reg) (la : BitVec 4)
  /-- SINT.F32: Computes the correctly rounded sine of 2 pi x. (R149) -/
  | sintF32 (g : Guard) (u : Bool) (d : Reg) (a : Reg) (la : BitVec 4)
  /-- COST.F32: Computes the correctly rounded cosine of 2 pi x. (R149) -/
  | costF32 (g : Guard) (u : Bool) (d : Reg) (a : Reg) (la : BitVec 4)
  /-- TANH.F32: Computes the correctly rounded hyperbolic tangent. (R149) -/
  | tanhF32 (g : Guard) (u : Bool) (d : Reg) (a : Reg) (la : BitVec 4)
  /-- SIGM.F32: Computes the correctly rounded logistic sigmoid. (R149) -/
  | sigmF32 (g : Guard) (u : Bool) (d : Reg) (a : Reg) (la : BitVec 4)
  /-- FLOOR.F32: Rounds toward minus infinity to an integral F32. (R150) -/
  | floorF32 (g : Guard) (u : Bool) (d : Reg) (a : Reg) (la : BitVec 4)
  /-- CEIL.F32: Rounds toward plus infinity to an integral F32. (R150) -/
  | ceilF32 (g : Guard) (u : Bool) (d : Reg) (a : Reg) (la : BitVec 4)
  /-- TRUNC.F32: Rounds toward zero to an integral F32. (R150) -/
  | truncF32 (g : Guard) (u : Bool) (d : Reg) (a : Reg) (la : BitVec 4)
  /-- RINT.F32: Rounds to nearest even integral F32. (R150) -/
  | rintF32 (g : Guard) (u : Bool) (d : Reg) (a : Reg) (la : BitVec 4)
  /-- CLASS.F32: Writes a one-hot class word of the F32 input. (R150) -/
  | classF32 (g : Guard) (u : Bool) (d : Reg) (a : Reg) (la : BitVec 4)
  /-- WADD: Adds an F32 value exactly into a wide value held in 11 registers. (R151) -/
  | wadd (g : Guard) (u : Bool) (d : Reg) (a : Reg) (la : BitVec 4)
  /-- WRND: Rounds a wide value in 11 registers to F32. (R151) -/
  | wrnd (g : Guard) (u : Bool) (d : Reg) (a : Reg) (la : BitVec 4)
  /-- WCLR: Clears a wide value in 11 registers. (R151) -/
  | wclr (g : Guard) (u : Bool) (d : Reg) (la : BitVec 4)
  /-- CVT.F32.I8: Widens a selected I8 byte to F32 exactly. (R143) -/
  | cvtF32I8 (g : Guard) (u : Bool) (d : Reg) (a : Reg) (la : BitVec 4) (sel : BitVec 2)
  /-- CVT.I8.F32: Converts an F32 to I8 under RMODE. (R143) -/
  | cvtI8F32 (g : Guard) (u : Bool) (d : Reg) (a : Reg) (la : BitVec 4)
  /-- LD.N8: Loads a byte from a buffer, zero-extended. (R167) -/
  | ldN8 (g : Guard) (u : Bool) (d : Reg) (a : Reg) (la : BitVec 4) (bs : BitVec 3) (off : Option Word)
  /-- LD.I8: Loads a byte from a buffer, sign-extended. (R167) -/
  | ldI8 (g : Guard) (u : Bool) (d : Reg) (a : Reg) (la : BitVec 4) (bs : BitVec 3) (off : Option Word)
  /-- LD.N16: Loads a half-word from a buffer, zero-extended. (R167) -/
  | ldN16 (g : Guard) (u : Bool) (d : Reg) (a : Reg) (la : BitVec 4) (bs : BitVec 3) (off : Option Word)
  /-- LD.I16: Loads a half-word from a buffer, sign-extended. (R167) -/
  | ldI16 (g : Guard) (u : Bool) (d : Reg) (a : Reg) (la : BitVec 4) (bs : BitVec 3) (off : Option Word)
  /-- LD.W: Loads a word from a buffer. (R167) -/
  | ldW (g : Guard) (u : Bool) (d : Reg) (a : Reg) (la : BitVec 4) (bs : BitVec 3) (off : Option Word)
  /-- LD.D: Loads two words from a buffer. (R167) -/
  | ldD (g : Guard) (u : Bool) (d : Reg) (a : Reg) (la : BitVec 4) (bs : BitVec 3) (off : Option Word)
  /-- LD.Q: Loads four words from a buffer. (R167) -/
  | ldQ (g : Guard) (u : Bool) (d : Reg) (a : Reg) (la : BitVec 4) (bs : BitVec 3) (off : Option Word)
  /-- LD.O: Loads eight words from a buffer. (R167) -/
  | ldO (g : Guard) (u : Bool) (d : Reg) (a : Reg) (la : BitVec 4) (bs : BitVec 3) (off : Option Word)
  /-- ST.B: Stores the low byte of D into a buffer. (R168) -/
  | stB (g : Guard) (d : Reg) (a : Reg) (la : BitVec 4) (bs : BitVec 3) (off : Option Word)
  /-- ST.H: Stores the low half-word of D into a buffer. (R168) -/
  | stH (g : Guard) (d : Reg) (a : Reg) (la : BitVec 4) (bs : BitVec 3) (off : Option Word)
  /-- ST.W: Stores a word into a buffer. (R168) -/
  | stW (g : Guard) (d : Reg) (a : Reg) (la : BitVec 4) (bs : BitVec 3) (off : Option Word)
  /-- ST.D: Stores two words into a buffer. (R168) -/
  | stD (g : Guard) (d : Reg) (a : Reg) (la : BitVec 4) (bs : BitVec 3) (off : Option Word)
  /-- ST.Q: Stores four words into a buffer. (R168) -/
  | stQ (g : Guard) (d : Reg) (a : Reg) (la : BitVec 4) (bs : BitVec 3) (off : Option Word)
  /-- ST.O: Stores eight words into a buffer. (R168) -/
  | stO (g : Guard) (d : Reg) (a : Reg) (la : BitVec 4) (bs : BitVec 3) (off : Option Word)
  /-- LDA.W: Loads a word as an acquire at scope S. (R170) -/
  | ldaW (g : Guard) (u : Bool) (d : Reg) (a : Reg) (la : BitVec 4) (bs : BitVec 3) (o : OrdLit)
  /-- LDA.D: Loads two words as an acquire at scope S. (R170) -/
  | ldaD (g : Guard) (u : Bool) (d : Reg) (a : Reg) (la : BitVec 4) (bs : BitVec 3) (o : OrdLit)
  /-- LDAP.W: Promotes releases of cores within scope S to PKG and then loads as an acquire. (R172) -/
  | ldapW (g : Guard) (u : Bool) (d : Reg) (a : Reg) (la : BitVec 4) (bs : BitVec 3) (o : OrdLit)
  /-- STL.W: Stores a word as a release at scope S. (R171) -/
  | stlW (g : Guard) (d : Reg) (a : Reg) (la : BitVec 4) (bs : BitVec 3) (o : OrdLit)
  /-- STL.D: Stores two words as a release at scope S. (R171) -/
  | stlD (g : Guard) (d : Reg) (a : Reg) (la : BitVec 4) (bs : BitVec 3) (o : OrdLit)
  /-- LDC.W: Loads a word from store queue or home and taints the destination. (R173) -/
  | ldcW (g : Guard) (u : Bool) (d : Reg) (a : Reg) (la : BitVec 4) (bs : BitVec 3) (off : Option Word)
  /-- LDC.D: Loads two words from store queue or home and taints the destinations. (R173) -/
  | ldcD (g : Guard) (u : Bool) (d : Reg) (a : Reg) (la : BitVec 4) (bs : BitVec 3) (off : Option Word)
  /-- LDV.W: Loads a word as one convoy step, holding the member at its slip limit. (R175) -/
  | ldvW (g : Guard) (u : Bool) (d : Reg) (a : Reg) (la : BitVec 4) (bs : BitVec 3) (off : Option Word)
  /-- LDV.D: Loads two words as one convoy step. (R175) -/
  | ldvD (g : Guard) (u : Bool) (d : Reg) (a : Reg) (la : BitVec 4) (bs : BitVec 3) (off : Option Word)
  /-- LDV.Q: Loads four words as one convoy step. (R175) -/
  | ldvQ (g : Guard) (u : Bool) (d : Reg) (a : Reg) (la : BitVec 4) (bs : BitVec 3) (off : Option Word)
  /-- LDV.O: Loads eight words as one convoy step. (R175) -/
  | ldvO (g : Guard) (u : Bool) (d : Reg) (a : Reg) (la : BitVec 4) (bs : BitVec 3) (off : Option Word)
  /-- LDS.W: Loads a word from scratchpad. (R177) -/
  | ldsW (g : Guard) (u : Bool) (d : Reg) (a : Reg) (la : BitVec 4) (off : Option Word)
  /-- LDS.D: Loads two words from scratchpad. (R177) -/
  | ldsD (g : Guard) (u : Bool) (d : Reg) (a : Reg) (la : BitVec 4) (off : Option Word)
  /-- LDS.Q: Loads four words from scratchpad. (R177) -/
  | ldsQ (g : Guard) (u : Bool) (d : Reg) (a : Reg) (la : BitVec 4) (off : Option Word)
  /-- LDS.O: Loads eight words from scratchpad. (R177) -/
  | ldsO (g : Guard) (u : Bool) (d : Reg) (a : Reg) (la : BitVec 4) (off : Option Word)
  /-- STS.W: Stores a word to scratchpad. (R177) -/
  | stsW (g : Guard) (d : Reg) (a : Reg) (la : BitVec 4) (off : Option Word)
  /-- STS.D: Stores two words to scratchpad. (R177) -/
  | stsD (g : Guard) (d : Reg) (a : Reg) (la : BitVec 4) (off : Option Word)
  /-- STS.Q: Stores four words to scratchpad. (R177) -/
  | stsQ (g : Guard) (d : Reg) (a : Reg) (la : BitVec 4) (off : Option Word)
  /-- STS.O: Stores eight words to scratchpad. (R177) -/
  | stsO (g : Guard) (d : Reg) (a : Reg) (la : BitVec 4) (off : Option Word)
  /-- LDFRAG.N: Loads a 32-byte row fragment from a scratchpad tile. (R178) -/
  | ldfragN (g : Guard) (u : Bool) (d : Reg) (a : Reg) (la : BitVec 4) (off : Option Word)
  /-- LDFRAG.T8: Loads one byte column of a 1 KiB scratchpad tile. (R178) -/
  | ldfragT8 (g : Guard) (u : Bool) (d : Reg) (a : Reg) (la : BitVec 4) (off : Option Word)
  /-- LDFRAG.T16: Loads one half-word column of a 1 KiB scratchpad tile. (R178) -/
  | ldfragT16 (g : Guard) (u : Bool) (d : Reg) (a : Reg) (la : BitVec 4) (off : Option Word)
  /-- ATOM.ADD: Atomically adds at home and returns the old word. (R181) -/
  | atomAdd (g : Guard) (d : Reg) (a : Reg) (la : BitVec 4) (bs : BitVec 3) (off : Option Word)
  /-- ATOM.MIN.I32: Atomic signed minimum at home, returning the old word. (R181) -/
  | atomMinI32 (g : Guard) (d : Reg) (a : Reg) (la : BitVec 4) (bs : BitVec 3) (off : Option Word)
  /-- ATOM.MAX.I32: Atomic signed maximum at home, returning the old word. (R181) -/
  | atomMaxI32 (g : Guard) (d : Reg) (a : Reg) (la : BitVec 4) (bs : BitVec 3) (off : Option Word)
  /-- ATOM.MIN.N32: Atomic unsigned minimum at home, returning the old word. (R181) -/
  | atomMinN32 (g : Guard) (d : Reg) (a : Reg) (la : BitVec 4) (bs : BitVec 3) (off : Option Word)
  /-- ATOM.MAX.N32: Atomic unsigned maximum at home, returning the old word. (R181) -/
  | atomMaxN32 (g : Guard) (d : Reg) (a : Reg) (la : BitVec 4) (bs : BitVec 3) (off : Option Word)
  /-- ATOM.AND: Atomic bitwise AND at home, returning the old word. (R181) -/
  | atomAnd (g : Guard) (d : Reg) (a : Reg) (la : BitVec 4) (bs : BitVec 3) (off : Option Word)
  /-- ATOM.OR: Atomic bitwise OR at home, returning the old word. (R181) -/
  | atomOr (g : Guard) (d : Reg) (a : Reg) (la : BitVec 4) (bs : BitVec 3) (off : Option Word)
  /-- ATOM.XOR: Atomic bitwise XOR at home, returning the old word. (R181) -/
  | atomXor (g : Guard) (d : Reg) (a : Reg) (la : BitVec 4) (bs : BitVec 3) (off : Option Word)
  /-- ATOM.XCHG: Atomically exchanges the word at home. (R181) -/
  | atomXchg (g : Guard) (d : Reg) (a : Reg) (la : BitVec 4) (bs : BitVec 3) (off : Option Word)
  /-- ATOM.CAS: Atomic 32-bit compare-and-swap at home. (R181) -/
  | atomCas (g : Guard) (d : Reg) (a : Reg) (la : BitVec 4) (bs : BitVec 3) (off : Option Word)
  /-- ATOM.INCW: Atomic wrapping increment at home. (R181) -/
  | atomIncw (g : Guard) (d : Reg) (a : Reg) (la : BitVec 4) (bs : BitVec 3) (off : Option Word)
  /-- ATOM.ADD64: Atomic 64-bit add at home. (R181) -/
  | atomAdd64 (g : Guard) (d : Reg) (a : Reg) (la : BitVec 4) (bs : BitVec 3) (off : Option Word)
  /-- ATOM.CAS64: Atomic 64-bit compare-and-swap at home. (R181) -/
  | atomCas64 (g : Guard) (d : Reg) (a : Reg) (la : BitVec 4) (bs : BitVec 3) (off : Option Word)
  /-- ATOM.FADD: Atomic rounded F32 add at home. (R181) -/
  | atomFadd (g : Guard) (d : Reg) (a : Reg) (la : BitVec 4) (bs : BitVec 3) (off : Option Word)
  /-- ATOM.WRD: Atomically merges a wide value into a wide cell and returns the old cell. (R181) -/
  | atomWrd (g : Guard) (d : Reg) (a : Reg) (la : BitVec 4) (bs : BitVec 3) (off : Option Word)
  /-- RED.ADD: Reduction add at home with no return. (R181) -/
  | redAdd (g : Guard) (d : Reg) (a : Reg) (la : BitVec 4) (bs : BitVec 3) (off : Option Word)
  /-- RED.FADD: Reduction rounded F32 add at home. (R181) -/
  | redFadd (g : Guard) (d : Reg) (a : Reg) (la : BitVec 4) (bs : BitVec 3) (off : Option Word)
  /-- RED.WADD: Reduction exact wide add into a wide cell. (R181) -/
  | redWadd (g : Guard) (d : Reg) (a : Reg) (la : BitVec 4) (bs : BitVec 3) (off : Option Word)
  /-- RED.MAX.I32: Reduction signed maximum at home. (R181) -/
  | redMaxI32 (g : Guard) (d : Reg) (a : Reg) (la : BitVec 4) (bs : BitVec 3) (off : Option Word)
  /-- ATOMS.ADD: Scratchpad atomic add at the bank. (R183) -/
  | atomsAdd (g : Guard) (d : Reg) (a : Reg) (la : BitVec 4) (off : Option Word)
  /-- ATOMS.CAS: Scratchpad atomic compare-and-swap. (R183) -/
  | atomsCas (g : Guard) (d : Reg) (a : Reg) (la : BitVec 4) (off : Option Word)
  /-- ATOMS.MAX.N32: Scratchpad atomic unsigned maximum. (R183) -/
  | atomsMaxN32 (g : Guard) (d : Reg) (a : Reg) (la : BitVec 4) (off : Option Word)
  /-- ATOMS.XCHG: Scratchpad atomic exchange. (R183) -/
  | atomsXchg (g : Guard) (d : Reg) (a : Reg) (la : BitVec 4) (off : Option Word)
  /-- SETB: Sets a buffer slot from a register pair with its taint. (R184) -/
  | setb (g : Guard) (a : Reg) (la : BitVec 4) (bs : BitVec 3)
  /-- GETB: Copies a buffer slot into a register pair with its taint. (R184) -/
  | getb (g : Guard) (d : Reg) (la : BitVec 4) (bs : BitVec 3)
  /-- BRA: Branches to a word offset relative to the BRA word. (R191) -/
  | bra (g : Guard) (ofs : BitVec 21)
  /-- BRX: Branches to the offset held in register A. (R191) -/
  | brx (g : Guard) (a : Reg)
  /-- CALL: Writes the link and branches to a relative offset. (R191) -/
  | call (g : Guard) (d : Reg) (ofs : BitVec 14)
  /-- CALLX: Writes the link and branches to the offset in register A. (R191) -/
  | callx (g : Guard) (d : Reg) (a : Reg)
  /-- RET: Returns to the offset held in register A. (R191) -/
  | ret (g : Guard) (a : Reg)
  /-- EXIT: Moves the thread to EXITED, completing its issued writes and arriving everywhere. (R37) -/
  | exit (g : Guard)
  /-- SETM: Sets MEET to a relative code offset. (R192) -/
  | setm (g : Guard) (ofs : BitVec 21)
  /-- SETMX: Sets MEET from register A. (R192) -/
  | setmx (g : Guard) (a : Reg)
  /-- CLRM: Clears MEET. (R192) -/
  | clrm (g : Guard)
  /-- YIELD: Places the thread in YIELDED for a count of clocks. (R193) -/
  | yield (g : Guard) (c : Src)
  /-- NAP: Yields for a count unless the wake token is set, which it consumes. (R193) -/
  | nap (g : Guard) (c : Src)
  /-- WAKE: Makes a YIELDED team thread READY or sets its wake token. (R194) -/
  | wake (g : Guard) (a : Reg)
  /-- RDV: Arrives at a plain rendezvous of the masked lanes. (R199) -/
  | rdv (g : Guard) (m : Reg)
  /-- SHFL.IDX: Rendezvous exchange taking the operand of an indexed lane. (R199) -/
  | shflIdx (g : Guard) (d : Reg) (a : Reg) (m : Reg) (n : LaneSrc)
  /-- SHFL.XOR: Rendezvous exchange taking the operand of lane XOR n. (R199) -/
  | shflXor (g : Guard) (d : Reg) (a : Reg) (m : Reg) (n : LaneSrc)
  /-- SHFL.UP: Rendezvous exchange taking the operand of lane minus n. (R199) -/
  | shflUp (g : Guard) (d : Reg) (a : Reg) (m : Reg) (n : LaneSrc)
  /-- SHFL.DN: Rendezvous exchange taking the operand of lane plus n. (R199) -/
  | shflDn (g : Guard) (d : Reg) (a : Reg) (m : Reg) (n : LaneSrc)
  /-- VOTE.ALL: Rendezvous AND of a predicate over the arrivals. (R199) -/
  | voteAll (g : Guard) (d : Reg) (a : Reg) (m : Reg)
  /-- VOTE.ANY: Rendezvous OR of a predicate over the arrivals. (R199) -/
  | voteAny (g : Guard) (d : Reg) (a : Reg) (m : Reg)
  /-- VOTE.BAL: Rendezvous ballot of a predicate into a lane mask. (R199) -/
  | voteBal (g : Guard) (d : Reg) (a : Reg) (m : Reg)
  /-- MATCH.ANY: Rendezvous mask of lanes whose operand equals this lane's. (R199) -/
  | matchAny (g : Guard) (d : Reg) (a : Reg) (m : Reg)
  /-- MATCH.ALL: Rendezvous mask of all arrivals when every operand is equal, else 0. (R199) -/
  | matchAll (g : Guard) (d : Reg) (a : Reg) (m : Reg)
  /-- REDX.ADD.I32: Rendezvous sum modulo 2^32. (R200) -/
  | redxAddI32 (g : Guard) (d : Reg) (a : Reg) (m : Reg)
  /-- REDX.MIN.I32: Rendezvous signed minimum. (R200) -/
  | redxMinI32 (g : Guard) (d : Reg) (a : Reg) (m : Reg)
  /-- REDX.MAX.I32: Rendezvous signed maximum. (R200) -/
  | redxMaxI32 (g : Guard) (d : Reg) (a : Reg) (m : Reg)
  /-- REDX.MIN.N32: Rendezvous unsigned minimum. (R200) -/
  | redxMinN32 (g : Guard) (d : Reg) (a : Reg) (m : Reg)
  /-- REDX.MAX.N32: Rendezvous unsigned maximum. (R200) -/
  | redxMaxN32 (g : Guard) (d : Reg) (a : Reg) (m : Reg)
  /-- REDX.AND: Rendezvous bitwise AND. (R200) -/
  | redxAnd (g : Guard) (d : Reg) (a : Reg) (m : Reg)
  /-- REDX.OR: Rendezvous bitwise OR. (R200) -/
  | redxOr (g : Guard) (d : Reg) (a : Reg) (m : Reg)
  /-- REDX.XOR: Rendezvous bitwise XOR. (R200) -/
  | redxXor (g : Guard) (d : Reg) (a : Reg) (m : Reg)
  /-- REDX.FADD: Rendezvous exact wide F32 sum, rounded once. (R200) -/
  | redxFadd (g : Guard) (d : Reg) (a : Reg) (m : Reg)
  /-- REDX.FMIN: Rendezvous F32 minimumNumber. (R200) -/
  | redxFmin (g : Guard) (d : Reg) (a : Reg) (m : Reg)
  /-- REDX.FMAX: Rendezvous F32 maximumNumber. (R200) -/
  | redxFmax (g : Guard) (d : Reg) (a : Reg) (m : Reg)
  /-- SCANX.ADD.I32: Rendezvous inclusive scan of sums modulo 2^32. (R200) -/
  | scanxAddI32 (g : Guard) (d : Reg) (a : Reg) (m : Reg)
  /-- SCANX.FADD: Rendezvous inclusive scan of exact wide F32 sums. (R200) -/
  | scanxFadd (g : Guard) (d : Reg) (a : Reg) (m : Reg)
  /-- TBAR.SYNC: Arrives at a team barrier and waits for the phase to complete. (R202) -/
  | tbarSync (g : Guard) (bar : BitVec 4)
  /-- TBAR.ARV: Arrives at a team barrier without waiting. (R202) -/
  | tbarArv (g : Guard) (bar : BitVec 4)
  /-- TBAR.WAIT: Waits for the phase of an earlier team barrier arrival. (R202) -/
  | tbarWait (g : Guard) (bar : BitVec 4)
  /-- TBAR.RED: Arrives at a team barrier with an operand and receives the reduction. (R205) -/
  | tbarRed (g : Guard) (d : Reg) (a : Reg) (sub : BitVec 3) (bar : BitVec 4) (hi : Option Bool)
  /-- GBAR.SYNC: Arrives at a grid barrier and waits. (R202) -/
  | gbarSync (g : Guard) (bar : BitVec 4)
  /-- GBAR.ARV: Arrives at a grid barrier without waiting. (R202) -/
  | gbarArv (g : Guard) (bar : BitVec 4)
  /-- GBAR.WAIT: Waits for the phase of an earlier grid barrier arrival. (R202) -/
  | gbarWait (g : Guard) (bar : BitVec 4)
  /-- GBAR.RED: Arrives at a grid barrier with an operand and receives the reduction. (R205) -/
  | gbarRed (g : Guard) (d : Reg) (a : Reg) (sub : BitVec 3) (bar : BitVec 4) (hi : Option Bool)
  /-- FENCE: Waits for earlier accesses to be performed and acknowledged at a scope. (R208) -/
  | fence (g : Guard) (sc : ScopeSrc)
  /-- SCOPEOF: Writes the lowest scope enclosing the thread and a named party. (R209) -/
  | scopeof (g : Guard) (d : Reg) (a : Reg) (kind : BitVec 2)
  /-- HWAIT.F: Blocks until the handle is FULL with the given phase. (R211) -/
  | hwaitF (g : Guard) (h : BitVec 6) (ph : Bool)
  /-- HWAIT.E: Blocks until the handle is FREE. (R211) -/
  | hwaitE (g : Guard) (h : BitVec 6)
  /-- HSET.FILL: Moves a FREE handle to FILLING. (R211) -/
  | hsetFill (g : Guard) (h : BitVec 6)
  /-- HSET.FULL: Moves a handle to FULL. (R211) -/
  | hsetFull (g : Guard) (h : BitVec 6)
  /-- HSET.DRAIN: Moves a FULL handle to DRAINING. (R211) -/
  | hsetDrain (g : Guard) (h : BitVec 6)
  /-- HSET.FREE: Moves a handle to FREE, flipping its phase. (R211) -/
  | hsetFree (g : Guard) (h : BitVec 6)
  /-- HARM: Sets a FREE handle's expected byte count. (R211) -/
  | harm (g : Guard) (h : BitVec 6) (c : Reg)
  /-- CONT: Saves v0-v7 into a continuation record armed on a handle and exits. (R39) -/
  | cont (g : Guard) (h : BitVec 6) (w : Word)
  /-- QPUSH: Pushes one 32-byte entry to a hardware queue as a PKG release. (R215) -/
  | qpush (g : Guard) (d : Reg) (q : BitVec 8)
  /-- QPUSH.D: Pushes two adjacent entries to a hardware queue. (R215) -/
  | qpushD (g : Guard) (d : Reg) (q : BitVec 8)
  /-- QPOP: Pops the oldest entry of a queue as a PKG acquire. (R215) -/
  | qpop (g : Guard) (d : Reg) (q : BitVec 8)
  /-- QLEN: Reads the number of entries of a queue. (R215) -/
  | qlen (g : Guard) (d : Reg) (q : BitVec 8)
  /-- QPUSH.NB: Pushes an entry if it fits, reporting success in a predicate. (R215) -/
  | qpushNb (g : Guard) (d : Reg) (q : BitVec 8) (p : Reg)
  /-- QPOP.NB: Pops an entry if present, reporting success in a predicate. (R215) -/
  | qpopNb (g : Guard) (d : Reg) (q : BitVec 8) (p : Reg)
  /-- CVJOIN: Joins or rejoins a convoy under a member index. (R217) -/
  | cvjoin (g : Guard) (a : Reg) (b : Reg)
  /-- CVLEAVE: Leaves the thread's convoy and frees its index. (R218) -/
  | cvleave (g : Guard)
  /-- CVSET.SL: Writes the convoy's slip limit. (R219) -/
  | cvsetSl (g : Guard) (a : Reg)
  /-- CVSET.LT: Writes the convoy's lapse time. (R219) -/
  | cvsetLt (g : Guard) (a : Reg)
  /-- MMA.E4E4: Gang MMA with E4M3 A and E4M3 B into an accumulator tile. (R228) -/
  | mmaE4e4 (g : Guard) (x1 : Reg) (x2 : Reg) (x3 : Reg) (tile : BitVec 2) (sb : BitVec 2) (keep : Bool) (la : BitVec 4)
  /-- MMA.E4E5: Gang MMA with E4M3 A and E5M2 B. (R228) -/
  | mmaE4e5 (g : Guard) (x1 : Reg) (x2 : Reg) (x3 : Reg) (tile : BitVec 2) (sb : BitVec 2) (keep : Bool) (la : BitVec 4)
  /-- MMA.E5E4: Gang MMA with E5M2 A and E4M3 B. (R228) -/
  | mmaE5e4 (g : Guard) (x1 : Reg) (x2 : Reg) (x3 : Reg) (tile : BitVec 2) (sb : BitVec 2) (keep : Bool) (la : BitVec 4)
  /-- MMA.E5E5: Gang MMA with E5M2 A and E5M2 B. (R228) -/
  | mmaE5e5 (g : Guard) (x1 : Reg) (x2 : Reg) (x3 : Reg) (tile : BitVec 2) (sb : BitVec 2) (keep : Bool) (la : BitVec 4)
  /-- MMA.CB4: Gang MMA with CB4 codes through a codebook slot. (R228) -/
  | mmaCb4 (g : Guard) (x1 : Reg) (x2 : Reg) (x3 : Reg) (tile : BitVec 2) (sb : BitVec 2) (keep : Bool) (k : BitVec 3) (la : BitVec 4)
  /-- MMA.BF16: Gang MMA with BF16 operands. (R228) -/
  | mmaBf16 (g : Guard) (x1 : Reg) (x2 : Reg) (tile : BitVec 2) (keep : Bool) (la : BitVec 4)
  /-- MMA.F16: Gang MMA with F16 operands. (R228) -/
  | mmaF16 (g : Guard) (x1 : Reg) (x2 : Reg) (tile : BitVec 2) (keep : Bool) (la : BitVec 4)
  /-- MMA.I8: Gang MMA with I8 operands into an I32 tile. (R228) -/
  | mmaI8 (g : Guard) (x1 : Reg) (x2 : Reg) (tile : BitVec 2) (keep : Bool) (la : BitVec 4)
  /-- MZERO: Writes +0 to every word of a tile. (R237) -/
  | mzero (g : Guard) (tile : BitVec 2)
  /-- MLOAD: Gang instruction that latches A rows and row scales without a product. (R231) -/
  | mload (g : Guard) (afmt : AFmt) (x1 : Reg) (x3 : Reg) (sb : BitVec 2) (k : BitVec 3) (la : BitVec 4)
  /-- MDRAIN: Drains a tile to a global tensor box through a handle. (R240) -/
  | mdrain (g : Guard) (cvt : DrainFmt) (h : BitVec 6) (tile : BitVec 2) (bs : BitVec 3) (x2 : Reg) (x3 : Reg) (la : BitVec 4)
  /-- MDRAINA: Drains a tile to a global tensor box by adding at home. (R240) -/
  | mdraina (g : Guard) (h : BitVec 6) (tile : BitVec 2) (bs : BitVec 3) (x2 : Reg) (x3 : Reg) (la : BitVec 4)
  /-- MDRAINS: Drains a tile into scratchpad under a layout word. (R241) -/
  | mdrains (g : Guard) (cvt : DrainFmt) (h : BitVec 6) (tile : BitVec 2) (x1 : Reg) (x3 : Reg) (la : BitVec 4)
  /-- MGANG: Sets the thread's gang of rowsets. (R223) -/
  | mgang (g : Guard) (x2 : Reg)
  /-- MOPF: Marks the point whose register and scratchpad values later engine reads use. (R234) -/
  | mopf (g : Guard)
  /-- MWAIT: Blocks until earlier matrix operations reach their completion points. (R235) -/
  | mwait (g : Guard)
  /-- MREL: Releases the A operand latch held by the gang. (R232) -/
  | mrel (g : Guard)
  /-- MCB: Loads a codebook slot from 32 bytes of scratchpad. (R238) -/
  | mcb (g : Guard) (x2 : Reg) (k : BitVec 3)
  /-- CPY.G2S: Copies a global tensor box into scratchpad through a handle. (R251) -/
  | cpyG2s (g : Guard) (h : BitVec 6) (bs : BitVec 3) (x1 : Reg) (x2 : Reg) (x3 : Reg) (la : BitVec 4)
  /-- CPY.G2S.T8: Copies a global box into scratchpad transposed, 1-byte elements. (R251) -/
  | cpyG2sT8 (g : Guard) (h : BitVec 6) (bs : BitVec 3) (x1 : Reg) (x2 : Reg) (x3 : Reg) (la : BitVec 4)
  /-- CPY.G2S.T16: Copies a global box into scratchpad transposed, 2-byte elements. (R251) -/
  | cpyG2sT16 (g : Guard) (h : BitVec 6) (bs : BitVec 3) (x1 : Reg) (x2 : Reg) (x3 : Reg) (la : BitVec 4)
  /-- CPY.S2G: Copies a scratchpad box to a global tensor box. (R251) -/
  | cpyS2g (g : Guard) (h : BitVec 6) (bs : BitVec 3) (x1 : Reg) (x2 : Reg) (x3 : Reg) (la : BitVec 4)
  /-- CPY.S2GA: Copies a scratchpad box to global memory by adding at home. (R251) -/
  | cpyS2ga (g : Guard) (h : BitVec 6) (bs : BitVec 3) (x1 : Reg) (x2 : Reg) (x3 : Reg) (la : BitVec 4)
  /-- CPY.G2G: Copies a global box to another global box, optionally converting. (R251) -/
  | cpyG2g (g : Guard) (h : BitVec 6) (bs : BitVec 3) (x1 : Reg) (x2 : Reg) (x3 : Reg) (la : BitVec 4)
  /-- CPY.MC: Multicasts a global box to the scratchpad of several team cores. (R251) -/
  | cpyMc (g : Guard) (h : BitVec 6) (bs : BitVec 3) (x1 : Reg) (x2 : Reg) (x3 : Reg) (cmask : BitVec 8) (la : BitVec 4)
  /-- CPY.S2S: Copies rows between scratchpad layouts. (R251) -/
  | cpyS2s (g : Guard) (h : BitVec 6) (x1 : Reg) (x2 : Reg) (x3 : Reg) (la : BitVec 4)
  /-- CPY.V2S: Copies a global box into scratchpad as one convoy step. (R255) -/
  | cpyV2s (g : Guard) (h : BitVec 6) (bs : BitVec 3) (x1 : Reg) (x2 : Reg) (x3 : Reg) (la : BitVec 4)
  /-- GTRINV: Drops a tensor record from the core's record cache after earlier stores are acknowledged. (R245) -/
  | gtrinv (g : Guard) (bs : BitVec 3) (x2 : Reg)
  /-- NMC: Checks and sends a near-memory command to a stack's engine. (R259) -/
  | nmc (g : Guard) (bs : BitVec 3) (x1 : Reg) (x2 : Reg) (la : BitVec 4)
  /-- NMWAIT: Blocks until all the thread's near-memory commands have written their records. (R263) -/
  | nmwait (g : Guard)
  /-- CPYWAIT: Blocks until all the thread's copies have finished, then acquires at PKG. (R256) -/
  | cpywait (g : Guard)
  /-- PGHINT: Hints that a buffer range should be made resident. (R257) -/
  | pghint (g : Guard) (bs : BitVec 3) (x2 : Reg) (x3 : Reg)
  /-- TRAP: Raises the TRAP fault with a code. (R266) -/
  | trap (g : Guard) (code : BitVec 7)
  /-- BKPT: Raises BKPT, taken as a debug stop when attached. (R266) -/
  | bkpt (g : Guard) (code : BitVec 7)
  /-- TRET.RETRY: Leaves a trap handler and reissues the instruction at TPC. (R412) -/
  | tretRetry (g : Guard)
  /-- TRET.SKIP: Leaves a trap handler and continues after the instruction at TPC. (R412) -/
  | tretSkip (g : Guard)
  /-- CLOCK: Reads the core's main-clock count into a register pair. (R266) -/
  | clock (g : Guard) (d : Reg)
  /-- GTIME: Reads pod time in nanoseconds into a register pair. (R266) -/
  | gtime (g : Guard) (d : Reg)
  /-- TRACE: Appends a trace record on an enabled channel. (R266) -/
  | trace (g : Guard) (a : Reg) (ch : BitVec 7)
  /-- FLAGS: Reads FLAGS and clears the flags named in the mask. (R266) -/
  | flags (g : Guard) (d : Reg) (mask : BitVec 6)
  /-- ICINV: Invalidates the core's instruction cache lines of the grid's code after stores are acknowledged. (R266) -/
  | icinv (g : Guard)
  /-- MEET_HOLD_TIMEOUT: A hold ends when MHB clocks have passed since it began. (R34) -/
  | meetHoldTimeout (t : Nat)
  /-- STARVATION_OVERRIDE: A thread READY for 256 clocks without issuing is chosen by the issue picker. (R26) -/
  | starvationOverride (core : Nat) (lg : Nat)
  /-- YIELD_EXPIRY: A YIELDED thread becomes READY when its count expires. (R193) -/
  | yieldExpiry (t : Nat)
  /-- BREAKPOINT_HIT: A thread about to issue at an enabled breakpoint stops and a STOP record is written. (R386) -/
  | breakpointHit (t : Nat)
  /-- LOAD_RETURN: A load's or atomic's data returns and writes its destinations. (R166) -/
  | loadReturn (r : Nat)
  /-- STORE_QUEUE_DRAIN: The oldest store-queue entry drains to the core, updating L1 and passing on toward home. (R286) -/
  | storeQueueDrain (core : Nat) (lg : Nat)
  /-- STRAIT_READ: A read reaching a Strait slice merges, opens an entry, or waits. (R295) -/
  | straitRead (r : Nat)
  /-- STRAIT_WRITE: A write reaching its home slice takes its place in order and is acknowledged. (R296) -/
  | straitWrite (q : Nat)
  /-- STRAIT_REPLY: Memory's reply is multicast to every core in the entry's mask and the entry is freed. (R297) -/
  | straitReply (e : Nat)
  /-- ATOMIC_SERVICE: The Kettle performs an atomic or reduction on the value held at home. (R180) -/
  | atomicService (q : Nat)
  /-- PROMOTE: A core receiving PROMOTE waits for its performed releases to be acknowledged at home and acknowledges. (R172) -/
  | promote (r : Nat) (core : Nat)
  /-- SFU_RESULT: An SFU result is written with its taint and flags. (R138) -/
  | sfuResult (w : Nat)
  /-- BARRIER_ARRIVAL_COUNTED: An issued barrier arrival is counted once its earlier accesses are acknowledged. (R206) -/
  | barrierArrivalCounted (t : Nat) (bar : Nat) (grid : Bool)
  /-- SLEW_RESUME: Released cores of a limited grid-barrier release resume, up to 24 per clock. (R364) -/
  | slewResume (gr : Nat) (bar : Nat)
  /-- MATRIX_ENGINE_OPERATION: The matrix engine performs its next accepted operation, reading operands and writing a tile or slot. (R236) -/
  | matrixEngineOperation (core : Nat) (old : List OperandChoice)
  /-- COPY_ACCEPT: The engine fetches and checks a copy's or drain's records and handle, and accepts it. (R252) -/
  | copyAccept (c : Nat)
  /-- COPY_PART_WRITTEN: A written part of a copy adds its bytes to the handle's received count. (R253) -/
  | copyPartWritten (c : Nat) (dst : Nat) (lo : Nat) (hi : Nat)
  /-- COPY_FINISH: A copy or drain finishes, decrementing INFL and completing CPYWAIT. (R322) -/
  | copyFinish (c : Nat)
  /-- CONT_SPAWN: An armed continuation record spawns a thread in a free slot. (R40) -/
  | contSpawn (team : Nat) (k : Nat) (lg : Nat) (depth : Nat) (lane : Nat)
  /-- NMC_SEND: A near-memory command is sent once earlier stores are acknowledged. (R259) -/
  | nmcSend (n : Nat)
  /-- NM_STEP: The near-memory engine processes one 64-byte step of a command. (R260) -/
  | nmStep (n : Nat)
  /-- PAGE_WALK: The chiplet walker translates a missing page through the page tables. (R319) -/
  | pageWalk (core : Nat) (page : PageKey)
  /-- PAGE_SERVICED: A page becomes present and the parked access issues again. (R409) -/
  | pageServiced (page : PageKey) (adr : Nat) (rot : Nat)
  /-- PAGE_REFUSED: Page service refuses a page and the parked access raises PAGE_DENIED. (R409) -/
  | pageRefused (page : PageKey)
  /-- PAGE_MIGRATION: The migration engine moves a page to a new rotation of homes. (R300) -/
  | pageMigration (page : PageKey) (rot : Nat)
  /-- TIER_MIGRATION: The migration engine moves a page between HBM and the capacity tier. (R304) -/
  | tierMigration (page : PageKey) (inward : Bool) (adr : Nat)
  /-- QUEUE_PERFORM: The queue unit performs a push or pop on a hardware queue. (R340) -/
  | queuePerform (q : Nat) (t : Nat)
  /-- TRAP_ENTRY: After pending destinations settle, the trap registers are written and PC moves to TVEC. (R411) -/
  | trapEntry (t : Nat)
  /-- TEAM_COMPLETE: A team completes when its threads have exited and its engine work is done, returning resources. (R21) -/
  | teamComplete (team : Nat)
  /-- GRID_COMPLETE: A grid completes and its completion record is written. (R345) -/
  | gridComplete (gr : Nat)
  /-- CONTAINMENT: An uncorrectable error in a grid's array unit contains that grid. (R417) -/
  | containment (w : UnitError)
  /-- SCRUB_PASS: The scrubber reads and corrects a memory line or atom. (R311) -/
  | scrubPass (w : ScrubWhat)
  /-- GRID_PACKET: The dispatcher takes a GRID packet, assigns a grid id and pins caddies. (R346) -/
  | gridPacket (q : Nat) (layers : List Nat)
  /-- WAIT_PACKET: A WAIT packet holds its launch queue until earlier grids complete and the wait word is reached. (R346) -/
  | waitPacket (q : Nat)
  /-- WAIT_POLL: The wait word is re-read at home at least once in every 4,096 clocks. (R346) -/
  | waitPoll (q : Nat)
  /-- KICK_PACKET: A KICK packet starts a graph replay. (R346) -/
  | kickPacket (q : Nat)
  /-- TEAM_ADMISSION: A team is admitted to its cores with all resources at once and initialised. (R348) -/
  | teamAdmission (gr : Nat) (team : Nat) (cores : List Nat)
  /-- RESERVING: A team waiting 2 x TSLICE becomes reserving on its layer. (R347) -/
  | reserving (gr : Nat) (team : Nat) (layer : Nat)
  /-- PREEMPTION: A resident team is stopped and saved to a save block. (R414) -/
  | preemption (gr : Nat) (team : Nat) (victim : Nat)
  /-- RESTORE: A saved team is restored on allowed cores with a PKG release and acquire. (R416) -/
  | restore (gr : Nat) (team : Nat) (cores : List Nat)
  /-- STEAL_REQUEST: An idle dispatcher steals unstarted teams from another layer. (R359) -/
  | stealRequest (part : Nat) (thief : Nat)
  /-- CLASSIFY: The classifier sets a grid's class after 65,536 clocks of measurement. (R360) -/
  | classify (gr : Nat)
  /-- THERMAL_MOVE: Once per millisecond a partition may move a team off its hottest layer. (R429) -/
  | thermalMove (part : Nat) (team : Nat) (cores : List Nat)
  /-- POWER_CONTROL: Each microsecond a layer's controller adjusts its ration level or requests a clock step. (R428) -/
  | powerControl (layer : Nat) (watts temp : Int)
  /-- OPERATING_POINT_CHANGE: A regulator moves to the lowest operating point its layers request. (R427) -/
  | operatingPointChange (reg : Nat)
  /-- CONVOY_LAPSE: The lapse-time rule lapses every active member at the tail. (R372) -/
  | convoyLapse (c : Nat)
  /-- GRAPH_REPLAY_START: The graph walker checks a graph and starts its root nodes. (R353) -/
  | graphReplayStart (k : Nat)
  /-- GRAPH_NODE_FINISH: A finished node decrements and marks its successors. (R354) -/
  | graphNodeFinish (r : Nat) (n : Nat)
  /-- KICK: A 64-bit write to KICK queues a graph kick in the partition's FIFO. (R283) -/
  | kick (part : Nat) (val : Quad) (wide : Bool)
  /-- KSTAT_WRITE: A write clears KSTAT bits written 1. (R284) -/
  | kstatWrite (part : Nat) (val : Word)
  /-- PART_WRITE: A write to PARTn defines or disables a tenant partition. (R279) -/
  | partWrite (n : Nat) (val : Word)
  /-- REGSEL_WRITE: A write to REGSEL assigns layers to regulators. (R280) -/
  | regselWrite (val : Word)
  /-- LBUDGET_WRITE: A write to LBUDGETn sets a layer's power budget. (R281) -/
  | lbudgetWrite (n : Nat) (val : Word)
  /-- DEVERR_WRITE: A write clears DEVERR bits written 1. (R282) -/
  | deverrWrite (val : Word)
  /-- REGISTER_WRITE: A write to a device or DVSEC register with no behaviour of its own. (R278) -/
  | registerWrite (dvsec : Bool) (off : Nat) (val : Word)
  /-- MODULE_RESET: Module reset returns the device to STATE RESET with reset values. (R422) -/
  | moduleReset
  /-- GO: Writing GO starts bring-up through loading, training and READY. (R422) -/
  | go (inp : BringUp)
  /-- ATTGO: Writing ATTGO starts production of one attestation report. (R426) -/
  | attgo
  /-- ATTESTATION_REPORT_DONE: The report is written and ATTBUSY clears. (R426) -/
  | attestationReportDone
  /-- HOST_QUEUE_PUSH: A host write of window line 0 pushes an entry or launch packet. (R342) -/
  | hostQueuePush (q : Nat) (line : List Word)
  /-- HOST_QUEUE_POP: A host read of window line 1 pops an entry. (R342) -/
  | hostQueuePop (q : Nat)
  /-- HOST_QUEUE_STATUS: A host read of window line 0 returns the entry count and DROPS. (R342) -/
  | hostQueueStatus (q : Nat)
  /-- HOST_MEM_ACCESS: A host CXL.mem access reads or writes HBM under owner 0. (R302) -/
  | hostMemAccess (acc : HostAccess)
  /-- BUFINV: Management command dropping cached buffer entries of an owner. (R318) -/
  | bufinv (q : Nat)
  /-- XLATINV: Management command dropping translations of an owner's range. (R320) -/
  | xlatinv (q : Nat)
  /-- OWNREC: Management command reloading an owner record. (R314) -/
  | ownrec (q : Nat)
  /-- QDESC: Management command enabling or disabling a hardware queue. (R332) -/
  | qdesc (q : Nat)
  /-- CADLOAD: Management command moving a caddy generation from EMPTY to LOADING. (R307) -/
  | cadload (q : Nat)
  /-- CADSWITCH: Management command making a READY caddy generation CURRENT. (R330) -/
  | cadswitch (q : Nat)
  /-- CADDROP: Management command releasing a LOADING or READY caddy generation. (R307) -/
  | caddrop (q : Nat)
  /-- FMRELOAD: Management command reloading the function mode table. (R337) -/
  | fmreload (q : Nat)
  /-- FMREPLY: Management command answering an open HOST-mode question. (R338) -/
  | fmreply (q : Nat)
  /-- MANAGE_UNKNOWN: A management command with an unknown CMD is refused with DETAIL 2. (R314) -/
  | manageUnknown (q : Nat)
  /-- FM_TIMEOUT: A HOST-mode question's timeout expires and the hardware decision is taken. (R338) -/
  | fmTimeout (fn : Nat) (seqNo : Nat)
  /-- DEBUG_CONFIG_WRITE: A write to debug window lines 0-2 sets attach, samples, breakpoints and watch regions. (R383) -/
  | debugConfigWrite (part : Nat) (line : Nat) (ws : List Word)
  /-- DEBUG_STOP: Debug command STOP stops a named thread with a stop mode. (R387) -/
  | debugStop (part : Nat) (name : Name) (mode : Nat)
  /-- DEBUG_RESUME: Debug command RESUME returns stopped threads to their underlying state. (R388) -/
  | debugResume (part : Nat)
  /-- DEBUG_STEP: Debug command STEP issues one instruction of a stopped thread. (R388) -/
  | debugStep (part : Nat) (name : Name)
  /-- PCNT_CLEAR: A write to debug line 4 clears all sixteen performance counters. (R383) -/
  | pcntClear (part : Nat)
  /-- SAMPLE: Every SPER clocks each core writes a SAMPLE record for one thread. (R385) -/
  | sample (part : Nat) (core : Nat)
  /-- LINK_REQUEST: An Etlen Link request arrives at a package. (R424) -/
  | linkRequest (rq : LinkReq)
  /-- LINK_TIMEOUT: A fabric request with no path for 100 us completes with POISON or is dropped. (R424) -/
  | linkTimeout (w : LinkLost)
  /-- GATE_ACKNOWLEDGEMENT: A store, atomic or reduction on its way to home reaches the layer, chiplet or reticle gate, becomes visible to that unit and is acknowledged at that scope, releasing fences, release stores and barrier counts that wait at that scope. (R208) -/
  | gateAcknowledgement (q : Nat) (level : Nat)
  deriving DecidableEq, Repr

end Sys2Proof
end

