-- ==== Sys2Proof/Machine/Operands.lean ====
section
/-! DEFINITION. What each instruction names: its class (R83), role (R24), guard (R88), lookahead (R100), the registers and
predicates it reads and writes with their extents and alignment (R92, R102, R136, R153, R98 to R101), and the limits of its
immediates (R94 to R99). -/

namespace Sys2Proof.Machine

/-- A register operand: first register, number of registers, alignment of the first (R92). -/
structure Span where
  first : Nat
  count : Nat
  align : Nat
  deriving DecidableEq, Repr

/-- The operands of an instruction; predicates as base and count; `limits` holds when every immediate is within its limits. -/
structure Uses where
  reads : List Span := []
  writes : List Span := []
  preads : List (Nat × Nat) := []
  pwrites : List (Nat × Nat) := []
  limits : Bool := true
  deriving DecidableEq, Repr

/-- The register of an optional literal operand. -/
def srcSpans : Src → List Span
  | .reg r => [⟨r.toNat, 1, 1⟩]
  | .lit _ => []

/-- The scope register of an ordering form (R94). -/
def ordSpans (o : OrdLit) : List Span := if o.sfr then [⟨o.scr.toNat, 1, 1⟩] else []

/-- The scope register of FENCE (R94). -/
def scopeSpans (s : ScopeSrc) : List Span := if s.sfr then [⟨s.scr.toNat, 1, 1⟩] else []

/-- The lane register of a shuffle (R95). -/
def laneSpans : LaneSrc → List Span
  | .reg r => [⟨r.toNat, 1, 1⟩]
  | .imm _ => []

/-- SCOPEOF's party: a pair for kind 2 (R209). -/
def scopeofSpans (a : Reg) (kind : BitVec 2) : List Span :=
  if kind.toNat == 2 then [⟨a.toNat, 2, 2⟩] else [⟨a.toNat, 1, 1⟩]

/-- The limits of the ordering literal (R94). -/
def ordLimits (o : OrdLit) : Bool := if o.sfr then o.sci == 0 else o.scr == 0 && o.sci != 7

/-- The limits of FENCE's scope fields (R94). -/
def scopeLimits (s : ScopeSrc) : Bool := if s.sfr then s.sci == 0 else s.scr == 0 && s.sci != 7

/-- The 4-bit sub-operation code of a barrier reduction (R96). -/
def redCode (sub : BitVec 3) (hi : Option Bool) : Nat := sub.toNat + (if hi == some true then 8 else 0)

/-- Whether an A format takes row scales (R231). -/
def AFmt.scaled : AFmt → Bool
  | .e4m3 => true | .e5m2 => true | .cb4 => true | .bf16 => false | .f16 => false | .i8 => false

/-- MLOAD's scale registers vS to vS+4 (R98 Table 9). DEDUCED: its row gives "scales", as the row of MMA does. -/
def mloadSpans (f : AFmt) (x3 : Reg) : List Span := if AFmt.scaled f then [⟨x3.toNat, 5, 1⟩] else []

/-- MLOAD's limits: X3 and SB are 0 for the formats without scales (R231), and KSLOT is 0 unless the format is CB4 (R98). -/
def mloadLimits (f : AFmt) (x3 : Reg) (sb : BitVec 2) (k : BitVec 3) : Bool :=
  (AFmt.scaled f || (x3 == 0 && sb == 0)) && (f == .cb4 || k == 0)

/-- The numbers of the special register map (R267). -/
def specialRegister (n : Nat) : Bool :=
  decide (n ≤ 0x00B) || decide (0x010 ≤ n ∧ n ≤ 0x014) || n == 0x020 || n == 0x021 || n == 0x030 || n == 0x031 || n == 0x040 ||
    decide (0x050 ≤ n ∧ n ≤ 0x05B) || decide (0x060 ≤ n ∧ n ≤ 0x065) || n == 0x070 || n == 0x080

/-- The registers that MOVSW may write (R134 Table 3). -/
def writableSpecial (n : Nat) : Bool := n == 0x020 || n == 0x021 || n == 0x030 || n == 0x031

/-- The operands of an instruction. A device step names none. -/
def uses : Instr → Uses
  | .add _ _ d a b => { reads := [⟨a.toNat, 1, 1⟩] ++ srcSpans b, writes := [⟨d.toNat, 1, 1⟩] }
  | .sub _ _ d a b => { reads := [⟨a.toNat, 1, 1⟩] ++ srcSpans b, writes := [⟨d.toNat, 1, 1⟩] }
  | .mul _ _ d a b => { reads := [⟨a.toNat, 1, 1⟩] ++ srcSpans b, writes := [⟨d.toNat, 1, 1⟩] }
  | .mulhI32 _ _ d a b => { reads := [⟨a.toNat, 1, 1⟩] ++ srcSpans b, writes := [⟨d.toNat, 1, 1⟩] }
  | .mulhN32 _ _ d a b => { reads := [⟨a.toNat, 1, 1⟩] ++ srcSpans b, writes := [⟨d.toNat, 1, 1⟩] }
  | .mad _ _ d a b => { reads := [⟨a.toNat, 1, 1⟩, ⟨d.toNat, 1, 1⟩] ++ srcSpans b, writes := [⟨d.toNat, 1, 1⟩] }
  | .madwI32 _ _ d a b => { reads := [⟨a.toNat, 1, 1⟩, ⟨d.toNat, 2, 2⟩] ++ srcSpans b, writes := [⟨d.toNat, 2, 2⟩] }
  | .madwN32 _ _ d a b => { reads := [⟨a.toNat, 1, 1⟩, ⟨d.toNat, 2, 2⟩] ++ srcSpans b, writes := [⟨d.toNat, 2, 2⟩] }
  | .add64 _ _ d a b => { reads := [⟨a.toNat, 2, 2⟩, ⟨b.toNat, 2, 2⟩], writes := [⟨d.toNat, 2, 2⟩] }
  | .sub64 _ _ d a b => { reads := [⟨a.toNat, 2, 2⟩, ⟨b.toNat, 2, 2⟩], writes := [⟨d.toNat, 2, 2⟩] }
  | .addsI32 _ _ d a b => { reads := [⟨a.toNat, 1, 1⟩] ++ srcSpans b, writes := [⟨d.toNat, 1, 1⟩] }
  | .subsI32 _ _ d a b => { reads := [⟨a.toNat, 1, 1⟩] ++ srcSpans b, writes := [⟨d.toNat, 1, 1⟩] }
  | .minI32 _ _ d a b => { reads := [⟨a.toNat, 1, 1⟩] ++ srcSpans b, writes := [⟨d.toNat, 1, 1⟩] }
  | .maxI32 _ _ d a b => { reads := [⟨a.toNat, 1, 1⟩] ++ srcSpans b, writes := [⟨d.toNat, 1, 1⟩] }
  | .minN32 _ _ d a b => { reads := [⟨a.toNat, 1, 1⟩] ++ srcSpans b, writes := [⟨d.toNat, 1, 1⟩] }
  | .maxN32 _ _ d a b => { reads := [⟨a.toNat, 1, 1⟩] ++ srcSpans b, writes := [⟨d.toNat, 1, 1⟩] }
  | .and _ _ d a b => { reads := [⟨a.toNat, 1, 1⟩] ++ srcSpans b, writes := [⟨d.toNat, 1, 1⟩] }
  | .or _ _ d a b => { reads := [⟨a.toNat, 1, 1⟩] ++ srcSpans b, writes := [⟨d.toNat, 1, 1⟩] }
  | .xor _ _ d a b => { reads := [⟨a.toNat, 1, 1⟩] ++ srcSpans b, writes := [⟨d.toNat, 1, 1⟩] }
  | .andn _ _ d a b => { reads := [⟨a.toNat, 1, 1⟩] ++ srcSpans b, writes := [⟨d.toNat, 1, 1⟩] }
  | .shl _ _ d a b => { reads := [⟨a.toNat, 1, 1⟩] ++ srcSpans b, writes := [⟨d.toNat, 1, 1⟩] }
  | .shr _ _ d a b => { reads := [⟨a.toNat, 1, 1⟩] ++ srcSpans b, writes := [⟨d.toNat, 1, 1⟩] }
  | .sar _ _ d a b => { reads := [⟨a.toNat, 1, 1⟩] ++ srcSpans b, writes := [⟨d.toNat, 1, 1⟩] }
  | .popc _ _ d a => { reads := [⟨a.toNat, 1, 1⟩], writes := [⟨d.toNat, 1, 1⟩] }
  | .clz _ _ d a => { reads := [⟨a.toNat, 1, 1⟩], writes := [⟨d.toNat, 1, 1⟩] }
  | .brev _ _ d a => { reads := [⟨a.toNat, 1, 1⟩], writes := [⟨d.toNat, 1, 1⟩] }
  | .bfeN32 _ _ d a b => { reads := [⟨a.toNat, 1, 1⟩] ++ srcSpans b, writes := [⟨d.toNat, 1, 1⟩] }
  | .bfeI32 _ _ d a b => { reads := [⟨a.toNat, 1, 1⟩] ++ srcSpans b, writes := [⟨d.toNat, 1, 1⟩] }
  | .bfi _ _ d a b => { reads := [⟨a.toNat, 1, 1⟩, ⟨d.toNat, 1, 1⟩] ++ srcSpans b, writes := [⟨d.toNat, 1, 1⟩] }
  | .permb _ _ d a b => { reads := [⟨a.toNat, 1, 1⟩, ⟨d.toNat, 1, 1⟩] ++ srcSpans b, writes := [⟨d.toNat, 1, 1⟩] }
  | .dot4I8 _ _ d a b => { reads := [⟨a.toNat, 1, 1⟩, ⟨d.toNat, 1, 1⟩] ++ srcSpans b, writes := [⟨d.toNat, 1, 1⟩] }
  | .dot4N8 _ _ d a b => { reads := [⟨a.toNat, 1, 1⟩, ⟨d.toNat, 1, 1⟩] ++ srcSpans b, writes := [⟨d.toNat, 1, 1⟩] }
  | .setpEq _ _ d a b => { reads := [⟨a.toNat, 1, 1⟩] ++ srcSpans b, pwrites := [(d.toNat, 1)] }
  | .setpNe _ _ d a b => { reads := [⟨a.toNat, 1, 1⟩] ++ srcSpans b, pwrites := [(d.toNat, 1)] }
  | .setpLtI32 _ _ d a b => { reads := [⟨a.toNat, 1, 1⟩] ++ srcSpans b, pwrites := [(d.toNat, 1)] }
  | .setpLeI32 _ _ d a b => { reads := [⟨a.toNat, 1, 1⟩] ++ srcSpans b, pwrites := [(d.toNat, 1)] }
  | .setpLtN32 _ _ d a b => { reads := [⟨a.toNat, 1, 1⟩] ++ srcSpans b, pwrites := [(d.toNat, 1)] }
  | .setpLeN32 _ _ d a b => { reads := [⟨a.toNat, 1, 1⟩] ++ srcSpans b, pwrites := [(d.toNat, 1)] }
  | .setpEqF32 _ _ d a b => { reads := [⟨a.toNat, 1, 1⟩] ++ srcSpans b, pwrites := [(d.toNat, 1)] }
  | .setpNeF32 _ _ d a b => { reads := [⟨a.toNat, 1, 1⟩] ++ srcSpans b, pwrites := [(d.toNat, 1)] }
  | .setpLtF32 _ _ d a b => { reads := [⟨a.toNat, 1, 1⟩] ++ srcSpans b, pwrites := [(d.toNat, 1)] }
  | .setpLeF32 _ _ d a b => { reads := [⟨a.toNat, 1, 1⟩] ++ srcSpans b, pwrites := [(d.toNat, 1)] }
  | .setpUnF32 _ _ d a b => { reads := [⟨a.toNat, 1, 1⟩] ++ srcSpans b, pwrites := [(d.toNat, 1)] }
  | .sel _ _ d a b => { reads := [⟨a.toNat, 1, 1⟩] ++ srcSpans b, writes := [⟨d.toNat, 1, 1⟩] }
  | .pand _ _ d a b => { preads := [(a.toNat, 1), (b.toNat, 1)], pwrites := [(d.toNat, 1)] }
  | .por _ _ d a b => { preads := [(a.toNat, 1), (b.toNat, 1)], pwrites := [(d.toNat, 1)] }
  | .pxor _ _ d a b => { preads := [(a.toNat, 1), (b.toNat, 1)], pwrites := [(d.toNat, 1)] }
  | .pandn _ _ d a b => { preads := [(a.toNat, 1), (b.toNat, 1)], pwrites := [(d.toNat, 1)] }
  | .ppack _ _ d a => { writes := [⟨d.toNat, 1, 1⟩], preads := [(a.toNat, 32)], limits := decide (a.toNat ≤ 96) }
  | .punpack _ _ d a => { reads := [⟨a.toNat, 1, 1⟩], pwrites := [(d.toNat, 32)], limits := decide (d.toNat ≤ 96) }
  | .mov _ _ d a => { reads := [⟨a.toNat, 1, 1⟩], writes := [⟨d.toNat, 1, 1⟩] }
  | .movi _ _ d _ => { writes := [⟨d.toNat, 1, 1⟩] }
  | .moviLiteral _ _ d _ => { writes := [⟨d.toNat, 1, 1⟩] }
  | .fadd _ _ d a b => { reads := [⟨a.toNat, 1, 1⟩] ++ srcSpans b, writes := [⟨d.toNat, 1, 1⟩] }
  | .fsub _ _ d a b => { reads := [⟨a.toNat, 1, 1⟩] ++ srcSpans b, writes := [⟨d.toNat, 1, 1⟩] }
  | .fmul _ _ d a b => { reads := [⟨a.toNat, 1, 1⟩] ++ srcSpans b, writes := [⟨d.toNat, 1, 1⟩] }
  | .ffma _ _ d a b => { reads := [⟨a.toNat, 1, 1⟩, ⟨d.toNat, 1, 1⟩] ++ srcSpans b, writes := [⟨d.toNat, 1, 1⟩] }
  | .fmin _ _ d a b => { reads := [⟨a.toNat, 1, 1⟩] ++ srcSpans b, writes := [⟨d.toNat, 1, 1⟩] }
  | .fmax _ _ d a b => { reads := [⟨a.toNat, 1, 1⟩] ++ srcSpans b, writes := [⟨d.toNat, 1, 1⟩] }
  | .hfma2 _ _ d a b => { reads := [⟨a.toNat, 1, 1⟩, ⟨d.toNat, 1, 1⟩] ++ srcSpans b, writes := [⟨d.toNat, 1, 1⟩] }
  | .hadd2 _ _ d a b => { reads := [⟨a.toNat, 1, 1⟩] ++ srcSpans b, writes := [⟨d.toNat, 1, 1⟩] }
  | .hmul2 _ _ d a b => { reads := [⟨a.toNat, 1, 1⟩] ++ srcSpans b, writes := [⟨d.toNat, 1, 1⟩] }
  | .bfma2 _ _ d a b => { reads := [⟨a.toNat, 1, 1⟩, ⟨d.toNat, 1, 1⟩] ++ srcSpans b, writes := [⟨d.toNat, 1, 1⟩] }
  | .movs _ _ d sr => { writes := [⟨d.toNat, 1, 1⟩], limits := specialRegister sr.toNat }
  | .movsw _ _ d sr => { reads := [⟨d.toNat, 1, 1⟩], limits := writableSpecial sr.toNat }
  | .cvtF32I32 _ _ d a _ => { reads := [⟨a.toNat, 1, 1⟩], writes := [⟨d.toNat, 1, 1⟩] }
  | .cvtF32N32 _ _ d a _ => { reads := [⟨a.toNat, 1, 1⟩], writes := [⟨d.toNat, 1, 1⟩] }
  | .cvtI32F32 _ _ d a _ => { reads := [⟨a.toNat, 1, 1⟩], writes := [⟨d.toNat, 1, 1⟩] }
  | .cvtN32F32 _ _ d a _ => { reads := [⟨a.toNat, 1, 1⟩], writes := [⟨d.toNat, 1, 1⟩] }
  | .cvtF16F32 _ _ d a _ => { reads := [⟨a.toNat, 1, 1⟩], writes := [⟨d.toNat, 1, 1⟩] }
  | .cvtBf16F32 _ _ d a _ => { reads := [⟨a.toNat, 1, 1⟩], writes := [⟨d.toNat, 1, 1⟩] }
  | .cvtE4m3F32 _ _ d a _ => { reads := [⟨a.toNat, 1, 1⟩], writes := [⟨d.toNat, 1, 1⟩] }
  | .cvtE5m2F32 _ _ d a _ => { reads := [⟨a.toNat, 1, 1⟩], writes := [⟨d.toNat, 1, 1⟩] }
  | .cvtF32F16 _ _ d a _ _ => { reads := [⟨a.toNat, 1, 1⟩], writes := [⟨d.toNat, 1, 1⟩] }
  | .cvtF32Bf16 _ _ d a _ _ => { reads := [⟨a.toNat, 1, 1⟩], writes := [⟨d.toNat, 1, 1⟩] }
  | .cvtF32E4m3 _ _ d a _ _ => { reads := [⟨a.toNat, 1, 1⟩], writes := [⟨d.toNat, 1, 1⟩] }
  | .cvtF32E5m2 _ _ d a _ _ => { reads := [⟨a.toNat, 1, 1⟩], writes := [⟨d.toNat, 1, 1⟩] }
  | .unpk8Cb4 _ _ d a _ _ => { reads := [⟨a.toNat, 1, 1⟩], writes := [⟨d.toNat, 4, 1⟩] }
  | .qntCb4 _ _ d a _ _ => { reads := [⟨a.toNat, 8, 1⟩], writes := [⟨d.toNat, 1, 1⟩] }
  | .pk4E4m3 _ _ d a _ => { reads := [⟨a.toNat, 4, 1⟩], writes := [⟨d.toNat, 1, 1⟩] }
  | .pk4E5m2 _ _ d a _ => { reads := [⟨a.toNat, 4, 1⟩], writes := [⟨d.toNat, 1, 1⟩] }
  | .unpk4E4m3 _ _ d a _ => { reads := [⟨a.toNat, 1, 1⟩], writes := [⟨d.toNat, 4, 1⟩] }
  | .unpk4E5m2 _ _ d a _ => { reads := [⟨a.toNat, 1, 1⟩], writes := [⟨d.toNat, 4, 1⟩] }
  | .pk2Bf16 _ _ d a _ => { reads := [⟨a.toNat, 2, 1⟩], writes := [⟨d.toNat, 1, 1⟩] }
  | .pk2F16 _ _ d a _ => { reads := [⟨a.toNat, 2, 1⟩], writes := [⟨d.toNat, 1, 1⟩] }
  | .rcpF32 _ _ d a _ => { reads := [⟨a.toNat, 1, 1⟩], writes := [⟨d.toNat, 1, 1⟩] }
  | .rsqF32 _ _ d a _ => { reads := [⟨a.toNat, 1, 1⟩], writes := [⟨d.toNat, 1, 1⟩] }
  | .sqrtF32 _ _ d a _ => { reads := [⟨a.toNat, 1, 1⟩], writes := [⟨d.toNat, 1, 1⟩] }
  | .divF32 _ _ d a _ => { reads := [⟨a.toNat, 2, 1⟩], writes := [⟨d.toNat, 1, 1⟩] }
  | .exp2F32 _ _ d a _ => { reads := [⟨a.toNat, 1, 1⟩], writes := [⟨d.toNat, 1, 1⟩] }
  | .log2F32 _ _ d a _ => { reads := [⟨a.toNat, 1, 1⟩], writes := [⟨d.toNat, 1, 1⟩] }
  | .sintF32 _ _ d a _ => { reads := [⟨a.toNat, 1, 1⟩], writes := [⟨d.toNat, 1, 1⟩] }
  | .costF32 _ _ d a _ => { reads := [⟨a.toNat, 1, 1⟩], writes := [⟨d.toNat, 1, 1⟩] }
  | .tanhF32 _ _ d a _ => { reads := [⟨a.toNat, 1, 1⟩], writes := [⟨d.toNat, 1, 1⟩] }
  | .sigmF32 _ _ d a _ => { reads := [⟨a.toNat, 1, 1⟩], writes := [⟨d.toNat, 1, 1⟩] }
  | .floorF32 _ _ d a _ => { reads := [⟨a.toNat, 1, 1⟩], writes := [⟨d.toNat, 1, 1⟩] }
  | .ceilF32 _ _ d a _ => { reads := [⟨a.toNat, 1, 1⟩], writes := [⟨d.toNat, 1, 1⟩] }
  | .truncF32 _ _ d a _ => { reads := [⟨a.toNat, 1, 1⟩], writes := [⟨d.toNat, 1, 1⟩] }
  | .rintF32 _ _ d a _ => { reads := [⟨a.toNat, 1, 1⟩], writes := [⟨d.toNat, 1, 1⟩] }
  | .classF32 _ _ d a _ => { reads := [⟨a.toNat, 1, 1⟩], writes := [⟨d.toNat, 1, 1⟩] }
  | .wadd _ _ d a _ => { reads := [⟨a.toNat, 1, 1⟩, ⟨d.toNat, 11, 1⟩], writes := [⟨d.toNat, 11, 1⟩] }
  | .wrnd _ _ d a _ => { reads := [⟨a.toNat, 11, 1⟩], writes := [⟨d.toNat, 1, 1⟩] }
  | .wclr _ _ d _ => { writes := [⟨d.toNat, 11, 1⟩] }
  | .cvtF32I8 _ _ d a _ _ => { reads := [⟨a.toNat, 1, 1⟩], writes := [⟨d.toNat, 1, 1⟩] }
  | .cvtI8F32 _ _ d a _ => { reads := [⟨a.toNat, 1, 1⟩], writes := [⟨d.toNat, 1, 1⟩] }
  | .ldN8 _ _ d a _ _ _ => { reads := [⟨a.toNat, 1, 1⟩], writes := [⟨d.toNat, 1, 1⟩] }
  | .ldI8 _ _ d a _ _ _ => { reads := [⟨a.toNat, 1, 1⟩], writes := [⟨d.toNat, 1, 1⟩] }
  | .ldN16 _ _ d a _ _ _ => { reads := [⟨a.toNat, 1, 1⟩], writes := [⟨d.toNat, 1, 1⟩] }
  | .ldI16 _ _ d a _ _ _ => { reads := [⟨a.toNat, 1, 1⟩], writes := [⟨d.toNat, 1, 1⟩] }
  | .ldW _ _ d a _ _ _ => { reads := [⟨a.toNat, 1, 1⟩], writes := [⟨d.toNat, 1, 1⟩] }
  | .ldD _ _ d a _ _ _ => { reads := [⟨a.toNat, 1, 1⟩], writes := [⟨d.toNat, 2, 2⟩] }
  | .ldQ _ _ d a _ _ _ => { reads := [⟨a.toNat, 1, 1⟩], writes := [⟨d.toNat, 4, 4⟩] }
  | .ldO _ _ d a _ _ _ => { reads := [⟨a.toNat, 1, 1⟩], writes := [⟨d.toNat, 8, 8⟩] }
  | .stB _ d a _ _ _ => { reads := [⟨a.toNat, 1, 1⟩, ⟨d.toNat, 1, 1⟩] }
  | .stH _ d a _ _ _ => { reads := [⟨a.toNat, 1, 1⟩, ⟨d.toNat, 1, 1⟩] }
  | .stW _ d a _ _ _ => { reads := [⟨a.toNat, 1, 1⟩, ⟨d.toNat, 1, 1⟩] }
  | .stD _ d a _ _ _ => { reads := [⟨a.toNat, 1, 1⟩, ⟨d.toNat, 2, 2⟩] }
  | .stQ _ d a _ _ _ => { reads := [⟨a.toNat, 1, 1⟩, ⟨d.toNat, 4, 4⟩] }
  | .stO _ d a _ _ _ => { reads := [⟨a.toNat, 1, 1⟩, ⟨d.toNat, 8, 8⟩] }
  | .ldaW _ _ d a _ _ o => { reads := [⟨a.toNat, 1, 1⟩] ++ ordSpans o, writes := [⟨d.toNat, 1, 1⟩], limits := ordLimits o }
  | .ldaD _ _ d a _ _ o => { reads := [⟨a.toNat, 1, 1⟩] ++ ordSpans o, writes := [⟨d.toNat, 2, 2⟩], limits := ordLimits o }
  | .ldapW _ _ d a _ _ o => { reads := [⟨a.toNat, 1, 1⟩] ++ ordSpans o, writes := [⟨d.toNat, 1, 1⟩], limits := ordLimits o }
  | .stlW _ d a _ _ o => { reads := [⟨a.toNat, 1, 1⟩, ⟨d.toNat, 1, 1⟩] ++ ordSpans o, limits := ordLimits o }
  | .stlD _ d a _ _ o => { reads := [⟨a.toNat, 1, 1⟩, ⟨d.toNat, 2, 2⟩] ++ ordSpans o, limits := ordLimits o }
  | .ldcW _ _ d a _ _ _ => { reads := [⟨a.toNat, 1, 1⟩], writes := [⟨d.toNat, 1, 1⟩] }
  | .ldcD _ _ d a _ _ _ => { reads := [⟨a.toNat, 1, 1⟩], writes := [⟨d.toNat, 2, 2⟩] }
  | .ldvW _ _ d a _ _ _ => { reads := [⟨a.toNat, 1, 1⟩], writes := [⟨d.toNat, 1, 1⟩] }
  | .ldvD _ _ d a _ _ _ => { reads := [⟨a.toNat, 1, 1⟩], writes := [⟨d.toNat, 2, 2⟩] }
  | .ldvQ _ _ d a _ _ _ => { reads := [⟨a.toNat, 1, 1⟩], writes := [⟨d.toNat, 4, 4⟩] }
  | .ldvO _ _ d a _ _ _ => { reads := [⟨a.toNat, 1, 1⟩], writes := [⟨d.toNat, 8, 8⟩] }
  | .ldsW _ _ d a _ _ => { reads := [⟨a.toNat, 1, 1⟩], writes := [⟨d.toNat, 1, 1⟩] }
  | .ldsD _ _ d a _ _ => { reads := [⟨a.toNat, 1, 1⟩], writes := [⟨d.toNat, 2, 2⟩] }
  | .ldsQ _ _ d a _ _ => { reads := [⟨a.toNat, 1, 1⟩], writes := [⟨d.toNat, 4, 4⟩] }
  | .ldsO _ _ d a _ _ => { reads := [⟨a.toNat, 1, 1⟩], writes := [⟨d.toNat, 8, 8⟩] }
  | .stsW _ d a _ _ => { reads := [⟨a.toNat, 1, 1⟩, ⟨d.toNat, 1, 1⟩] }
  | .stsD _ d a _ _ => { reads := [⟨a.toNat, 1, 1⟩, ⟨d.toNat, 2, 2⟩] }
  | .stsQ _ d a _ _ => { reads := [⟨a.toNat, 1, 1⟩, ⟨d.toNat, 4, 4⟩] }
  | .stsO _ d a _ _ => { reads := [⟨a.toNat, 1, 1⟩, ⟨d.toNat, 8, 8⟩] }
  | .ldfragN _ _ d a _ _ => { reads := [⟨a.toNat, 1, 1⟩], writes := [⟨d.toNat, 8, 8⟩] }
  | .ldfragT8 _ _ d a _ _ => { reads := [⟨a.toNat, 1, 1⟩], writes := [⟨d.toNat, 8, 8⟩] }
  | .ldfragT16 _ _ d a _ _ => { reads := [⟨a.toNat, 1, 1⟩], writes := [⟨d.toNat, 8, 8⟩] }
  | .atomAdd _ d a _ _ _ => { reads := [⟨a.toNat, 1, 1⟩, ⟨d.toNat, 1, 1⟩], writes := [⟨d.toNat, 1, 1⟩] }
  | .atomMinI32 _ d a _ _ _ => { reads := [⟨a.toNat, 1, 1⟩, ⟨d.toNat, 1, 1⟩], writes := [⟨d.toNat, 1, 1⟩] }
  | .atomMaxI32 _ d a _ _ _ => { reads := [⟨a.toNat, 1, 1⟩, ⟨d.toNat, 1, 1⟩], writes := [⟨d.toNat, 1, 1⟩] }
  | .atomMinN32 _ d a _ _ _ => { reads := [⟨a.toNat, 1, 1⟩, ⟨d.toNat, 1, 1⟩], writes := [⟨d.toNat, 1, 1⟩] }
  | .atomMaxN32 _ d a _ _ _ => { reads := [⟨a.toNat, 1, 1⟩, ⟨d.toNat, 1, 1⟩], writes := [⟨d.toNat, 1, 1⟩] }
  | .atomAnd _ d a _ _ _ => { reads := [⟨a.toNat, 1, 1⟩, ⟨d.toNat, 1, 1⟩], writes := [⟨d.toNat, 1, 1⟩] }
  | .atomOr _ d a _ _ _ => { reads := [⟨a.toNat, 1, 1⟩, ⟨d.toNat, 1, 1⟩], writes := [⟨d.toNat, 1, 1⟩] }
  | .atomXor _ d a _ _ _ => { reads := [⟨a.toNat, 1, 1⟩, ⟨d.toNat, 1, 1⟩], writes := [⟨d.toNat, 1, 1⟩] }
  | .atomXchg _ d a _ _ _ => { reads := [⟨a.toNat, 1, 1⟩, ⟨d.toNat, 1, 1⟩], writes := [⟨d.toNat, 1, 1⟩] }
  | .atomCas _ d a _ _ _ => { reads := [⟨a.toNat, 1, 1⟩, ⟨d.toNat, 2, 2⟩], writes := [⟨d.toNat, 1, 1⟩] }
  | .atomIncw _ d a _ _ _ => { reads := [⟨a.toNat, 1, 1⟩, ⟨d.toNat, 1, 1⟩], writes := [⟨d.toNat, 1, 1⟩] }
  | .atomAdd64 _ d a _ _ _ => { reads := [⟨a.toNat, 1, 1⟩, ⟨d.toNat, 2, 2⟩], writes := [⟨d.toNat, 2, 2⟩] }
  | .atomCas64 _ d a _ _ _ => { reads := [⟨a.toNat, 1, 1⟩, ⟨d.toNat, 4, 4⟩], writes := [⟨d.toNat, 2, 2⟩] }
  | .atomFadd _ d a _ _ _ => { reads := [⟨a.toNat, 1, 1⟩, ⟨d.toNat, 1, 1⟩], writes := [⟨d.toNat, 1, 1⟩] }
  | .atomWrd _ d a _ _ _ => { reads := [⟨a.toNat, 1, 1⟩, ⟨d.toNat, 11, 1⟩], writes := [⟨d.toNat, 11, 1⟩] }
  | .redAdd _ d a _ _ _ => { reads := [⟨a.toNat, 1, 1⟩, ⟨d.toNat, 1, 1⟩] }
  | .redFadd _ d a _ _ _ => { reads := [⟨a.toNat, 1, 1⟩, ⟨d.toNat, 1, 1⟩] }
  | .redWadd _ d a _ _ _ => { reads := [⟨a.toNat, 1, 1⟩, ⟨d.toNat, 11, 1⟩] }
  | .redMaxI32 _ d a _ _ _ => { reads := [⟨a.toNat, 1, 1⟩, ⟨d.toNat, 1, 1⟩] }
  | .atomsAdd _ d a _ _ => { reads := [⟨a.toNat, 1, 1⟩, ⟨d.toNat, 1, 1⟩], writes := [⟨d.toNat, 1, 1⟩] }
  | .atomsCas _ d a _ _ => { reads := [⟨a.toNat, 1, 1⟩, ⟨d.toNat, 2, 2⟩], writes := [⟨d.toNat, 1, 1⟩] }
  | .atomsMaxN32 _ d a _ _ => { reads := [⟨a.toNat, 1, 1⟩, ⟨d.toNat, 1, 1⟩], writes := [⟨d.toNat, 1, 1⟩] }
  | .atomsXchg _ d a _ _ => { reads := [⟨a.toNat, 1, 1⟩, ⟨d.toNat, 1, 1⟩], writes := [⟨d.toNat, 1, 1⟩] }
  | .setb _ a _ _ => { reads := [⟨a.toNat, 2, 2⟩] }
  | .getb _ d _ _ => { writes := [⟨d.toNat, 2, 2⟩] }
  | .bra _ _ => {}
  | .brx _ a => { reads := [⟨a.toNat, 1, 1⟩] }
  | .call _ d _ => { writes := [⟨d.toNat, 1, 1⟩] }
  | .callx _ d a => { reads := [⟨a.toNat, 1, 1⟩], writes := [⟨d.toNat, 1, 1⟩] }
  | .ret _ a => { reads := [⟨a.toNat, 1, 1⟩] }
  | .exit _ => {}
  | .setm _ _ => {}
  | .setmx _ a => { reads := [⟨a.toNat, 1, 1⟩] }
  | .clrm _ => {}
  | .yield _ c => { reads := srcSpans c }
  | .nap _ c => { reads := srcSpans c }
  | .wake _ a => { reads := [⟨a.toNat, 1, 1⟩] }
  | .rdv _ m => { reads := [⟨m.toNat, 1, 1⟩] }
  | .shflIdx _ d a m n => { reads := [⟨m.toNat, 1, 1⟩, ⟨a.toNat, 1, 1⟩] ++ laneSpans n, writes := [⟨d.toNat, 1, 1⟩] }
  | .shflXor _ d a m n => { reads := [⟨m.toNat, 1, 1⟩, ⟨a.toNat, 1, 1⟩] ++ laneSpans n, writes := [⟨d.toNat, 1, 1⟩] }
  | .shflUp _ d a m n => { reads := [⟨m.toNat, 1, 1⟩, ⟨a.toNat, 1, 1⟩] ++ laneSpans n, writes := [⟨d.toNat, 1, 1⟩] }
  | .shflDn _ d a m n => { reads := [⟨m.toNat, 1, 1⟩, ⟨a.toNat, 1, 1⟩] ++ laneSpans n, writes := [⟨d.toNat, 1, 1⟩] }
  | .voteAll _ d a m => { reads := [⟨m.toNat, 1, 1⟩], preads := [(a.toNat, 1)], pwrites := [(d.toNat, 1)] }
  | .voteAny _ d a m => { reads := [⟨m.toNat, 1, 1⟩], preads := [(a.toNat, 1)], pwrites := [(d.toNat, 1)] }
  | .voteBal _ d a m => { reads := [⟨m.toNat, 1, 1⟩], writes := [⟨d.toNat, 1, 1⟩], preads := [(a.toNat, 1)] }
  | .matchAny _ d a m => { reads := [⟨m.toNat, 1, 1⟩, ⟨a.toNat, 1, 1⟩], writes := [⟨d.toNat, 1, 1⟩] }
  | .matchAll _ d a m => { reads := [⟨m.toNat, 1, 1⟩, ⟨a.toNat, 1, 1⟩], writes := [⟨d.toNat, 1, 1⟩] }
  | .redxAddI32 _ d a m => { reads := [⟨m.toNat, 1, 1⟩, ⟨a.toNat, 1, 1⟩], writes := [⟨d.toNat, 1, 1⟩] }
  | .redxMinI32 _ d a m => { reads := [⟨m.toNat, 1, 1⟩, ⟨a.toNat, 1, 1⟩], writes := [⟨d.toNat, 1, 1⟩] }
  | .redxMaxI32 _ d a m => { reads := [⟨m.toNat, 1, 1⟩, ⟨a.toNat, 1, 1⟩], writes := [⟨d.toNat, 1, 1⟩] }
  | .redxMinN32 _ d a m => { reads := [⟨m.toNat, 1, 1⟩, ⟨a.toNat, 1, 1⟩], writes := [⟨d.toNat, 1, 1⟩] }
  | .redxMaxN32 _ d a m => { reads := [⟨m.toNat, 1, 1⟩, ⟨a.toNat, 1, 1⟩], writes := [⟨d.toNat, 1, 1⟩] }
  | .redxAnd _ d a m => { reads := [⟨m.toNat, 1, 1⟩, ⟨a.toNat, 1, 1⟩], writes := [⟨d.toNat, 1, 1⟩] }
  | .redxOr _ d a m => { reads := [⟨m.toNat, 1, 1⟩, ⟨a.toNat, 1, 1⟩], writes := [⟨d.toNat, 1, 1⟩] }
  | .redxXor _ d a m => { reads := [⟨m.toNat, 1, 1⟩, ⟨a.toNat, 1, 1⟩], writes := [⟨d.toNat, 1, 1⟩] }
  | .redxFadd _ d a m => { reads := [⟨m.toNat, 1, 1⟩, ⟨a.toNat, 1, 1⟩], writes := [⟨d.toNat, 1, 1⟩] }
  | .redxFmin _ d a m => { reads := [⟨m.toNat, 1, 1⟩, ⟨a.toNat, 1, 1⟩], writes := [⟨d.toNat, 1, 1⟩] }
  | .redxFmax _ d a m => { reads := [⟨m.toNat, 1, 1⟩, ⟨a.toNat, 1, 1⟩], writes := [⟨d.toNat, 1, 1⟩] }
  | .scanxAddI32 _ d a m => { reads := [⟨m.toNat, 1, 1⟩, ⟨a.toNat, 1, 1⟩], writes := [⟨d.toNat, 1, 1⟩] }
  | .scanxFadd _ d a m => { reads := [⟨m.toNat, 1, 1⟩, ⟨a.toNat, 1, 1⟩], writes := [⟨d.toNat, 1, 1⟩] }
  | .tbarSync _ bar => { limits := decide (bar.toNat < 15) }
  | .tbarArv _ bar => { limits := decide (bar.toNat < 15) }
  | .tbarWait _ bar => { limits := decide (bar.toNat < 15) }
  | .tbarRed _ d a sub bar hi => { reads := [⟨a.toNat, 1, 1⟩], writes := [⟨d.toNat, 1, 1⟩], limits := decide (bar.toNat < 15) && decide (redCode sub hi ≤ 10) }
  | .gbarSync _ bar => { limits := decide (bar.toNat < 8) }
  | .gbarArv _ bar => { limits := decide (bar.toNat < 8) }
  | .gbarWait _ bar => { limits := decide (bar.toNat < 8) }
  | .gbarRed _ d a sub bar hi => { reads := [⟨a.toNat, 1, 1⟩], writes := [⟨d.toNat, 1, 1⟩], limits := decide (bar.toNat < 8) && decide (redCode sub hi ≤ 10) }
  | .fence _ sc => { reads := scopeSpans sc, limits := scopeLimits sc }
  | .scopeof _ d a kind => { reads := scopeofSpans a kind, writes := [⟨d.toNat, 1, 1⟩] }
  | .hwaitF _ _ _ => {}
  | .hwaitE _ _ => {}
  | .hsetFill _ _ => {}
  | .hsetFull _ _ => {}
  | .hsetDrain _ _ => {}
  | .hsetFree _ _ => {}
  | .harm _ _ c => { reads := [⟨c.toNat, 1, 1⟩] }
  | .cont _ _ _ => { reads := [⟨0, 8, 1⟩] }
  | .qpush _ d _ => { reads := [⟨d.toNat, 8, 8⟩] }
  | .qpushD _ d _ => { reads := [⟨d.toNat, 16, 16⟩] }
  | .qpop _ d _ => { writes := [⟨d.toNat, 8, 8⟩] }
  | .qlen _ d _ => { writes := [⟨d.toNat, 1, 1⟩] }
  | .qpushNb _ d _ p => { reads := [⟨d.toNat, 8, 8⟩], pwrites := [(p.toNat, 1)] }
  | .qpopNb _ d _ p => { writes := [⟨d.toNat, 8, 8⟩], pwrites := [(p.toNat, 1)] }
  | .cvjoin _ a b => { reads := [⟨a.toNat, 1, 1⟩, ⟨b.toNat, 1, 1⟩] }
  | .cvleave _ => {}
  | .cvsetSl _ a => { reads := [⟨a.toNat, 1, 1⟩] }
  | .cvsetLt _ a => { reads := [⟨a.toNat, 1, 1⟩] }
  | .mmaE4e4 _ x1 x2 x3 _ _ _ _ => { reads := [⟨x1.toNat, 8, 8⟩, ⟨x2.toNat, 3, 1⟩, ⟨x3.toNat, 5, 1⟩] }
  | .mmaE4e5 _ x1 x2 x3 _ _ _ _ => { reads := [⟨x1.toNat, 8, 8⟩, ⟨x2.toNat, 3, 1⟩, ⟨x3.toNat, 5, 1⟩] }
  | .mmaE5e4 _ x1 x2 x3 _ _ _ _ => { reads := [⟨x1.toNat, 8, 8⟩, ⟨x2.toNat, 3, 1⟩, ⟨x3.toNat, 5, 1⟩] }
  | .mmaE5e5 _ x1 x2 x3 _ _ _ _ => { reads := [⟨x1.toNat, 8, 8⟩, ⟨x2.toNat, 3, 1⟩, ⟨x3.toNat, 5, 1⟩] }
  | .mmaCb4 _ x1 x2 x3 _ _ _ _ _ => { reads := [⟨x1.toNat, 8, 8⟩, ⟨x2.toNat, 3, 1⟩, ⟨x3.toNat, 5, 1⟩] }
  | .mmaBf16 _ x1 x2 _ _ _ => { reads := [⟨x1.toNat, 8, 8⟩, ⟨x2.toNat, 3, 1⟩] }
  | .mmaF16 _ x1 x2 _ _ _ => { reads := [⟨x1.toNat, 8, 8⟩, ⟨x2.toNat, 3, 1⟩] }
  | .mmaI8 _ x1 x2 _ _ _ => { reads := [⟨x1.toNat, 8, 8⟩, ⟨x2.toNat, 3, 1⟩] }
  | .mzero _ _ => {}
  | .mload _ afmt x1 x3 sb k _ => { reads := [⟨x1.toNat, 8, 8⟩] ++ mloadSpans afmt x3, limits := mloadLimits afmt x3 sb k }
  | .mdrain _ _ _ _ _ x2 x3 _ => { reads := [⟨x2.toNat, 1, 1⟩, ⟨x3.toNat, 2, 1⟩] }
  | .mdraina _ _ _ _ x2 x3 _ => { reads := [⟨x2.toNat, 1, 1⟩, ⟨x3.toNat, 2, 1⟩] }
  | .mdrains _ _ _ _ x1 x3 _ => { reads := [⟨x1.toNat, 3, 1⟩, ⟨x3.toNat, 2, 1⟩] }
  | .mgang _ x2 => { reads := [⟨x2.toNat, 1, 1⟩] }
  | .mopf _ => {}
  | .mwait _ => {}
  | .mrel _ => {}
  | .mcb _ x2 _ => { reads := [⟨x2.toNat, 1, 1⟩] }
  | .cpyG2s _ _ _ x1 x2 x3 _ => { reads := [⟨x1.toNat, 3, 1⟩, ⟨x2.toNat, 1, 1⟩, ⟨x3.toNat, 2, 1⟩] }
  | .cpyG2sT8 _ _ _ x1 x2 x3 _ => { reads := [⟨x1.toNat, 3, 1⟩, ⟨x2.toNat, 1, 1⟩, ⟨x3.toNat, 2, 1⟩] }
  | .cpyG2sT16 _ _ _ x1 x2 x3 _ => { reads := [⟨x1.toNat, 3, 1⟩, ⟨x2.toNat, 1, 1⟩, ⟨x3.toNat, 2, 1⟩] }
  | .cpyS2g _ _ _ x1 x2 x3 _ => { reads := [⟨x1.toNat, 3, 1⟩, ⟨x2.toNat, 1, 1⟩, ⟨x3.toNat, 2, 1⟩] }
  | .cpyS2ga _ _ _ x1 x2 x3 _ => { reads := [⟨x1.toNat, 3, 1⟩, ⟨x2.toNat, 1, 1⟩, ⟨x3.toNat, 2, 1⟩] }
  | .cpyG2g _ _ _ x1 x2 x3 _ => { reads := [⟨x1.toNat, 1, 1⟩, ⟨x2.toNat, 1, 1⟩, ⟨x3.toNat, 2, 1⟩] }
  | .cpyMc _ _ _ x1 x2 x3 cmask _ => { reads := [⟨x1.toNat, 3, 1⟩, ⟨x2.toNat, 1, 1⟩, ⟨x3.toNat, 2, 1⟩], limits := cmask != 0 }
  | .cpyS2s _ _ x1 x2 x3 _ => { reads := [⟨x1.toNat, 3, 1⟩, ⟨x2.toNat, 3, 1⟩, ⟨x3.toNat, 1, 1⟩] }
  | .cpyV2s _ _ _ x1 x2 x3 _ => { reads := [⟨x1.toNat, 3, 1⟩, ⟨x2.toNat, 1, 1⟩, ⟨x3.toNat, 2, 1⟩] }
  | .gtrinv _ _ x2 => { reads := [⟨x2.toNat, 1, 1⟩] }
  | .nmc _ _ x1 x2 _ => { reads := [⟨x1.toNat, 8, 8⟩, ⟨x2.toNat, 1, 1⟩] }
  | .nmwait _ => {}
  | .cpywait _ => {}
  | .pghint _ _ x2 x3 => { reads := [⟨x2.toNat, 1, 1⟩, ⟨x3.toNat, 1, 1⟩] }
  | .trap _ _ => {}
  | .bkpt _ _ => {}
  | .tretRetry _ => {}
  | .tretSkip _ => {}
  | .clock _ d => { writes := [⟨d.toNat, 2, 2⟩] }
  | .gtime _ d => { writes := [⟨d.toNat, 2, 2⟩] }
  | .trace _ a _ => { reads := [⟨a.toNat, 1, 1⟩] }
  | .flags _ d _ => { writes := [⟨d.toNat, 1, 1⟩] }
  | .icinv _ => {}
  | .meetHoldTimeout _ => {}
  | .starvationOverride _ _ => {}
  | .yieldExpiry _ => {}
  | .breakpointHit _ => {}
  | .loadReturn _ => {}
  | .storeQueueDrain _ _ => {}
  | .straitRead _ => {}
  | .straitWrite _ => {}
  | .straitReply _ => {}
  | .atomicService _ => {}
  | .promote _ _ => {}
  | .sfuResult _ => {}
  | .barrierArrivalCounted _ _ _ => {}
  | .slewResume _ _ => {}
  | .matrixEngineOperation _ _ => {}
  | .copyAccept _ => {}
  | .copyPartWritten _ _ _ _ => {}
  | .copyFinish _ => {}
  | .contSpawn _ _ _ _ _ => {}
  | .nmcSend _ => {}
  | .nmStep _ => {}
  | .pageWalk _ _ => {}
  | .pageServiced _ _ _ => {}
  | .pageRefused _ => {}
  | .pageMigration _ _ => {}
  | .tierMigration _ _ _ => {}
  | .queuePerform _ _ => {}
  | .trapEntry _ => {}
  | .teamComplete _ => {}
  | .gridComplete _ => {}
  | .containment _ => {}
  | .scrubPass _ => {}
  | .gridPacket _ _ => {}
  | .waitPacket _ => {}
  | .waitPoll _ => {}
  | .kickPacket _ => {}
  | .teamAdmission _ _ _ => {}
  | .reserving _ _ _ => {}
  | .preemption _ _ _ => {}
  | .restore _ _ _ => {}
  | .stealRequest _ _ => {}
  | .classify _ => {}
  | .thermalMove _ _ _ => {}
  | .powerControl _ _ _ => {}
  | .operatingPointChange _ => {}
  | .convoyLapse _ => {}
  | .graphReplayStart _ => {}
  | .graphNodeFinish _ _ => {}
  | .kick _ _ _ => {}
  | .kstatWrite _ _ => {}
  | .partWrite _ _ => {}
  | .regselWrite _ => {}
  | .lbudgetWrite _ _ => {}
  | .deverrWrite _ => {}
  | .registerWrite _ _ _ => {}
  | .moduleReset => {}
  | .go _ => {}
  | .attgo => {}
  | .attestationReportDone => {}
  | .hostQueuePush _ _ => {}
  | .hostQueuePop _ => {}
  | .hostQueueStatus _ => {}
  | .hostMemAccess _ => {}
  | .bufinv _ => {}
  | .xlatinv _ => {}
  | .ownrec _ => {}
  | .qdesc _ => {}
  | .cadload _ => {}
  | .cadswitch _ => {}
  | .caddrop _ => {}
  | .fmreload _ => {}
  | .fmreply _ => {}
  | .manageUnknown _ => {}
  | .fmTimeout _ _ => {}
  | .debugConfigWrite _ _ _ => {}
  | .debugStop _ _ _ => {}
  | .debugResume _ => {}
  | .debugStep _ _ => {}
  | .pcntClear _ => {}
  | .sample _ _ => {}
  | .linkRequest _ => {}
  | .linkTimeout _ => {}
  | .gateAcknowledgement _ _ => {}

/-- The class of an instruction, as its clause header names it (R83); none for a device step. -/
def classOf : Instr → Option Nat
  | .add _ _ _ _ _ => some 0
  | .sub _ _ _ _ _ => some 0
  | .mul _ _ _ _ _ => some 0
  | .mulhI32 _ _ _ _ _ => some 0
  | .mulhN32 _ _ _ _ _ => some 0
  | .mad _ _ _ _ _ => some 0
  | .madwI32 _ _ _ _ _ => some 0
  | .madwN32 _ _ _ _ _ => some 0
  | .add64 _ _ _ _ _ => some 0
  | .sub64 _ _ _ _ _ => some 0
  | .addsI32 _ _ _ _ _ => some 0
  | .subsI32 _ _ _ _ _ => some 0
  | .minI32 _ _ _ _ _ => some 0
  | .maxI32 _ _ _ _ _ => some 0
  | .minN32 _ _ _ _ _ => some 0
  | .maxN32 _ _ _ _ _ => some 0
  | .and _ _ _ _ _ => some 0
  | .or _ _ _ _ _ => some 0
  | .xor _ _ _ _ _ => some 0
  | .andn _ _ _ _ _ => some 0
  | .shl _ _ _ _ _ => some 0
  | .shr _ _ _ _ _ => some 0
  | .sar _ _ _ _ _ => some 0
  | .popc _ _ _ _ => some 0
  | .clz _ _ _ _ => some 0
  | .brev _ _ _ _ => some 0
  | .bfeN32 _ _ _ _ _ => some 0
  | .bfeI32 _ _ _ _ _ => some 0
  | .bfi _ _ _ _ _ => some 0
  | .permb _ _ _ _ _ => some 0
  | .dot4I8 _ _ _ _ _ => some 0
  | .dot4N8 _ _ _ _ _ => some 0
  | .setpEq _ _ _ _ _ => some 0
  | .setpNe _ _ _ _ _ => some 0
  | .setpLtI32 _ _ _ _ _ => some 0
  | .setpLeI32 _ _ _ _ _ => some 0
  | .setpLtN32 _ _ _ _ _ => some 0
  | .setpLeN32 _ _ _ _ _ => some 0
  | .setpEqF32 _ _ _ _ _ => some 0
  | .setpNeF32 _ _ _ _ _ => some 0
  | .setpLtF32 _ _ _ _ _ => some 0
  | .setpLeF32 _ _ _ _ _ => some 0
  | .setpUnF32 _ _ _ _ _ => some 0
  | .sel _ _ _ _ _ => some 0
  | .pand _ _ _ _ _ => some 0
  | .por _ _ _ _ _ => some 0
  | .pxor _ _ _ _ _ => some 0
  | .pandn _ _ _ _ _ => some 0
  | .ppack _ _ _ _ => some 0
  | .punpack _ _ _ _ => some 0
  | .mov _ _ _ _ => some 0
  | .movi _ _ _ _ => some 0
  | .moviLiteral _ _ _ _ => some 0
  | .fadd _ _ _ _ _ => some 0
  | .fsub _ _ _ _ _ => some 0
  | .fmul _ _ _ _ _ => some 0
  | .ffma _ _ _ _ _ => some 0
  | .fmin _ _ _ _ _ => some 0
  | .fmax _ _ _ _ _ => some 0
  | .hfma2 _ _ _ _ _ => some 0
  | .hadd2 _ _ _ _ _ => some 0
  | .hmul2 _ _ _ _ _ => some 0
  | .bfma2 _ _ _ _ _ => some 0
  | .movs _ _ _ _ => some 0
  | .movsw _ _ _ _ => some 0
  | .cvtF32I32 _ _ _ _ _ => some 5
  | .cvtF32N32 _ _ _ _ _ => some 5
  | .cvtI32F32 _ _ _ _ _ => some 5
  | .cvtN32F32 _ _ _ _ _ => some 5
  | .cvtF16F32 _ _ _ _ _ => some 5
  | .cvtBf16F32 _ _ _ _ _ => some 5
  | .cvtE4m3F32 _ _ _ _ _ => some 5
  | .cvtE5m2F32 _ _ _ _ _ => some 5
  | .cvtF32F16 _ _ _ _ _ _ => some 5
  | .cvtF32Bf16 _ _ _ _ _ _ => some 5
  | .cvtF32E4m3 _ _ _ _ _ _ => some 5
  | .cvtF32E5m2 _ _ _ _ _ _ => some 5
  | .unpk8Cb4 _ _ _ _ _ _ => some 5
  | .qntCb4 _ _ _ _ _ _ => some 5
  | .pk4E4m3 _ _ _ _ _ => some 5
  | .pk4E5m2 _ _ _ _ _ => some 5
  | .unpk4E4m3 _ _ _ _ _ => some 5
  | .unpk4E5m2 _ _ _ _ _ => some 5
  | .pk2Bf16 _ _ _ _ _ => some 5
  | .pk2F16 _ _ _ _ _ => some 5
  | .rcpF32 _ _ _ _ _ => some 5
  | .rsqF32 _ _ _ _ _ => some 5
  | .sqrtF32 _ _ _ _ _ => some 5
  | .divF32 _ _ _ _ _ => some 5
  | .exp2F32 _ _ _ _ _ => some 5
  | .log2F32 _ _ _ _ _ => some 5
  | .sintF32 _ _ _ _ _ => some 5
  | .costF32 _ _ _ _ _ => some 5
  | .tanhF32 _ _ _ _ _ => some 5
  | .sigmF32 _ _ _ _ _ => some 5
  | .floorF32 _ _ _ _ _ => some 5
  | .ceilF32 _ _ _ _ _ => some 5
  | .truncF32 _ _ _ _ _ => some 5
  | .rintF32 _ _ _ _ _ => some 5
  | .classF32 _ _ _ _ _ => some 5
  | .wadd _ _ _ _ _ => some 5
  | .wrnd _ _ _ _ _ => some 5
  | .wclr _ _ _ _ => some 5
  | .cvtF32I8 _ _ _ _ _ _ => some 5
  | .cvtI8F32 _ _ _ _ _ => some 5
  | .ldN8 _ _ _ _ _ _ _ => some 1
  | .ldI8 _ _ _ _ _ _ _ => some 1
  | .ldN16 _ _ _ _ _ _ _ => some 1
  | .ldI16 _ _ _ _ _ _ _ => some 1
  | .ldW _ _ _ _ _ _ _ => some 1
  | .ldD _ _ _ _ _ _ _ => some 1
  | .ldQ _ _ _ _ _ _ _ => some 1
  | .ldO _ _ _ _ _ _ _ => some 1
  | .stB _ _ _ _ _ _ => some 1
  | .stH _ _ _ _ _ _ => some 1
  | .stW _ _ _ _ _ _ => some 1
  | .stD _ _ _ _ _ _ => some 1
  | .stQ _ _ _ _ _ _ => some 1
  | .stO _ _ _ _ _ _ => some 1
  | .ldaW _ _ _ _ _ _ _ => some 1
  | .ldaD _ _ _ _ _ _ _ => some 1
  | .ldapW _ _ _ _ _ _ _ => some 1
  | .stlW _ _ _ _ _ _ => some 1
  | .stlD _ _ _ _ _ _ => some 1
  | .ldcW _ _ _ _ _ _ _ => some 1
  | .ldcD _ _ _ _ _ _ _ => some 1
  | .ldvW _ _ _ _ _ _ _ => some 1
  | .ldvD _ _ _ _ _ _ _ => some 1
  | .ldvQ _ _ _ _ _ _ _ => some 1
  | .ldvO _ _ _ _ _ _ _ => some 1
  | .ldsW _ _ _ _ _ _ => some 1
  | .ldsD _ _ _ _ _ _ => some 1
  | .ldsQ _ _ _ _ _ _ => some 1
  | .ldsO _ _ _ _ _ _ => some 1
  | .stsW _ _ _ _ _ => some 1
  | .stsD _ _ _ _ _ => some 1
  | .stsQ _ _ _ _ _ => some 1
  | .stsO _ _ _ _ _ => some 1
  | .ldfragN _ _ _ _ _ _ => some 1
  | .ldfragT8 _ _ _ _ _ _ => some 1
  | .ldfragT16 _ _ _ _ _ _ => some 1
  | .atomAdd _ _ _ _ _ _ => some 1
  | .atomMinI32 _ _ _ _ _ _ => some 1
  | .atomMaxI32 _ _ _ _ _ _ => some 1
  | .atomMinN32 _ _ _ _ _ _ => some 1
  | .atomMaxN32 _ _ _ _ _ _ => some 1
  | .atomAnd _ _ _ _ _ _ => some 1
  | .atomOr _ _ _ _ _ _ => some 1
  | .atomXor _ _ _ _ _ _ => some 1
  | .atomXchg _ _ _ _ _ _ => some 1
  | .atomCas _ _ _ _ _ _ => some 1
  | .atomIncw _ _ _ _ _ _ => some 1
  | .atomAdd64 _ _ _ _ _ _ => some 1
  | .atomCas64 _ _ _ _ _ _ => some 1
  | .atomFadd _ _ _ _ _ _ => some 1
  | .atomWrd _ _ _ _ _ _ => some 1
  | .redAdd _ _ _ _ _ _ => some 1
  | .redFadd _ _ _ _ _ _ => some 1
  | .redWadd _ _ _ _ _ _ => some 1
  | .redMaxI32 _ _ _ _ _ _ => some 1
  | .atomsAdd _ _ _ _ _ => some 1
  | .atomsCas _ _ _ _ _ => some 1
  | .atomsMaxN32 _ _ _ _ _ => some 1
  | .atomsXchg _ _ _ _ _ => some 1
  | .setb _ _ _ _ => some 1
  | .getb _ _ _ _ => some 1
  | .bra _ _ => some 4
  | .brx _ _ => some 4
  | .call _ _ _ => some 4
  | .callx _ _ _ => some 4
  | .ret _ _ => some 4
  | .exit _ => some 4
  | .setm _ _ => some 4
  | .setmx _ _ => some 4
  | .clrm _ => some 4
  | .yield _ _ => some 4
  | .nap _ _ => some 4
  | .wake _ _ => some 4
  | .rdv _ _ => some 4
  | .shflIdx _ _ _ _ _ => some 4
  | .shflXor _ _ _ _ _ => some 4
  | .shflUp _ _ _ _ _ => some 4
  | .shflDn _ _ _ _ _ => some 4
  | .voteAll _ _ _ _ => some 4
  | .voteAny _ _ _ _ => some 4
  | .voteBal _ _ _ _ => some 4
  | .matchAny _ _ _ _ => some 4
  | .matchAll _ _ _ _ => some 4
  | .redxAddI32 _ _ _ _ => some 4
  | .redxMinI32 _ _ _ _ => some 4
  | .redxMaxI32 _ _ _ _ => some 4
  | .redxMinN32 _ _ _ _ => some 4
  | .redxMaxN32 _ _ _ _ => some 4
  | .redxAnd _ _ _ _ => some 4
  | .redxOr _ _ _ _ => some 4
  | .redxXor _ _ _ _ => some 4
  | .redxFadd _ _ _ _ => some 4
  | .redxFmin _ _ _ _ => some 4
  | .redxFmax _ _ _ _ => some 4
  | .scanxAddI32 _ _ _ _ => some 4
  | .scanxFadd _ _ _ _ => some 4
  | .tbarSync _ _ => some 4
  | .tbarArv _ _ => some 4
  | .tbarWait _ _ => some 4
  | .tbarRed _ _ _ _ _ _ => some 4
  | .gbarSync _ _ => some 4
  | .gbarArv _ _ => some 4
  | .gbarWait _ _ => some 4
  | .gbarRed _ _ _ _ _ _ => some 4
  | .fence _ _ => some 4
  | .scopeof _ _ _ _ => some 4
  | .hwaitF _ _ _ => some 4
  | .hwaitE _ _ => some 4
  | .hsetFill _ _ => some 4
  | .hsetFull _ _ => some 4
  | .hsetDrain _ _ => some 4
  | .hsetFree _ _ => some 4
  | .harm _ _ _ => some 4
  | .cont _ _ _ => some 4
  | .qpush _ _ _ => some 4
  | .qpushD _ _ _ => some 4
  | .qpop _ _ _ => some 4
  | .qlen _ _ _ => some 4
  | .qpushNb _ _ _ _ => some 4
  | .qpopNb _ _ _ _ => some 4
  | .cvjoin _ _ _ => some 4
  | .cvleave _ => some 4
  | .cvsetSl _ _ => some 4
  | .cvsetLt _ _ => some 4
  | .mmaE4e4 _ _ _ _ _ _ _ _ => some 2
  | .mmaE4e5 _ _ _ _ _ _ _ _ => some 2
  | .mmaE5e4 _ _ _ _ _ _ _ _ => some 2
  | .mmaE5e5 _ _ _ _ _ _ _ _ => some 2
  | .mmaCb4 _ _ _ _ _ _ _ _ _ => some 2
  | .mmaBf16 _ _ _ _ _ _ => some 2
  | .mmaF16 _ _ _ _ _ _ => some 2
  | .mmaI8 _ _ _ _ _ _ => some 2
  | .mzero _ _ => some 2
  | .mload _ _ _ _ _ _ _ => some 2
  | .mdrain _ _ _ _ _ _ _ _ => some 2
  | .mdraina _ _ _ _ _ _ _ => some 2
  | .mdrains _ _ _ _ _ _ _ => some 2
  | .mgang _ _ => some 2
  | .mopf _ => some 2
  | .mwait _ => some 2
  | .mrel _ => some 2
  | .mcb _ _ _ => some 2
  | .cpyG2s _ _ _ _ _ _ _ => some 3
  | .cpyG2sT8 _ _ _ _ _ _ _ => some 3
  | .cpyG2sT16 _ _ _ _ _ _ _ => some 3
  | .cpyS2g _ _ _ _ _ _ _ => some 3
  | .cpyS2ga _ _ _ _ _ _ _ => some 3
  | .cpyG2g _ _ _ _ _ _ _ => some 3
  | .cpyMc _ _ _ _ _ _ _ _ => some 3
  | .cpyS2s _ _ _ _ _ _ => some 3
  | .cpyV2s _ _ _ _ _ _ _ => some 3
  | .gtrinv _ _ _ => some 3
  | .nmc _ _ _ _ _ => some 3
  | .nmwait _ => some 3
  | .cpywait _ => some 3
  | .pghint _ _ _ _ => some 3
  | .trap _ _ => some 6
  | .bkpt _ _ => some 6
  | .tretRetry _ => some 6
  | .tretSkip _ => some 6
  | .clock _ _ => some 6
  | .gtime _ _ => some 6
  | .trace _ _ _ => some 6
  | .flags _ _ _ => some 6
  | .icinv _ => some 6
  | .meetHoldTimeout _ => none
  | .starvationOverride _ _ => none
  | .yieldExpiry _ => none
  | .breakpointHit _ => none
  | .loadReturn _ => none
  | .storeQueueDrain _ _ => none
  | .straitRead _ => none
  | .straitWrite _ => none
  | .straitReply _ => none
  | .atomicService _ => none
  | .promote _ _ => none
  | .sfuResult _ => none
  | .barrierArrivalCounted _ _ _ => none
  | .slewResume _ _ => none
  | .matrixEngineOperation _ _ => none
  | .copyAccept _ => none
  | .copyPartWritten _ _ _ _ => none
  | .copyFinish _ => none
  | .contSpawn _ _ _ _ _ => none
  | .nmcSend _ => none
  | .nmStep _ => none
  | .pageWalk _ _ => none
  | .pageServiced _ _ _ => none
  | .pageRefused _ => none
  | .pageMigration _ _ => none
  | .tierMigration _ _ _ => none
  | .queuePerform _ _ => none
  | .trapEntry _ => none
  | .teamComplete _ => none
  | .gridComplete _ => none
  | .containment _ => none
  | .scrubPass _ => none
  | .gridPacket _ _ => none
  | .waitPacket _ => none
  | .waitPoll _ => none
  | .kickPacket _ => none
  | .teamAdmission _ _ _ => none
  | .reserving _ _ _ => none
  | .preemption _ _ _ => none
  | .restore _ _ _ => none
  | .stealRequest _ _ => none
  | .classify _ => none
  | .thermalMove _ _ _ => none
  | .powerControl _ _ _ => none
  | .operatingPointChange _ => none
  | .convoyLapse _ => none
  | .graphReplayStart _ => none
  | .graphNodeFinish _ _ => none
  | .kick _ _ _ => none
  | .kstatWrite _ _ => none
  | .partWrite _ _ => none
  | .regselWrite _ => none
  | .lbudgetWrite _ _ => none
  | .deverrWrite _ => none
  | .registerWrite _ _ _ => none
  | .moduleReset => none
  | .go _ => none
  | .attgo => none
  | .attestationReportDone => none
  | .hostQueuePush _ _ => none
  | .hostQueuePop _ => none
  | .hostQueueStatus _ => none
  | .hostMemAccess _ => none
  | .bufinv _ => none
  | .xlatinv _ => none
  | .ownrec _ => none
  | .qdesc _ => none
  | .cadload _ => none
  | .cadswitch _ => none
  | .caddrop _ => none
  | .fmreload _ => none
  | .fmreply _ => none
  | .manageUnknown _ => none
  | .fmTimeout _ _ => none
  | .debugConfigWrite _ _ _ => none
  | .debugStop _ _ _ => none
  | .debugResume _ => none
  | .debugStep _ _ => none
  | .pcntClear _ => none
  | .sample _ _ => none
  | .linkRequest _ => none
  | .linkTimeout _ => none
  | .gateAcknowledgement _ _ => none

/-- The guard of an instruction (R88). -/
def guardOf : Instr → Guard
  | .add g _ _ _ _ => g
  | .sub g _ _ _ _ => g
  | .mul g _ _ _ _ => g
  | .mulhI32 g _ _ _ _ => g
  | .mulhN32 g _ _ _ _ => g
  | .mad g _ _ _ _ => g
  | .madwI32 g _ _ _ _ => g
  | .madwN32 g _ _ _ _ => g
  | .add64 g _ _ _ _ => g
  | .sub64 g _ _ _ _ => g
  | .addsI32 g _ _ _ _ => g
  | .subsI32 g _ _ _ _ => g
  | .minI32 g _ _ _ _ => g
  | .maxI32 g _ _ _ _ => g
  | .minN32 g _ _ _ _ => g
  | .maxN32 g _ _ _ _ => g
  | .and g _ _ _ _ => g
  | .or g _ _ _ _ => g
  | .xor g _ _ _ _ => g
  | .andn g _ _ _ _ => g
  | .shl g _ _ _ _ => g
  | .shr g _ _ _ _ => g
  | .sar g _ _ _ _ => g
  | .popc g _ _ _ => g
  | .clz g _ _ _ => g
  | .brev g _ _ _ => g
  | .bfeN32 g _ _ _ _ => g
  | .bfeI32 g _ _ _ _ => g
  | .bfi g _ _ _ _ => g
  | .permb g _ _ _ _ => g
  | .dot4I8 g _ _ _ _ => g
  | .dot4N8 g _ _ _ _ => g
  | .setpEq g _ _ _ _ => g
  | .setpNe g _ _ _ _ => g
  | .setpLtI32 g _ _ _ _ => g
  | .setpLeI32 g _ _ _ _ => g
  | .setpLtN32 g _ _ _ _ => g
  | .setpLeN32 g _ _ _ _ => g
  | .setpEqF32 g _ _ _ _ => g
  | .setpNeF32 g _ _ _ _ => g
  | .setpLtF32 g _ _ _ _ => g
  | .setpLeF32 g _ _ _ _ => g
  | .setpUnF32 g _ _ _ _ => g
  | .sel g _ _ _ _ => g
  | .pand g _ _ _ _ => g
  | .por g _ _ _ _ => g
  | .pxor g _ _ _ _ => g
  | .pandn g _ _ _ _ => g
  | .ppack g _ _ _ => g
  | .punpack g _ _ _ => g
  | .mov g _ _ _ => g
  | .movi g _ _ _ => g
  | .moviLiteral g _ _ _ => g
  | .fadd g _ _ _ _ => g
  | .fsub g _ _ _ _ => g
  | .fmul g _ _ _ _ => g
  | .ffma g _ _ _ _ => g
  | .fmin g _ _ _ _ => g
  | .fmax g _ _ _ _ => g
  | .hfma2 g _ _ _ _ => g
  | .hadd2 g _ _ _ _ => g
  | .hmul2 g _ _ _ _ => g
  | .bfma2 g _ _ _ _ => g
  | .movs g _ _ _ => g
  | .movsw g _ _ _ => g
  | .cvtF32I32 g _ _ _ _ => g
  | .cvtF32N32 g _ _ _ _ => g
  | .cvtI32F32 g _ _ _ _ => g
  | .cvtN32F32 g _ _ _ _ => g
  | .cvtF16F32 g _ _ _ _ => g
  | .cvtBf16F32 g _ _ _ _ => g
  | .cvtE4m3F32 g _ _ _ _ => g
  | .cvtE5m2F32 g _ _ _ _ => g
  | .cvtF32F16 g _ _ _ _ _ => g
  | .cvtF32Bf16 g _ _ _ _ _ => g
  | .cvtF32E4m3 g _ _ _ _ _ => g
  | .cvtF32E5m2 g _ _ _ _ _ => g
  | .unpk8Cb4 g _ _ _ _ _ => g
  | .qntCb4 g _ _ _ _ _ => g
  | .pk4E4m3 g _ _ _ _ => g
  | .pk4E5m2 g _ _ _ _ => g
  | .unpk4E4m3 g _ _ _ _ => g
  | .unpk4E5m2 g _ _ _ _ => g
  | .pk2Bf16 g _ _ _ _ => g
  | .pk2F16 g _ _ _ _ => g
  | .rcpF32 g _ _ _ _ => g
  | .rsqF32 g _ _ _ _ => g
  | .sqrtF32 g _ _ _ _ => g
  | .divF32 g _ _ _ _ => g
  | .exp2F32 g _ _ _ _ => g
  | .log2F32 g _ _ _ _ => g
  | .sintF32 g _ _ _ _ => g
  | .costF32 g _ _ _ _ => g
  | .tanhF32 g _ _ _ _ => g
  | .sigmF32 g _ _ _ _ => g
  | .floorF32 g _ _ _ _ => g
  | .ceilF32 g _ _ _ _ => g
  | .truncF32 g _ _ _ _ => g
  | .rintF32 g _ _ _ _ => g
  | .classF32 g _ _ _ _ => g
  | .wadd g _ _ _ _ => g
  | .wrnd g _ _ _ _ => g
  | .wclr g _ _ _ => g
  | .cvtF32I8 g _ _ _ _ _ => g
  | .cvtI8F32 g _ _ _ _ => g
  | .ldN8 g _ _ _ _ _ _ => g
  | .ldI8 g _ _ _ _ _ _ => g
  | .ldN16 g _ _ _ _ _ _ => g
  | .ldI16 g _ _ _ _ _ _ => g
  | .ldW g _ _ _ _ _ _ => g
  | .ldD g _ _ _ _ _ _ => g
  | .ldQ g _ _ _ _ _ _ => g
  | .ldO g _ _ _ _ _ _ => g
  | .stB g _ _ _ _ _ => g
  | .stH g _ _ _ _ _ => g
  | .stW g _ _ _ _ _ => g
  | .stD g _ _ _ _ _ => g
  | .stQ g _ _ _ _ _ => g
  | .stO g _ _ _ _ _ => g
  | .ldaW g _ _ _ _ _ _ => g
  | .ldaD g _ _ _ _ _ _ => g
  | .ldapW g _ _ _ _ _ _ => g
  | .stlW g _ _ _ _ _ => g
  | .stlD g _ _ _ _ _ => g
  | .ldcW g _ _ _ _ _ _ => g
  | .ldcD g _ _ _ _ _ _ => g
  | .ldvW g _ _ _ _ _ _ => g
  | .ldvD g _ _ _ _ _ _ => g
  | .ldvQ g _ _ _ _ _ _ => g
  | .ldvO g _ _ _ _ _ _ => g
  | .ldsW g _ _ _ _ _ => g
  | .ldsD g _ _ _ _ _ => g
  | .ldsQ g _ _ _ _ _ => g
  | .ldsO g _ _ _ _ _ => g
  | .stsW g _ _ _ _ => g
  | .stsD g _ _ _ _ => g
  | .stsQ g _ _ _ _ => g
  | .stsO g _ _ _ _ => g
  | .ldfragN g _ _ _ _ _ => g
  | .ldfragT8 g _ _ _ _ _ => g
  | .ldfragT16 g _ _ _ _ _ => g
  | .atomAdd g _ _ _ _ _ => g
  | .atomMinI32 g _ _ _ _ _ => g
  | .atomMaxI32 g _ _ _ _ _ => g
  | .atomMinN32 g _ _ _ _ _ => g
  | .atomMaxN32 g _ _ _ _ _ => g
  | .atomAnd g _ _ _ _ _ => g
  | .atomOr g _ _ _ _ _ => g
  | .atomXor g _ _ _ _ _ => g
  | .atomXchg g _ _ _ _ _ => g
  | .atomCas g _ _ _ _ _ => g
  | .atomIncw g _ _ _ _ _ => g
  | .atomAdd64 g _ _ _ _ _ => g
  | .atomCas64 g _ _ _ _ _ => g
  | .atomFadd g _ _ _ _ _ => g
  | .atomWrd g _ _ _ _ _ => g
  | .redAdd g _ _ _ _ _ => g
  | .redFadd g _ _ _ _ _ => g
  | .redWadd g _ _ _ _ _ => g
  | .redMaxI32 g _ _ _ _ _ => g
  | .atomsAdd g _ _ _ _ => g
  | .atomsCas g _ _ _ _ => g
  | .atomsMaxN32 g _ _ _ _ => g
  | .atomsXchg g _ _ _ _ => g
  | .setb g _ _ _ => g
  | .getb g _ _ _ => g
  | .bra g _ => g
  | .brx g _ => g
  | .call g _ _ => g
  | .callx g _ _ => g
  | .ret g _ => g
  | .exit g => g
  | .setm g _ => g
  | .setmx g _ => g
  | .clrm g => g
  | .yield g _ => g
  | .nap g _ => g
  | .wake g _ => g
  | .rdv g _ => g
  | .shflIdx g _ _ _ _ => g
  | .shflXor g _ _ _ _ => g
  | .shflUp g _ _ _ _ => g
  | .shflDn g _ _ _ _ => g
  | .voteAll g _ _ _ => g
  | .voteAny g _ _ _ => g
  | .voteBal g _ _ _ => g
  | .matchAny g _ _ _ => g
  | .matchAll g _ _ _ => g
  | .redxAddI32 g _ _ _ => g
  | .redxMinI32 g _ _ _ => g
  | .redxMaxI32 g _ _ _ => g
  | .redxMinN32 g _ _ _ => g
  | .redxMaxN32 g _ _ _ => g
  | .redxAnd g _ _ _ => g
  | .redxOr g _ _ _ => g
  | .redxXor g _ _ _ => g
  | .redxFadd g _ _ _ => g
  | .redxFmin g _ _ _ => g
  | .redxFmax g _ _ _ => g
  | .scanxAddI32 g _ _ _ => g
  | .scanxFadd g _ _ _ => g
  | .tbarSync g _ => g
  | .tbarArv g _ => g
  | .tbarWait g _ => g
  | .tbarRed g _ _ _ _ _ => g
  | .gbarSync g _ => g
  | .gbarArv g _ => g
  | .gbarWait g _ => g
  | .gbarRed g _ _ _ _ _ => g
  | .fence g _ => g
  | .scopeof g _ _ _ => g
  | .hwaitF g _ _ => g
  | .hwaitE g _ => g
  | .hsetFill g _ => g
  | .hsetFull g _ => g
  | .hsetDrain g _ => g
  | .hsetFree g _ => g
  | .harm g _ _ => g
  | .cont g _ _ => g
  | .qpush g _ _ => g
  | .qpushD g _ _ => g
  | .qpop g _ _ => g
  | .qlen g _ _ => g
  | .qpushNb g _ _ _ => g
  | .qpopNb g _ _ _ => g
  | .cvjoin g _ _ => g
  | .cvleave g => g
  | .cvsetSl g _ => g
  | .cvsetLt g _ => g
  | .mmaE4e4 g _ _ _ _ _ _ _ => g
  | .mmaE4e5 g _ _ _ _ _ _ _ => g
  | .mmaE5e4 g _ _ _ _ _ _ _ => g
  | .mmaE5e5 g _ _ _ _ _ _ _ => g
  | .mmaCb4 g _ _ _ _ _ _ _ _ => g
  | .mmaBf16 g _ _ _ _ _ => g
  | .mmaF16 g _ _ _ _ _ => g
  | .mmaI8 g _ _ _ _ _ => g
  | .mzero g _ => g
  | .mload g _ _ _ _ _ _ => g
  | .mdrain g _ _ _ _ _ _ _ => g
  | .mdraina g _ _ _ _ _ _ => g
  | .mdrains g _ _ _ _ _ _ => g
  | .mgang g _ => g
  | .mopf g => g
  | .mwait g => g
  | .mrel g => g
  | .mcb g _ _ => g
  | .cpyG2s g _ _ _ _ _ _ => g
  | .cpyG2sT8 g _ _ _ _ _ _ => g
  | .cpyG2sT16 g _ _ _ _ _ _ => g
  | .cpyS2g g _ _ _ _ _ _ => g
  | .cpyS2ga g _ _ _ _ _ _ => g
  | .cpyG2g g _ _ _ _ _ _ => g
  | .cpyMc g _ _ _ _ _ _ _ => g
  | .cpyS2s g _ _ _ _ _ => g
  | .cpyV2s g _ _ _ _ _ _ => g
  | .gtrinv g _ _ => g
  | .nmc g _ _ _ _ => g
  | .nmwait g => g
  | .cpywait g => g
  | .pghint g _ _ _ => g
  | .trap g _ => g
  | .bkpt g _ => g
  | .tretRetry g => g
  | .tretSkip g => g
  | .clock g _ => g
  | .gtime g _ => g
  | .trace g _ _ => g
  | .flags g _ _ => g
  | .icinv g => g
  | .meetHoldTimeout _ => {}
  | .starvationOverride _ _ => {}
  | .yieldExpiry _ => {}
  | .breakpointHit _ => {}
  | .loadReturn _ => {}
  | .storeQueueDrain _ _ => {}
  | .straitRead _ => {}
  | .straitWrite _ => {}
  | .straitReply _ => {}
  | .atomicService _ => {}
  | .promote _ _ => {}
  | .sfuResult _ => {}
  | .barrierArrivalCounted _ _ _ => {}
  | .slewResume _ _ => {}
  | .matrixEngineOperation _ _ => {}
  | .copyAccept _ => {}
  | .copyPartWritten _ _ _ _ => {}
  | .copyFinish _ => {}
  | .contSpawn _ _ _ _ _ => {}
  | .nmcSend _ => {}
  | .nmStep _ => {}
  | .pageWalk _ _ => {}
  | .pageServiced _ _ _ => {}
  | .pageRefused _ => {}
  | .pageMigration _ _ => {}
  | .tierMigration _ _ _ => {}
  | .queuePerform _ _ => {}
  | .trapEntry _ => {}
  | .teamComplete _ => {}
  | .gridComplete _ => {}
  | .containment _ => {}
  | .scrubPass _ => {}
  | .gridPacket _ _ => {}
  | .waitPacket _ => {}
  | .waitPoll _ => {}
  | .kickPacket _ => {}
  | .teamAdmission _ _ _ => {}
  | .reserving _ _ _ => {}
  | .preemption _ _ _ => {}
  | .restore _ _ _ => {}
  | .stealRequest _ _ => {}
  | .classify _ => {}
  | .thermalMove _ _ _ => {}
  | .powerControl _ _ _ => {}
  | .operatingPointChange _ => {}
  | .convoyLapse _ => {}
  | .graphReplayStart _ => {}
  | .graphNodeFinish _ _ => {}
  | .kick _ _ _ => {}
  | .kstatWrite _ _ => {}
  | .partWrite _ _ => {}
  | .regselWrite _ => {}
  | .lbudgetWrite _ _ => {}
  | .deverrWrite _ => {}
  | .registerWrite _ _ _ => {}
  | .moduleReset => {}
  | .go _ => {}
  | .attgo => {}
  | .attestationReportDone => {}
  | .hostQueuePush _ _ => {}
  | .hostQueuePop _ => {}
  | .hostQueueStatus _ => {}
  | .hostMemAccess _ => {}
  | .bufinv _ => {}
  | .xlatinv _ => {}
  | .ownrec _ => {}
  | .qdesc _ => {}
  | .cadload _ => {}
  | .cadswitch _ => {}
  | .caddrop _ => {}
  | .fmreload _ => {}
  | .fmreply _ => {}
  | .manageUnknown _ => {}
  | .fmTimeout _ _ => {}
  | .debugConfigWrite _ _ _ => {}
  | .debugStop _ _ _ => {}
  | .debugResume _ => {}
  | .debugStep _ _ => {}
  | .pcntClear _ => {}
  | .sample _ _ => {}
  | .linkRequest _ => {}
  | .linkTimeout _ => {}
  | .gateAcknowledgement _ _ => {}

/-- LA, for the instructions that have pending destinations (R100) and for MMA and MLOAD (R233). -/
def lookaheadOf : Instr → Option Nat
  | .add _ _ _ _ _ => none
  | .sub _ _ _ _ _ => none
  | .mul _ _ _ _ _ => none
  | .mulhI32 _ _ _ _ _ => none
  | .mulhN32 _ _ _ _ _ => none
  | .mad _ _ _ _ _ => none
  | .madwI32 _ _ _ _ _ => none
  | .madwN32 _ _ _ _ _ => none
  | .add64 _ _ _ _ _ => none
  | .sub64 _ _ _ _ _ => none
  | .addsI32 _ _ _ _ _ => none
  | .subsI32 _ _ _ _ _ => none
  | .minI32 _ _ _ _ _ => none
  | .maxI32 _ _ _ _ _ => none
  | .minN32 _ _ _ _ _ => none
  | .maxN32 _ _ _ _ _ => none
  | .and _ _ _ _ _ => none
  | .or _ _ _ _ _ => none
  | .xor _ _ _ _ _ => none
  | .andn _ _ _ _ _ => none
  | .shl _ _ _ _ _ => none
  | .shr _ _ _ _ _ => none
  | .sar _ _ _ _ _ => none
  | .popc _ _ _ _ => none
  | .clz _ _ _ _ => none
  | .brev _ _ _ _ => none
  | .bfeN32 _ _ _ _ _ => none
  | .bfeI32 _ _ _ _ _ => none
  | .bfi _ _ _ _ _ => none
  | .permb _ _ _ _ _ => none
  | .dot4I8 _ _ _ _ _ => none
  | .dot4N8 _ _ _ _ _ => none
  | .setpEq _ _ _ _ _ => none
  | .setpNe _ _ _ _ _ => none
  | .setpLtI32 _ _ _ _ _ => none
  | .setpLeI32 _ _ _ _ _ => none
  | .setpLtN32 _ _ _ _ _ => none
  | .setpLeN32 _ _ _ _ _ => none
  | .setpEqF32 _ _ _ _ _ => none
  | .setpNeF32 _ _ _ _ _ => none
  | .setpLtF32 _ _ _ _ _ => none
  | .setpLeF32 _ _ _ _ _ => none
  | .setpUnF32 _ _ _ _ _ => none
  | .sel _ _ _ _ _ => none
  | .pand _ _ _ _ _ => none
  | .por _ _ _ _ _ => none
  | .pxor _ _ _ _ _ => none
  | .pandn _ _ _ _ _ => none
  | .ppack _ _ _ _ => none
  | .punpack _ _ _ _ => none
  | .mov _ _ _ _ => none
  | .movi _ _ _ _ => none
  | .moviLiteral _ _ _ _ => none
  | .fadd _ _ _ _ _ => none
  | .fsub _ _ _ _ _ => none
  | .fmul _ _ _ _ _ => none
  | .ffma _ _ _ _ _ => none
  | .fmin _ _ _ _ _ => none
  | .fmax _ _ _ _ _ => none
  | .hfma2 _ _ _ _ _ => none
  | .hadd2 _ _ _ _ _ => none
  | .hmul2 _ _ _ _ _ => none
  | .bfma2 _ _ _ _ _ => none
  | .movs _ _ _ _ => none
  | .movsw _ _ _ _ => none
  | .cvtF32I32 _ _ _ _ la => some la.toNat
  | .cvtF32N32 _ _ _ _ la => some la.toNat
  | .cvtI32F32 _ _ _ _ la => some la.toNat
  | .cvtN32F32 _ _ _ _ la => some la.toNat
  | .cvtF16F32 _ _ _ _ la => some la.toNat
  | .cvtBf16F32 _ _ _ _ la => some la.toNat
  | .cvtE4m3F32 _ _ _ _ la => some la.toNat
  | .cvtE5m2F32 _ _ _ _ la => some la.toNat
  | .cvtF32F16 _ _ _ _ la _ => some la.toNat
  | .cvtF32Bf16 _ _ _ _ la _ => some la.toNat
  | .cvtF32E4m3 _ _ _ _ la _ => some la.toNat
  | .cvtF32E5m2 _ _ _ _ la _ => some la.toNat
  | .unpk8Cb4 _ _ _ _ la _ => some la.toNat
  | .qntCb4 _ _ _ _ la _ => some la.toNat
  | .pk4E4m3 _ _ _ _ la => some la.toNat
  | .pk4E5m2 _ _ _ _ la => some la.toNat
  | .unpk4E4m3 _ _ _ _ la => some la.toNat
  | .unpk4E5m2 _ _ _ _ la => some la.toNat
  | .pk2Bf16 _ _ _ _ la => some la.toNat
  | .pk2F16 _ _ _ _ la => some la.toNat
  | .rcpF32 _ _ _ _ la => some la.toNat
  | .rsqF32 _ _ _ _ la => some la.toNat
  | .sqrtF32 _ _ _ _ la => some la.toNat
  | .divF32 _ _ _ _ la => some la.toNat
  | .exp2F32 _ _ _ _ la => some la.toNat
  | .log2F32 _ _ _ _ la => some la.toNat
  | .sintF32 _ _ _ _ la => some la.toNat
  | .costF32 _ _ _ _ la => some la.toNat
  | .tanhF32 _ _ _ _ la => some la.toNat
  | .sigmF32 _ _ _ _ la => some la.toNat
  | .floorF32 _ _ _ _ la => some la.toNat
  | .ceilF32 _ _ _ _ la => some la.toNat
  | .truncF32 _ _ _ _ la => some la.toNat
  | .rintF32 _ _ _ _ la => some la.toNat
  | .classF32 _ _ _ _ la => some la.toNat
  | .wadd _ _ _ _ la => some la.toNat
  | .wrnd _ _ _ _ la => some la.toNat
  | .wclr _ _ _ la => some la.toNat
  | .cvtF32I8 _ _ _ _ la _ => some la.toNat
  | .cvtI8F32 _ _ _ _ la => some la.toNat
  | .ldN8 _ _ _ _ la _ _ => some la.toNat
  | .ldI8 _ _ _ _ la _ _ => some la.toNat
  | .ldN16 _ _ _ _ la _ _ => some la.toNat
  | .ldI16 _ _ _ _ la _ _ => some la.toNat
  | .ldW _ _ _ _ la _ _ => some la.toNat
  | .ldD _ _ _ _ la _ _ => some la.toNat
  | .ldQ _ _ _ _ la _ _ => some la.toNat
  | .ldO _ _ _ _ la _ _ => some la.toNat
  | .stB _ _ _ _ _ _ => none
  | .stH _ _ _ _ _ _ => none
  | .stW _ _ _ _ _ _ => none
  | .stD _ _ _ _ _ _ => none
  | .stQ _ _ _ _ _ _ => none
  | .stO _ _ _ _ _ _ => none
  | .ldaW _ _ _ _ la _ _ => some la.toNat
  | .ldaD _ _ _ _ la _ _ => some la.toNat
  | .ldapW _ _ _ _ la _ _ => some la.toNat
  | .stlW _ _ _ _ _ _ => none
  | .stlD _ _ _ _ _ _ => none
  | .ldcW _ _ _ _ la _ _ => some la.toNat
  | .ldcD _ _ _ _ la _ _ => some la.toNat
  | .ldvW _ _ _ _ la _ _ => some la.toNat
  | .ldvD _ _ _ _ la _ _ => some la.toNat
  | .ldvQ _ _ _ _ la _ _ => some la.toNat
  | .ldvO _ _ _ _ la _ _ => some la.toNat
  | .ldsW _ _ _ _ la _ => some la.toNat
  | .ldsD _ _ _ _ la _ => some la.toNat
  | .ldsQ _ _ _ _ la _ => some la.toNat
  | .ldsO _ _ _ _ la _ => some la.toNat
  | .stsW _ _ _ _ _ => none
  | .stsD _ _ _ _ _ => none
  | .stsQ _ _ _ _ _ => none
  | .stsO _ _ _ _ _ => none
  | .ldfragN _ _ _ _ la _ => some la.toNat
  | .ldfragT8 _ _ _ _ la _ => some la.toNat
  | .ldfragT16 _ _ _ _ la _ => some la.toNat
  | .atomAdd _ _ _ la _ _ => some la.toNat
  | .atomMinI32 _ _ _ la _ _ => some la.toNat
  | .atomMaxI32 _ _ _ la _ _ => some la.toNat
  | .atomMinN32 _ _ _ la _ _ => some la.toNat
  | .atomMaxN32 _ _ _ la _ _ => some la.toNat
  | .atomAnd _ _ _ la _ _ => some la.toNat
  | .atomOr _ _ _ la _ _ => some la.toNat
  | .atomXor _ _ _ la _ _ => some la.toNat
  | .atomXchg _ _ _ la _ _ => some la.toNat
  | .atomCas _ _ _ la _ _ => some la.toNat
  | .atomIncw _ _ _ la _ _ => some la.toNat
  | .atomAdd64 _ _ _ la _ _ => some la.toNat
  | .atomCas64 _ _ _ la _ _ => some la.toNat
  | .atomFadd _ _ _ la _ _ => some la.toNat
  | .atomWrd _ _ _ la _ _ => some la.toNat
  | .redAdd _ _ _ _ _ _ => none
  | .redFadd _ _ _ _ _ _ => none
  | .redWadd _ _ _ _ _ _ => none
  | .redMaxI32 _ _ _ _ _ _ => none
  | .atomsAdd _ _ _ la _ => some la.toNat
  | .atomsCas _ _ _ la _ => some la.toNat
  | .atomsMaxN32 _ _ _ la _ => some la.toNat
  | .atomsXchg _ _ _ la _ => some la.toNat
  | .setb _ _ _ _ => none
  | .getb _ _ _ _ => none
  | .bra _ _ => none
  | .brx _ _ => none
  | .call _ _ _ => none
  | .callx _ _ _ => none
  | .ret _ _ => none
  | .exit _ => none
  | .setm _ _ => none
  | .setmx _ _ => none
  | .clrm _ => none
  | .yield _ _ => none
  | .nap _ _ => none
  | .wake _ _ => none
  | .rdv _ _ => none
  | .shflIdx _ _ _ _ _ => none
  | .shflXor _ _ _ _ _ => none
  | .shflUp _ _ _ _ _ => none
  | .shflDn _ _ _ _ _ => none
  | .voteAll _ _ _ _ => none
  | .voteAny _ _ _ _ => none
  | .voteBal _ _ _ _ => none
  | .matchAny _ _ _ _ => none
  | .matchAll _ _ _ _ => none
  | .redxAddI32 _ _ _ _ => none
  | .redxMinI32 _ _ _ _ => none
  | .redxMaxI32 _ _ _ _ => none
  | .redxMinN32 _ _ _ _ => none
  | .redxMaxN32 _ _ _ _ => none
  | .redxAnd _ _ _ _ => none
  | .redxOr _ _ _ _ => none
  | .redxXor _ _ _ _ => none
  | .redxFadd _ _ _ _ => none
  | .redxFmin _ _ _ _ => none
  | .redxFmax _ _ _ _ => none
  | .scanxAddI32 _ _ _ _ => none
  | .scanxFadd _ _ _ _ => none
  | .tbarSync _ _ => none
  | .tbarArv _ _ => none
  | .tbarWait _ _ => none
  | .tbarRed _ _ _ _ _ _ => none
  | .gbarSync _ _ => none
  | .gbarArv _ _ => none
  | .gbarWait _ _ => none
  | .gbarRed _ _ _ _ _ _ => none
  | .fence _ _ => none
  | .scopeof _ _ _ _ => none
  | .hwaitF _ _ _ => none
  | .hwaitE _ _ => none
  | .hsetFill _ _ => none
  | .hsetFull _ _ => none
  | .hsetDrain _ _ => none
  | .hsetFree _ _ => none
  | .harm _ _ _ => none
  | .cont _ _ _ => none
  | .qpush _ _ _ => none
  | .qpushD _ _ _ => none
  | .qpop _ _ _ => none
  | .qlen _ _ _ => none
  | .qpushNb _ _ _ _ => none
  | .qpopNb _ _ _ _ => none
  | .cvjoin _ _ _ => none
  | .cvleave _ => none
  | .cvsetSl _ _ => none
  | .cvsetLt _ _ => none
  | .mmaE4e4 _ _ _ _ _ _ _ la => some la.toNat
  | .mmaE4e5 _ _ _ _ _ _ _ la => some la.toNat
  | .mmaE5e4 _ _ _ _ _ _ _ la => some la.toNat
  | .mmaE5e5 _ _ _ _ _ _ _ la => some la.toNat
  | .mmaCb4 _ _ _ _ _ _ _ _ la => some la.toNat
  | .mmaBf16 _ _ _ _ _ la => some la.toNat
  | .mmaF16 _ _ _ _ _ la => some la.toNat
  | .mmaI8 _ _ _ _ _ la => some la.toNat
  | .mzero _ _ => none
  | .mload _ _ _ _ _ _ la => some la.toNat
  | .mdrain _ _ _ _ _ _ _ _ => none
  | .mdraina _ _ _ _ _ _ _ => none
  | .mdrains _ _ _ _ _ _ _ => none
  | .mgang _ _ => none
  | .mopf _ => none
  | .mwait _ => none
  | .mrel _ => none
  | .mcb _ _ _ => none
  | .cpyG2s _ _ _ _ _ _ _ => none
  | .cpyG2sT8 _ _ _ _ _ _ _ => none
  | .cpyG2sT16 _ _ _ _ _ _ _ => none
  | .cpyS2g _ _ _ _ _ _ _ => none
  | .cpyS2ga _ _ _ _ _ _ _ => none
  | .cpyG2g _ _ _ _ _ _ _ => none
  | .cpyMc _ _ _ _ _ _ _ _ => none
  | .cpyS2s _ _ _ _ _ _ => none
  | .cpyV2s _ _ _ _ _ _ _ => none
  | .gtrinv _ _ _ => none
  | .nmc _ _ _ _ _ => none
  | .nmwait _ => none
  | .cpywait _ => none
  | .pghint _ _ _ _ => none
  | .trap _ _ => none
  | .bkpt _ _ => none
  | .tretRetry _ => none
  | .tretSkip _ => none
  | .clock _ _ => none
  | .gtime _ _ => none
  | .trace _ _ _ => none
  | .flags _ _ _ => none
  | .icinv _ => none
  | .meetHoldTimeout _ => none
  | .starvationOverride _ _ => none
  | .yieldExpiry _ => none
  | .breakpointHit _ => none
  | .loadReturn _ => none
  | .storeQueueDrain _ _ => none
  | .straitRead _ => none
  | .straitWrite _ => none
  | .straitReply _ => none
  | .atomicService _ => none
  | .promote _ _ => none
  | .sfuResult _ => none
  | .barrierArrivalCounted _ _ _ => none
  | .slewResume _ _ => none
  | .matrixEngineOperation _ _ => none
  | .copyAccept _ => none
  | .copyPartWritten _ _ _ _ => none
  | .copyFinish _ => none
  | .contSpawn _ _ _ _ _ => none
  | .nmcSend _ => none
  | .nmStep _ => none
  | .pageWalk _ _ => none
  | .pageServiced _ _ _ => none
  | .pageRefused _ => none
  | .pageMigration _ _ => none
  | .tierMigration _ _ _ => none
  | .queuePerform _ _ => none
  | .trapEntry _ => none
  | .teamComplete _ => none
  | .gridComplete _ => none
  | .containment _ => none
  | .scrubPass _ => none
  | .gridPacket _ _ => none
  | .waitPacket _ => none
  | .waitPoll _ => none
  | .kickPacket _ => none
  | .teamAdmission _ _ _ => none
  | .reserving _ _ _ => none
  | .preemption _ _ _ => none
  | .restore _ _ _ => none
  | .stealRequest _ _ => none
  | .classify _ => none
  | .thermalMove _ _ _ => none
  | .powerControl _ _ _ => none
  | .operatingPointChange _ => none
  | .convoyLapse _ => none
  | .graphReplayStart _ => none
  | .graphNodeFinish _ _ => none
  | .kick _ _ _ => none
  | .kstatWrite _ _ => none
  | .partWrite _ _ => none
  | .regselWrite _ => none
  | .lbudgetWrite _ _ => none
  | .deverrWrite _ => none
  | .registerWrite _ _ _ => none
  | .moduleReset => none
  | .go _ => none
  | .attgo => none
  | .attestationReportDone => none
  | .hostQueuePush _ _ => none
  | .hostQueuePop _ => none
  | .hostQueueStatus _ => none
  | .hostMemAccess _ => none
  | .bufinv _ => none
  | .xlatinv _ => none
  | .ownrec _ => none
  | .qdesc _ => none
  | .cadload _ => none
  | .cadswitch _ => none
  | .caddrop _ => none
  | .fmreload _ => none
  | .fmreply _ => none
  | .manageUnknown _ => none
  | .fmTimeout _ _ => none
  | .debugConfigWrite _ _ _ => none
  | .debugStop _ _ _ => none
  | .debugResume _ => none
  | .debugStep _ _ => none
  | .pcntClear _ => none
  | .sample _ _ => none
  | .linkRequest _ => none
  | .linkTimeout _ => none
  | .gateAcknowledgement _ _ => none

/-- What a class of instruction needs of the role (R24): any role, VECTOR or COPY, MATRIX, or COPY. -/
inductive Need where
  | any | memory | matrix | copy
  deriving DecidableEq, Repr

/-- The role kinds that meet a need (R24 Table 6): 1 VECTOR, 2 MATRIX, 3 COPY. -/
def Need.met : Need → Nat → Bool
  | .any, _ => true
  | .memory, k => k == 1 || k == 3
  | .matrix, k => k == 2
  | .copy, k => k == 3

/-- The need of an opcode of a class (R24 Table 6, R103). MEM opcodes 0x19 to 0x23 and 0x37 to 0x3A reach scratchpad. -/
def needOf (cls op : Nat) : Need :=
  match cls with
  | 1 => if (0x19 ≤ op ∧ op ≤ 0x23) ∨ (0x37 ≤ op ∧ op ≤ 0x3A) then .any else .memory
  | 2 => .matrix
  | 3 => .copy
  | _ => .any

/-- Whether an instruction with this class and opcode acts although its guard does not pass (R89): the rendezvous and barrier
instructions arrive, and SEL reads its guard as a selector. -/
def actsUnguarded (cls op : Nat) : Bool :=
  (cls == 4 && decide (0x0C ≤ op ∧ op ≤ 0x2A)) || (cls == 0 && op == 0x2B)

/-- The opcode of an instruction within its class (R103 Tables 14 to 20). -/
def opOf : Instr → Nat
  | .add _ _ _ _ _ => 0
  | .sub _ _ _ _ _ => 1
  | .mul _ _ _ _ _ => 2
  | .mulhI32 _ _ _ _ _ => 3
  | .mulhN32 _ _ _ _ _ => 4
  | .mad _ _ _ _ _ => 5
  | .madwI32 _ _ _ _ _ => 6
  | .madwN32 _ _ _ _ _ => 7
  | .add64 _ _ _ _ _ => 8
  | .sub64 _ _ _ _ _ => 9
  | .addsI32 _ _ _ _ _ => 10
  | .subsI32 _ _ _ _ _ => 11
  | .minI32 _ _ _ _ _ => 12
  | .maxI32 _ _ _ _ _ => 13
  | .minN32 _ _ _ _ _ => 14
  | .maxN32 _ _ _ _ _ => 15
  | .and _ _ _ _ _ => 16
  | .or _ _ _ _ _ => 17
  | .xor _ _ _ _ _ => 18
  | .andn _ _ _ _ _ => 19
  | .shl _ _ _ _ _ => 20
  | .shr _ _ _ _ _ => 21
  | .sar _ _ _ _ _ => 22
  | .popc _ _ _ _ => 23
  | .clz _ _ _ _ => 24
  | .brev _ _ _ _ => 25
  | .bfeN32 _ _ _ _ _ => 26
  | .bfeI32 _ _ _ _ _ => 27
  | .bfi _ _ _ _ _ => 28
  | .permb _ _ _ _ _ => 29
  | .dot4I8 _ _ _ _ _ => 30
  | .dot4N8 _ _ _ _ _ => 31
  | .setpEq _ _ _ _ _ => 32
  | .setpNe _ _ _ _ _ => 33
  | .setpLtI32 _ _ _ _ _ => 34
  | .setpLeI32 _ _ _ _ _ => 35
  | .setpLtN32 _ _ _ _ _ => 36
  | .setpLeN32 _ _ _ _ _ => 37
  | .setpEqF32 _ _ _ _ _ => 38
  | .setpNeF32 _ _ _ _ _ => 39
  | .setpLtF32 _ _ _ _ _ => 40
  | .setpLeF32 _ _ _ _ _ => 41
  | .setpUnF32 _ _ _ _ _ => 42
  | .sel _ _ _ _ _ => 43
  | .pand _ _ _ _ _ => 44
  | .por _ _ _ _ _ => 45
  | .pxor _ _ _ _ _ => 46
  | .pandn _ _ _ _ _ => 47
  | .ppack _ _ _ _ => 48
  | .punpack _ _ _ _ => 49
  | .mov _ _ _ _ => 50
  | .movi _ _ _ _ => 51
  | .moviLiteral _ _ _ _ => 51
  | .fadd _ _ _ _ _ => 52
  | .fsub _ _ _ _ _ => 53
  | .fmul _ _ _ _ _ => 54
  | .ffma _ _ _ _ _ => 55
  | .fmin _ _ _ _ _ => 56
  | .fmax _ _ _ _ _ => 57
  | .hfma2 _ _ _ _ _ => 58
  | .hadd2 _ _ _ _ _ => 59
  | .hmul2 _ _ _ _ _ => 60
  | .bfma2 _ _ _ _ _ => 61
  | .movs _ _ _ _ => 62
  | .movsw _ _ _ _ => 63
  | .cvtF32I32 _ _ _ _ _ => 0
  | .cvtF32N32 _ _ _ _ _ => 1
  | .cvtI32F32 _ _ _ _ _ => 2
  | .cvtN32F32 _ _ _ _ _ => 3
  | .cvtF16F32 _ _ _ _ _ => 4
  | .cvtBf16F32 _ _ _ _ _ => 5
  | .cvtE4m3F32 _ _ _ _ _ => 6
  | .cvtE5m2F32 _ _ _ _ _ => 7
  | .cvtF32F16 _ _ _ _ _ _ => 8
  | .cvtF32Bf16 _ _ _ _ _ _ => 9
  | .cvtF32E4m3 _ _ _ _ _ _ => 10
  | .cvtF32E5m2 _ _ _ _ _ _ => 11
  | .unpk8Cb4 _ _ _ _ _ _ => 12
  | .qntCb4 _ _ _ _ _ _ => 13
  | .pk4E4m3 _ _ _ _ _ => 14
  | .pk4E5m2 _ _ _ _ _ => 15
  | .unpk4E4m3 _ _ _ _ _ => 16
  | .unpk4E5m2 _ _ _ _ _ => 17
  | .pk2Bf16 _ _ _ _ _ => 18
  | .pk2F16 _ _ _ _ _ => 19
  | .rcpF32 _ _ _ _ _ => 20
  | .rsqF32 _ _ _ _ _ => 21
  | .sqrtF32 _ _ _ _ _ => 22
  | .divF32 _ _ _ _ _ => 23
  | .exp2F32 _ _ _ _ _ => 24
  | .log2F32 _ _ _ _ _ => 25
  | .sintF32 _ _ _ _ _ => 26
  | .costF32 _ _ _ _ _ => 27
  | .tanhF32 _ _ _ _ _ => 28
  | .sigmF32 _ _ _ _ _ => 29
  | .floorF32 _ _ _ _ _ => 30
  | .ceilF32 _ _ _ _ _ => 31
  | .truncF32 _ _ _ _ _ => 32
  | .rintF32 _ _ _ _ _ => 33
  | .classF32 _ _ _ _ _ => 34
  | .wadd _ _ _ _ _ => 35
  | .wrnd _ _ _ _ _ => 36
  | .wclr _ _ _ _ => 37
  | .cvtF32I8 _ _ _ _ _ _ => 38
  | .cvtI8F32 _ _ _ _ _ => 39
  | .ldN8 _ _ _ _ _ _ _ => 0
  | .ldI8 _ _ _ _ _ _ _ => 1
  | .ldN16 _ _ _ _ _ _ _ => 2
  | .ldI16 _ _ _ _ _ _ _ => 3
  | .ldW _ _ _ _ _ _ _ => 4
  | .ldD _ _ _ _ _ _ _ => 5
  | .ldQ _ _ _ _ _ _ _ => 6
  | .ldO _ _ _ _ _ _ _ => 7
  | .stB _ _ _ _ _ _ => 8
  | .stH _ _ _ _ _ _ => 9
  | .stW _ _ _ _ _ _ => 10
  | .stD _ _ _ _ _ _ => 11
  | .stQ _ _ _ _ _ _ => 12
  | .stO _ _ _ _ _ _ => 13
  | .ldaW _ _ _ _ _ _ _ => 14
  | .ldaD _ _ _ _ _ _ _ => 15
  | .ldapW _ _ _ _ _ _ _ => 16
  | .stlW _ _ _ _ _ _ => 17
  | .stlD _ _ _ _ _ _ => 18
  | .ldcW _ _ _ _ _ _ _ => 19
  | .ldcD _ _ _ _ _ _ _ => 20
  | .ldvW _ _ _ _ _ _ _ => 21
  | .ldvD _ _ _ _ _ _ _ => 22
  | .ldvQ _ _ _ _ _ _ _ => 23
  | .ldvO _ _ _ _ _ _ _ => 24
  | .ldsW _ _ _ _ _ _ => 25
  | .ldsD _ _ _ _ _ _ => 26
  | .ldsQ _ _ _ _ _ _ => 27
  | .ldsO _ _ _ _ _ _ => 28
  | .stsW _ _ _ _ _ => 29
  | .stsD _ _ _ _ _ => 30
  | .stsQ _ _ _ _ _ => 31
  | .stsO _ _ _ _ _ => 32
  | .ldfragN _ _ _ _ _ _ => 33
  | .ldfragT8 _ _ _ _ _ _ => 34
  | .ldfragT16 _ _ _ _ _ _ => 35
  | .atomAdd _ _ _ _ _ _ => 36
  | .atomMinI32 _ _ _ _ _ _ => 37
  | .atomMaxI32 _ _ _ _ _ _ => 38
  | .atomMinN32 _ _ _ _ _ _ => 39
  | .atomMaxN32 _ _ _ _ _ _ => 40
  | .atomAnd _ _ _ _ _ _ => 41
  | .atomOr _ _ _ _ _ _ => 42
  | .atomXor _ _ _ _ _ _ => 43
  | .atomXchg _ _ _ _ _ _ => 44
  | .atomCas _ _ _ _ _ _ => 45
  | .atomIncw _ _ _ _ _ _ => 46
  | .atomAdd64 _ _ _ _ _ _ => 47
  | .atomCas64 _ _ _ _ _ _ => 48
  | .atomFadd _ _ _ _ _ _ => 49
  | .atomWrd _ _ _ _ _ _ => 50
  | .redAdd _ _ _ _ _ _ => 51
  | .redFadd _ _ _ _ _ _ => 52
  | .redWadd _ _ _ _ _ _ => 53
  | .redMaxI32 _ _ _ _ _ _ => 54
  | .atomsAdd _ _ _ _ _ => 55
  | .atomsCas _ _ _ _ _ => 56
  | .atomsMaxN32 _ _ _ _ _ => 57
  | .atomsXchg _ _ _ _ _ => 58
  | .setb _ _ _ _ => 59
  | .getb _ _ _ _ => 60
  | .bra _ _ => 0
  | .brx _ _ => 1
  | .call _ _ _ => 2
  | .callx _ _ _ => 3
  | .ret _ _ => 4
  | .exit _ => 5
  | .setm _ _ => 6
  | .setmx _ _ => 7
  | .clrm _ => 8
  | .yield _ _ => 9
  | .nap _ _ => 10
  | .wake _ _ => 11
  | .rdv _ _ => 12
  | .shflIdx _ _ _ _ _ => 13
  | .shflXor _ _ _ _ _ => 14
  | .shflUp _ _ _ _ _ => 15
  | .shflDn _ _ _ _ _ => 16
  | .voteAll _ _ _ _ => 17
  | .voteAny _ _ _ _ => 18
  | .voteBal _ _ _ _ => 19
  | .matchAny _ _ _ _ => 20
  | .matchAll _ _ _ _ => 21
  | .redxAddI32 _ _ _ _ => 22
  | .redxMinI32 _ _ _ _ => 23
  | .redxMaxI32 _ _ _ _ => 24
  | .redxMinN32 _ _ _ _ => 25
  | .redxMaxN32 _ _ _ _ => 26
  | .redxAnd _ _ _ _ => 27
  | .redxOr _ _ _ _ => 28
  | .redxXor _ _ _ _ => 29
  | .redxFadd _ _ _ _ => 30
  | .redxFmin _ _ _ _ => 31
  | .redxFmax _ _ _ _ => 32
  | .scanxAddI32 _ _ _ _ => 33
  | .scanxFadd _ _ _ _ => 34
  | .tbarSync _ _ => 35
  | .tbarArv _ _ => 36
  | .tbarWait _ _ => 37
  | .tbarRed _ _ _ _ _ _ => 38
  | .gbarSync _ _ => 39
  | .gbarArv _ _ => 40
  | .gbarWait _ _ => 41
  | .gbarRed _ _ _ _ _ _ => 42
  | .fence _ _ => 43
  | .scopeof _ _ _ _ => 44
  | .hwaitF _ _ _ => 45
  | .hwaitE _ _ => 46
  | .hsetFill _ _ => 47
  | .hsetFull _ _ => 48
  | .hsetDrain _ _ => 49
  | .hsetFree _ _ => 50
  | .harm _ _ _ => 51
  | .cont _ _ _ => 52
  | .qpush _ _ _ => 53
  | .qpushD _ _ _ => 54
  | .qpop _ _ _ => 55
  | .qlen _ _ _ => 56
  | .qpushNb _ _ _ _ => 57
  | .qpopNb _ _ _ _ => 58
  | .cvjoin _ _ _ => 59
  | .cvleave _ => 60
  | .cvsetSl _ _ => 61
  | .cvsetLt _ _ => 61
  | .mmaE4e4 _ _ _ _ _ _ _ _ => 0
  | .mmaE4e5 _ _ _ _ _ _ _ _ => 1
  | .mmaE5e4 _ _ _ _ _ _ _ _ => 2
  | .mmaE5e5 _ _ _ _ _ _ _ _ => 3
  | .mmaCb4 _ _ _ _ _ _ _ _ _ => 4
  | .mmaBf16 _ _ _ _ _ _ => 5
  | .mmaF16 _ _ _ _ _ _ => 6
  | .mmaI8 _ _ _ _ _ _ => 7
  | .mzero _ _ => 8
  | .mload _ _ _ _ _ _ _ => 9
  | .mdrain _ _ _ _ _ _ _ _ => 10
  | .mdraina _ _ _ _ _ _ _ => 11
  | .mdrains _ _ _ _ _ _ _ => 12
  | .mgang _ _ => 13
  | .mopf _ => 14
  | .mwait _ => 15
  | .mrel _ => 16
  | .mcb _ _ _ => 17
  | .cpyG2s _ _ _ _ _ _ _ => 0
  | .cpyG2sT8 _ _ _ _ _ _ _ => 1
  | .cpyG2sT16 _ _ _ _ _ _ _ => 2
  | .cpyS2g _ _ _ _ _ _ _ => 3
  | .cpyS2ga _ _ _ _ _ _ _ => 4
  | .cpyG2g _ _ _ _ _ _ _ => 5
  | .cpyMc _ _ _ _ _ _ _ _ => 6
  | .cpyS2s _ _ _ _ _ _ => 7
  | .cpyV2s _ _ _ _ _ _ _ => 8
  | .gtrinv _ _ _ => 9
  | .nmc _ _ _ _ _ => 10
  | .nmwait _ => 11
  | .cpywait _ => 12
  | .pghint _ _ _ _ => 13
  | .trap _ _ => 0
  | .bkpt _ _ => 1
  | .tretRetry _ => 2
  | .tretSkip _ => 2
  | .clock _ _ => 3
  | .gtime _ _ => 4
  | .trace _ _ _ => 5
  | .flags _ _ _ => 6
  | .icinv _ => 7
  | .meetHoldTimeout _ => 0
  | .starvationOverride _ _ => 0
  | .yieldExpiry _ => 0
  | .breakpointHit _ => 0
  | .loadReturn _ => 0
  | .storeQueueDrain _ _ => 0
  | .straitRead _ => 0
  | .straitWrite _ => 0
  | .straitReply _ => 0
  | .atomicService _ => 0
  | .promote _ _ => 0
  | .sfuResult _ => 0
  | .barrierArrivalCounted _ _ _ => 0
  | .slewResume _ _ => 0
  | .matrixEngineOperation _ _ => 0
  | .copyAccept _ => 0
  | .copyPartWritten _ _ _ _ => 0
  | .copyFinish _ => 0
  | .contSpawn _ _ _ _ _ => 0
  | .nmcSend _ => 0
  | .nmStep _ => 0
  | .pageWalk _ _ => 0
  | .pageServiced _ _ _ => 0
  | .pageRefused _ => 0
  | .pageMigration _ _ => 0
  | .tierMigration _ _ _ => 0
  | .queuePerform _ _ => 0
  | .trapEntry _ => 0
  | .teamComplete _ => 0
  | .gridComplete _ => 0
  | .containment _ => 0
  | .scrubPass _ => 0
  | .gridPacket _ _ => 0
  | .waitPacket _ => 0
  | .waitPoll _ => 0
  | .kickPacket _ => 0
  | .teamAdmission _ _ _ => 0
  | .reserving _ _ _ => 0
  | .preemption _ _ _ => 0
  | .restore _ _ _ => 0
  | .stealRequest _ _ => 0
  | .classify _ => 0
  | .thermalMove _ _ _ => 0
  | .powerControl _ _ _ => 0
  | .operatingPointChange _ => 0
  | .convoyLapse _ => 0
  | .graphReplayStart _ => 0
  | .graphNodeFinish _ _ => 0
  | .kick _ _ _ => 0
  | .kstatWrite _ _ => 0
  | .partWrite _ _ => 0
  | .regselWrite _ => 0
  | .lbudgetWrite _ _ => 0
  | .deverrWrite _ => 0
  | .registerWrite _ _ _ => 0
  | .moduleReset => 0
  | .go _ => 0
  | .attgo => 0
  | .attestationReportDone => 0
  | .hostQueuePush _ _ => 0
  | .hostQueuePop _ => 0
  | .hostQueueStatus _ => 0
  | .hostMemAccess _ => 0
  | .bufinv _ => 0
  | .xlatinv _ => 0
  | .ownrec _ => 0
  | .qdesc _ => 0
  | .cadload _ => 0
  | .cadswitch _ => 0
  | .caddrop _ => 0
  | .fmreload _ => 0
  | .fmreply _ => 0
  | .manageUnknown _ => 0
  | .fmTimeout _ _ => 0
  | .debugConfigWrite _ _ _ => 0
  | .debugStop _ _ _ => 0
  | .debugResume _ => 0
  | .debugStep _ _ => 0
  | .pcntClear _ => 0
  | .sample _ _ => 0
  | .linkRequest _ => 0
  | .linkTimeout _ => 0
  | .gateAcknowledgement _ _ => 0

end Sys2Proof.Machine

namespace Sys2Proof

/-- The guard encoding of R88: GK = 0 with GN = 1 is illegal. -/
def guardWf (g : Guard) : Bool := !(g.n && g.k == 0)

/-- A register operand lies below a budget and is aligned (R92). -/
def spanWf (budget : Nat) (s : Machine.Span) : Bool := decide (s.first + s.count ≤ budget) && s.first % s.align == 0

/-- The operand checks of R90 step 5 at a register budget. -/
def operandsWf (budget : Nat) (i : Instr) : Bool :=
  (Machine.uses i).limits && (Machine.uses i).reads.all (spanWf budget) && (Machine.uses i).writes.all (spanWf budget)

end Sys2Proof
end

