-- ==== Sys2Proof/WellFormed.lean ====
section
/-! DEFINITION. Well-formed instructions: what the encoding's limits allow of the fields that the syntax can hold (R88, R92,
R94 to R99). -/

namespace Sys2Proof

/-- A well-formed instruction: a legal guard, immediates within their limits, registers within the largest budget of R23 and
aligned. -/
def wellFormed (i : Instr) : Bool := guardWf (Machine.guardOf i) && operandsWf 128 i

end Sys2Proof
end

