-- ==== Sys2Proof/Decode.lean ====
section
/-! DEFINITION. The decoder and the encoder of instruction words and literals (04_encoding, R83, R88, R91 to R101, R103, R104).
A word takes its class from its clause's header; a marked word after it is its literal. Fields are read and written by plain
arithmetic on numbers. -/

namespace Sys2Proof

/-- Why a word is no instruction (R104): a reserved or service-only opcode, or a nonzero reserved field or an operand outside
the encoding's limits. -/
inductive Reject where
  | opcode | operand
  deriving DecidableEq, Repr

/-- What an opcode's literal rule is (R103): takes none, may take one, requires one; a reserved opcode passes any test (R84). -/
inductive LitRule where
  | none | opt | req | any
  deriving DecidableEq, Repr

/-! ### Fields of a word -/

/-- OP (R88). -/
def fieldOp (w : Nat) : Nat := w / 2 ^ 26 % 2 ^ 6

/-- U (R88). -/
def fieldU (w : Nat) : Bool := w / 2 ^ 25 % 2 == 1

/-- GN and GK (R88). -/
def fieldGuard (w : Nat) : Guard := ⟨w / 2 ^ 24 % 2 == 1, BitVec.ofNat 3 (w / 2 ^ 21)⟩

/-- D, or X1, bits [20:14] (R91). -/
def fieldD (w : Nat) : Reg := BitVec.ofNat 7 (w / 2 ^ 14)

/-- A, or X2, bits [13:7] (R91). -/
def fieldA (w : Nat) : Reg := BitVec.ofNat 7 (w / 2 ^ 7)

/-- B, M, AUX or X3, bits [6:0] (R91). -/
def fieldB (w : Nat) : Reg := BitVec.ofNat 7 w

/-- LA of formats M and S, bits [6:3] (R91). -/
def fieldLA (w : Nat) : BitVec 4 := BitVec.ofNat 4 (w / 2 ^ 3)

/-- BS or SEL, bits [2:0] (R91). -/
def fieldBS (w : Nat) : BitVec 3 := BitVec.ofNat 3 w

/-- HND of format H, bits [13:8] (R91). -/
def fieldH (w : Nat) : BitVec 6 := BitVec.ofNat 6 (w / 2 ^ 8)

/-- The queue of format Q: QHI × 64 + QLO (R91). -/
def fieldQ (w : Nat) : BitVec 8 := BitVec.ofNat 8 (w / 2 ^ 6 % 2 ^ 2 * 2 ^ 6 + w / 2 ^ 8 % 2 ^ 6)

/-- The prefix of a word and the guard and U it carries. -/
structure Prefix where
  g : Guard
  u : Bool
  deriving DecidableEq, Repr

/-- Bits hi to lo of a word are 0. -/
def zeroBits (w hi lo : Nat) : Bool := w / 2 ^ lo % 2 ^ (hi + 1 - lo) == 0

/-- A reader of the rest of a word and its literal. -/
abbrev Reader := Nat → Option Nat → Option Instr

/-- A result when the reserved fields are 0. -/
def keepIf (c : Bool) (i : Instr) : Option Instr := if c then some i else none

/-- An instruction whose U must be 0 (R31). -/
def noU (p : Prefix) (r : Reader) : Reader := fun w l => if p.u then none else r w l

/-! ### Formats (R91, R93 to R99) -/

/-- Format R with a register or a literal for B (R93). -/
def readRSrc (mk : Reg → Reg → Src → Instr) : Reader := fun w l =>
  match l with
  | none => some (mk (fieldD w) (fieldA w) (.reg (fieldB w)))
  | some v => keepIf (zeroBits w 6 0) (mk (fieldD w) (fieldA w) (.lit (word v)))

/-- Format R with three registers. -/
def readR3 (mk : Reg → Reg → Reg → Instr) : Reader := fun w _ => some (mk (fieldD w) (fieldA w) (fieldB w))

/-- Format R with B zero. -/
def readRDA (mk : Reg → Reg → Instr) : Reader := fun w _ => keepIf (zeroBits w 6 0) (mk (fieldD w) (fieldA w))

/-- Format I (R91). -/
def readI (mk : Reg → BitVec 14 → Instr) : Reader := fun w _ => some (mk (fieldD w) (BitVec.ofNat 14 w))

/-- MOVI, with or without its literal (R129). -/
def readMovi (mk : Reg → BitVec 14 → Instr) (mkLit : Reg → Word → Instr) : Reader := fun w l =>
  match l with
  | none => some (mk (fieldD w) (BitVec.ofNat 14 w))
  | some v => keepIf (zeroBits w 13 0) (mkLit (fieldD w) (word v))

/-- Format S with n selector bits (R136 Table 1). -/
def readS0 (mk : Reg → Reg → BitVec 4 → Instr) : Reader := fun w _ =>
  keepIf (zeroBits w 2 0) (mk (fieldD w) (fieldA w) (fieldLA w))
/-- Format S, an element of two. -/
def readS1 (mk : Reg → Reg → BitVec 4 → BitVec 1 → Instr) : Reader := fun w _ =>
  keepIf (zeroBits w 2 1) (mk (fieldD w) (fieldA w) (fieldLA w) (BitVec.ofNat 1 w))
/-- Format S, an element of four. -/
def readS2 (mk : Reg → Reg → BitVec 4 → BitVec 2 → Instr) : Reader := fun w _ =>
  keepIf (zeroBits w 2 2) (mk (fieldD w) (fieldA w) (fieldLA w) (BitVec.ofNat 2 w))
/-- Format S, a codebook slot. -/
def readS3 (mk : Reg → Reg → BitVec 4 → BitVec 3 → Instr) : Reader := fun w _ =>
  some (mk (fieldD w) (fieldA w) (fieldLA w) (fieldBS w))
/-- Format S, no source register (WCLR). -/
def readSD (mk : Reg → BitVec 4 → Instr) : Reader := fun w _ =>
  keepIf (zeroBits w 13 7 && zeroBits w 2 0) (mk (fieldD w) (fieldLA w))

/-- Format M with its optional byte offset (R93). -/
def readM (mk : Reg → Reg → BitVec 4 → BitVec 3 → Option Word → Instr) : Reader := fun w l =>
  some (mk (fieldD w) (fieldA w) (fieldLA w) (fieldBS w) (l.map word))

/-- The ordering literal (R94 Table 5). -/
def readOrdLit (v : Nat) : Option OrdLit :=
  if zeroBits v 3 3 then
    some ⟨BitVec.ofNat 20 (v / 2 ^ 12), v / 2 ^ 11 % 2 == 1, BitVec.ofNat 7 (v / 2 ^ 4), BitVec.ofNat 3 v⟩
  else none

/-- Format M with the ordering literal (R94). -/
def readMOrd (mk : Reg → Reg → BitVec 4 → BitVec 3 → OrdLit → Instr) : Reader := fun w l =>
  (l.bind readOrdLit).map fun o => mk (fieldD w) (fieldA w) (fieldLA w) (fieldBS w) o

/-- Format M, scratchpad: BS is 0 (R103). -/
def readMS (mk : Reg → Reg → BitVec 4 → Option Word → Instr) : Reader := fun w l =>
  keepIf (zeroBits w 2 0) (mk (fieldD w) (fieldA w) (fieldLA w) (l.map word))

/-- SETB: D is 0 (R184). -/
def readSetb (mk : Reg → BitVec 4 → BitVec 3 → Instr) : Reader := fun w _ =>
  keepIf (zeroBits w 20 14) (mk (fieldA w) (fieldLA w) (fieldBS w))
/-- GETB: A is 0 (R184). -/
def readGetb (mk : Reg → BitVec 4 → BitVec 3 → Instr) : Reader := fun w _ =>
  keepIf (zeroBits w 13 7) (mk (fieldD w) (fieldLA w) (fieldBS w))

/-- Format C (R91). -/
def readC (mk : BitVec 21 → Instr) : Reader := fun w _ => some (mk (BitVec.ofNat 21 w))
/-- Format C of CALL (R91). -/
def readCall (mk : Reg → BitVec 14 → Instr) : Reader := fun w _ => some (mk (fieldD w) (BitVec.ofNat 14 w))
/-- One register in A (R101). -/
def readA (mk : Reg → Instr) : Reader := fun w _ => keepIf (zeroBits w 20 14 && zeroBits w 6 0) (mk (fieldA w))
/-- No field (R101). -/
def readNone (i : Instr) : Reader := fun w _ => keepIf (zeroBits w 20 0) i
/-- A count: A, or a literal with A zero (R101). -/
def readCount (mk : Src → Instr) : Reader := fun w l =>
  match l with
  | none => keepIf (zeroBits w 20 14 && zeroBits w 6 0) (mk (.reg (fieldA w)))
  | some v => keepIf (zeroBits w 20 0) (mk (.lit (word v)))
/-- RDV: D and A are 0 (R101). -/
def readRdv (mk : Reg → Instr) : Reader := fun w _ => keepIf (zeroBits w 20 7) (mk (fieldB w))

/-- The X literal (R95 Table 6). -/
def readLaneLit (v : Nat) : Option LaneSrc :=
  if v / 2 ^ 31 % 2 == 1 then (if zeroBits v 30 7 then some (.reg (BitVec.ofNat 7 v)) else none)
  else (if zeroBits v 30 5 then some (.imm (BitVec.ofNat 5 v)) else none)

/-- Format X with its literal (R95). -/
def readXLit (mk : Reg → Reg → Reg → LaneSrc → Instr) : Reader := fun w l =>
  (l.bind readLaneLit).map fun n => mk (fieldD w) (fieldA w) (fieldB w) n

/-- FENCE (R94). -/
def readFence (mk : ScopeSrc → Instr) : Reader := fun w _ =>
  keepIf (zeroBits w 20 14 && zeroBits w 5 3) (mk ⟨fieldA w, w / 2 ^ 6 % 2 == 1, fieldBS w⟩)
/-- SCOPEOF (R101). -/
def readScopeof (mk : Reg → Reg → BitVec 2 → Instr) : Reader := fun w _ =>
  keepIf (zeroBits w 6 2) (mk (fieldD w) (fieldA w) (BitVec.ofNat 2 w))

/-- Format H, the handle alone (R101, R210). -/
def readH (mk : BitVec 6 → Instr) : Reader := fun w _ => keepIf (zeroBits w 20 14 && zeroBits w 7 0) (mk (fieldH w))
/-- HWAIT.F: the handle and PH. -/
def readHPh (mk : BitVec 6 → Bool → Instr) : Reader := fun w _ =>
  keepIf (zeroBits w 20 14 && zeroBits w 6 0) (mk (fieldH w) (w / 2 ^ 7 % 2 == 1))
/-- HARM: the handle and AUX. -/
def readHAux (mk : BitVec 6 → Reg → Instr) : Reader := fun w _ =>
  keepIf (zeroBits w 20 14 && zeroBits w 7 7) (mk (fieldH w) (fieldB w))
/-- CONT: the handle and the literal target (R93). -/
def readHLit (mk : BitVec 6 → Word → Instr) : Reader := fun w l =>
  l.bind fun v => keepIf (zeroBits w 20 14 && zeroBits w 7 0) (mk (fieldH w) (word v))

/-- Format Q (R91). -/
def readQ (mk : Reg → BitVec 8 → Instr) : Reader := fun w _ => keepIf (zeroBits w 5 0) (mk (fieldD w) (fieldQ w))
/-- Format Q with its predicate literal (R97). -/
def readQNb (mk : Reg → BitVec 8 → Reg → Instr) : Reader := fun w l =>
  l.bind fun v => keepIf (zeroBits w 5 0 && zeroBits v 31 7) (mk (fieldD w) (fieldQ w) (BitVec.ofNat 7 v))

/-- A and B alone (CVJOIN). -/
def readAB (mk : Reg → Reg → Instr) : Reader := fun w _ => keepIf (zeroBits w 20 14) (mk (fieldA w) (fieldB w))

/-- Format B of SYNC, ARV and WAIT (R96). -/
def readBar (mk : BitVec 4 → Instr) : Reader := fun w _ => keepIf (zeroBits w 20 4) (mk (BitVec.ofNat 4 w))
/-- Format B of RED, with bit 3 of its code in a literal (R96). -/
def readBarRed (mk : Reg → Reg → BitVec 3 → BitVec 4 → Option Bool → Instr) : Reader := fun w l =>
  match l with
  | none => some (mk (fieldD w) (fieldA w) (BitVec.ofNat 3 (w / 2 ^ 4)) (BitVec.ofNat 4 w) none)
  | some v => keepIf (zeroBits v 31 1)
      (mk (fieldD w) (fieldA w) (BitVec.ofNat 3 (w / 2 ^ 4)) (BitVec.ofNat 4 w) (some (v % 2 == 1)))
/-- CVSET.SL and CVSET.LT share an opcode; B[0] tells them apart (R101). -/
def readCvset (sl lt : Reg → Instr) : Reader := fun w _ =>
  keepIf (zeroBits w 20 14 && zeroBits w 6 1) (if w % 2 == 1 then lt (fieldA w) else sl (fieldA w))

/-! ### The T and K literals (R98 Table 8, R99 Table 10) -/

/-- AFMT of an MLOAD (R98). -/
def readAFmt (v : Nat) : Option AFmt :=
  [AFmt.e4m3, .e5m2, .cb4, .bf16, .f16, .i8][v / 2 ^ 24 % 2 ^ 3]?
/-- CVT of a drain (R98). -/
def readCvt (v : Nat) : Option DrainFmt := [DrainFmt.f32, .bf16, .f16, .e4m3][v / 2 ^ 18 % 2 ^ 3]?
/-- LA of a T or K literal. -/
def litLA (v : Nat) : BitVec 4 := BitVec.ofNat 4 v
/-- TILE of a T literal. -/
def litTile (v : Nat) : BitVec 2 := BitVec.ofNat 2 (v / 2 ^ 4)
/-- SB of a T literal. -/
def litSB (v : Nat) : BitVec 2 := BitVec.ofNat 2 (v / 2 ^ 6)
/-- KEEP of a T literal. -/
def litKeep (v : Nat) : Bool := v / 2 ^ 8 % 2 == 1
/-- BS of a T literal. -/
def litBS (v : Nat) : BitVec 3 := BitVec.ofNat 3 (v / 2 ^ 9)
/-- HND of a T literal. -/
def litH (v : Nat) : BitVec 6 := BitVec.ofNat 6 (v / 2 ^ 12)
/-- KSLOT of a T literal. -/
def litK (v : Nat) : BitVec 3 := BitVec.ofNat 3 (v / 2 ^ 21)
/-- HND of a K literal. -/
def litHK (v : Nat) : BitVec 6 := BitVec.ofNat 6 (v / 2 ^ 4)
/-- BS of a K literal. -/
def litBSK (v : Nat) : BitVec 3 := BitVec.ofNat 3 (v / 2 ^ 10)
/-- CMASK of a K literal. -/
def litCmask (v : Nat) : BitVec 8 := BitVec.ofNat 8 (v / 2 ^ 13)

/-- MMA of a scaled format (R98 Table 9). -/
def readMma (mk : Reg → Reg → Reg → BitVec 2 → BitVec 2 → Bool → BitVec 4 → Instr) : Reader := fun w l =>
  l.bind fun v => keepIf (zeroBits v 31 9)
    (mk (fieldD w) (fieldA w) (fieldB w) (litTile v) (litSB v) (litKeep v) (litLA v))
/-- MMA.CB4, which also names a codebook slot. -/
def readMmaCb (mk : Reg → Reg → Reg → BitVec 2 → BitVec 2 → Bool → BitVec 3 → BitVec 4 → Instr) : Reader := fun w l =>
  l.bind fun v => keepIf (zeroBits v 31 24 && zeroBits v 20 9)
    (mk (fieldD w) (fieldA w) (fieldB w) (litTile v) (litSB v) (litKeep v) (litK v) (litLA v))
/-- MMA of a format without scales: X3 and SB are 0 (R227 Table 2). -/
def readMmaU (mk : Reg → Reg → BitVec 2 → Bool → BitVec 4 → Instr) : Reader := fun w l =>
  l.bind fun v => keepIf (zeroBits w 6 0 && zeroBits v 31 9 && zeroBits v 7 6)
    (mk (fieldD w) (fieldA w) (litTile v) (litKeep v) (litLA v))
/-- MZERO. DESIGN CHOICE (notes/assumptions/113.md): a nonzero LA is refused here, and in GTRINV and PGHINT, as a field that Tables 9 and 11
do not give these instructions (R98, R99), though R100 says that an instruction with no pending destination ignores LA. -/
def readTile (mk : BitVec 2 → Instr) : Reader := fun w l =>
  l.bind fun v => keepIf (zeroBits w 20 0 && zeroBits v 31 6 && zeroBits v 3 0) (mk (litTile v))
/-- MLOAD. -/
def readMload (mk : AFmt → Reg → Reg → BitVec 2 → BitVec 3 → BitVec 4 → Instr) : Reader := fun w l =>
  l.bind fun v => (readAFmt v).bind fun f =>
    keepIf (zeroBits w 13 7 && zeroBits v 31 27 && zeroBits v 20 8 && zeroBits v 5 4)
      (mk f (fieldD w) (fieldB w) (litSB v) (litK v) (litLA v))
/-- MDRAIN. -/
def readMdrain (mk : DrainFmt → BitVec 6 → BitVec 2 → BitVec 3 → Reg → Reg → BitVec 4 → Instr) : Reader := fun w l =>
  l.bind fun v => (readCvt v).bind fun f =>
    keepIf (zeroBits w 20 14 && zeroBits v 31 21 && zeroBits v 8 6)
      (mk f (litH v) (litTile v) (litBS v) (fieldA w) (fieldB w) (litLA v))
/-- MDRAINA: CVT is 0. -/
def readMdraina (mk : BitVec 6 → BitVec 2 → BitVec 3 → Reg → Reg → BitVec 4 → Instr) : Reader := fun w l =>
  l.bind fun v => keepIf (zeroBits w 20 14 && zeroBits v 31 18 && zeroBits v 8 6)
    (mk (litH v) (litTile v) (litBS v) (fieldA w) (fieldB w) (litLA v))
/-- MDRAINS. -/
def readMdrains (mk : DrainFmt → BitVec 6 → BitVec 2 → Reg → Reg → BitVec 4 → Instr) : Reader := fun w l =>
  l.bind fun v => (readCvt v).bind fun f =>
    keepIf (zeroBits w 13 7 && zeroBits v 31 21 && zeroBits v 11 6)
      (mk f (litH v) (litTile v) (fieldD w) (fieldB w) (litLA v))
/-- MGANG: one register in X2, a literal of zeros. -/
def readTX2 (mk : Reg → Instr) : Reader := fun w l =>
  l.bind fun v => keepIf (zeroBits w 20 14 && zeroBits w 6 0 && zeroBits v 31 0) (mk (fieldA w))
/-- MOPF, MWAIT, MREL, NMWAIT and CPYWAIT: no field, a literal of zeros. -/
def readLitNone (i : Instr) : Reader := fun w l =>
  l.bind fun v => keepIf (zeroBits w 20 0 && zeroBits v 31 0) i
/-- MCB. -/
def readMcb (mk : Reg → BitVec 3 → Instr) : Reader := fun w l =>
  l.bind fun v => keepIf (zeroBits w 20 14 && zeroBits w 6 0 && zeroBits v 31 24 && zeroBits v 20 0) (mk (fieldA w) (litK v))

/-- The copies of R99 Table 11 with a record, a layout word or second record, and an origin. -/
def readCpy (mk : BitVec 6 → BitVec 3 → Reg → Reg → Reg → BitVec 4 → Instr) : Reader := fun w l =>
  l.bind fun v => keepIf (zeroBits v 31 13)
    (mk (litHK v) (litBSK v) (fieldD w) (fieldA w) (fieldB w) (litLA v))
/-- CPY.MC. -/
def readCpyMc (mk : BitVec 6 → BitVec 3 → Reg → Reg → Reg → BitVec 8 → BitVec 4 → Instr) : Reader := fun w l =>
  l.bind fun v => keepIf (zeroBits v 31 21)
    (mk (litHK v) (litBSK v) (fieldD w) (fieldA w) (fieldB w) (litCmask v) (litLA v))
/-- CPY.S2S. -/
def readCpyS2s (mk : BitVec 6 → Reg → Reg → Reg → BitVec 4 → Instr) : Reader := fun w l =>
  l.bind fun v => keepIf (zeroBits v 31 10) (mk (litHK v) (fieldD w) (fieldA w) (fieldB w) (litLA v))
/-- GTRINV. -/
def readGtrinv (mk : BitVec 3 → Reg → Instr) : Reader := fun w l =>
  l.bind fun v => keepIf (zeroBits w 20 14 && zeroBits w 6 0 && zeroBits v 31 13 && zeroBits v 9 0) (mk (litBSK v) (fieldA w))
/-- NMC. -/
def readNmc (mk : BitVec 3 → Reg → Reg → BitVec 4 → Instr) : Reader := fun w l =>
  l.bind fun v => keepIf (zeroBits w 6 0 && zeroBits v 31 13 && zeroBits v 9 4)
    (mk (litBSK v) (fieldD w) (fieldA w) (litLA v))
/-- PGHINT. -/
def readPghint (mk : BitVec 3 → Reg → Reg → Instr) : Reader := fun w l =>
  l.bind fun v => keepIf (zeroBits w 20 14 && zeroBits v 31 13 && zeroBits v 9 0) (mk (litBSK v) (fieldA w) (fieldB w))

/-- TRAP and BKPT (R101). -/
def readCode (mk : BitVec 7 → Instr) : Reader := fun w _ => keepIf (zeroBits w 20 7) (mk (fieldB w))
/-- TRET: B[0] is 0 for RETRY and 1 for SKIP (R101). -/
def readTret (retry skip : Instr) : Reader := fun w _ => keepIf (zeroBits w 20 1) (if w % 2 == 1 then skip else retry)
/-- CLOCK and GTIME. -/
def readD (mk : Reg → Instr) : Reader := fun w _ => keepIf (zeroBits w 13 0) (mk (fieldD w))
/-- TRACE. -/
def readTrace (mk : Reg → BitVec 7 → Instr) : Reader := fun w _ => keepIf (zeroBits w 20 14) (mk (fieldA w) (fieldB w))
/-- FLAGS. -/
def readFlags (mk : Reg → BitVec 6 → Instr) : Reader := fun w _ =>
  keepIf (zeroBits w 13 6) (mk (fieldD w) (BitVec.ofNat 6 w))

/-! ### The opcode maps (R103 Tables 14 to 20), in opcode order

Lean's code generator refuses an inductive's constructors beyond the 244th, so what builds an instruction is noncomputable; the
kernel evaluates it. -/

noncomputable section

/-- A row of an opcode map. -/
abbrev Row := Prefix → Reader

/-- Class 0, Table 14: opcodes 0x00 to 0x0F. -/
def aluRows0 : List Row :=
  [fun p => readRSrc (Instr.add p.g p.u),
   fun p => readRSrc (Instr.sub p.g p.u),
   fun p => readRSrc (Instr.mul p.g p.u),
   fun p => readRSrc (Instr.mulhI32 p.g p.u),
   fun p => readRSrc (Instr.mulhN32 p.g p.u),
   fun p => readRSrc (Instr.mad p.g p.u),
   fun p => readRSrc (Instr.madwI32 p.g p.u),
   fun p => readRSrc (Instr.madwN32 p.g p.u),
   fun p => readR3 (Instr.add64 p.g p.u),
   fun p => readR3 (Instr.sub64 p.g p.u),
   fun p => readRSrc (Instr.addsI32 p.g p.u),
   fun p => readRSrc (Instr.subsI32 p.g p.u),
   fun p => readRSrc (Instr.minI32 p.g p.u),
   fun p => readRSrc (Instr.maxI32 p.g p.u),
   fun p => readRSrc (Instr.minN32 p.g p.u),
   fun p => readRSrc (Instr.maxN32 p.g p.u)]

/-- Class 0, Table 14: opcodes 0x10 to 0x1F. -/
def aluRows1 : List Row :=
  [fun p => readRSrc (Instr.and p.g p.u),
   fun p => readRSrc (Instr.or p.g p.u),
   fun p => readRSrc (Instr.xor p.g p.u),
   fun p => readRSrc (Instr.andn p.g p.u),
   fun p => readRSrc (Instr.shl p.g p.u),
   fun p => readRSrc (Instr.shr p.g p.u),
   fun p => readRSrc (Instr.sar p.g p.u),
   fun p => readRDA (Instr.popc p.g p.u),
   fun p => readRDA (Instr.clz p.g p.u),
   fun p => readRDA (Instr.brev p.g p.u),
   fun p => readRSrc (Instr.bfeN32 p.g p.u),
   fun p => readRSrc (Instr.bfeI32 p.g p.u),
   fun p => readRSrc (Instr.bfi p.g p.u),
   fun p => readRSrc (Instr.permb p.g p.u),
   fun p => readRSrc (Instr.dot4I8 p.g p.u),
   fun p => readRSrc (Instr.dot4N8 p.g p.u)]

/-- Class 0, Table 14: opcodes 0x20 to 0x2F. -/
def aluRows2 : List Row :=
  [fun p => readRSrc (Instr.setpEq p.g p.u),
   fun p => readRSrc (Instr.setpNe p.g p.u),
   fun p => readRSrc (Instr.setpLtI32 p.g p.u),
   fun p => readRSrc (Instr.setpLeI32 p.g p.u),
   fun p => readRSrc (Instr.setpLtN32 p.g p.u),
   fun p => readRSrc (Instr.setpLeN32 p.g p.u),
   fun p => readRSrc (Instr.setpEqF32 p.g p.u),
   fun p => readRSrc (Instr.setpNeF32 p.g p.u),
   fun p => readRSrc (Instr.setpLtF32 p.g p.u),
   fun p => readRSrc (Instr.setpLeF32 p.g p.u),
   fun p => readRSrc (Instr.setpUnF32 p.g p.u),
   fun p => readRSrc (Instr.sel p.g p.u),
   fun p => readR3 (Instr.pand p.g p.u),
   fun p => readR3 (Instr.por p.g p.u),
   fun p => readR3 (Instr.pxor p.g p.u),
   fun p => readR3 (Instr.pandn p.g p.u)]

/-- Class 0, Table 14: opcodes 0x30 to 0x3F. -/
def aluRows3 : List Row :=
  [fun p => readRDA (Instr.ppack p.g p.u),
   fun p => readRDA (Instr.punpack p.g p.u),
   fun p => readRDA (Instr.mov p.g p.u),
   fun p => readMovi (Instr.movi p.g p.u) (Instr.moviLiteral p.g p.u),
   fun p => readRSrc (Instr.fadd p.g p.u),
   fun p => readRSrc (Instr.fsub p.g p.u),
   fun p => readRSrc (Instr.fmul p.g p.u),
   fun p => readRSrc (Instr.ffma p.g p.u),
   fun p => readRSrc (Instr.fmin p.g p.u),
   fun p => readRSrc (Instr.fmax p.g p.u),
   fun p => readRSrc (Instr.hfma2 p.g p.u),
   fun p => readRSrc (Instr.hadd2 p.g p.u),
   fun p => readRSrc (Instr.hmul2 p.g p.u),
   fun p => readRSrc (Instr.bfma2 p.g p.u),
   fun p => readI (Instr.movs p.g p.u),
   fun p => readI (Instr.movsw p.g p.u)]

/-- Class 0, Table 14. -/
def aluRows : List Row := aluRows0 ++ aluRows1 ++ aluRows2 ++ aluRows3

/-- Class 1, Table 16: opcodes 0x00 to 0x0F. -/
def memRows0 : List Row :=
  [fun p => readM (Instr.ldN8 p.g p.u),
   fun p => readM (Instr.ldI8 p.g p.u),
   fun p => readM (Instr.ldN16 p.g p.u),
   fun p => readM (Instr.ldI16 p.g p.u),
   fun p => readM (Instr.ldW p.g p.u),
   fun p => readM (Instr.ldD p.g p.u),
   fun p => readM (Instr.ldQ p.g p.u),
   fun p => readM (Instr.ldO p.g p.u),
   fun p => noU p (readM (Instr.stB p.g)),
   fun p => noU p (readM (Instr.stH p.g)),
   fun p => noU p (readM (Instr.stW p.g)),
   fun p => noU p (readM (Instr.stD p.g)),
   fun p => noU p (readM (Instr.stQ p.g)),
   fun p => noU p (readM (Instr.stO p.g)),
   fun p => readMOrd (Instr.ldaW p.g p.u),
   fun p => readMOrd (Instr.ldaD p.g p.u)]

/-- Class 1, Table 16: opcodes 0x10 to 0x1F. -/
def memRows1 : List Row :=
  [fun p => readMOrd (Instr.ldapW p.g p.u),
   fun p => noU p (readMOrd (Instr.stlW p.g)),
   fun p => noU p (readMOrd (Instr.stlD p.g)),
   fun p => readM (Instr.ldcW p.g p.u),
   fun p => readM (Instr.ldcD p.g p.u),
   fun p => readM (Instr.ldvW p.g p.u),
   fun p => readM (Instr.ldvD p.g p.u),
   fun p => readM (Instr.ldvQ p.g p.u),
   fun p => readM (Instr.ldvO p.g p.u),
   fun p => readMS (Instr.ldsW p.g p.u),
   fun p => readMS (Instr.ldsD p.g p.u),
   fun p => readMS (Instr.ldsQ p.g p.u),
   fun p => readMS (Instr.ldsO p.g p.u),
   fun p => noU p (readMS (Instr.stsW p.g)),
   fun p => noU p (readMS (Instr.stsD p.g)),
   fun p => noU p (readMS (Instr.stsQ p.g))]

/-- Class 1, Table 16: opcodes 0x20 to 0x2F. -/
def memRows2 : List Row :=
  [fun p => noU p (readMS (Instr.stsO p.g)),
   fun p => readMS (Instr.ldfragN p.g p.u),
   fun p => readMS (Instr.ldfragT8 p.g p.u),
   fun p => readMS (Instr.ldfragT16 p.g p.u),
   fun p => noU p (readM (Instr.atomAdd p.g)),
   fun p => noU p (readM (Instr.atomMinI32 p.g)),
   fun p => noU p (readM (Instr.atomMaxI32 p.g)),
   fun p => noU p (readM (Instr.atomMinN32 p.g)),
   fun p => noU p (readM (Instr.atomMaxN32 p.g)),
   fun p => noU p (readM (Instr.atomAnd p.g)),
   fun p => noU p (readM (Instr.atomOr p.g)),
   fun p => noU p (readM (Instr.atomXor p.g)),
   fun p => noU p (readM (Instr.atomXchg p.g)),
   fun p => noU p (readM (Instr.atomCas p.g)),
   fun p => noU p (readM (Instr.atomIncw p.g)),
   fun p => noU p (readM (Instr.atomAdd64 p.g))]

/-- Class 1, Table 16: opcodes 0x30 to 0x3C. -/
def memRows3 : List Row :=
  [fun p => noU p (readM (Instr.atomCas64 p.g)),
   fun p => noU p (readM (Instr.atomFadd p.g)),
   fun p => noU p (readM (Instr.atomWrd p.g)),
   fun p => noU p (readM (Instr.redAdd p.g)),
   fun p => noU p (readM (Instr.redFadd p.g)),
   fun p => noU p (readM (Instr.redWadd p.g)),
   fun p => noU p (readM (Instr.redMaxI32 p.g)),
   fun p => noU p (readMS (Instr.atomsAdd p.g)),
   fun p => noU p (readMS (Instr.atomsCas p.g)),
   fun p => noU p (readMS (Instr.atomsMaxN32 p.g)),
   fun p => noU p (readMS (Instr.atomsXchg p.g)),
   fun p => noU p (readSetb (Instr.setb p.g)),
   fun p => noU p (readGetb (Instr.getb p.g))]

/-- Class 1, Table 16. -/
def memRows : List Row := memRows0 ++ memRows1 ++ memRows2 ++ memRows3

/-- Class 2, Table 18: opcodes 0x00 to 0x0F. -/
def matrixRows0 : List Row :=
  [fun p => noU p (readMma (Instr.mmaE4e4 p.g)),
   fun p => noU p (readMma (Instr.mmaE4e5 p.g)),
   fun p => noU p (readMma (Instr.mmaE5e4 p.g)),
   fun p => noU p (readMma (Instr.mmaE5e5 p.g)),
   fun p => noU p (readMmaCb (Instr.mmaCb4 p.g)),
   fun p => noU p (readMmaU (Instr.mmaBf16 p.g)),
   fun p => noU p (readMmaU (Instr.mmaF16 p.g)),
   fun p => noU p (readMmaU (Instr.mmaI8 p.g)),
   fun p => noU p (readTile (Instr.mzero p.g)),
   fun p => noU p (readMload (Instr.mload p.g)),
   fun p => noU p (readMdrain (Instr.mdrain p.g)),
   fun p => noU p (readMdraina (Instr.mdraina p.g)),
   fun p => noU p (readMdrains (Instr.mdrains p.g)),
   fun p => noU p (readTX2 (Instr.mgang p.g)),
   fun p => noU p (readLitNone (Instr.mopf p.g)),
   fun p => noU p (readLitNone (Instr.mwait p.g))]

/-- Class 2, Table 18: opcodes 0x10 to 0x11. -/
def matrixRows1 : List Row :=
  [fun p => noU p (readLitNone (Instr.mrel p.g)),
   fun p => noU p (readMcb (Instr.mcb p.g))]

/-- Class 2, Table 18. -/
def matrixRows : List Row := matrixRows0 ++ matrixRows1

/-- Class 3, Table 19: opcodes 0x00 to 0x0D. -/
def copyRows0 : List Row :=
  [fun p => noU p (readCpy (Instr.cpyG2s p.g)),
   fun p => noU p (readCpy (Instr.cpyG2sT8 p.g)),
   fun p => noU p (readCpy (Instr.cpyG2sT16 p.g)),
   fun p => noU p (readCpy (Instr.cpyS2g p.g)),
   fun p => noU p (readCpy (Instr.cpyS2ga p.g)),
   fun p => noU p (readCpy (Instr.cpyG2g p.g)),
   fun p => noU p (readCpyMc (Instr.cpyMc p.g)),
   fun p => noU p (readCpyS2s (Instr.cpyS2s p.g)),
   fun p => noU p (readCpy (Instr.cpyV2s p.g)),
   fun p => noU p (readGtrinv (Instr.gtrinv p.g)),
   fun p => noU p (readNmc (Instr.nmc p.g)),
   fun p => noU p (readLitNone (Instr.nmwait p.g)),
   fun p => noU p (readLitNone (Instr.cpywait p.g)),
   fun p => noU p (readPghint (Instr.pghint p.g))]

/-- Class 3, Table 19. -/
def copyRows : List Row := copyRows0

/-- Class 4, Table 17: opcodes 0x00 to 0x0F. -/
def ctrlRows0 : List Row :=
  [fun p => noU p (readC (Instr.bra p.g)),
   fun p => noU p (readA (Instr.brx p.g)),
   fun p => noU p (readCall (Instr.call p.g)),
   fun p => noU p (readRDA (Instr.callx p.g)),
   fun p => noU p (readA (Instr.ret p.g)),
   fun p => noU p (readNone (Instr.exit p.g)),
   fun p => noU p (readC (Instr.setm p.g)),
   fun p => noU p (readA (Instr.setmx p.g)),
   fun p => noU p (readNone (Instr.clrm p.g)),
   fun p => noU p (readCount (Instr.yield p.g)),
   fun p => noU p (readCount (Instr.nap p.g)),
   fun p => noU p (readA (Instr.wake p.g)),
   fun p => noU p (readRdv (Instr.rdv p.g)),
   fun p => noU p (readXLit (Instr.shflIdx p.g)),
   fun p => noU p (readXLit (Instr.shflXor p.g)),
   fun p => noU p (readXLit (Instr.shflUp p.g))]

/-- Class 4, Table 17: opcodes 0x10 to 0x1F. -/
def ctrlRows1 : List Row :=
  [fun p => noU p (readXLit (Instr.shflDn p.g)),
   fun p => noU p (readR3 (Instr.voteAll p.g)),
   fun p => noU p (readR3 (Instr.voteAny p.g)),
   fun p => noU p (readR3 (Instr.voteBal p.g)),
   fun p => noU p (readR3 (Instr.matchAny p.g)),
   fun p => noU p (readR3 (Instr.matchAll p.g)),
   fun p => noU p (readR3 (Instr.redxAddI32 p.g)),
   fun p => noU p (readR3 (Instr.redxMinI32 p.g)),
   fun p => noU p (readR3 (Instr.redxMaxI32 p.g)),
   fun p => noU p (readR3 (Instr.redxMinN32 p.g)),
   fun p => noU p (readR3 (Instr.redxMaxN32 p.g)),
   fun p => noU p (readR3 (Instr.redxAnd p.g)),
   fun p => noU p (readR3 (Instr.redxOr p.g)),
   fun p => noU p (readR3 (Instr.redxXor p.g)),
   fun p => noU p (readR3 (Instr.redxFadd p.g)),
   fun p => noU p (readR3 (Instr.redxFmin p.g))]

/-- Class 4, Table 17: opcodes 0x20 to 0x2F. -/
def ctrlRows2 : List Row :=
  [fun p => noU p (readR3 (Instr.redxFmax p.g)),
   fun p => noU p (readR3 (Instr.scanxAddI32 p.g)),
   fun p => noU p (readR3 (Instr.scanxFadd p.g)),
   fun p => noU p (readBar (Instr.tbarSync p.g)),
   fun p => noU p (readBar (Instr.tbarArv p.g)),
   fun p => noU p (readBar (Instr.tbarWait p.g)),
   fun p => noU p (readBarRed (Instr.tbarRed p.g)),
   fun p => noU p (readBar (Instr.gbarSync p.g)),
   fun p => noU p (readBar (Instr.gbarArv p.g)),
   fun p => noU p (readBar (Instr.gbarWait p.g)),
   fun p => noU p (readBarRed (Instr.gbarRed p.g)),
   fun p => noU p (readFence (Instr.fence p.g)),
   fun p => noU p (readScopeof (Instr.scopeof p.g)),
   fun p => noU p (readHPh (Instr.hwaitF p.g)),
   fun p => noU p (readH (Instr.hwaitE p.g)),
   fun p => noU p (readH (Instr.hsetFill p.g))]

/-- Class 4, Table 17: opcodes 0x30 to 0x3D. -/
def ctrlRows3 : List Row :=
  [fun p => noU p (readH (Instr.hsetFull p.g)),
   fun p => noU p (readH (Instr.hsetDrain p.g)),
   fun p => noU p (readH (Instr.hsetFree p.g)),
   fun p => noU p (readHAux (Instr.harm p.g)),
   fun p => noU p (readHLit (Instr.cont p.g)),
   fun p => noU p (readQ (Instr.qpush p.g)),
   fun p => noU p (readQ (Instr.qpushD p.g)),
   fun p => noU p (readQ (Instr.qpop p.g)),
   fun p => noU p (readQ (Instr.qlen p.g)),
   fun p => noU p (readQNb (Instr.qpushNb p.g)),
   fun p => noU p (readQNb (Instr.qpopNb p.g)),
   fun p => noU p (readAB (Instr.cvjoin p.g)),
   fun p => noU p (readNone (Instr.cvleave p.g)),
   fun p => noU p (readCvset (Instr.cvsetSl p.g) (Instr.cvsetLt p.g))]

/-- Class 4, Table 17. -/
def ctrlRows : List Row := ctrlRows0 ++ ctrlRows1 ++ ctrlRows2 ++ ctrlRows3

/-- Class 5, Table 15: opcodes 0x00 to 0x0F. -/
def sfuRows0 : List Row :=
  [fun p => readS0 (Instr.cvtF32I32 p.g p.u),
   fun p => readS0 (Instr.cvtF32N32 p.g p.u),
   fun p => readS0 (Instr.cvtI32F32 p.g p.u),
   fun p => readS0 (Instr.cvtN32F32 p.g p.u),
   fun p => readS0 (Instr.cvtF16F32 p.g p.u),
   fun p => readS0 (Instr.cvtBf16F32 p.g p.u),
   fun p => readS0 (Instr.cvtE4m3F32 p.g p.u),
   fun p => readS0 (Instr.cvtE5m2F32 p.g p.u),
   fun p => readS1 (Instr.cvtF32F16 p.g p.u),
   fun p => readS1 (Instr.cvtF32Bf16 p.g p.u),
   fun p => readS2 (Instr.cvtF32E4m3 p.g p.u),
   fun p => readS2 (Instr.cvtF32E5m2 p.g p.u),
   fun p => readS3 (Instr.unpk8Cb4 p.g p.u),
   fun p => readS3 (Instr.qntCb4 p.g p.u),
   fun p => readS0 (Instr.pk4E4m3 p.g p.u),
   fun p => readS0 (Instr.pk4E5m2 p.g p.u)]

/-- Class 5, Table 15: opcodes 0x10 to 0x1F. -/
def sfuRows1 : List Row :=
  [fun p => readS0 (Instr.unpk4E4m3 p.g p.u),
   fun p => readS0 (Instr.unpk4E5m2 p.g p.u),
   fun p => readS0 (Instr.pk2Bf16 p.g p.u),
   fun p => readS0 (Instr.pk2F16 p.g p.u),
   fun p => readS0 (Instr.rcpF32 p.g p.u),
   fun p => readS0 (Instr.rsqF32 p.g p.u),
   fun p => readS0 (Instr.sqrtF32 p.g p.u),
   fun p => readS0 (Instr.divF32 p.g p.u),
   fun p => readS0 (Instr.exp2F32 p.g p.u),
   fun p => readS0 (Instr.log2F32 p.g p.u),
   fun p => readS0 (Instr.sintF32 p.g p.u),
   fun p => readS0 (Instr.costF32 p.g p.u),
   fun p => readS0 (Instr.tanhF32 p.g p.u),
   fun p => readS0 (Instr.sigmF32 p.g p.u),
   fun p => readS0 (Instr.floorF32 p.g p.u),
   fun p => readS0 (Instr.ceilF32 p.g p.u)]

/-- Class 5, Table 15: opcodes 0x20 to 0x27. -/
def sfuRows2 : List Row :=
  [fun p => readS0 (Instr.truncF32 p.g p.u),
   fun p => readS0 (Instr.rintF32 p.g p.u),
   fun p => readS0 (Instr.classF32 p.g p.u),
   fun p => readS0 (Instr.wadd p.g p.u),
   fun p => readS0 (Instr.wrnd p.g p.u),
   fun p => readSD (Instr.wclr p.g p.u),
   fun p => readS2 (Instr.cvtF32I8 p.g p.u),
   fun p => readS0 (Instr.cvtI8F32 p.g p.u)]

/-- Class 5, Table 15. -/
def sfuRows : List Row := sfuRows0 ++ sfuRows1 ++ sfuRows2

/-- Class 6, Table 20: opcodes 0x00 to 0x07. -/
def sysRows0 : List Row :=
  [fun p => noU p (readCode (Instr.trap p.g)),
   fun p => noU p (readCode (Instr.bkpt p.g)),
   fun p => noU p (readTret (Instr.tretRetry p.g) (Instr.tretSkip p.g)),
   fun p => noU p (readD (Instr.clock p.g)),
   fun p => noU p (readD (Instr.gtime p.g)),
   fun p => noU p (readTrace (Instr.trace p.g)),
   fun p => noU p (readFlags (Instr.flags p.g)),
   fun p => noU p (readNone (Instr.icinv p.g))]

/-- Class 6, Table 20. -/
def sysRows : List Row := sysRows0

/-- The opcode map of a class. -/
def classRows : Nat → List Row
  | 0 => aluRows
  | 1 => memRows
  | 2 => matrixRows
  | 3 => copyRows
  | 4 => ctrlRows
  | 5 => sfuRows
  | 6 => sysRows
  | _ => []

/-- The literal rule of an opcode of a class (R103, R84). -/
def litRule (cls op : Nat) : LitRule :=
  match cls with
  | 0 => if (8 ≤ op && op ≤ 9) || (23 ≤ op && op ≤ 25) || (44 ≤ op && op ≤ 50) || (62 ≤ op && op ≤ 63) then .none else .opt
  | 1 => if 61 ≤ op then .any else if (59 ≤ op && op ≤ 60) then .none else if (14 ≤ op && op ≤ 18) then .req else .opt
  | 2 => if 18 ≤ op then .any else .req
  | 3 => if 14 ≤ op then .any else .req
  | 4 => if 62 ≤ op then .any else if (9 ≤ op && op ≤ 10) || op == 38 || op == 42 then .opt else if (13 ≤ op && op ≤ 16) || op == 52 || (57 ≤ op && op ≤ 58) then .req else .none
  | 5 => if 40 ≤ op then .any else .none
  | 6 => if 8 ≤ op then .any else .none
  | _ => .any

/-- Whether a marked word may or must follow (R84). -/
def litOk (cls op : Nat) (marked : Bool) : Bool :=
  match litRule cls op with
  | .none => !marked
  | .req => marked
  | .opt => true
  | .any => true

/-- The decoder: the instruction that a word and its literal hold in a clause of a class, or why they hold none. -/
def decode (cls w : Nat) (lit : Option Nat) : Except Reject Instr :=
  match (classRows cls)[fieldOp w]? with
  | none => .error .opcode
  | some r =>
    match r ⟨fieldGuard w, fieldU w⟩ w lit with
    | none => .error .operand
    | some i => .ok i

/-! ### The encoder -/

/-- The prefix bits of a word (R88). -/
def prefixBits (op : Nat) (g : Guard) (u : Bool) : Nat :=
  op * 2 ^ 26 + boolNat u * 2 ^ 25 + boolNat g.n * 2 ^ 24 + g.k.toNat * 2 ^ 21

/-- The three 7-bit fields of a word (R91). -/
def dab (d a b : Nat) : Nat := d * 2 ^ 14 + a * 2 ^ 7 + b

/-- The B field and literal of an optional literal operand (R93). -/
def srcB : Src → Nat
  | .reg r => r.toNat
  | .lit _ => 0
/-- The literal of an optional literal operand. -/
def srcLit : Src → Option Nat
  | .reg _ => none
  | .lit w => some w.toNat

/-- The ordering literal (R94 Table 5). -/
def ordBits (o : OrdLit) : Nat :=
  o.ofs.toNat * 2 ^ 12 + boolNat o.sfr * 2 ^ 11 + o.scr.toNat * 2 ^ 4 + o.sci.toNat

/-- The X literal (R95 Table 6). -/
def laneBits : LaneSrc → Nat
  | .imm n => n.toNat
  | .reg r => 2 ^ 31 + r.toNat

/-- The code of an A format (R98). -/
def afmtCode : AFmt → Nat
  | .e4m3 => 0 | .e5m2 => 1 | .cb4 => 2 | .bf16 => 3 | .f16 => 4 | .i8 => 5
/-- The code of a drain format (R98). -/
def cvtCode : DrainFmt → Nat
  | .f32 => 0 | .bf16 => 1 | .f16 => 2 | .e4m3 => 3

/-- The queue field bits [13:6] (R91). -/
def queueBits (q : BitVec 8) : Nat := q.toNat % 2 ^ 6 * 2 ^ 8 + q.toNat / 2 ^ 6 * 2 ^ 6

/-- The T literal (R98 Table 8). -/
def tLit (afmt kslot cvt h bs keep sb tile la : Nat) : Nat :=
  afmt * 2 ^ 24 + kslot * 2 ^ 21 + cvt * 2 ^ 18 + h * 2 ^ 12 + bs * 2 ^ 9 + keep * 2 ^ 8 + sb * 2 ^ 6 + tile * 2 ^ 4 + la

/-- The K literal (R99 Table 10). -/
def kLit (cmask bs h la : Nat) : Nat := cmask * 2 ^ 13 + bs * 2 ^ 10 + h * 2 ^ 4 + la

/-- The words of an instruction: its class, its word and its literal. -/
structure Words where
  cls : Nat
  w : Nat
  lit : Option Nat
  deriving DecidableEq, Repr

/-- The encoder: the class, word and literal of an instruction; a device step has none. -/
def encode : Instr → Option Words
  | .add g u d a b => some ⟨0, prefixBits 0 g u + dab d.toNat a.toNat (srcB b), srcLit b⟩
  | .sub g u d a b => some ⟨0, prefixBits 1 g u + dab d.toNat a.toNat (srcB b), srcLit b⟩
  | .mul g u d a b => some ⟨0, prefixBits 2 g u + dab d.toNat a.toNat (srcB b), srcLit b⟩
  | .mulhI32 g u d a b => some ⟨0, prefixBits 3 g u + dab d.toNat a.toNat (srcB b), srcLit b⟩
  | .mulhN32 g u d a b => some ⟨0, prefixBits 4 g u + dab d.toNat a.toNat (srcB b), srcLit b⟩
  | .mad g u d a b => some ⟨0, prefixBits 5 g u + dab d.toNat a.toNat (srcB b), srcLit b⟩
  | .madwI32 g u d a b => some ⟨0, prefixBits 6 g u + dab d.toNat a.toNat (srcB b), srcLit b⟩
  | .madwN32 g u d a b => some ⟨0, prefixBits 7 g u + dab d.toNat a.toNat (srcB b), srcLit b⟩
  | .add64 g u d a b => some ⟨0, prefixBits 8 g u + dab d.toNat a.toNat b.toNat, none⟩
  | .sub64 g u d a b => some ⟨0, prefixBits 9 g u + dab d.toNat a.toNat b.toNat, none⟩
  | .addsI32 g u d a b => some ⟨0, prefixBits 10 g u + dab d.toNat a.toNat (srcB b), srcLit b⟩
  | .subsI32 g u d a b => some ⟨0, prefixBits 11 g u + dab d.toNat a.toNat (srcB b), srcLit b⟩
  | .minI32 g u d a b => some ⟨0, prefixBits 12 g u + dab d.toNat a.toNat (srcB b), srcLit b⟩
  | .maxI32 g u d a b => some ⟨0, prefixBits 13 g u + dab d.toNat a.toNat (srcB b), srcLit b⟩
  | .minN32 g u d a b => some ⟨0, prefixBits 14 g u + dab d.toNat a.toNat (srcB b), srcLit b⟩
  | .maxN32 g u d a b => some ⟨0, prefixBits 15 g u + dab d.toNat a.toNat (srcB b), srcLit b⟩
  | .and g u d a b => some ⟨0, prefixBits 16 g u + dab d.toNat a.toNat (srcB b), srcLit b⟩
  | .or g u d a b => some ⟨0, prefixBits 17 g u + dab d.toNat a.toNat (srcB b), srcLit b⟩
  | .xor g u d a b => some ⟨0, prefixBits 18 g u + dab d.toNat a.toNat (srcB b), srcLit b⟩
  | .andn g u d a b => some ⟨0, prefixBits 19 g u + dab d.toNat a.toNat (srcB b), srcLit b⟩
  | .shl g u d a b => some ⟨0, prefixBits 20 g u + dab d.toNat a.toNat (srcB b), srcLit b⟩
  | .shr g u d a b => some ⟨0, prefixBits 21 g u + dab d.toNat a.toNat (srcB b), srcLit b⟩
  | .sar g u d a b => some ⟨0, prefixBits 22 g u + dab d.toNat a.toNat (srcB b), srcLit b⟩
  | .popc g u d a => some ⟨0, prefixBits 23 g u + dab d.toNat a.toNat 0, none⟩
  | .clz g u d a => some ⟨0, prefixBits 24 g u + dab d.toNat a.toNat 0, none⟩
  | .brev g u d a => some ⟨0, prefixBits 25 g u + dab d.toNat a.toNat 0, none⟩
  | .bfeN32 g u d a b => some ⟨0, prefixBits 26 g u + dab d.toNat a.toNat (srcB b), srcLit b⟩
  | .bfeI32 g u d a b => some ⟨0, prefixBits 27 g u + dab d.toNat a.toNat (srcB b), srcLit b⟩
  | .bfi g u d a b => some ⟨0, prefixBits 28 g u + dab d.toNat a.toNat (srcB b), srcLit b⟩
  | .permb g u d a b => some ⟨0, prefixBits 29 g u + dab d.toNat a.toNat (srcB b), srcLit b⟩
  | .dot4I8 g u d a b => some ⟨0, prefixBits 30 g u + dab d.toNat a.toNat (srcB b), srcLit b⟩
  | .dot4N8 g u d a b => some ⟨0, prefixBits 31 g u + dab d.toNat a.toNat (srcB b), srcLit b⟩
  | .setpEq g u d a b => some ⟨0, prefixBits 32 g u + dab d.toNat a.toNat (srcB b), srcLit b⟩
  | .setpNe g u d a b => some ⟨0, prefixBits 33 g u + dab d.toNat a.toNat (srcB b), srcLit b⟩
  | .setpLtI32 g u d a b => some ⟨0, prefixBits 34 g u + dab d.toNat a.toNat (srcB b), srcLit b⟩
  | .setpLeI32 g u d a b => some ⟨0, prefixBits 35 g u + dab d.toNat a.toNat (srcB b), srcLit b⟩
  | .setpLtN32 g u d a b => some ⟨0, prefixBits 36 g u + dab d.toNat a.toNat (srcB b), srcLit b⟩
  | .setpLeN32 g u d a b => some ⟨0, prefixBits 37 g u + dab d.toNat a.toNat (srcB b), srcLit b⟩
  | .setpEqF32 g u d a b => some ⟨0, prefixBits 38 g u + dab d.toNat a.toNat (srcB b), srcLit b⟩
  | .setpNeF32 g u d a b => some ⟨0, prefixBits 39 g u + dab d.toNat a.toNat (srcB b), srcLit b⟩
  | .setpLtF32 g u d a b => some ⟨0, prefixBits 40 g u + dab d.toNat a.toNat (srcB b), srcLit b⟩
  | .setpLeF32 g u d a b => some ⟨0, prefixBits 41 g u + dab d.toNat a.toNat (srcB b), srcLit b⟩
  | .setpUnF32 g u d a b => some ⟨0, prefixBits 42 g u + dab d.toNat a.toNat (srcB b), srcLit b⟩
  | .sel g u d a b => some ⟨0, prefixBits 43 g u + dab d.toNat a.toNat (srcB b), srcLit b⟩
  | .pand g u d a b => some ⟨0, prefixBits 44 g u + dab d.toNat a.toNat b.toNat, none⟩
  | .por g u d a b => some ⟨0, prefixBits 45 g u + dab d.toNat a.toNat b.toNat, none⟩
  | .pxor g u d a b => some ⟨0, prefixBits 46 g u + dab d.toNat a.toNat b.toNat, none⟩
  | .pandn g u d a b => some ⟨0, prefixBits 47 g u + dab d.toNat a.toNat b.toNat, none⟩
  | .ppack g u d a => some ⟨0, prefixBits 48 g u + dab d.toNat a.toNat 0, none⟩
  | .punpack g u d a => some ⟨0, prefixBits 49 g u + dab d.toNat a.toNat 0, none⟩
  | .mov g u d a => some ⟨0, prefixBits 50 g u + dab d.toNat a.toNat 0, none⟩
  | .movi g u d imm => some ⟨0, prefixBits 51 g u + (d.toNat * 2 ^ 14 + imm.toNat), none⟩
  | .moviLiteral g u d w => some ⟨0, prefixBits 51 g u + d.toNat * 2 ^ 14, some w.toNat⟩
  | .fadd g u d a b => some ⟨0, prefixBits 52 g u + dab d.toNat a.toNat (srcB b), srcLit b⟩
  | .fsub g u d a b => some ⟨0, prefixBits 53 g u + dab d.toNat a.toNat (srcB b), srcLit b⟩
  | .fmul g u d a b => some ⟨0, prefixBits 54 g u + dab d.toNat a.toNat (srcB b), srcLit b⟩
  | .ffma g u d a b => some ⟨0, prefixBits 55 g u + dab d.toNat a.toNat (srcB b), srcLit b⟩
  | .fmin g u d a b => some ⟨0, prefixBits 56 g u + dab d.toNat a.toNat (srcB b), srcLit b⟩
  | .fmax g u d a b => some ⟨0, prefixBits 57 g u + dab d.toNat a.toNat (srcB b), srcLit b⟩
  | .hfma2 g u d a b => some ⟨0, prefixBits 58 g u + dab d.toNat a.toNat (srcB b), srcLit b⟩
  | .hadd2 g u d a b => some ⟨0, prefixBits 59 g u + dab d.toNat a.toNat (srcB b), srcLit b⟩
  | .hmul2 g u d a b => some ⟨0, prefixBits 60 g u + dab d.toNat a.toNat (srcB b), srcLit b⟩
  | .bfma2 g u d a b => some ⟨0, prefixBits 61 g u + dab d.toNat a.toNat (srcB b), srcLit b⟩
  | .movs g u d sr => some ⟨0, prefixBits 62 g u + (d.toNat * 2 ^ 14 + sr.toNat), none⟩
  | .movsw g u d sr => some ⟨0, prefixBits 63 g u + (d.toNat * 2 ^ 14 + sr.toNat), none⟩
  | .cvtF32I32 g u d a la => some ⟨5, prefixBits 0 g u + dab d.toNat a.toNat (la.toNat * 8), none⟩
  | .cvtF32N32 g u d a la => some ⟨5, prefixBits 1 g u + dab d.toNat a.toNat (la.toNat * 8), none⟩
  | .cvtI32F32 g u d a la => some ⟨5, prefixBits 2 g u + dab d.toNat a.toNat (la.toNat * 8), none⟩
  | .cvtN32F32 g u d a la => some ⟨5, prefixBits 3 g u + dab d.toNat a.toNat (la.toNat * 8), none⟩
  | .cvtF16F32 g u d a la => some ⟨5, prefixBits 4 g u + dab d.toNat a.toNat (la.toNat * 8), none⟩
  | .cvtBf16F32 g u d a la => some ⟨5, prefixBits 5 g u + dab d.toNat a.toNat (la.toNat * 8), none⟩
  | .cvtE4m3F32 g u d a la => some ⟨5, prefixBits 6 g u + dab d.toNat a.toNat (la.toNat * 8), none⟩
  | .cvtE5m2F32 g u d a la => some ⟨5, prefixBits 7 g u + dab d.toNat a.toNat (la.toNat * 8), none⟩
  | .cvtF32F16 g u d a la sel => some ⟨5, prefixBits 8 g u + dab d.toNat a.toNat (la.toNat * 8 + sel.toNat), none⟩
  | .cvtF32Bf16 g u d a la sel => some ⟨5, prefixBits 9 g u + dab d.toNat a.toNat (la.toNat * 8 + sel.toNat), none⟩
  | .cvtF32E4m3 g u d a la sel => some ⟨5, prefixBits 10 g u + dab d.toNat a.toNat (la.toNat * 8 + sel.toNat), none⟩
  | .cvtF32E5m2 g u d a la sel => some ⟨5, prefixBits 11 g u + dab d.toNat a.toNat (la.toNat * 8 + sel.toNat), none⟩
  | .unpk8Cb4 g u d a la sel => some ⟨5, prefixBits 12 g u + dab d.toNat a.toNat (la.toNat * 8 + sel.toNat), none⟩
  | .qntCb4 g u d a la sel => some ⟨5, prefixBits 13 g u + dab d.toNat a.toNat (la.toNat * 8 + sel.toNat), none⟩
  | .pk4E4m3 g u d a la => some ⟨5, prefixBits 14 g u + dab d.toNat a.toNat (la.toNat * 8), none⟩
  | .pk4E5m2 g u d a la => some ⟨5, prefixBits 15 g u + dab d.toNat a.toNat (la.toNat * 8), none⟩
  | .unpk4E4m3 g u d a la => some ⟨5, prefixBits 16 g u + dab d.toNat a.toNat (la.toNat * 8), none⟩
  | .unpk4E5m2 g u d a la => some ⟨5, prefixBits 17 g u + dab d.toNat a.toNat (la.toNat * 8), none⟩
  | .pk2Bf16 g u d a la => some ⟨5, prefixBits 18 g u + dab d.toNat a.toNat (la.toNat * 8), none⟩
  | .pk2F16 g u d a la => some ⟨5, prefixBits 19 g u + dab d.toNat a.toNat (la.toNat * 8), none⟩
  | .rcpF32 g u d a la => some ⟨5, prefixBits 20 g u + dab d.toNat a.toNat (la.toNat * 8), none⟩
  | .rsqF32 g u d a la => some ⟨5, prefixBits 21 g u + dab d.toNat a.toNat (la.toNat * 8), none⟩
  | .sqrtF32 g u d a la => some ⟨5, prefixBits 22 g u + dab d.toNat a.toNat (la.toNat * 8), none⟩
  | .divF32 g u d a la => some ⟨5, prefixBits 23 g u + dab d.toNat a.toNat (la.toNat * 8), none⟩
  | .exp2F32 g u d a la => some ⟨5, prefixBits 24 g u + dab d.toNat a.toNat (la.toNat * 8), none⟩
  | .log2F32 g u d a la => some ⟨5, prefixBits 25 g u + dab d.toNat a.toNat (la.toNat * 8), none⟩
  | .sintF32 g u d a la => some ⟨5, prefixBits 26 g u + dab d.toNat a.toNat (la.toNat * 8), none⟩
  | .costF32 g u d a la => some ⟨5, prefixBits 27 g u + dab d.toNat a.toNat (la.toNat * 8), none⟩
  | .tanhF32 g u d a la => some ⟨5, prefixBits 28 g u + dab d.toNat a.toNat (la.toNat * 8), none⟩
  | .sigmF32 g u d a la => some ⟨5, prefixBits 29 g u + dab d.toNat a.toNat (la.toNat * 8), none⟩
  | .floorF32 g u d a la => some ⟨5, prefixBits 30 g u + dab d.toNat a.toNat (la.toNat * 8), none⟩
  | .ceilF32 g u d a la => some ⟨5, prefixBits 31 g u + dab d.toNat a.toNat (la.toNat * 8), none⟩
  | .truncF32 g u d a la => some ⟨5, prefixBits 32 g u + dab d.toNat a.toNat (la.toNat * 8), none⟩
  | .rintF32 g u d a la => some ⟨5, prefixBits 33 g u + dab d.toNat a.toNat (la.toNat * 8), none⟩
  | .classF32 g u d a la => some ⟨5, prefixBits 34 g u + dab d.toNat a.toNat (la.toNat * 8), none⟩
  | .wadd g u d a la => some ⟨5, prefixBits 35 g u + dab d.toNat a.toNat (la.toNat * 8), none⟩
  | .wrnd g u d a la => some ⟨5, prefixBits 36 g u + dab d.toNat a.toNat (la.toNat * 8), none⟩
  | .wclr g u d la => some ⟨5, prefixBits 37 g u + dab d.toNat 0 (la.toNat * 8), none⟩
  | .cvtF32I8 g u d a la sel => some ⟨5, prefixBits 38 g u + dab d.toNat a.toNat (la.toNat * 8 + sel.toNat), none⟩
  | .cvtI8F32 g u d a la => some ⟨5, prefixBits 39 g u + dab d.toNat a.toNat (la.toNat * 8), none⟩
  | .ldN8 g u d a la bs off => some ⟨1, prefixBits 0 g u + dab d.toNat a.toNat (la.toNat * 8 + bs.toNat), off.map BitVec.toNat⟩
  | .ldI8 g u d a la bs off => some ⟨1, prefixBits 1 g u + dab d.toNat a.toNat (la.toNat * 8 + bs.toNat), off.map BitVec.toNat⟩
  | .ldN16 g u d a la bs off => some ⟨1, prefixBits 2 g u + dab d.toNat a.toNat (la.toNat * 8 + bs.toNat), off.map BitVec.toNat⟩
  | .ldI16 g u d a la bs off => some ⟨1, prefixBits 3 g u + dab d.toNat a.toNat (la.toNat * 8 + bs.toNat), off.map BitVec.toNat⟩
  | .ldW g u d a la bs off => some ⟨1, prefixBits 4 g u + dab d.toNat a.toNat (la.toNat * 8 + bs.toNat), off.map BitVec.toNat⟩
  | .ldD g u d a la bs off => some ⟨1, prefixBits 5 g u + dab d.toNat a.toNat (la.toNat * 8 + bs.toNat), off.map BitVec.toNat⟩
  | .ldQ g u d a la bs off => some ⟨1, prefixBits 6 g u + dab d.toNat a.toNat (la.toNat * 8 + bs.toNat), off.map BitVec.toNat⟩
  | .ldO g u d a la bs off => some ⟨1, prefixBits 7 g u + dab d.toNat a.toNat (la.toNat * 8 + bs.toNat), off.map BitVec.toNat⟩
  | .stB g d a la bs off => some ⟨1, prefixBits 8 g false + dab d.toNat a.toNat (la.toNat * 8 + bs.toNat), off.map BitVec.toNat⟩
  | .stH g d a la bs off => some ⟨1, prefixBits 9 g false + dab d.toNat a.toNat (la.toNat * 8 + bs.toNat), off.map BitVec.toNat⟩
  | .stW g d a la bs off => some ⟨1, prefixBits 10 g false + dab d.toNat a.toNat (la.toNat * 8 + bs.toNat), off.map BitVec.toNat⟩
  | .stD g d a la bs off => some ⟨1, prefixBits 11 g false + dab d.toNat a.toNat (la.toNat * 8 + bs.toNat), off.map BitVec.toNat⟩
  | .stQ g d a la bs off => some ⟨1, prefixBits 12 g false + dab d.toNat a.toNat (la.toNat * 8 + bs.toNat), off.map BitVec.toNat⟩
  | .stO g d a la bs off => some ⟨1, prefixBits 13 g false + dab d.toNat a.toNat (la.toNat * 8 + bs.toNat), off.map BitVec.toNat⟩
  | .ldaW g u d a la bs o => some ⟨1, prefixBits 14 g u + dab d.toNat a.toNat (la.toNat * 8 + bs.toNat), some (ordBits o)⟩
  | .ldaD g u d a la bs o => some ⟨1, prefixBits 15 g u + dab d.toNat a.toNat (la.toNat * 8 + bs.toNat), some (ordBits o)⟩
  | .ldapW g u d a la bs o => some ⟨1, prefixBits 16 g u + dab d.toNat a.toNat (la.toNat * 8 + bs.toNat), some (ordBits o)⟩
  | .stlW g d a la bs o => some ⟨1, prefixBits 17 g false + dab d.toNat a.toNat (la.toNat * 8 + bs.toNat), some (ordBits o)⟩
  | .stlD g d a la bs o => some ⟨1, prefixBits 18 g false + dab d.toNat a.toNat (la.toNat * 8 + bs.toNat), some (ordBits o)⟩
  | .ldcW g u d a la bs off => some ⟨1, prefixBits 19 g u + dab d.toNat a.toNat (la.toNat * 8 + bs.toNat), off.map BitVec.toNat⟩
  | .ldcD g u d a la bs off => some ⟨1, prefixBits 20 g u + dab d.toNat a.toNat (la.toNat * 8 + bs.toNat), off.map BitVec.toNat⟩
  | .ldvW g u d a la bs off => some ⟨1, prefixBits 21 g u + dab d.toNat a.toNat (la.toNat * 8 + bs.toNat), off.map BitVec.toNat⟩
  | .ldvD g u d a la bs off => some ⟨1, prefixBits 22 g u + dab d.toNat a.toNat (la.toNat * 8 + bs.toNat), off.map BitVec.toNat⟩
  | .ldvQ g u d a la bs off => some ⟨1, prefixBits 23 g u + dab d.toNat a.toNat (la.toNat * 8 + bs.toNat), off.map BitVec.toNat⟩
  | .ldvO g u d a la bs off => some ⟨1, prefixBits 24 g u + dab d.toNat a.toNat (la.toNat * 8 + bs.toNat), off.map BitVec.toNat⟩
  | .ldsW g u d a la off => some ⟨1, prefixBits 25 g u + dab d.toNat a.toNat (la.toNat * 8), off.map BitVec.toNat⟩
  | .ldsD g u d a la off => some ⟨1, prefixBits 26 g u + dab d.toNat a.toNat (la.toNat * 8), off.map BitVec.toNat⟩
  | .ldsQ g u d a la off => some ⟨1, prefixBits 27 g u + dab d.toNat a.toNat (la.toNat * 8), off.map BitVec.toNat⟩
  | .ldsO g u d a la off => some ⟨1, prefixBits 28 g u + dab d.toNat a.toNat (la.toNat * 8), off.map BitVec.toNat⟩
  | .stsW g d a la off => some ⟨1, prefixBits 29 g false + dab d.toNat a.toNat (la.toNat * 8), off.map BitVec.toNat⟩
  | .stsD g d a la off => some ⟨1, prefixBits 30 g false + dab d.toNat a.toNat (la.toNat * 8), off.map BitVec.toNat⟩
  | .stsQ g d a la off => some ⟨1, prefixBits 31 g false + dab d.toNat a.toNat (la.toNat * 8), off.map BitVec.toNat⟩
  | .stsO g d a la off => some ⟨1, prefixBits 32 g false + dab d.toNat a.toNat (la.toNat * 8), off.map BitVec.toNat⟩
  | .ldfragN g u d a la off => some ⟨1, prefixBits 33 g u + dab d.toNat a.toNat (la.toNat * 8), off.map BitVec.toNat⟩
  | .ldfragT8 g u d a la off => some ⟨1, prefixBits 34 g u + dab d.toNat a.toNat (la.toNat * 8), off.map BitVec.toNat⟩
  | .ldfragT16 g u d a la off => some ⟨1, prefixBits 35 g u + dab d.toNat a.toNat (la.toNat * 8), off.map BitVec.toNat⟩
  | .atomAdd g d a la bs off => some ⟨1, prefixBits 36 g false + dab d.toNat a.toNat (la.toNat * 8 + bs.toNat), off.map BitVec.toNat⟩
  | .atomMinI32 g d a la bs off => some ⟨1, prefixBits 37 g false + dab d.toNat a.toNat (la.toNat * 8 + bs.toNat), off.map BitVec.toNat⟩
  | .atomMaxI32 g d a la bs off => some ⟨1, prefixBits 38 g false + dab d.toNat a.toNat (la.toNat * 8 + bs.toNat), off.map BitVec.toNat⟩
  | .atomMinN32 g d a la bs off => some ⟨1, prefixBits 39 g false + dab d.toNat a.toNat (la.toNat * 8 + bs.toNat), off.map BitVec.toNat⟩
  | .atomMaxN32 g d a la bs off => some ⟨1, prefixBits 40 g false + dab d.toNat a.toNat (la.toNat * 8 + bs.toNat), off.map BitVec.toNat⟩
  | .atomAnd g d a la bs off => some ⟨1, prefixBits 41 g false + dab d.toNat a.toNat (la.toNat * 8 + bs.toNat), off.map BitVec.toNat⟩
  | .atomOr g d a la bs off => some ⟨1, prefixBits 42 g false + dab d.toNat a.toNat (la.toNat * 8 + bs.toNat), off.map BitVec.toNat⟩
  | .atomXor g d a la bs off => some ⟨1, prefixBits 43 g false + dab d.toNat a.toNat (la.toNat * 8 + bs.toNat), off.map BitVec.toNat⟩
  | .atomXchg g d a la bs off => some ⟨1, prefixBits 44 g false + dab d.toNat a.toNat (la.toNat * 8 + bs.toNat), off.map BitVec.toNat⟩
  | .atomCas g d a la bs off => some ⟨1, prefixBits 45 g false + dab d.toNat a.toNat (la.toNat * 8 + bs.toNat), off.map BitVec.toNat⟩
  | .atomIncw g d a la bs off => some ⟨1, prefixBits 46 g false + dab d.toNat a.toNat (la.toNat * 8 + bs.toNat), off.map BitVec.toNat⟩
  | .atomAdd64 g d a la bs off => some ⟨1, prefixBits 47 g false + dab d.toNat a.toNat (la.toNat * 8 + bs.toNat), off.map BitVec.toNat⟩
  | .atomCas64 g d a la bs off => some ⟨1, prefixBits 48 g false + dab d.toNat a.toNat (la.toNat * 8 + bs.toNat), off.map BitVec.toNat⟩
  | .atomFadd g d a la bs off => some ⟨1, prefixBits 49 g false + dab d.toNat a.toNat (la.toNat * 8 + bs.toNat), off.map BitVec.toNat⟩
  | .atomWrd g d a la bs off => some ⟨1, prefixBits 50 g false + dab d.toNat a.toNat (la.toNat * 8 + bs.toNat), off.map BitVec.toNat⟩
  | .redAdd g d a la bs off => some ⟨1, prefixBits 51 g false + dab d.toNat a.toNat (la.toNat * 8 + bs.toNat), off.map BitVec.toNat⟩
  | .redFadd g d a la bs off => some ⟨1, prefixBits 52 g false + dab d.toNat a.toNat (la.toNat * 8 + bs.toNat), off.map BitVec.toNat⟩
  | .redWadd g d a la bs off => some ⟨1, prefixBits 53 g false + dab d.toNat a.toNat (la.toNat * 8 + bs.toNat), off.map BitVec.toNat⟩
  | .redMaxI32 g d a la bs off => some ⟨1, prefixBits 54 g false + dab d.toNat a.toNat (la.toNat * 8 + bs.toNat), off.map BitVec.toNat⟩
  | .atomsAdd g d a la off => some ⟨1, prefixBits 55 g false + dab d.toNat a.toNat (la.toNat * 8), off.map BitVec.toNat⟩
  | .atomsCas g d a la off => some ⟨1, prefixBits 56 g false + dab d.toNat a.toNat (la.toNat * 8), off.map BitVec.toNat⟩
  | .atomsMaxN32 g d a la off => some ⟨1, prefixBits 57 g false + dab d.toNat a.toNat (la.toNat * 8), off.map BitVec.toNat⟩
  | .atomsXchg g d a la off => some ⟨1, prefixBits 58 g false + dab d.toNat a.toNat (la.toNat * 8), off.map BitVec.toNat⟩
  | .setb g a la bs => some ⟨1, prefixBits 59 g false + dab 0 a.toNat (la.toNat * 8 + bs.toNat), none⟩
  | .getb g d la bs => some ⟨1, prefixBits 60 g false + dab d.toNat 0 (la.toNat * 8 + bs.toNat), none⟩
  | .bra g ofs => some ⟨4, prefixBits 0 g false + ofs.toNat, none⟩
  | .brx g a => some ⟨4, prefixBits 1 g false + dab 0 a.toNat 0, none⟩
  | .call g d ofs => some ⟨4, prefixBits 2 g false + (d.toNat * 2 ^ 14 + ofs.toNat), none⟩
  | .callx g d a => some ⟨4, prefixBits 3 g false + dab d.toNat a.toNat 0, none⟩
  | .ret g a => some ⟨4, prefixBits 4 g false + dab 0 a.toNat 0, none⟩
  | .exit g => some ⟨4, prefixBits 5 g false, none⟩
  | .setm g ofs => some ⟨4, prefixBits 6 g false + ofs.toNat, none⟩
  | .setmx g a => some ⟨4, prefixBits 7 g false + dab 0 a.toNat 0, none⟩
  | .clrm g => some ⟨4, prefixBits 8 g false, none⟩
  | .yield g c => some ⟨4, prefixBits 9 g false + dab 0 (srcB c) 0, srcLit c⟩
  | .nap g c => some ⟨4, prefixBits 10 g false + dab 0 (srcB c) 0, srcLit c⟩
  | .wake g a => some ⟨4, prefixBits 11 g false + dab 0 a.toNat 0, none⟩
  | .rdv g m => some ⟨4, prefixBits 12 g false + dab 0 0 m.toNat, none⟩
  | .shflIdx g d a m n => some ⟨4, prefixBits 13 g false + dab d.toNat a.toNat m.toNat, some (laneBits n)⟩
  | .shflXor g d a m n => some ⟨4, prefixBits 14 g false + dab d.toNat a.toNat m.toNat, some (laneBits n)⟩
  | .shflUp g d a m n => some ⟨4, prefixBits 15 g false + dab d.toNat a.toNat m.toNat, some (laneBits n)⟩
  | .shflDn g d a m n => some ⟨4, prefixBits 16 g false + dab d.toNat a.toNat m.toNat, some (laneBits n)⟩
  | .voteAll g d a m => some ⟨4, prefixBits 17 g false + dab d.toNat a.toNat m.toNat, none⟩
  | .voteAny g d a m => some ⟨4, prefixBits 18 g false + dab d.toNat a.toNat m.toNat, none⟩
  | .voteBal g d a m => some ⟨4, prefixBits 19 g false + dab d.toNat a.toNat m.toNat, none⟩
  | .matchAny g d a m => some ⟨4, prefixBits 20 g false + dab d.toNat a.toNat m.toNat, none⟩
  | .matchAll g d a m => some ⟨4, prefixBits 21 g false + dab d.toNat a.toNat m.toNat, none⟩
  | .redxAddI32 g d a m => some ⟨4, prefixBits 22 g false + dab d.toNat a.toNat m.toNat, none⟩
  | .redxMinI32 g d a m => some ⟨4, prefixBits 23 g false + dab d.toNat a.toNat m.toNat, none⟩
  | .redxMaxI32 g d a m => some ⟨4, prefixBits 24 g false + dab d.toNat a.toNat m.toNat, none⟩
  | .redxMinN32 g d a m => some ⟨4, prefixBits 25 g false + dab d.toNat a.toNat m.toNat, none⟩
  | .redxMaxN32 g d a m => some ⟨4, prefixBits 26 g false + dab d.toNat a.toNat m.toNat, none⟩
  | .redxAnd g d a m => some ⟨4, prefixBits 27 g false + dab d.toNat a.toNat m.toNat, none⟩
  | .redxOr g d a m => some ⟨4, prefixBits 28 g false + dab d.toNat a.toNat m.toNat, none⟩
  | .redxXor g d a m => some ⟨4, prefixBits 29 g false + dab d.toNat a.toNat m.toNat, none⟩
  | .redxFadd g d a m => some ⟨4, prefixBits 30 g false + dab d.toNat a.toNat m.toNat, none⟩
  | .redxFmin g d a m => some ⟨4, prefixBits 31 g false + dab d.toNat a.toNat m.toNat, none⟩
  | .redxFmax g d a m => some ⟨4, prefixBits 32 g false + dab d.toNat a.toNat m.toNat, none⟩
  | .scanxAddI32 g d a m => some ⟨4, prefixBits 33 g false + dab d.toNat a.toNat m.toNat, none⟩
  | .scanxFadd g d a m => some ⟨4, prefixBits 34 g false + dab d.toNat a.toNat m.toNat, none⟩
  | .tbarSync g bar => some ⟨4, prefixBits 35 g false + bar.toNat, none⟩
  | .tbarArv g bar => some ⟨4, prefixBits 36 g false + bar.toNat, none⟩
  | .tbarWait g bar => some ⟨4, prefixBits 37 g false + bar.toNat, none⟩
  | .tbarRed g d a sub bar hi => some ⟨4, prefixBits 38 g false + dab d.toNat a.toNat (sub.toNat * 16 + bar.toNat), hi.map boolNat⟩
  | .gbarSync g bar => some ⟨4, prefixBits 39 g false + bar.toNat, none⟩
  | .gbarArv g bar => some ⟨4, prefixBits 40 g false + bar.toNat, none⟩
  | .gbarWait g bar => some ⟨4, prefixBits 41 g false + bar.toNat, none⟩
  | .gbarRed g d a sub bar hi => some ⟨4, prefixBits 42 g false + dab d.toNat a.toNat (sub.toNat * 16 + bar.toNat), hi.map boolNat⟩
  | .fence g sc => some ⟨4, prefixBits 43 g false + dab 0 sc.scr.toNat (boolNat sc.sfr * 64 + sc.sci.toNat), none⟩
  | .scopeof g d a kind => some ⟨4, prefixBits 44 g false + dab d.toNat a.toNat kind.toNat, none⟩
  | .hwaitF g h ph => some ⟨4, prefixBits 45 g false + (h.toNat * 2 ^ 8 + boolNat ph * 2 ^ 7), none⟩
  | .hwaitE g h => some ⟨4, prefixBits 46 g false + h.toNat * 2 ^ 8, none⟩
  | .hsetFill g h => some ⟨4, prefixBits 47 g false + h.toNat * 2 ^ 8, none⟩
  | .hsetFull g h => some ⟨4, prefixBits 48 g false + h.toNat * 2 ^ 8, none⟩
  | .hsetDrain g h => some ⟨4, prefixBits 49 g false + h.toNat * 2 ^ 8, none⟩
  | .hsetFree g h => some ⟨4, prefixBits 50 g false + h.toNat * 2 ^ 8, none⟩
  | .harm g h c => some ⟨4, prefixBits 51 g false + (h.toNat * 2 ^ 8 + c.toNat), none⟩
  | .cont g h w => some ⟨4, prefixBits 52 g false + h.toNat * 2 ^ 8, some w.toNat⟩
  | .qpush g d q => some ⟨4, prefixBits 53 g false + (d.toNat * 2 ^ 14 + queueBits q), none⟩
  | .qpushD g d q => some ⟨4, prefixBits 54 g false + (d.toNat * 2 ^ 14 + queueBits q), none⟩
  | .qpop g d q => some ⟨4, prefixBits 55 g false + (d.toNat * 2 ^ 14 + queueBits q), none⟩
  | .qlen g d q => some ⟨4, prefixBits 56 g false + (d.toNat * 2 ^ 14 + queueBits q), none⟩
  | .qpushNb g d q p => some ⟨4, prefixBits 57 g false + (d.toNat * 2 ^ 14 + queueBits q), some p.toNat⟩
  | .qpopNb g d q p => some ⟨4, prefixBits 58 g false + (d.toNat * 2 ^ 14 + queueBits q), some p.toNat⟩
  | .cvjoin g a b => some ⟨4, prefixBits 59 g false + dab 0 a.toNat b.toNat, none⟩
  | .cvleave g => some ⟨4, prefixBits 60 g false, none⟩
  | .cvsetSl g a => some ⟨4, prefixBits 61 g false + dab 0 a.toNat 0, none⟩
  | .cvsetLt g a => some ⟨4, prefixBits 61 g false + dab 0 a.toNat 1, none⟩
  | .mmaE4e4 g x1 x2 x3 tile sb keep la => some ⟨2, prefixBits 0 g false + dab x1.toNat x2.toNat x3.toNat, some (tLit 0 0 0 0 0 (boolNat keep) sb.toNat tile.toNat la.toNat)⟩
  | .mmaE4e5 g x1 x2 x3 tile sb keep la => some ⟨2, prefixBits 1 g false + dab x1.toNat x2.toNat x3.toNat, some (tLit 0 0 0 0 0 (boolNat keep) sb.toNat tile.toNat la.toNat)⟩
  | .mmaE5e4 g x1 x2 x3 tile sb keep la => some ⟨2, prefixBits 2 g false + dab x1.toNat x2.toNat x3.toNat, some (tLit 0 0 0 0 0 (boolNat keep) sb.toNat tile.toNat la.toNat)⟩
  | .mmaE5e5 g x1 x2 x3 tile sb keep la => some ⟨2, prefixBits 3 g false + dab x1.toNat x2.toNat x3.toNat, some (tLit 0 0 0 0 0 (boolNat keep) sb.toNat tile.toNat la.toNat)⟩
  | .mmaCb4 g x1 x2 x3 tile sb keep k la => some ⟨2, prefixBits 4 g false + dab x1.toNat x2.toNat x3.toNat, some (tLit 0 k.toNat 0 0 0 (boolNat keep) sb.toNat tile.toNat la.toNat)⟩
  | .mmaBf16 g x1 x2 tile keep la => some ⟨2, prefixBits 5 g false + dab x1.toNat x2.toNat 0, some (tLit 0 0 0 0 0 (boolNat keep) 0 tile.toNat la.toNat)⟩
  | .mmaF16 g x1 x2 tile keep la => some ⟨2, prefixBits 6 g false + dab x1.toNat x2.toNat 0, some (tLit 0 0 0 0 0 (boolNat keep) 0 tile.toNat la.toNat)⟩
  | .mmaI8 g x1 x2 tile keep la => some ⟨2, prefixBits 7 g false + dab x1.toNat x2.toNat 0, some (tLit 0 0 0 0 0 (boolNat keep) 0 tile.toNat la.toNat)⟩
  | .mzero g tile => some ⟨2, prefixBits 8 g false, some (tLit 0 0 0 0 0 0 0 tile.toNat 0)⟩
  | .mload g afmt x1 x3 sb k la => some ⟨2, prefixBits 9 g false + dab x1.toNat 0 x3.toNat, some (tLit (afmtCode afmt) k.toNat 0 0 0 0 sb.toNat 0 la.toNat)⟩
  | .mdrain g cvt h tile bs x2 x3 la => some ⟨2, prefixBits 10 g false + dab 0 x2.toNat x3.toNat, some (tLit 0 0 (cvtCode cvt) h.toNat bs.toNat 0 0 tile.toNat la.toNat)⟩
  | .mdraina g h tile bs x2 x3 la => some ⟨2, prefixBits 11 g false + dab 0 x2.toNat x3.toNat, some (tLit 0 0 0 h.toNat bs.toNat 0 0 tile.toNat la.toNat)⟩
  | .mdrains g cvt h tile x1 x3 la => some ⟨2, prefixBits 12 g false + dab x1.toNat 0 x3.toNat, some (tLit 0 0 (cvtCode cvt) h.toNat 0 0 0 tile.toNat la.toNat)⟩
  | .mgang g x2 => some ⟨2, prefixBits 13 g false + dab 0 x2.toNat 0, some 0⟩
  | .mopf g => some ⟨2, prefixBits 14 g false, some 0⟩
  | .mwait g => some ⟨2, prefixBits 15 g false, some 0⟩
  | .mrel g => some ⟨2, prefixBits 16 g false, some 0⟩
  | .mcb g x2 k => some ⟨2, prefixBits 17 g false + dab 0 x2.toNat 0, some (tLit 0 k.toNat 0 0 0 0 0 0 0)⟩
  | .cpyG2s g h bs x1 x2 x3 la => some ⟨3, prefixBits 0 g false + dab x1.toNat x2.toNat x3.toNat, some (kLit 0 bs.toNat h.toNat la.toNat)⟩
  | .cpyG2sT8 g h bs x1 x2 x3 la => some ⟨3, prefixBits 1 g false + dab x1.toNat x2.toNat x3.toNat, some (kLit 0 bs.toNat h.toNat la.toNat)⟩
  | .cpyG2sT16 g h bs x1 x2 x3 la => some ⟨3, prefixBits 2 g false + dab x1.toNat x2.toNat x3.toNat, some (kLit 0 bs.toNat h.toNat la.toNat)⟩
  | .cpyS2g g h bs x1 x2 x3 la => some ⟨3, prefixBits 3 g false + dab x1.toNat x2.toNat x3.toNat, some (kLit 0 bs.toNat h.toNat la.toNat)⟩
  | .cpyS2ga g h bs x1 x2 x3 la => some ⟨3, prefixBits 4 g false + dab x1.toNat x2.toNat x3.toNat, some (kLit 0 bs.toNat h.toNat la.toNat)⟩
  | .cpyG2g g h bs x1 x2 x3 la => some ⟨3, prefixBits 5 g false + dab x1.toNat x2.toNat x3.toNat, some (kLit 0 bs.toNat h.toNat la.toNat)⟩
  | .cpyMc g h bs x1 x2 x3 cmask la => some ⟨3, prefixBits 6 g false + dab x1.toNat x2.toNat x3.toNat, some (kLit cmask.toNat bs.toNat h.toNat la.toNat)⟩
  | .cpyS2s g h x1 x2 x3 la => some ⟨3, prefixBits 7 g false + dab x1.toNat x2.toNat x3.toNat, some (kLit 0 0 h.toNat la.toNat)⟩
  | .cpyV2s g h bs x1 x2 x3 la => some ⟨3, prefixBits 8 g false + dab x1.toNat x2.toNat x3.toNat, some (kLit 0 bs.toNat h.toNat la.toNat)⟩
  | .gtrinv g bs x2 => some ⟨3, prefixBits 9 g false + dab 0 x2.toNat 0, some (kLit 0 bs.toNat 0 0)⟩
  | .nmc g bs x1 x2 la => some ⟨3, prefixBits 10 g false + dab x1.toNat x2.toNat 0, some (kLit 0 bs.toNat 0 la.toNat)⟩
  | .nmwait g => some ⟨3, prefixBits 11 g false, some 0⟩
  | .cpywait g => some ⟨3, prefixBits 12 g false, some 0⟩
  | .pghint g bs x2 x3 => some ⟨3, prefixBits 13 g false + dab 0 x2.toNat x3.toNat, some (kLit 0 bs.toNat 0 0)⟩
  | .trap g code => some ⟨6, prefixBits 0 g false + dab 0 0 code.toNat, none⟩
  | .bkpt g code => some ⟨6, prefixBits 1 g false + dab 0 0 code.toNat, none⟩
  | .tretRetry g => some ⟨6, prefixBits 2 g false, none⟩
  | .tretSkip g => some ⟨6, prefixBits 2 g false + 1, none⟩
  | .clock g d => some ⟨6, prefixBits 3 g false + dab d.toNat 0 0, none⟩
  | .gtime g d => some ⟨6, prefixBits 4 g false + dab d.toNat 0 0, none⟩
  | .trace g a ch => some ⟨6, prefixBits 5 g false + dab 0 a.toNat ch.toNat, none⟩
  | .flags g d mask => some ⟨6, prefixBits 6 g false + dab d.toNat 0 mask.toNat, none⟩
  | .icinv g => some ⟨6, prefixBits 7 g false, none⟩
  | .meetHoldTimeout _ => none
  | .starvationOverride _ _ => none
  | .yieldExpiry _ => none
  | .breakpointHit _ => none
  | .loadReturn _ => none
  | .storeQueueDrain _ _ => none
  | .straitRead _ => none
  | .straitWrite _ => none
  | .straitReply _ => none
  | .atomicService _ => none
  | .promote _ _ => none
  | .sfuResult _ => none
  | .barrierArrivalCounted _ _ _ => none
  | .slewResume _ _ => none
  | .matrixEngineOperation _ _ => none
  | .copyAccept _ => none
  | .copyPartWritten _ _ _ _ => none
  | .copyFinish _ => none
  | .contSpawn _ _ _ _ _ => none
  | .nmcSend _ => none
  | .nmStep _ => none
  | .pageWalk _ _ => none
  | .pageServiced _ _ _ => none
  | .pageRefused _ => none
  | .pageMigration _ _ => none
  | .tierMigration _ _ _ => none
  | .queuePerform _ _ => none
  | .trapEntry _ => none
  | .teamComplete _ => none
  | .gridComplete _ => none
  | .containment _ => none
  | .scrubPass _ => none
  | .gridPacket _ _ => none
  | .waitPacket _ => none
  | .waitPoll _ => none
  | .kickPacket _ => none
  | .teamAdmission _ _ _ => none
  | .reserving _ _ _ => none
  | .preemption _ _ _ => none
  | .restore _ _ _ => none
  | .stealRequest _ _ => none
  | .classify _ => none
  | .thermalMove _ _ _ => none
  | .powerControl _ _ _ => none
  | .operatingPointChange _ => none
  | .convoyLapse _ => none
  | .graphReplayStart _ => none
  | .graphNodeFinish _ _ => none
  | .kick _ _ _ => none
  | .kstatWrite _ _ => none
  | .partWrite _ _ => none
  | .regselWrite _ => none
  | .lbudgetWrite _ _ => none
  | .deverrWrite _ => none
  | .registerWrite _ _ _ => none
  | .moduleReset => none
  | .go _ => none
  | .attgo => none
  | .attestationReportDone => none
  | .hostQueuePush _ _ => none
  | .hostQueuePop _ => none
  | .hostQueueStatus _ => none
  | .hostMemAccess _ => none
  | .bufinv _ => none
  | .xlatinv _ => none
  | .ownrec _ => none
  | .qdesc _ => none
  | .cadload _ => none
  | .cadswitch _ => none
  | .caddrop _ => none
  | .fmreload _ => none
  | .fmreply _ => none
  | .manageUnknown _ => none
  | .fmTimeout _ _ => none
  | .debugConfigWrite _ _ _ => none
  | .debugStop _ _ _ => none
  | .debugResume _ => none
  | .debugStep _ _ => none
  | .pcntClear _ => none
  | .sample _ _ => none
  | .linkRequest _ => none
  | .linkTimeout _ => none
  | .gateAcknowledgement _ _ => none

/-! ### Clause headers (R83) -/

/-- The fields of a clause header. -/
structure Header where
  n : Nat
  cls : Nat
  wait : Nat
  gw : Nat
  lmap : Nat
  deriving DecidableEq, Repr

/-- A clause header's fields (R83 Table 1). -/
def decodeHeader (w : Nat) : Header :=
  ⟨bitsOf w 31 28, bitsOf w 27 25, bitsOf w 24 18, bitsOf w 17 14, bitsOf w 13 0⟩

/-- A clause header's word. -/
def encodeHeader (h : Header) : Nat :=
  h.n * 2 ^ 28 + h.cls * 2 ^ 25 + h.wait * 2 ^ 18 + h.gw * 2 ^ 14 + h.lmap

/-! ### Bytes -/

/-- A little-endian 32-bit value (R3). -/
def wordOfBytes : List Byte → Nat
  | [] => 0
  | b :: bs => b.toNat + 256 * wordOfBytes bs

/-- The n bytes of a value, little-endian (R3). -/
def bytesOfWord : Nat → Nat → List Byte
  | 0, _ => []
  | n + 1, v => BitVec.ofNat 8 v :: bytesOfWord n (v / 256)

/-- The decoder on bytes: the word is the first four bytes, and the next four are its literal when it is marked. -/
def decodeBytes (cls : Nat) (marked : Bool) (bs : List Byte) : Except Reject Instr :=
  decode cls (wordOfBytes (bs.take 4)) (if marked then some (wordOfBytes ((bs.drop 4).take 4)) else none)

/-! ### The words of the table of operations -/

/-- The classes in the order in which a word of the table, which names no class, is read. -/
def tableClasses : List Nat := [0, 5, 1, 4, 2, 3, 6]

/-- Whether a table word stands with a literal of zeros in a class. -/
def tableMarked (cls w : Nat) : Bool := litRule cls (fieldOp w) == .req

/-- The instruction of a table word in one class. The word's bits above nbits are 0, and so is its literal, where it needs one. -/
def decodeTableIn (cls nbits w : Nat) : Option Instr :=
  let v := w % 2 ^ nbits
  match decodeBytes cls (tableMarked cls v) (bytesOfWord 8 v) with
  | .ok i => some i
  | .error _ => none

/-- The class in which a table word decodes (the first of `tableClasses`). -/
def tableClass (nbits w : Nat) : Option Nat := tableClasses.find? fun c => (decodeTableIn c nbits w).isSome

/-- The instruction of a table word. DESIGN CHOICE (notes/assumptions/4.md): the table gives a word no class, so the classes are tried in turn, ALU first. -/
def decodeTableWord (nbits w : Nat) : Option Instr :=
  (tableClass nbits w).bind fun c => decodeTableIn c nbits w

end

end Sys2Proof
end

