-- ==== Sys2Proof/Machine/State.lean ====
section
/-! DEFINITION. The state of the EV-192 package as the spec gives it (chapters 01, 10 to 15, 17, 18), all of it plain data,
and the machine right after module reset. -/

namespace Sys2Proof.Machine

/-- Bytes by address, strictly rising, no listed byte equal to 0, which is what an unlisted address reads as (R303, R422). -/
abbrev Memory := List (Nat × Byte)

/-- Words by index, in the same canonical form; an unlisted word reads 0 (R221). -/
abbrev WordMem := List (Nat × Word)

/-! ### Faults that a thread raises (R408) -/

/-- The fault codes of R408 Table 1. -/
inductive FaultCode where
  | illegalOpcode | illegalClause | illegalOperand | role | lookahead | misaligned | bufIndex | bufBounds | bufRights
  | page | pageDenied | scratchBounds | handle | rdvMask | rdvAbsent | gang | poison | queue | nm | trap | bkpt | watch
  | barrier | convoy | contain
  deriving DecidableEq, Repr, Inhabited

/-- A raised fault with what trap entry writes (R272, R273, R411): code, ARG, LATE, TPC, TADDRH:TADDRL, and TMASK where the
fault gives one (else the bit of the thread's physical lane). `nowhere` marks an ILLEGAL_CLAUSE whose TPC names neither an issued
instruction nor a header (R85, R266). -/
structure FaultInfo where
  code : FaultCode
  arg : Nat := 0
  late : Bool := false
  nowhere : Bool := false
  tpc : Nat := 0
  addr : Nat := 0
  mask : Option Nat := none
  deriving DecidableEq, Repr, Inhabited

/-! ### Threads -/

/-- The clause a thread is inside: header offset, class, guard window and the offset after its last word (R82, R83, R87). -/
structure ClauseCtx where
  hdr : Nat
  cls : Nat
  gw : Nat
  stop : Nat
  deriving DecidableEq, Repr, Inhabited

/-- An open lookahead window (R100, R378): producer PC, remaining count, and the registers and predicates not yet written;
`reads` are the operand registers that an MMA or MLOAD has still to read (R233, R377). `dests` are all of its pending destinations,
written or not, which LOOKAHEAD guards while the window counts (R100), and `flags` the flags of a result that was written inside it
(R135). -/
structure Window where
  id : Nat
  pc : Nat
  remain : Nat
  regs : List Nat := []
  reads : List Nat := []
  poison : Option FaultInfo := none
  dests : List Nat := []
  flags : Nat := 0
  deriving DecidableEq, Repr, Inhabited

/-- Why a thread is BLOCKED, or WAITING on an engine's acceptance (R16). `poll` is a blocked instruction that completes in the
thread when its condition holds; the others are released by what they wait for. -/
inductive Block where
  | poll (i : Instr)
  | rdv
  | tbar (bar : Nat) (red : Bool) (d : Nat) (wr : Bool)
  | gbar (bar : Nat) (red : Bool) (d : Nat) (wr : Bool)
  | gang | queueOp | copyAccept | nmcSend
  deriving DecidableEq, Repr

/-- The scheduling state of a thread (R16). WAITING is READY with an unmet dependence, and STOPPED is the field `stopped`,
which keeps the state beneath it (R387). `parked` keeps the address of the access (R409), `trapping` is a raised fault
whose trap entry waits for pending destinations (R411), and `ended` is a thread of a terminated grid (R413). -/
inductive Sch where
  | ready
  | heldMeet (since bound : Nat)
  | heldConvoy
  | yielded (expiry : Nat)
  | blocked (why : Block)
  | parked (page : PageKey) (addr : Nat)
  | trapping (f : FaultInfo)
  | exited
  | ended
  deriving DecidableEq, Repr

/-- The outstanding operations of one class: how many, and the PC of the youngest (R379). -/
structure Outs where
  count : Nat := 0
  pc : Nat := 0
  deriving DecidableEq, Repr, Inhabited

/-- What a STOP record says of a stop (R384): its cause, its mode, and the offset of the instruction. -/
structure StopRec where
  cause : Nat
  mode : Nat
  pc : Nat
  deriving DecidableEq, Repr, Inhabited

/-- A thread (R15, R80, R267, R272). `key` is the model's own number for it, `mopf` the place in the matrix log of its last MOPF (R234); `stepped` that its instruction has taken its convoy
step and has not yet issued (R175), `cvStamp` the order number of its join, `blen` the bytes of the instruction that it is BLOCKED at;
`stepping` is 1 from a debug STEP to the issue of its instruction, and 2 from there to that instruction's end (R388); `stopAsk` is a stop
that awaits the thread's issued loads, atomics and SFU results, with the record that is to name it (R139, R185, R387); `issuePc` is the
offset of the instruction that it issued last. -/
structure Thread where
  key : Nat
  grid : Nat
  team : Nat
  teamIdx : Nat
  tid : Nat
  lane : Nat
  grp : Nat
  role : Nat
  kind : Nat
  budget : Nat
  core : Nat
  tcore : Nat
  lg : Nat
  depth : Nat
  isCont : Bool := false
  pc : Nat := 0
  clause : Option ClauseCtx := none
  meet : Word := 0xFFFFFFFF
  mhb : Nat := 64
  rmode : Nat := 0
  flags : Nat := 0
  v : List Word := []
  vt : List Bool := []
  p : BitVec 128 := 0
  b : List Quad := List.replicate 8 0
  bt : List Bool := List.replicate 8 false
  mgang : Nat := 0
  gangCount : Nat := 0
  cv : Option (Nat × Nat) := none
  cvStamp : Nat := 0
  cvmrg : Nat := 0
  cvsolo : Nat := 0
  tcause : Word := 0
  tpc : Word := 0
  taddrl : Word := 0
  taddrh : Word := 0
  tmask : Word := 0
  tvec : Nat := 0
  inHandler : Bool := false
  nowhere : Bool := false
  wake : Bool := false
  st : Sch := .ready
  stopped : Bool := false
  stopAsk : Option (Option StopRec) := none
  stepping : Nat := 0
  skipBrk : Bool := false
  meetDone : Bool := false
  fresh : Bool := false
  stepped : Bool := false
  blen : Nat := 0
  windows : List Window := []
  outMem : Outs := {}
  outMatrix : Outs := {}
  outCopy : Outs := {}
  outSfu : Outs := {}
  acquires : Nat := 0
  arrT : Nat := 0
  pendT : Nat := 0
  arrG : Nat := 0
  pendG : Nat := 0
  contSkipT : Nat := 0
  contSkipG : Nat := 0
  mopf : Nat := 0
  created : Nat := 0
  lastIssue : Nat := 0
  issuePc : Nat := 0
  readySince : Nat := 0
  deriving DecidableEq, Repr

/-! ### Objects of a team (R21) -/

/-- One arrival at a rendezvous instance, with the operands that it supplied (R195, R196, R199). -/
structure RdvArr where
  thread : Nat
  lane : Nat
  val : Word
  taint : Bool
  n : Nat
  writes : Bool
  d : Nat
  deriving DecidableEq, Repr, Inhabited

/-- The rendezvous operations of R199 Table 3 and R200 Table 4. -/
inductive RdvOp where
  | rdv | shflIdx | shflXor | shflUp | shflDn | voteAll | voteAny | voteBal | matchAny | matchAll
  | addI32 | minI32 | maxI32 | minN32 | maxN32 | and | or | xor | fadd | fmin | fmax | scanAdd | scanFadd
  deriving DecidableEq, Repr, Inhabited

/-- An open rendezvous instance, keyed by group and PC (R196). -/
structure RdvInst where
  grp : Nat
  contKey : Nat
  pc : Nat
  op : RdvOp
  mask : Nat
  arrs : List RdvArr
  deriving DecidableEq, Repr, Inhabited

/-- One arrival in the current phase of a barrier: counted once its earlier accesses meet R206. -/
structure BarArr where
  thread : Nat
  counted : Bool
  val : Word := 0
  taint : Bool := false
  seq : Nat := 0
  deriving DecidableEq, Repr, Inhabited

/-- A team or grid barrier (R202, R203). `kind` is none until the phase's first arrival fixes it: some none is plain, some
(some c) is RED with sub-operation code c (R204). `held` lists cores still to resume of a limited release (R364). -/
structure Barrier where
  phase : Nat := 0
  kind : Option (Option Nat) := none
  arrs : List BarArr := []
  deriving DecidableEq, Repr, Inhabited

/-- A handle entry (R321). -/
structure Handle where
  state : Nat := 0
  ph : Bool := false
  err : Bool := false
  ecode : Nat := 0
  exp : Nat := 0
  rcv : Nat := 0
  rsv : Nat := 0
  infl : Nat := 0
  deriving DecidableEq, Repr, Inhabited

/-- One arrival at a gang instance with everything it supplied (R224, R225, R228). -/
structure GangArr where
  thread : Nat
  member : Nat
  opc : Nat
  afmt : Nat
  tile : Nat
  slw : List Word
  keep : Bool
  kslot : Nat
  sb : Nat
  x1 : Nat
  x3 : Nat
  window : Nat
  mopf : Nat
  deriving DecidableEq, Repr, Inhabited

/-- An open gang instance: gang value, instance number, arrivals (R224). -/
structure GangInst where
  gang : Nat
  n : Nat
  arrs : List GangArr
  deriving DecidableEq, Repr, Inhabited

/-- A continuation record (R39, R382); `armed` false means SPAWNING; `stamp` is the order number of its writing. -/
structure ContRec where
  core : Nat
  handle : Nat
  armed : Bool
  target : Nat
  v07 : List Word
  orig : Nat
  reserved : Bool
  stamp : Nat := 0
  deriving DecidableEq, Repr, Inhabited

/-- The resident state of a team (R19 to R21, R348). `cores` lists the hosting cores in TCORE order, `runs` the first group and the
number of groups on each, `granules` the scratchpad granules that it holds on each (R290), and `hbase` its first handle entry (R321).
`saving` says that the team is being stopped, for a pre-emption or for a move to a layer (R414). -/
structure Team where
  key : Nat
  grid : Nat
  idx : Nat
  layer : Nat
  cores : List Nat
  runs : List (Nat × Nat) := []
  resident : Nat := 0
  movedAt : Option Nat := none
  handles : List Handle := []
  barriers : List Barrier := []
  scratch : List Memory := []
  scratchValid : List (List Nat) := []
  granules : List (List Nat) := []
  hbase : Nat := 0
  saving : Option (Option Nat) := none
  rdv : List RdvInst := []
  gangs : List GangInst := []
  conts : List ContRec := []
  deriving DecidableEq, Repr, Inhabited

/-- The declaration of one role (R23, R343). -/
structure RoleDecl where
  kind : Nat := 0
  groups : Nat := 0
  threads : Nat := 0
  budget : Nat := 0
  deriving DecidableEq, Repr, Inhabited

/-- Where a grid came from: a launch queue with its parent thread's grid, or a graph node of a replay (R346, R354). -/
inductive Origin where
  | queue (q : Nat) (parent : Option Nat)
  | node (replay node : Nat)
  deriving DecidableEq, Repr, Inhabited

/-- The first fault that the grid table records (R345). -/
structure FirstFault where
  code : Nat
  team : Nat
  tid : Nat
  tpc : Nat
  addr : Nat
  deriving DecidableEq, Repr, Inhabited

/-- The fate of a grid: running, terminated by a fault (R413), or contained with a cause and core at a clock (R417). -/
inductive GridStatus where
  | running | terminated | contained (cause core clock : Nat)
  deriving DecidableEq, Repr, Inhabited

/-- A saved team in a save block (R414, R415): the clock since which it waits, and the place of its block in the save pool. -/
structure SaveBlock where
  team : Team
  threads : List Thread
  tiles : List (Nat × Nat × WordMem)
  slots : List (Nat × Nat × List Byte)
  move : Option Nat := none
  since : Nat := 0
  start : Nat := 0
  len : Nat := 0
  deriving DecidableEq, Repr

/-- A grid table entry (R346). `waiting` lists its teams that wait, each with its layer and the clock since when (R347), `reserving`
the reserving ones with their layers; `pins` and `cadgen` are its caddy pins and the switch count at the pin (R328, R276);
`classMeas` is the team that the classifier measures, the clock at which that began, its request bytes and its issued instructions (R360); `wrote` lists the buffers
of a containment record (R418). -/
structure Grid where
  id : Nat
  owner : Nat
  part : Nat
  prio : Nat
  coop : Bool
  code : Quad
  codeLen : Nat
  entry : Nat
  tvec : Nat
  param : Quad
  done : Quad
  nteam : Nat
  roles : List RoleDecl
  scr : Nat
  nhnd : Nat
  gangr : Nat
  cvhint : Nat
  cls : Nat
  origin : Origin
  status : GridStatus := .running
  first : Option FirstFault := none
  pins : List (Nat × Nat) := []
  cadgen : Nat := 0
  order : Nat := 0
  waiting : List (Nat × Nat × Nat) := []
  reserving : List (Nat × Nat) := []
  doneTeams : Nat := 0
  saved : List SaveBlock := []
  gbars : List Barrier := []
  classMeas : Option (Nat × Nat × Nat × Nat) := none
  wrote : List Nat := []
  deriving DecidableEq, Repr

/-! ### The memory system -/

/-- The side information of a 32-byte atom half: owner tag (none is tagless), poison, an uncorrectable error not yet found
(R301, R303, R309, R310). -/
structure AtomInfo where
  tag : Option Nat := none
  poison : Bool := false
  ue : Bool := false
  deriving DecidableEq, Repr, Inhabited

/-- What a store-queue operation does at home (R168, R171, R180). -/
inductive OpKind where
  | plain
  | release (scope : Nat) (seq : Nat)
  | atomic (op : AtomOp) (data : List Word) (req : Option Nat)
  deriving DecidableEq, Repr, Inhabited

/-- Where an access goes: the physical byte address at home, the atom size, the buffer index (R155, R298, R299); `pkg` is
the owning package of a REMOTE buffer, `cad` the slot, generation and offset of a KIND 2 access (R317, R327). -/
structure Target where
  phys : Nat
  gang : Bool
  idx : Nat
  pkg : Option Nat := none
  tag : Nat
  cad : Option (Nat × Nat × Nat) := none
  deriving DecidableEq, Repr, Inhabited

/-- What a VALUE record of a traced store names (R384, R389): the watch region and its partition, the buffer pointer of the
access's first byte, and the storing thread. -/
structure TraceTag where
  region : Nat
  part : Nat
  ptr : Nat
  team : Nat
  tid : Nat
  deriving DecidableEq, Repr, Inhabited

/-- A store, atomic or reduction from issue to home (R166, R286). `contrib` lists the threads and order numbers of the
stores merged in it; `level` is 0 in the store queue, 1 drained from the core, 2 to 4 past the layer, chiplet and reticle
gate (R13); `stamps` are the order numbers at which it passed each, newest first; `fset` numbers the fused set
that issued it (R182). `left` is the clock
at which it left its core, with its slack tag (R361); `lane` its place in its lane of the atomic service, and `held` that it waits
in the routers for a full lane (R362). Operations with one `seq` are the `part`s of one store (R165). `copy` names the copy and the part
of it that an addition belongs to (R252), and `link` says that another package has asked for the operation (R424). -/
structure SqOp where
  seq : Nat
  grid : Nat
  owner : Nat
  core : Nat
  lg : Nat
  tgt : Target
  size : Nat
  bytes : List (Nat × Byte)
  kind : OpKind
  contrib : List (Nat × Nat)
  level : Nat := 0
  stamps : List Nat := []
  fset : Nat := 0
  tpc : Nat := 0
  trace : Option TraceTag := none
  left : Nat := 0
  slack : Nat := 0
  lane : Option Nat := none
  held : Bool := false
  part : Nat := 0
  copy : Option (Nat × Nat) := none
  link : Bool := false
  deriving DecidableEq, Repr, Inhabited

/-- How a load's bytes become register values (R167, R177, R178, R181, R183). -/
inductive LoadFmt where
  | zext (n : Nat) | sext (n : Nat) | words (n : Nat)
  deriving DecidableEq, Repr, Inhabited

/-- Where a load stands: waiting for the core's sources, sent to home, joined to a Strait entry, or with its bytes (`bad`
when a byte it reads is poisoned, R186); `line` is a line that a copy reads, with the bad marks of its halves. -/
inductive ReqStage where
  | atCore | atEntry | data (bytes : List Byte) (bad : Bool) | line (bytes : List Byte) (bad : List Bool)
  deriving DecidableEq, Repr, Inhabited

/-- What a scratchpad access does at its bank: it reads bytes for n words, or the bytes of a fragment (R178), writes bytes, or
performs an atomic (R183). -/
inductive ScrKind where
  | words (n : Nat) | t8 | t16 | store (bytes : List Byte) | atomic (op : AtomOp) (data : List Word)
  deriving DecidableEq, Repr, Inhabited

/-- A scratchpad access on its way to its bank (R177 to R183, R292): team core, address mode and logical offset; the fused set that
issued it, and its lane. -/
structure ScrAcc where
  team : Nat
  tc : Nat
  mode : Nat
  off : Nat
  kind : ScrKind
  fset : Nat
  lane : Nat
  deriving DecidableEq, Repr, Inhabited

/-- A load or atomic return in flight (R163, R166, R170 to R176), a scratchpad access (R177), or the read of a line for a copy (R252);
such a read is no access of a thread, and its `thread` names the copy's thread plus 2^64. `left` is the clock at which the request left
its core, with its `slack` tag (R361), and `arrived` says that it waits at its slice's input (R295). `stream` names the membership of
the LDV that it serves (R176). `mates` are the other members of a fused set under U that the one access serves, each with its
membership (R162). `again` says that the read was sent again after an uncorrectable error (R309). `tear` is the number of its words that
are taken first when its words are taken in two steps, and `got` what the first step took (R165). `noInst` and `dirty` say that a bulk
invalidation has struck, or a store of its core to the line has drained, while it waits at its slice's input (R289, R294). -/
structure Req where
  id : Nat
  thread : Nat
  pc : Nat
  grid : Nat
  owner : Nat
  core : Nat
  lg : Nat
  tgt : Target
  size : Nat
  fmt : LoadFmt
  d : Nat
  window : Nat
  ldc : Bool := false
  noL1 : Bool := false
  own : Bool := false
  acq : Option Nat := none
  promote : List (Nat × Option (List Nat)) := []
  stream : Option Nat := none
  noInstall : Bool := false
  atomic : Bool := false
  scratch : Bool := false
  copy : Option Nat := none
  stage : ReqStage := .atCore
  addr : Nat := 0
  scr : Option ScrAcc := none
  left : Nat := 0
  slack : Nat := 0
  arrived : Bool := false
  mates : List (Nat × Option Nat) := []
  again : Bool := false
  tear : Nat := 0
  got : Option (List Byte × Bool) := none
  noInst : Bool := false
  dirty : Bool := false
  deriving DecidableEq, Repr, Inhabited

/-- A Strait entry: one line under fetch, its core mask, the bytes and tags that its read takes in its place in the slice's
order, and whether a write has reached the line since (R294, R295). `dirty` are the
cores from which a store to the line has drained since their request left (R294), `noInst` those that must not install the
reply (R289). `link` is the tag, offset, size and gang bit of the read of another package that the entry serves (R296), `again` whether an error has dropped it
once (R309). -/
structure StraitEntry where
  line : Nat
  pkg : Option Nat
  cores : List Nat
  bytes : List Byte
  infos : List AtomInfo
  closed : Bool := false
  reqs : List Nat
  dirty : List Nat := []
  noInst : List Nat := []
  link : Option (Nat × Nat × Nat × Bool) := none
  again : Bool := false
  deriving DecidableEq, Repr, Inhabited

/-- An L1 line: line address, owner tag, bytes (R288). Lines stand most recently used first. -/
structure L1Line where
  line : Nat
  tag : Nat
  bytes : List Byte
  deriving DecidableEq, Repr, Inhabited

/-- An SFU result not yet written (R138). -/
structure SfuPend where
  thread : Nat
  d : Nat
  vals : List Word
  taint : Bool
  flags : Nat
  window : Nat
  slot : Option (Nat × List Word) := none
  deriving DecidableEq, Repr, Inhabited

/-- The state of the A operand latch as the accepted operations have left it (R230): HOLD of a gang of a team, with an A format. -/
structure Latch where
  team : Nat
  gang : Nat
  fmt : Nat
  deriving DecidableEq, Repr, Inhabited

/-- The rows that the latch holds as the performed operations have left it: the elements' patterns of 96 rows, and their scales. -/
structure LatchRows where
  rows : List (List Nat)
  scales : List Nat
  deriving DecidableEq, Repr, Inhabited

/-- An operation accepted by the matrix engine (R236). `held` says that an MMA takes its A operands from the latch (R230). -/
inductive MatOp where
  | gang (team : Nat) (g : GangInst) (held : Bool)
  | mzero (thread tile : Nat)
  | mcb (thread team slot addr mopf : Nat)
  deriving DecidableEq, Repr, Inhabited

/-- A unit of 32 bits that the matrix engine reads (R234): a register of a thread, a word of a team core's scratchpad at a physical
offset, or a word of a codebook slot of a team's core. -/
inductive MatUnit where
  | reg (thread r : Nat)
  | scr (team tc off : Nat)
  | slot (team core k w : Nat)
  deriving DecidableEq, Repr, Inhabited

/-- The forms of copies and drains (R251, R240, R241). -/
inductive CopyForm where
  | g2s | g2sT8 | g2sT16 | s2g | s2ga | g2g | mc | s2s | v2s | mdrain | mdraina | mdrains
  deriving DecidableEq, Repr, Inhabited

/-- A copy or drain from issue to finish (R252, R253): its operands as read at issue (`ptrA`, `ptrB` the index and offset of its
records), and from acceptance its records, its elements for each destination and its progress. `written` are ranges of chunks by
destination, `failed` the destinations that failed, `buf` elements that the engine has read and not yet written (R236), `after` the
matrix operations that a drain follows, `stores` the stores that it follows (R252). `adding` are the parts whose additions are in the
lanes of the atomic service: number, destination and range (R339). `started` is the clock of its acceptance, `atom` the bytes of a chunk: those
of an atom of a global destination (R299), else 32. -/
structure Copy where
  id : Nat
  thread : Nat
  grid : Nat
  owner : Nat
  team : Nat
  core : Nat
  form : CopyForm
  pc : Nat
  hnd : Nat
  ptrA : Option (Nat × Nat) := none
  ptrB : Option (Nat × Nat) := none
  slwD : List Word := []
  slwS : List Word := []
  orig : List Word := []
  cmask : Nat := 0
  cvt : Nat := 0
  tile : Nat := 0
  rmode : Nat := 0
  stream : Option Nat := none
  accepted : Bool := false
  recA : List Word := []
  recB : List Word := []
  units : Nat := 0
  dests : List Nat := []
  checked : Bool := false
  written : List (Nat × Nat × Nat) := []
  failed : List Nat := []
  srcFail : Bool := false
  stopped : Bool := false
  buf : List (Nat × Nat) := []
  readDone : Bool := false
  after : Nat := 0
  stores : List Nat := []
  adding : List (Nat × Nat × Nat × Nat) := []
  started : Nat := 0
  atom : Nat := 32
  deriving DecidableEq, Repr, Inhabited

/-- A near-memory command (R258 to R262). -/
structure NmCmd where
  id : Nat
  thread : Nat
  grid : Nat
  owner : Nat
  core : Nat
  stack : Nat
  words : List Word
  dst : List Target
  srcA : List Target
  record : Target
  sent : Bool := false
  next : Nat := 0
  stopped : Bool := false
  after : Nat := 0
  pages : List PageKey := []
  pc : Nat := 0
  deriving DecidableEq, Repr, Inhabited

/-- A cached buffer-table entry of a core (R318). -/
structure BufCached where
  core : Nat
  owner : Nat
  idx : Nat
  words : List Word
  deriving DecidableEq, Repr, Inhabited

/-- What a walk found (R319 Table 7): a leaf and its level, a missing page, or a refusal. -/
inductive WalkResult where
  | leaf (pte lvl : Nat)
  | missing (tier : Bool)
  | denied
  deriving DecidableEq, Repr, Inhabited

/-- A translation-buffer entry, or the outcome of a walk that a waiting access has yet to take (R320). -/
structure TlbEntry where
  core : Nat
  page : PageKey
  res : WalkResult
  deriving DecidableEq, Repr, Inhabited

/-- An instruction-cache line: code buffer and line number (R285, R289). -/
structure ICLine where
  core : Nat
  owner : Nat
  code : Nat
  line : Nat
  bytes : List Byte
  deriving DecidableEq, Repr, Inhabited

/-- A cached tensor record (R245): by owner and pointer. -/
structure RecCached where
  core : Nat
  owner : Nat
  ptr : Nat
  words : List Word
  deriving DecidableEq, Repr, Inhabited

/-- A page in the capacity tier: its contents and the side information of its atoms, as the engine restores them (R304; the bytes
between are the engine's own, notes/assumptions/106.md). -/
structure TierPage where
  page : PageKey
  bytes : Memory
  infos : List (Nat × AtomInfo)
  deriving DecidableEq, Repr, Inhabited

/-- A unit of the device that waits on a page: a queue's ring, a WAIT packet, a copy, a near-memory command before it is sent,
a grid's or a replay's completion record, a node of a replay, the table unit at a queue's command, or another package's read of an
owner's page. -/
inductive UnitId where
  | ring (q : Nat) | wait (q : Nat) | copy (id : Nat) | nm (id : Nat) | done (grid : Nat) | node (replay node : Nat)
  | replay (id : Nat) | command (q : Nat) | link (owner : Nat)
  deriving DecidableEq, Repr

/-- A unit that waits on a page; `refused` once the page's service has been refused (R341, R346). -/
structure UnitPark where
  page : PageKey
  unit : UnitId
  refused : Bool := false
  deriving DecidableEq, Repr

/-- The scrubber (R311, R336): the clocks at which it last ended a pass over the on-chip arrays and over HBM, and its periods in
clocks: 10 ms and 12 h at the nominal clock, unless the scrub policy sets others. -/
structure Scrub where
  sram : Nat := 0
  hbm : Nat := 0
  sramEvery : Nat := 6000000
  hbmEvery : Nat := 25920000000000
  deriving DecidableEq, Repr, Inhabited

/-- What a core's memories hold an owner tag of (R285): the register blocks of a context depth's slice, a scratchpad granule, the tiles. -/
inductive CoreUnit where
  | slice (core lg depth k : Nat)
  | granule (core n : Nat)
  | tiles (core : Nat)
  deriving DecidableEq, Repr

/-- The memory system of the package. `seq` numbers accesses in order of issue; `uid` numbers requests and copies; `transit` lists the
pages in transit, each with the rotation that it moves to, or none for the tier (R300, R305). `tlb2` are the chiplets' second-level
buffers (R320). `tags` are the owner tags in the cores' memories, each with the grid of the context that wrote it (R285). `podPages` are the pages of other packages that are not present there (R155). `scrub` is the scrubber's (R311). `fillMarks` are the bytes that stores have marked in fills on their way: core, address, tag and byte (R289).
`pageUse` gives the clock at which a page was last translated (R336).
`rels` are the releases that are at home while stores that they waited for are not: the core, and the threads and order numbers (R172). -/
structure MemSys where
  hbm : Memory := []
  atoms : List (Nat × AtomInfo) := []
  tbl : Memory := []
  pods : List (Nat × Memory) := []
  hostMem : Memory := []
  tier : List TierPage := []
  ops : List SqOp := []
  reqs : List Req := []
  entries : List StraitEntry := []
  l1 : List (Nat × List L1Line) := []
  icache : List ICLine := []
  recs : List RecCached := []
  bufc : List BufCached := []
  tlb : List TlbEntry := []
  tlb2 : List TlbEntry := []
  miss : List (Nat × PageKey) := []
  transit : List (PageKey × Option Nat) := []
  parks : List UnitPark := []
  podPages : List (PageKey × RemotePage) := []
  scrub : Scrub := {}
  keys : List Nat := []
  tags : List (CoreUnit × Nat × Nat) := []
  fillMarks : List (Nat × Nat × Nat × Byte) := []
  rels : List (Nat × List (Nat × Nat)) := []
  pageUse : List (PageKey × Nat) := []
  errLog : Nat := 0
  seq : Nat := 0
  uid : Nat := 0
  deriving DecidableEq, Repr, Inhabited

/-! ### Engines -/

/-- The engines of the cores and stacks. Tiles are keyed by core and tile, codebook slots by core and slot. `matlog` lists, oldest first,
the values that units which the matrix engine reads have lost to a write (R234). -/
structure Engines where
  sfu : List SfuPend := []
  tiles : List (Nat × Nat × WordMem) := []
  slots : List (Nat × Nat × List Byte) := []
  latch : List (Nat × Latch) := []
  latched : List (Nat × LatchRows) := []
  matq : List (Nat × MatOp) := []
  matTeam : List (Nat × Nat) := []
  matlog : List (MatUnit × Word) := []
  copies : List Copy := []
  nm : List NmCmd := []
  deriving DecidableEq, Repr, Inhabited

/-! ### Queues, launches, graphs -/

/-- A queue entry: eight words, with the grid of the device thread that pushed it (R215, R346). -/
structure QEntry where
  words : List Word
  pusher : Option Nat := none
  deriving DecidableEq, Repr, Inhabited

/-- A hardware queue as enabled (R331, R340, R341, R342). `pushers` keeps, for each ring
entry in use, the pusher's grid; `mark` is the management command taken that waits, with the order number at which it has dropped
translations (R320). -/
structure HwQueue where
  q : Nat
  en : Bool := false
  kind : Nat := 0
  owner : Nat := 0
  logcap : Nat := 0
  ring : Quad := 0
  head : Nat := 0
  tail : Nat := 0
  fifo : List QEntry := []
  pushers : List (Option Nat) := []
  drops : Nat := 0
  stopped : Option Nat := none
  mark : Option (Nat × List Word) := none
  deriving DecidableEq, Repr, Inhabited

/-- The kinds of queue operation of a thread (R215). -/
inductive QOpKind where
  | push | pushD | pop | pushNb (p : Nat) | popNb (p : Nat)
  deriving DecidableEq, Repr, Inhabited

/-- A queue operation that a thread has issued and the queue unit has not performed (R214 to R216). `fset` numbers the fused set
that issued it, and `started` says that an operation of that set has been performed. Blocked operations stand in the order in
which they blocked. `left` is the clock at which it left its core, with its slack tag, and `arrived` says that it waits at the queue
unit's input (R361). `drop` is the partition and owner whose PCNT11 counts the loss of an observation or containment record (R384, R418). -/
structure QOp where
  q : Nat
  thread : Nat
  kind : QOpKind
  d : Nat
  words : List Word
  after : Nat
  fset : Nat := 0
  started : Bool := false
  blocked : Bool := false
  left : Nat := 0
  slack : Nat := 0
  arrived : Bool := false
  drop : Option (Nat × Nat) := none
  deriving DecidableEq, Repr, Inhabited

/-- A WAIT packet holding its launch queue (R346). -/
structure WaitPkt where
  q : Nat
  owner : Nat
  code : Quad
  value : Word
  done : Quad
  grids : List Nat
  polled : Nat
  deriving DecidableEq, Repr, Inhabited

/-- A node's progress in a replay: count, marks received, whether it has started and finished, its iterations, and the grid that it
has launched (R353 to R355); `wave` numbers the finish in which it started. -/
structure NodeState where
  count : Nat := 0
  run : Bool := false
  skip : Bool := false
  started : Bool := false
  finished : Bool := false
  iter : Nat := 0
  grid : Nat := 0
  wave : Nat := 0
  deriving DecidableEq, Repr, Inhabited

/-- A graph replay (R353 to R357): `wave` counts the finishes of its nodes, and `checked` says that its record's pointer was checked at the
intake of a packet (R344). -/
structure Replay where
  id : Nat
  graph : Nat
  owner : Nat
  obj : Nat
  cnt : Nat
  done : Quad
  part : Nat
  nodes : List NodeState
  patches : List (Nat × Nat × Word) := []
  pins : List (Nat × Nat) := []
  cadgen : Nat := 0
  stopped : Option (Nat × Nat × Nat × Option FirstFault) := none
  wave : Nat := 0
  checked : Bool := false
  deriving DecidableEq, Repr, Inhabited

/-- A kick waiting in a partition's FIFO, or from a KICK packet (R283, R346), with the caddy pins and the switch count of its clock (R308). -/
structure Kick where
  part : Nat
  owner : Nat
  graph : Nat
  patch : Quad
  done : Option Quad := none
  queue : Option Nat := none
  pins : List (Nat × Nat) := []
  cadgen : Nat := 0
  deriving DecidableEq, Repr, Inhabited

/-- What an open HOST-mode question will decide (R336, R338). -/
inductive Question where
  | placement (grid team : Nat) | pageRot (page : PageKey) | tier (page : PageKey) | pageFault (page : PageKey)
  | cadswitch (q slot gen : Nat) | classify (grid : Nat) | thermal (team dst : Nat) | opPoint (reg mhz : Nat) | scrub
  deriving DecidableEq, Repr, Inhabited

/-- A question posted to the host, the hardware decision, and its deadline in clocks (R338). `answer` is the decision, once it is made. -/
structure OpenQ where
  fn : Nat
  seqNo : Nat
  what : Question
  hw : Nat
  deadline : Nat
  answer : Option Nat := none
  deriving DecidableEq, Repr, Inhabited

/-- A function mode entry as loaded (R337), and its words. -/
structure FnMode where
  host : Bool := false
  evq : Nat := 0
  tmo : Nat := 0
  raw : List Word := [0, 0, 0, 0]
  deriving DecidableEq, Repr, Inhabited

/-- A convoy entry (R324). `pos` gives POS and NAME of each index held: index, thread key, position. `changed` says that the set of active
members has changed in this clock (R366). -/
structure Convoy where
  id : Nat
  bound : Bool := false
  grid : Nat := 0
  sl : Nat := 0
  lt : Nat := 0
  cvm : BitVec 64 := 0
  cvl : BitVec 64 := 0
  tail : Nat := 0
  tailclk : Nat := 0
  heldClk : Option Nat := none
  pos : List (Nat × Nat × Nat) := []
  changed : Bool := false
  deriving DecidableEq, Repr, Inhabited

/-- The kinds of change that reach a convoy node in a clock after its steps, in their order (R325). -/
inductive CvKind where
  | lapse | leave | join | setSl (x : Nat) | setLt (x : Nat)
  deriving DecidableEq, Repr, Inhabited

/-- A change that has reached a convoy node in this clock and takes effect at its end (R325, R371): the thread and where it is, the
convoy and index, and the offset of the instruction, for a join that fails. -/
structure CvChange where
  kind : CvKind
  thread : Nat
  grid : Nat
  core : Nat
  lane : Nat
  convoy : Nat
  idx : Nat
  pc : Nat
  deriving DecidableEq, Repr, Inhabited

/-- The on-chip state of a caddy slot (R326): states, SUSPECT, pins, and the progress and digest failures of the shards
being written, with the plaintext of each as it has arrived (R327). -/
structure Caddy where
  slot : Nat
  state : List Nat := [0, 0]
  sus : List Bool := [false, false]
  pin : List Nat := [0, 0]
  shard : List (Nat × Nat) := []
  badShards : List (Nat × Nat) := []
  goodShards : List (Nat × Nat) := []
  data : List (Nat × List Byte) := []
  deriving DecidableEq, Repr, Inhabited

/-- A grid barrier's release that has still to resume its waiting threads' cores, in order (R364): those of a limited release
24 at a time, in the clocks after `clock`. -/
structure Slew where
  grid : Nat
  bar : Nat
  cores : List Nat
  clock : Nat
  deriving DecidableEq, Repr, Inhabited

/-- The dispatch side: grids, teams, queues, graphs. `convoysSeen` is the convoy table as the last clock left it, which the hold
test and MOVS read (R274, R367); `cvq` are the changes of this clock that take effect at its end (R325). -/
structure Dispatcher where
  grids : List Grid := []
  teams : List Team := []
  queues : List HwQueue := []
  qops : List QOp := []
  waits : List WaitPkt := []
  kicks : List Kick := []
  replays : List Replay := []
  openQs : List OpenQ := []
  fnSeq : List Nat := List.replicate 9 0
  fnModes : List FnMode := List.replicate 9 {}
  convoys : List Convoy := []
  convoysSeen : List Convoy := []
  cvq : List CvChange := []
  caddies : List Caddy := []
  cadCount : Nat := 0
  owners : List (Nat × List Word) := []
  nextGrid : Nat := 1
  nextKey : Nat := 0
  nextOrder : Nat := 0
  slew : List Slew := []
  slewLast : Nat := 15
  deriving DecidableEq, Repr

/-! ### Device registers, debug, power -/

/-- A debug window (R383), the performance counters, and how they stood at the end of the last clock (R391); `sampled` gives each core's rotating pointer and the clock of its
last sample (R385). -/
structure Debug where
  attach : Bool := false
  target : Nat := 0
  evq : Nat := 0
  sper : Nat := 0
  trcen : BitVec 128 := 0
  smode : Nat := 0
  bpc : List Nat := List.replicate 8 0
  bmode : List Nat := List.replicate 8 0
  ben : List Bool := List.replicate 8 false
  wptr : List Nat := List.replicate 4 0
  wlen : List Nat := List.replicate 4 0
  wmode : List Nat := List.replicate 4 0
  wact : List Nat := List.replicate 4 0
  pcnt : List Nat := List.replicate 16 0
  pcntEnd : List Nat := List.replicate 16 0
  sampled : List (Nat × Nat × Nat) := []
  deriving DecidableEq, Repr, Inhabited

/-- The device registers (R278 to R284), DVSEC registers (R420) and bring-up results (R421, R422). `bootIn` is what the bring-up under way
meets outside the module, `ports` the Etlen Link ports that are up, and `attReq` the address and nonce of the request that ATTGO has
read (R426). -/
structure Regs where
  parts : List Word := List.replicate 16 0
  regsel : Word := 0xFFAA5500
  regActive : Word := 0xFFAA5500
  lbudget : List Word := List.replicate 16 0x226
  premove : List (Nat × Nat) := []
  deverr : Nat := 0
  kstat : List Nat := List.replicate 16 0
  bootlo : Word := 0
  boothi : Word := 0
  state : Nat := 0
  err : Nat := 0
  attlo : Word := 0
  atthi : Word := 0
  attbusy : Bool := false
  pkg : Nat := 0
  npkg : Nat := 0
  tblBase : Nat := 0
  tblSize : Nat := 0
  savePool : Nat := 0
  fwVersion : Word := 0
  fwDigest : List Byte := []
  bootIn : Option BringUp := none
  ports : List Bool := List.replicate 12 false
  attReq : Nat × List Byte := (0, [])
  deriving DecidableEq, Repr, Inhabited

/-- Power and thermal state (R427 to R429): the clock of each regulator in MHz, ration level and integral of each layer,
the clock that it asks for, the last reported hot spot of each layer, the time of each partition's last move, each layer's last
control period, the main clocks of each layer since module reset, and, of each regulator, whether it has one in this clock of the package,
and the part of one that it has gained (notes/assumptions/101.md). -/
structure Power where
  mhz : List Nat := List.replicate 4 600
  ration : List Nat := List.replicate 16 0
  integ : List Int := List.replicate 16 0
  want : List Nat := List.replicate 16 600
  temps : List Int := List.replicate 16 0
  lastMove : List (Option Nat) := List.replicate 16 none
  period : List Nat := List.replicate 16 0
  clocks : List Nat := List.replicate 16 0
  beats : List Bool := List.replicate 4 true
  credit : List Nat := List.replicate 4 0
  deriving DecidableEq, Repr, Inhabited

/-! ### The machine -/

/-- What the schedule names next: a lane group's pick, another look of a BLOCKED thread
at what it waits for, a clock, a device step, the next step of bring-up (R422), the words of an access that go on apart (R165), a host's
read of a register (R284), or the loss of a cached copy that the device may drop at any time. The schedule is the model's own: the spec fixes no latency (R441). -/
inductive Sched where
  | pick (core lg : Nat)
  | retry (thread : Nat)
  | tick
  | event (i : Instr)
  | boot
  | readReg (dvsec : Bool) (off : Nat)
  | splitOp (seq words : Nat) (hi : Bool)
  | splitReq (id words : Nat)
  | evictI (core owner code line : Nat)
  | evictBuf (core owner idx : Nat)
  | evictTlb (core : Nat) (page : PageKey)
  | evictRec (core owner ptr : Nat)
  deriving DecidableEq, Repr

/-- The state of the package. `cur` is the thread an instruction acts on, `fused` the rest of the fused set now issuing,
`picked` the lane groups that have issued in this clock, `sched` the schedule, `free` the free-value counter, `stall` whether
the thread that was tried last is WAITING, `ulead` the operands of the leader of a fused set under U and `ureq` its request (R32, R162),
`phase` how far the current clock has come (R292, R323, R325), `ready` the READY threads of the lane group about to issue, `looks` the BLOCKED threads that look again in their lane group's turn, and `banked`
the last access of this clock at each core's scratchpad (R292): these are the model's own fields. `slacks` are the numbers of READY
threads of the cores that have issued in this clock (R275), and `chose` gives the PC that each lane group has chosen in it (R385).
`hostOut` is what the last host read, or read of another package, returned, and `hostBad` says that it returned POISON (R424). -/
structure State where
  clock : Nat := 0
  threads : List Thread := []
  disp : Dispatcher := {}
  mem : MemSys := {}
  eng : Engines := {}
  regs : Regs := {}
  debugs : List Debug := List.replicate 16 {}
  power : Power := {}
  cur : Nat := 0
  fused : List Nat := []
  picked : List (Nat × Nat) := []
  sched : List Sched := []
  free : Nat := 0
  stall : Bool := false
  ulead : Option (List Nat) := none
  ureq : Option Nat := none
  phase : Nat := 0
  ready : List Nat := []
  looks : List Nat := []
  banked : List (Nat × List Nat) := []
  slacks : List (Nat × Nat) := []
  chose : List (Nat × Nat × Nat) := []
  hostOut : List Word := []
  hostBad : Bool := false
  deriving DecidableEq, Repr

/-- Why a step has no next state. -/
inductive Fault where
  /-- Raised by a device step or an instruction that the state does not enable: a schedule named a step that cannot happen
  here (no such request, no such thread, an engine with nothing to do), so there is no transition. Safe. -/
  | notEnabled
  /-- Raised where a physical address lies beyond the stacks of R285, which a table that the host wrote named. Safe. -/
  | noMemory
  deriving DecidableEq, Repr

/-- Why an instruction has no meaning. -/
inductive Refusal where
  /-- Raised by exec for an instruction whose meaning is not written yet. Safe. -/
  | notModelled (mnemonic : String)
  deriving DecidableEq, Repr

/-- The machine right after module reset (R8, R278 to R284, R420, R422): STATE is RESET, no thread exists, every table and
queue is empty, every device register has its reset value. -/
def State.reset : State := {}

end Sys2Proof.Machine
end

