-- ==== Sys2Proof/Machine/Ops.lean ====
section
/-! DEFINITION. The named operations over cells, registers, threads and the tables of State; raising a fault, the checks of an
issuing instruction (R90, R100), and how an instruction retires. -/

namespace Sys2Proof.Machine

/-- The outcome of a step. -/
abbrev Out := Host.Outcome State Fault Refusal

/-- No such transition exists in this state. -/
abbrev stuck : Out := .fault .notEnabled

/-- A step that needs something found. -/
def need {α : Type} (o : Option α) (f : α → Out) : Out :=
  match o with
  | some a => f a
  | none => stuck

/-- A step that a condition enables. -/
def whenOk (c : Bool) (o : Out) : Out := if c then o else stuck

/-! ### Lists -/

/-- The element at a place, written; a list shorter than that place is filled with d. -/
def putAt {α : Type} (d : α) : List α → Nat → α → List α
  | [], 0, x => [x]
  | [], n + 1, x => d :: putAt d [] n x
  | _ :: l, 0, x => x :: l
  | y :: l, n + 1, x => y :: putAt d l n x

/-- Values written from a place on. -/
def putMany {α : Type} (d : α) (l : List α) (n : Nat) : List α → List α
  | [] => l
  | x :: xs => putMany d (putAt d l n x) (n + 1) xs

/-- Every element that meets a test, changed. -/
def mapIf {α : Type} (p : α → Bool) (f : α → α) (l : List α) : List α := l.map fun x => if p x then f x else x

/-- The value of a key in a list of pairs. -/
def assoc {α β : Type} [BEq α] (l : List (α × β)) (k : α) : Option β := (l.find? fun x => x.1 == k).map (·.2)

/-- A pair set in a list of pairs. -/
def assocSet {α β : Type} [BEq α] (l : List (α × β)) (k : α) (v : β) : List (α × β) :=
  match l with
  | [] => [(k, v)]
  | (a, b) :: r => if a == k then (k, v) :: r else (a, b) :: assocSet r k v

/-- An element dropped. -/
def dropIf {α : Type} (p : α → Bool) (l : List α) : List α := l.filter fun x => !p x

/-- The least number of a list, if any. -/
def leastOf : List Nat → Option Nat
  | [] => none
  | x :: xs => match leastOf xs with
    | none => some x
    | some y => some (min x y)

/-- The first of two by an order given as a list of numbers. -/
def lexLess : List Nat → List Nat → Bool
  | [], _ => false
  | _, [] => false
  | a :: as, b :: bs => decide (a < b) || (a == b && lexLess as bs)

/-! ### Cells: memories in canonical form -/

/-- The cell at an address; an unlisted one is 0. -/
def cellGet {n : Nat} : List (Nat × BitVec n) → Nat → BitVec n
  | [], _ => 0
  | (b, x) :: r, a => if b == a then x else cellGet r a

/-- A cell written, in canonical form: an entry that would equal 0 is not listed. -/
def cellSet {n : Nat} : List (Nat × BitVec n) → Nat → BitVec n → List (Nat × BitVec n)
  | [], a, v => if v == 0 then [] else [(a, v)]
  | (b, x) :: r, a, v =>
    if a < b then (if v == 0 then (b, x) :: r else (a, v) :: (b, x) :: r)
    else if a == b then (if v == 0 then r else (a, v) :: r)
    else (b, x) :: cellSet r a v

/-- The canonical form: addresses strictly rising, every entry different from 0. -/
def cellsWf {n : Nat} : List (Nat × BitVec n) → Bool
  | [] => true
  | [(_, x)] => x != 0
  | (a, x) :: (b, y) :: r => x != 0 && decide (a < b) && cellsWf ((b, y) :: r)

/-- The canonical form of a memory. -/
def Memory.wf (m : Memory) : Bool := cellsWf m

/-- The bytes from an address on. -/
def memRead (m : Memory) (a : Nat) : Nat → List Byte
  | 0 => []
  | n + 1 => cellGet m a :: memRead m (a + 1) n

/-- Bytes written from an address on. -/
def memWrite (m : Memory) (a : Nat) : List Byte → Memory
  | [] => m
  | x :: xs => memWrite (cellSet m a x) (a + 1) xs

/-- Bytes written at their own addresses. -/
def memPut (m : Memory) : List (Nat × Byte) → Memory
  | [] => m
  | (a, x) :: r => memPut (cellSet m a x) r

/-- A little-endian value of n bytes at an address. -/
def memNat (m : Memory) (a n : Nat) : Nat := wordOfBytes (memRead m a n)

/-- The words of a list of bytes. -/
def wordsOf : List Byte → List Word
  | a :: b :: c :: d :: r => word (wordOfBytes [a, b, c, d]) :: wordsOf r
  | _ => []

/-- The bytes of a list of words. -/
def bytesOf : List Word → List Byte
  | [] => []
  | w :: ws => bytesOfWord 4 w.toNat ++ bytesOf ws

/-- Bytes as words, the last filled up with zeros. -/
def packWords (bs : List Byte) : List Word := wordsOf (bs ++ List.replicate ((4 - bs.length % 4) % 4) 0)

/-- Words as one number, the first least significant. -/
def natOfWords : List Word → Nat
  | [] => 0
  | w :: ws => w.toNat + 2 ^ 32 * natOfWords ws

/-- A number as n words. -/
def wordsOfNat : Nat → Nat → List Word
  | 0, _ => []
  | n + 1, v => word v :: wordsOfNat n (v / 2 ^ 32)

/-! ### Threads, teams, grids -/

/-- A thread by its key. -/
def getThread (s : State) (k : Nat) : Option Thread := s.threads.find? fun t => t.key == k

/-- A thread put back under its key. -/
def putThread (s : State) (t : Thread) : State := { s with threads := mapIf (fun u => u.key == t.key) (fun _ => t) s.threads }

/-- Every resident thread that meets a test, changed. -/
def mapThreads (s : State) (p : Thread → Bool) (f : Thread → Thread) : State := { s with threads := mapIf p f s.threads }

/-- Every thread, resident or in a save block. -/
def allThreads (s : State) : List Thread := s.threads ++ s.disp.grids.flatMap fun g => g.saved.flatMap (·.threads)

/-- Every thread that meets a test, resident or in a save block, changed. -/
def mapAllThreads (s : State) (p : Thread → Bool) (f : Thread → Thread) : State :=
  let save (g : Grid) : Grid := { g with saved := g.saved.map fun b => { b with threads := mapIf p f b.threads } }
  { s with threads := mapIf p f s.threads, disp := { s.disp with grids := s.disp.grids.map save } }

/-- A thread changed, resident or in a save block (R414). -/
def onThread (s : State) (k : Nat) (f : Thread → Thread) : State := mapAllThreads s (fun u => u.key == k) f

/-- A grid by its id. -/
def getGrid (s : State) (g : Nat) : Option Grid := s.disp.grids.find? fun x => x.id == g

/-- A grid put back. -/
def putGrid (s : State) (g : Grid) : State :=
  { s with disp := { s.disp with grids := mapIf (fun x => x.id == g.id) (fun _ => g) s.disp.grids } }

/-- A resident team by its key. -/
def getTeam (s : State) (k : Nat) : Option Team := s.disp.teams.find? fun x => x.key == k

/-- A team put back. -/
def putTeam (s : State) (t : Team) : State :=
  { s with disp := { s.disp with teams := mapIf (fun x => x.key == t.key) (fun _ => t) s.disp.teams } }

/-- The owner of a grid; 0 where there is none. -/
def ownerOf (s : State) (g : Nat) : Nat := ((getGrid s g).map (·.owner)).getD 0

/-- The memory system changed. -/
def withMem (s : State) (f : MemSys → MemSys) : State := { s with mem := f s.mem }

/-- The engines changed. -/
def withEng (s : State) (f : Engines → Engines) : State := { s with eng := f s.eng }

/-- The dispatcher changed. -/
def withDisp (s : State) (f : Dispatcher → Dispatcher) : State := { s with disp := f s.disp }

/-- The next order number. -/
def bump (s : State) : State := withMem s fun m => { m with seq := m.seq + 1 }

/-- A free value (notes/assumptions/2.md): the word, and the state with the counter advanced. -/
def takeFree (s : State) : Word × State := (Config.freeWord s.free, { s with free := s.free + 1 })

/-! ### Units (R12) -/

/-- The die layer of a core. -/
def layerOfCore (c : Nat) : Nat := c / 12
/-- The chiplet of a core. -/
def chipOfCore (c : Nat) : Nat := c / 24
/-- The reticle region of a core. -/
def retiOfCore (c : Nat) : Nat := c / 48
/-- The chiplet of a layer. -/
def chipOfLayer (l : Nat) : Nat := l / 2

/-- The regulator that a REGSEL value names for a layer (R280). -/
def regOf (x : Word) (l : Nat) : Nat := x.toNat / 2 ^ (2 * l) % 4

/-- Whether a layer's regulator has a main clock in this clock of the package (notes/assumptions/101.md). -/
def layerBeats (s : State) (l : Nat) : Bool := s.power.beats.getD (regOf s.regs.regActive l) true

/-- Whether a core's regulator has a main clock in this clock of the package (R427). -/
def beats (s : State) (core : Nat) : Bool := layerBeats s (layerOfCore core)

/-- The main clocks of a core since module reset (R5, R266): those of its layer, whichever regulator has fed it. -/
def mainClocks (s : State) (core : Nat) : Nat := s.power.clocks.getD (layerOfCore core) 0

/-- The lowest scope that encloses two cores: CORE, LAYER, CHIP, RETI or PKG (R13, R14). -/
def scopeOfCores (a b : Nat) : Nat :=
  if a == b then 1
  else if layerOfCore a == layerOfCore b then 2
  else if chipOfCore a == chipOfCore b then 3
  else if retiOfCore a == retiOfCore b then 4
  else 5

/-! ### Registers (R268 to R271) -/

/-- A general register. -/
def rdV (t : Thread) (r : Nat) : Word := t.v.getD r 0
/-- The taint bit of a general register. -/
def rdTaint (t : Thread) (r : Nat) : Bool := t.vt.getD r false
/-- A general register and its taint bit, written. -/
def wrV (t : Thread) (r : Nat) (x : Word) (taint : Bool) : Thread :=
  { t with v := putAt 0 t.v r x, vt := putAt false t.vt r taint }
/-- Consecutive registers, written with one taint. -/
def wrMany (t : Thread) (r : Nat) (taint : Bool) : List Word → Thread
  | [] => t
  | x :: xs => wrMany (wrV t r x taint) (r + 1) taint xs
/-- Consecutive registers. -/
def rdMany (t : Thread) (r n : Nat) : List Word := (List.range n).map fun i => rdV t (r + i)
/-- The OR of the taint bits of consecutive registers. -/
def taintMany (t : Thread) (r n : Nat) : Bool := (List.range n).any fun i => rdTaint t (r + i)
/-- A 64-bit pair (R49). -/
def rdPair (t : Thread) (r : Nat) : Nat := (rdV t r).toNat + 2 ^ 32 * (rdV t (r + 1)).toNat
/-- A pair written. -/
def wrPair (t : Thread) (r x : Nat) (taint : Bool) : Thread := wrMany t r taint (wordsOfNat 2 x)
/-- A predicate; p0 reads 1 (R270). -/
def rdP (t : Thread) (i : Nat) : Bool := i == 0 || t.p.getLsbD i
/-- A predicate written; a write to p0 is discarded (R270). -/
def wrP (t : Thread) (i : Nat) (b : Bool) : Thread :=
  if i == 0 then t
  else { t with p := if b then t.p ||| BitVec.ofNat 128 (2 ^ i) else t.p &&& ~~~ BitVec.ofNat 128 (2 ^ i) }
/-- A buffer slot (R271). -/
def rdB (t : Thread) (i : Nat) : Quad := t.b.getD i 0
/-- The taint bit of a buffer slot. -/
def rdBTaint (t : Thread) (i : Nat) : Bool := t.bt.getD i false
/-- Flags ORed into FLAGS (R67). -/
def orFlags (t : Thread) (f : Nat) : Thread := { t with flags := t.flags ||| f }
/-- The value of an optional literal operand (R93). -/
def rdSrc (t : Thread) : Src → Word
  | .reg r => rdV t r.toNat
  | .lit w => w
/-- Its taint. -/
def taintSrc (t : Thread) : Src → Bool
  | .reg r => rdTaint t r.toNat
  | .lit _ => false

/-- Whether a guard passes (R88, R87). -/
def guardPasses (t : Thread) (g : Guard) : Bool :=
  let k := g.k.toNat
  k == 0 || (rdP t (8 * ((t.clause.map (·.gw)).getD 0) + k) != g.n)

/-- The flags of results that were written inside windows that still count, all of them in FLAGS (R139). -/
def flushFlags (t : Thread) : Thread :=
  { t with flags := t.windows.foldl (fun f w => f ||| w.flags) t.flags, windows := t.windows.map fun w => { w with flags := 0 } }

/-! ### Faults (R408 to R411) -/

/-- A fault raised at a thread: trap entry comes when its pending destinations have settled. -/
def faulted (t : Thread) (f : FaultInfo) : Thread := { t with st := .trapping f }

/-- A precise fault of the instruction at the thread's PC. -/
def raise (s : State) (t : Thread) (code : FaultCode) (arg : Nat := 0) (addr : Nat := 0) (mask : Option Nat := none) : Out :=
  .next (putThread s (faulted t { code := code, arg := arg, tpc := t.pc, addr := addr, mask := mask }))

/-- The code of a fault (R408 Table 1). -/
def FaultCode.num : FaultCode → Nat
  | .illegalOpcode => 0x01 | .illegalClause => 0x02 | .illegalOperand => 0x03 | .role => 0x04 | .lookahead => 0x05
  | .misaligned => 0x06 | .bufIndex => 0x07 | .bufBounds => 0x08 | .bufRights => 0x09 | .page => 0x0B | .pageDenied => 0x0C
  | .scratchBounds => 0x0D | .handle => 0x0E | .rdvMask => 0x0F | .rdvAbsent => 0x10 | .gang => 0x11 | .poison => 0x12
  | .queue => 0x13 | .nm => 0x14 | .trap => 0x15 | .bkpt => 0x16 | .watch => 0x17 | .barrier => 0x18 | .convoy => 0x19
  | .contain => 0x1A

/-- TCAUSE (R273): LATE, ARG and CODE. -/
def tcauseOf (f : FaultInfo) : Word := word (boolNat f.late * 2 ^ 15 + f.arg % 128 * 2 ^ 8 + f.code.num)

/-- Trap entry (R411 steps 2 to 4): the trap registers are written together, in-handler becomes 1 and the PC becomes TVEC. It
changes no general register, predicate, slot, taint bit, MEET, MHB, RMODE or FLAGS. No window is open any more (R380): the flags of
results that had been written inside one are in FLAGS. -/
def takeTrap (t : Thread) (f : FaultInfo) : Thread :=
  { flushFlags t with
    tcause := tcauseOf f, tpc := word f.tpc, taddrl := word (f.addr % 2 ^ 32), taddrh := word (f.addr / 2 ^ 32)
    tmask := word (f.mask.getD (2 ^ t.lane)), inHandler := true, nowhere := f.nowhere, pc := t.tvec, clause := none
    windows := [], st := .ready, fresh := true, skipBrk := false, meetDone := false }

/-- Return from a trap (R266, R412): the thread at an offset, inside the clause that holds it or at a header, in-handler 0. -/
def trapReturn (t : Thread) (pc : Nat) (c : Option ClauseCtx) : Thread :=
  { t with pc := pc, clause := c, inHandler := false, meetDone := false }

/-! ### Lookahead windows (R100, R378) -/

/-- Whether a window still has something to wait for. -/
def Window.open (w : Window) : Bool := !w.regs.isEmpty || !w.reads.isEmpty || w.poison.isSome

/-- Whether destinations are still to be written, or operands to be read. -/
def Window.pending (w : Window) : Bool := (!w.regs.isEmpty || !w.reads.isEmpty) && w.poison.isNone

/-- Whether a window keeps the mark of a destination that is written, while an engine has still to read the register for an
earlier instruction (R377). -/
def keepsMark (ws : List Window) (w : Window) : Bool :=
  ws.any fun x => x.id != w.id && x.poison.isNone && x.reads.any w.dests.contains

/-- The windows that stay: those that still have something to wait for, count, hold back flags, or keep a mark. -/
def pruneWindows (ws : List Window) : List Window :=
  ws.filter fun w => w.open || decide (0 < w.remain) || w.flags != 0 || keepsMark ws w

/-- Windows after one more dynamic instruction. -/
def tickWindows (ws : List Window) : List Window :=
  pruneWindows (ws.map fun w => { w with remain := w.remain - 1, flags := if w.remain == 0 then 0 else w.flags })

/-- The flags of results whose windows have ended: they are in FLAGS for the instruction that issues now (R135). -/
def endedFlags (ws : List Window) : Nat := ws.foldl (fun f w => if w.remain == 0 then f ||| w.flags else f) 0

/-- The registers that an instruction names, read or written. -/
def namesReg (u : Uses) (r : Nat) : Bool :=
  (u.reads ++ u.writes).any fun x => decide (x.first ≤ r ∧ r < x.first + x.count)

/-- An instruction that reads or writes a pending destination of a window it lies inside: the count alone decides (R100, R378). -/
def windowConflict (t : Thread) (u : Uses) : Bool :=
  t.windows.any fun w => decide (0 < w.remain) && w.dests.any (namesReg u)

/-- A window that has ended with something still pending: the next instruction waits (R100, R233). -/
def windowClosed (t : Thread) : Bool :=
  t.windows.any fun w => w.remain == 0 && w.pending

/-- The POISON that is due at the first instruction after its access's window (R186). -/
def poisonDue (t : Thread) : Option FaultInfo := (t.windows.find? fun w => w.remain == 0 && w.poison.isSome).bind (·.poison)

/-- A window opened (R378). -/
def openWindow (t : Thread) (id la : Nat) (regs reads : List Nat) : Thread :=
  { t with windows := t.windows ++ [{ id := id, pc := t.pc, remain := la, regs := regs, reads := reads, dests := regs }] }

/-- The windows of a thread changed at one of them, and those that have nothing left dropped. -/
def atWindow (t : Thread) (id : Nat) (f : Window → Window) : Thread :=
  { t with windows := pruneWindows (mapIf (fun w => w.id == id) f t.windows) }

/-- The registers of a window written, or read by the engine: it has nothing more pending (R377). -/
def closeWindow (t : Thread) (id : Nat) : Thread := atWindow t id fun w => { w with regs := [], reads := [] }

/-- A result's flags: in FLAGS at once, or, while its window counts, with the window (R135). -/
def lateFlags (t : Thread) (id f : Nat) : Thread :=
  if t.windows.any fun w => w.id == id && decide (0 < w.remain) then
    { t with windows := mapIf (fun w => w.id == id) (fun w => { w with flags := w.flags ||| f }) t.windows }
  else orFlags t f

/-! ### Issue (R90) -/

/-- The outcome of the checks that stand before an instruction's own effect. -/
inductive Verdict where
  | ok | skip | wait | late (f : FaultInfo) | bad (c : FaultCode)
  deriving DecidableEq, Repr

/-- The checks of R90 steps 1 to 6, after the waits of R100. -/
def issueCheck (i : Instr) (t : Thread) : Verdict :=
  match poisonDue t with
  | some f => .late f
  | none =>
    if windowClosed t then .wait
    else if !guardWf (guardOf i) then .bad .illegalOperand
    else if !guardPasses t (guardOf i) && !actsUnguarded ((classOf i).getD 0) (opOf i) then .skip
    else if !(needOf ((classOf i).getD 0) (opOf i)).met t.kind then .bad .role
    else if !operandsWf t.budget i then .bad .illegalOperand
    else if windowConflict t (uses i) then .bad .lookahead
    else if (lookaheadOf i).isSome && decide (16 ≤ (t.windows.filter Window.open).length) then .wait
    else .ok

/-- The bytes of an instruction: its word, and its literal where it has one (R93). -/
def lengthOf (i : Instr) : Nat :=
  match encode i with
  | some w => if w.lit.isSome then 8 else 4
  | none => 0

/-- U of an instruction on which it may be 1 (R31). -/
def uBit (i : Instr) : Bool := ((encode i).map fun w => (w.cls == 0 || w.cls == 5 || w.cls == 1) && fieldU w.w).getD false

/-- The PC after an instruction, and the clause it leaves when it was the last (R82). -/
def advance (t : Thread) (n : Nat) : Thread :=
  { t with
    pc := t.pc + n
    clause := t.clause.bind fun c => if c.stop ≤ t.pc + n then none else some c }

/-- One more dynamic instruction of a thread, for its windows; the flags of results whose windows have ended are in FLAGS (R135, R378). -/
def counted (t : Thread) : Thread := { t with windows := tickWindows t.windows, flags := t.flags ||| endedFlags t.windows }

/-- What every issued instruction does to its thread: one dynamic instruction for each window, and the clock of issue, kept as the
clock after it, so that a thread that has issued in this clock is told from one created in it. -/
def issued (s : State) (t : Thread) : Thread :=
  { counted t with lastIssue := s.clock + 1, issuePc := t.pc, readySince := mainClocks s t.core + 1, skipBrk := false }

/-- An instruction done: the thread at the next instruction. -/
def retire (i : Instr) (s : State) (t : Thread) : State := putThread s (advance t (lengthOf i))

/-- A thread that is WAITING: nothing changes but the note of it. -/
def waits (s : State) : Out := .next { s with stall := true }

/-- The issue of an instruction by the current thread: the checks of R90, then its effect on the state and the thread. -/
def issue (i : Instr) (s : State) (eff : State → Thread → Out) : Out :=
  need (getThread s s.cur) fun t =>
    whenOk (t.st == .ready) <|
      match issueCheck i t with
      | .ok => eff s (issued s t)
      | .skip => .next (retire i s (issued s t))
      | .wait => waits s
      | .late f => .next (putThread s (faulted t f))
      | .bad c => raise s t c

/-- The issue of an instruction whose effect is on its own thread alone, done at once. -/
def simple (i : Instr) (s : State) (f : Thread → Thread) : Out := issue i s fun s t => .next (retire i s (f t))

/-- A thread BLOCKED at an instruction that it looks at again (R16). -/
def pollBlock (i : Instr) (s : State) (t : Thread) : Out := .next (putThread s { t with st := .blocked (.poll i) })

/-- The issue of an instruction that waits until a condition holds and then acts: at first issue after the checks, and again
whenever the BLOCKED thread looks. -/
def poll (i : Instr) (s : State) (eff : State → Thread → Out) : Out :=
  need (getThread s s.cur) fun t =>
    if t.st == .blocked (.poll i) then eff s { t with st := .ready } else issue i s eff

end Sys2Proof.Machine
end

