-- ==== Sys2Proof/Machine/Tables.lean ====
section
/-! DEFINITION. The tables of the table region as the device reads them: owner records (R313), buffer entries (R316, R317),
page tables and walks (R319), caddy slots (R326), home_of (R298), the discovery table (R333), and the checks of a global access
(R155). -/

namespace Sys2Proof.Machine

/-! ### Owner records (R313) -/

/-- An owner record's fields. -/
structure OwnerRec where
  btab : Nat
  bcnt : Nat
  proot : Nat
  deriving DecidableEq, Repr

/-- The sixteen words of an owner record in the table region. -/
def ownerWords (s : State) (o : Nat) : List Word := wordsOf (memRead s.mem.tbl (64 * o) 64)

/-- An owner record as the device last loaded it (OWNREC), else as it stands in the table region. -/
def ownerLoaded (s : State) (o : Nat) : List Word := (assoc s.disp.owners o).getD (ownerWords s o)

/-- The fields of an owner record; none when it is not VALID or has a reserved bit set. DESIGN CHOICE (notes/assumptions/132.md): a BTAB
that is no multiple of 32, a PROOT that is none of 4,096, and a BCNT of 0, 1 or above 65,536 have no stated fate, and the record is used as
it stands. -/
def decodeOwner (ws : List Word) : Option OwnerRec :=
  let w (i : Nat) : Nat := (ws.getD i 0).toNat
  let btab := w 1 + 2 ^ 32 * w 2
  let proot := w 4 + 2 ^ 32 * w 5
  if w 0 == 2 ^ 31 && decide (btab < 2 ^ 48) && decide (w 3 < 2 ^ 17) && decide (proot < 2 ^ 48) &&
      (ws.drop 6).all (· == 0)
  then some ⟨btab, w 3, proot⟩ else none

/-- The record of an owner. -/
def ownerRec (s : State) (o : Nat) : Option OwnerRec := decodeOwner (ownerLoaded s o)

/-! ### Caddy slots (R326) -/

/-- The words of a caddy slot. DESIGN CHOICE (notes/assumptions/107.md): the spec gives a slot with a nonzero reserved bit no fate, and
the model does not look at those bits. -/
def caddyWords (s : State) (slot : Nat) : List Word := wordsOf (memRead s.mem.tbl (0x42000 + 128 * slot) 128)
/-- EN of a slot. -/
def caddyEn (s : State) (slot : Nat) : Bool := bitOf ((caddyWords s slot).getD 0 0).toNat 31
/-- CTAG of a slot. -/
def caddyTag (s : State) (slot : Nat) : Nat := bitsOf ((caddyWords s slot).getD 0 0).toNat 27 16
/-- ADMIN of a slot. -/
def caddyAdmin (s : State) (slot : Nat) : Nat := bitsOf ((caddyWords s slot).getD 0 0).toNat 11 0
/-- A 64-bit field of a slot from a word on. -/
def caddyQuad (s : State) (slot i : Nat) : Nat := natOfWords (((caddyWords s slot).drop i).take 2)
/-- GBASE of a generation. -/
def caddyBase (s : State) (slot g : Nat) : Nat := caddyQuad s slot (4 + 2 * g)
/-- GLEN of a generation. -/
def caddyLen (s : State) (slot g : Nat) : Nat := caddyQuad s slot (8 + 2 * g)
/-- The digest array of a generation. -/
def caddyDigests (s : State) (slot g : Nat) : Nat := caddyQuad s slot (12 + 2 * g)

/-- The on-chip state of a slot. -/
def caddyOf (s : State) (slot : Nat) : Caddy := (s.disp.caddies.find? fun c => c.slot == slot).getD { slot := slot }

/-- The device-written words w1 to w3 of a slot. -/
def Caddy.words (c : Caddy) : List Word :=
  let g (i : Nat) : Nat := c.state.getD i 0 + 8 * boolNat (c.sus.getD i false)
  [word (g 0 + 2 ^ 8 * g 1), word (c.pin.getD 0 0), word (c.pin.getD 1 0)]

/-- A slot's on-chip state put back, with its words in the table region. -/
def putCaddy (s : State) (c : Caddy) : State :=
  let s := withMem s fun m => { m with tbl := memWrite m.tbl (0x42000 + 128 * c.slot + 4) (bytesOf c.words) }
  withDisp s fun d =>
    { d with caddies := if d.caddies.any (fun x => x.slot == c.slot) then mapIf (fun x => x.slot == c.slot) (fun _ => c) d.caddies
                        else d.caddies ++ [c] }

/-- The generation in a state, of a slot. -/
def caddyGenIn (s : State) (slot st : Nat) : Option Nat :=
  let c := caddyOf s slot
  if c.state.getD 0 0 == st then some 0 else if c.state.getD 1 0 == st then some 1 else none

/-! ### Buffer entries (R316, R317) -/

/-- The fields of a buffer table entry. -/
structure BufEntry where
  base : Nat
  len : Nat
  valid : Bool
  kind : Nat
  owner : Nat
  gang : Bool
  stk : Nat
  mode : Nat
  psz : Nat
  rights : Nat
  rpkg : Nat
  cslot : Nat
  deriving DecidableEq, Repr

/-- The fields of the eight words of an entry. -/
def decodeBuf (ws : List Word) : BufEntry :=
  let w (i : Nat) : Nat := (ws.getD i 0).toNat
  { base := (w 0 + 2 ^ 32 * w 1) % 2 ^ 48, len := (w 2 + 2 ^ 32 * w 3) % 2 ^ 48
    valid := bitOf (w 4) 31, kind := bitsOf (w 4) 30 29, owner := bitsOf (w 4) 27 16, gang := bitOf (w 4) 15
    stk := bitsOf (w 4) 14 12, mode := bitsOf (w 4) 11 8, psz := bitsOf (w 4) 7 6, rights := bitsOf (w 4) 4 0
    rpkg := bitsOf (w 5) 13 8, cslot := bitsOf (w 5) 7 0 }

/-- No reserved field of an entry is nonzero and no reserved code is used (R316, R317). DESIGN CHOICE (notes/assumptions/133.md): nor has
an entry a LEN of 0, or, of KIND 0 or 2, a BASE that is no multiple of 4,096; R317 lists neither case. -/
def bufReservedOk (ws : List Word) : Bool :=
  let w (i : Nat) : Nat := (ws.getD i 0).toNat
  let e := decodeBuf ws
  decide (w 1 < 2 ^ 16) && decide (w 3 < 2 ^ 16) && !bitOf (w 4) 28 && !bitOf (w 4) 5 && decide (w 5 < 2 ^ 14) &&
    w 6 == 0 && w 7 == 0 && e.kind != 3 && decide (e.mode < 5) && e.psz != 3 && decide (1 ≤ e.len) &&
    (e.kind == 1 || e.base % 4096 == 0) && (e.mode == 4 || e.rpkg == 0) && (e.kind != 0 || e.cslot == 0)

/-- Whether an entry of an owner's table counts as valid (R317). -/
def bufValid (s : State) (owner : Nat) (ws : List Word) : Bool :=
  let e := decodeBuf ws
  e.valid && bufReservedOk ws &&
    (e.kind != 1 || (e.rights == 1 && caddyEn s e.cslot)) &&
    (e.kind != 2 || (e.rights == 2 && caddyEn s e.cslot && caddyAdmin s e.cslot == owner))

/-- The words of an entry in the table region; none when the owner has no valid record or the index is out of range. -/
def bufWords (s : State) (owner idx : Nat) : Option (List Word) :=
  (ownerRec s owner).bind fun r =>
    if decide (idx < r.bcnt) && decide (2 ≤ idx) then some (wordsOf (memRead s.mem.tbl (r.btab + 32 * idx) 32)) else none

/-- A core's cached copy of an entry (R318). -/
def bufCached (s : State) (core owner idx : Nat) : Option (List Word) :=
  (s.mem.bufc.find? fun b => b.core == core && b.owner == owner && b.idx == idx).map (·.words)

/-- The entry that a check uses: the core's cached copy, else the table region's. A unit that is no core reads the table. -/
def bufFor (s : State) (core : Option Nat) (owner idx : Nat) : Option (List Word) :=
  match core.bind fun c => bufCached s c owner idx with
  | some ws => some ws
  | none => bufWords s owner idx

/-- The core's cache holding an entry that a check has used. -/
def cacheBuf (s : State) (core owner idx : Nat) : State :=
  if (bufCached s core owner idx).isSome then s
  else match bufWords s owner idx with
    | none => s
    | some ws => withMem s fun m => { m with bufc := m.bufc ++ [{ core := core, owner := owner, idx := idx, words := ws }] }

/-! ### Page tables (R319) -/

/-- The bytes of a page of a size code. -/
def pageBytes (psz : Nat) : Nat :=
  match psz with
  | 0 => 2 ^ 16
  | 1 => 2 ^ 21
  | 2 => 2 ^ 30
  | _ => 2 ^ 16

/-- The level of a leaf of a size code. -/
def leafLevel (psz : Nat) : Nat :=
  match psz with
  | 0 => 3
  | 1 => 2
  | _ => 1

/-- The bytes that a leaf at a level maps. -/
def levelBytes (lvl : Nat) : Nat :=
  match lvl with
  | 1 => 2 ^ 30
  | 2 => 2 ^ 21
  | _ => 2 ^ 16

/-- The index of an address at a level (R319 Table 5). -/
def levelIndex (va lvl : Nat) : Nat :=
  match lvl with
  | 0 => bitsOf va 47 39
  | 1 => bitsOf va 38 30
  | 2 => bitsOf va 29 21
  | _ => bitsOf va 20 16

/-- ADDR of a page table entry. -/
def pteAddr (pte : Nat) : Nat := bitsOf pte 47 12 * 4096
/-- ROT of a leaf. -/
def pteRot (pte : Nat) : Nat := bitsOf pte 5 3

/-- The outcome of an ending entry (R319 Table 7). Size code 3 admits a leaf at any level (a caddy entry, R317). -/
def walkEnd (pte lvl psz : Nat) : WalkResult :=
  let leaf := bitOf pte 1
  if bitsOf pte 63 48 != 0 || bitsOf pte 11 9 != 0 || (leaf && (lvl == 0 || (psz != 3 && lvl != leafLevel psz))) then .denied
  else if leaf && bitOf pte 2 then .denied
  else if (!bitOf pte 0 && bitOf pte 8) || (leaf && bitOf pte 6) then .missing true
  else if !bitOf pte 0 then .missing false
  else .leaf pte lvl

/-- The table-region offset of the entry for an address in a table. -/
def pteOffset (table va lvl : Nat) : Nat := table + 8 * levelIndex va lvl

/-- A walk from a level's table, with the levels still allowed (R319): the offset of the ending entry, and the outcome. A
non-leaf at level 3 leads nowhere and is refused. DESIGN CHOICE (notes/assumptions/108.md): a walk ends at the first entry with P = 0 or
LEAF = 1 (R319), so a present non-leaf entry that it passes through is followed, whatever its reserved bits hold. -/
def walkFrom (tbl : Memory) (va psz : Nat) : Nat → Nat → Nat → Nat × WalkResult
  | 0, table, lvl => (pteOffset table va lvl, .denied)
  | fuel + 1, table, lvl =>
    let pte := memNat tbl (pteOffset table va lvl) 8
    if !bitOf pte 0 || bitOf pte 1 then (pteOffset table va lvl, walkEnd pte lvl psz)
    else if lvl == 3 then (pteOffset table va lvl, .denied)
    else walkFrom tbl va psz fuel (pteAddr pte) (lvl + 1)

/-- The walk of an owner's address. -/
def walk (s : State) (owner va psz : Nat) : WalkResult :=
  match ownerRec s owner with
  | none => .denied
  | some r => (walkFrom s.mem.tbl va psz 4 r.proot 0).2

/-- The table-region offset of the entry that a walk ends at. -/
def walkSlot (s : State) (owner va psz : Nat) : Option Nat :=
  (ownerRec s owner).map fun r => (walkFrom s.mem.tbl va psz 4 r.proot 0).1

/-- The page that holds an address. -/
def pageOf (owner va psz : Nat) : PageKey := ⟨owner, va / pageBytes psz * pageBytes psz, psz⟩

/-- A core's translation of a page. -/
def tlbFor (s : State) (core : Nat) (p : PageKey) : Option WalkResult :=
  (s.mem.tlb.find? fun e => e.core == core && e.page == p).map (·.res)

/-! ### Homes (R298) -/

/-- The stack set of an interleave mode. -/
def stackSet (mode stk : Nat) : List Nat :=
  match mode with
  | 1 => [stk]
  | 2 => [stk / 2 * 2, stk / 2 * 2 + 1]
  | 3 => (List.range 4).map fun i => stk / 4 * 4 + i
  | _ => List.range 8

/-- The stack of a device-virtual address under a rotation (home_of, R298). -/
def homeStack (mode stk va rot : Nat) : Nat :=
  (stackSet mode stk).getD ((va / 4096 + rot) % (stackSet mode stk).length) 0

/-- The number of stacks of an interleave mode. -/
def stackCount (mode stk : Nat) : Nat := (stackSet mode stk).length

/-- The physical address of a byte: stack × 2^48 + stack-local offset. The page's share in a stack holds, in ascending order,
the page's granules whose home is that stack (DEDUCED: R319 gives the share's offset, R298 the stack). -/
def physOf (mode stk va : Nat) (pte lvl : Nat) : Nat :=
  homeStack mode stk va (pteRot pte) * 2 ^ 48 +
    (pteAddr pte + va % levelBytes lvl / 4096 / stackCount mode stk * 4096 + va % 4096)

/-- The base of the region in which the model holds the discovery table (R333). -/
def discBase : Nat := 2 ^ 60

/-- The channel of its stack that holds a granule (R298). -/
def homeChannel (mode stk va : Nat) : Nat := va / 4096 / stackCount mode stk % 32

/-- The package that holds a byte beyond this one's: REMOTE bytes are named by owner, index and offset (R155, R298). -/
def remoteAddr (owner idx off : Nat) : Nat := (owner * 2 ^ 16 + idx) * 2 ^ 48 + off

/-! ### The checks of a global access (R155) -/

/-- A global access to check: `core` is the core whose cached entries and translations it uses; a device unit has none. -/
structure Access where
  core : Option Nat
  owner : Nat
  grid : Nat
  idx : Nat
  off : Int
  size : Nat
  align : Nat
  right : Nat
  deriving DecidableEq, Repr

/-- What the checks give: the target, a fault, a page to walk, or a page to park on. -/
inductive Check where
  | ok (t : Target)
  | fault (c : FaultCode)
  | miss (p : PageKey)
  | park (p : PageKey)
  deriving DecidableEq, Repr

/-- R, W, A, X and N as bits of RIGHTS (R316). -/
abbrev rightR : Nat := 0
/-- W. -/
abbrev rightW : Nat := 1
/-- A. -/
abbrev rightA : Nat := 2
/-- X. -/
abbrev rightX : Nat := 3
/-- N. -/
abbrev rightN : Nat := 4

/-- TADDRH:TADDRL of a global fault (R156). -/
def faultAddr (idx : Nat) (off : Int) : Nat := idx * 2 ^ 48 + intBits off 48

/-- The generation of a caddy slot that an access reaches: the grid's pinned one for KIND 1, the LOADING one for KIND 2. -/
def caddyGen (s : State) (e : BufEntry) (grid : Nat) : Option Nat :=
  if e.kind == 1 then (getGrid s grid).bind fun g => assoc g.pins e.cslot else caddyGenIn s e.cslot 1

/-- The base and length that an entry gives an access (R317); none when a caddy entry reaches no generation. -/
def entryExtent (s : State) (e : BufEntry) (grid : Nat) : Option (Nat × Nat) :=
  if e.kind == 0 then some (e.base, e.len)
  else (caddyGen s e grid).map fun g => (caddyBase s e.cslot g, min e.len (caddyLen s e.cslot g))

/-- Check 6 of R155 for a page whose walk outcome is known. -/
def translated (w : WalkResult) (p : PageKey) (mode stk va idx tag : Nat) (gang : Bool) : Check :=
  match w with
  | .leaf pte lvl => .ok { phys := physOf mode stk va pte lvl, gang := gang, idx := idx, tag := tag }
  | .missing _ => .park p
  | .denied => .fault .pageDenied

/-- The key by which the model names a page of another package: 64 KiB of the memory that REMOTE buffers reach. -/
def remotePage (owner pkg adr : Nat) : PageKey := ⟨owner, (2 ^ 64 * (pkg + 1) + adr) / 2 ^ 16 * 2 ^ 16, 4⟩

/-- Check 6 as another package makes it (R155). -/
def remoteCheck (s : State) (p : PageKey) (t : Target) : Check :=
  match (assoc s.mem.podPages p).getD .present with
  | .present => .ok t
  | .missing => .park p
  | .refused => .fault .pageDenied

/-- Check 6 of R155 of an access at an address of an entry's buffer: by the owning package for MODE 4, under the caddy owner's tables
for a caddy entry (R317), else under the owner's. -/
def placed (s : State) (a : Access) (e : BufEntry) (base : Nat) : Check :=
  if e.kind == 0 && e.mode == 4 then
    let adr := remoteAddr a.owner a.idx a.off.toNat
    remoteCheck s (remotePage a.owner e.rpkg adr) { phys := adr, gang := e.gang, idx := a.idx, pkg := some e.rpkg, tag := a.owner }
  else
    let va := base + a.off.toNat
    let own := if e.kind == 0 then a.owner else caddyTag s e.cslot
    let psz := if e.kind == 0 then e.psz else 3
    let mode := if e.kind == 0 then e.mode else 0
    let p := pageOf own va psz
    let c := match a.core with
      | none => translated (walk s own va psz) p mode e.stk va a.idx own e.gang
      | some c =>
        match tlbFor s c p with
        | none => .miss p
        | some w => translated w p mode e.stk va a.idx own e.gang
    match c with
    | .ok t => .ok (if e.kind == 2 then { t with cad := (caddyGen s e a.grid).map fun g => (e.cslot, g, a.off.toNat) } else t)
    | c => c

/-- The checks of R155 steps 1 to 6, in order. An owner without a valid record fails check 2 at every index (R313). DESIGN CHOICE
(notes/assumptions/134.md): so does a KIND 1 access of a grid that has pinned no generation of the slot, and a KIND 2 access of a slot
without a LOADING generation, for which R317 names no fault. -/
def checkAccess (s : State) (a : Access) : Check :=
  if a.off % (a.align : Int) != 0 then .fault .misaligned
  else if a.idx == 0 || (ownerRec s a.owner).isNone then .fault .bufIndex
  else if a.idx == 1 then
    if a.off < 0 || 256 < a.off + a.size then .fault .bufBounds
    else if a.right != rightR then .fault .bufRights
    else .ok { phys := discBase + a.off.toNat, gang := false, idx := 1, tag := 0 }
  else
    match bufFor s a.core a.owner a.idx with
    | none => .fault .bufIndex
    | some ws =>
      let e := decodeBuf ws
      if !bufValid s a.owner ws then .fault .bufIndex
      else match entryExtent s e a.grid with
        | none => .fault .bufIndex
        | some (base, len) =>
          if a.off < 0 || (len : Int) < a.off + a.size then .fault .bufBounds
          else if !bitOf e.rights a.right then .fault .bufRights
          else if e.kind == 0 && e.owner != a.owner then .fault .bufRights
          else placed s a e base

/-- The page of this package that a granted access reaches. -/
def reachedPage (s : State) (a : Access) : Option PageKey :=
  (if a.idx == 1 then none else bufFor s a.core a.owner a.idx).bind fun ws =>
    let e := decodeBuf ws
    if e.kind == 0 && e.mode == 4 then none
    else (entryExtent s e a.grid).map fun x =>
      pageOf (if e.kind == 0 then a.owner else caddyTag s e.cslot) (x.1 + a.off.toNat) (if e.kind == 0 then e.psz else 3)

/-- A granted access noted as a use of its page, for the migration engine's choice (R336). -/
def noteUse (s : State) (a : Access) : State :=
  match reachedPage s a with
  | some p => { s with mem := { s.mem with pageUse := assocSet s.mem.pageUse p s.clock } }
  | none => s

/-- A buffer pointer's index and offset (R154). -/
def ptrIdx (p : Nat) : Nat := p / 2 ^ 48
/-- The offset of a buffer pointer. -/
def ptrOff (p : Nat) : Nat := p % 2 ^ 48

/-- An access of a device unit for an owner: no cached copy, every page walked at once. -/
def unitAccess (s : State) (owner grid p size align right : Nat) : Check :=
  checkAccess s { core := none, owner := owner, grid := grid, idx := ptrIdx p, off := (ptrOff p : Int), size := size, align := align, right := right }

/-! ### Discovery (R333, R334) -/

/-- The scope costs of R334 Table 15. -/
def scopeCosts : List (List Nat) :=
  [[2, 6, 4, 4], [8, 40, 16, 20], [45, 160, 48, 90], [70, 260, 110, 150], [110, 380, 170, 230], [180, 900, 260, 400],
   [1500, 12000, 0xFFFFFFFF, 2600]]

/-- Word i of the discovery table. -/
def discoveryWord (s : State) (i : Nat) : Word :=
  match i with
  | 0 => 0x0000C192
  | 1 => word Config.siliconRevision.toNat
  | 2 => 600 | 3 => 360 | 4 => 720
  | 5 => 192 | 6 => 2048 | 7 => 8
  | 8 => word (48000000000 % 2 ^ 32) | 9 => word (48000000000 / 2 ^ 32)
  | 10 => word s.regs.pkg | 11 => word s.regs.npkg
  | 12 => 256 | 13 => 256 | 14 => 256 | 15 => 16384
  | _ => if 32 ≤ i then word (((scopeCosts.getD ((i - 32) / 4) []).getD ((i - 32) % 4) 0)) else 0

/-- The bytes of the discovery table from an offset on. -/
def discoveryBytes (s : State) (off n : Nat) : List Byte :=
  ((bytesOf ((List.range 64).map (discoveryWord s))).drop off).take n

end Sys2Proof.Machine
end

