-- ==== Sys2Proof/Machine/MemPath.lean ====
section
/-! DEFINITION. The path of a global access: memory at home with its atoms, tags and poison (R299 to R303, R310), store queues
(R286, R287), the L1 (R288, R289), Strait entries (R294 to R297), and what an acknowledgement at a scope means (R13, R171). -/

namespace Sys2Proof.Machine

/-! ### Memory at home -/

/-- The bytes of a stack (R1, R333). -/
def stackBytes : Nat := 48000000000

/-- Whether a physical address lies in a stack (R285). -/
def physOk (phys : Nat) : Bool := decide (phys / 2 ^ 48 < 8 ∧ phys % 2 ^ 48 < stackBytes)

/-- The side information of the 32 bytes that hold an address. -/
def atomInfo (s : State) (phys : Nat) : AtomInfo := (assoc s.mem.atoms (phys / 32)).getD {}

/-- Side information set, in ascending order, with no entry equal to the one that an unlisted atom has. -/
def infoSet : List (Nat × AtomInfo) → Nat → AtomInfo → List (Nat × AtomInfo)
  | [], k, v => if v == {} then [] else [(k, v)]
  | (a, x) :: r, k, v =>
    if k < a then (if v == {} then (a, x) :: r else (k, v) :: (a, x) :: r)
    else if a == k then (if v == {} then r else (k, v) :: r)
    else (a, x) :: infoSet r k v

/-- The start of the atom that holds an address (R299). -/
def atomStart (gang : Bool) (phys : Nat) : Nat := if gang then phys / 64 * 64 else phys / 32 * 32
/-- The bytes of an atom. -/
def atomSize (gang : Bool) : Nat := if gang then 64 else 32

/-- The 32-byte halves of an atom. -/
def atomHalves (gang : Bool) (phys : Nat) : List Nat :=
  if gang then [phys / 64 * 2, phys / 64 * 2 + 1] else [phys / 32]

/-- What a reader under a tag sees of a byte whose atom has this side information (R302, R303). -/
def visible (s : State) (tag : Nat) (i : AtomInfo) (b : Byte) : Byte :=
  if i.tag == some tag && !s.mem.keys.contains tag then b else 0

/-- Whether reading an atom gives POISON: it is poisoned, or an uncorrectable error in it is found by this read (R310). -/
def AtomInfo.bad (i : AtomInfo) : Bool := i.poison || i.ue

/-- The 32-byte halves of the atoms that hold n bytes from an address on (R299). -/
def halvesOf (gang : Bool) (phys n : Nat) : List Nat := ((List.range n).flatMap fun i => atomHalves gang (phys + i)).eraseDups

/-- Whether one of the atoms that hold n bytes from an address on gives POISON (R310). -/
def atomsBad (s : State) (gang : Bool) (phys n : Nat) : Bool :=
  (halvesOf gang phys n).any fun h => ((assoc s.mem.atoms h).getD {}).bad

/-- A read at home of n bytes under a tag. -/
def readHome (s : State) (tag phys n : Nat) : List Byte :=
  if discBase ≤ phys then discoveryBytes s (phys - discBase) n
  else (List.range n).map fun i => visible s tag (atomInfo s (phys + i)) (cellGet s.mem.hbm (phys + i))

/-- A read of another package's memory (R155, R298). -/
def readPod (s : State) (pkg adr n : Nat) : List Byte := memRead ((assoc s.mem.pods pkg).getD []) adr n

/-- Whether the Etlen Link reaches a target: this package needs no port, another one some port that is up (R422, R424). -/
def reaches (s : State) (t : Target) : Bool := t.pkg.isNone || s.regs.ports.contains true

/-- A read of a target's bytes from an offset on: the bytes, and whether it gives POISON: one of the atoms that hold them is poisoned, or
it finds no path (R424). -/
def readTarget (s : State) (t : Target) (o n : Nat) : List Byte × Bool :=
  match t.pkg with
  | some p => (readPod s p (t.phys + o) n, !reaches s t)
  | none => (readHome s t.tag (t.phys + o) n, decide (t.phys + o < discBase) && atomsBad s t.gang (t.phys + o) n)

/-- The halves of the atoms that a unit's access of n bytes finds (R299). -/
def halvesAt (t : Target) (n : Nat) : List Nat := halvesOf t.gang t.phys n

/-- The reads of an atom with a hidden uncorrectable error poison it (R310). -/
def findUe (s : State) (halves : List Nat) : State :=
  withMem s fun m =>
    { m with atoms := halves.foldl (fun a h =>
        let i := (assoc a h).getD {}
        if i.ue then infoSet a h { i with ue := false, poison := true } else a) m.atoms }

/-- What a read of a target's bytes finds: a hidden uncorrectable error of an atom that holds them poisons it (R309). -/
def foundAt (s : State) (t : Target) (n : Nat) : State :=
  if t.pkg.isSome || decide (discBase ≤ t.phys) then s else findUe s (halvesAt t n)

/-- A write of bytes of one atom at home (R299, R302, R310): whole, it clears poison and takes the tag; partial, it is discarded on
a poisoned atom, and over another tag the other bytes become 0. `counted` counts a discard in the error log. -/
def writeAtom (s : State) (tag : Nat) (gang : Bool) (start : Nat) (bs : List (Nat × Byte)) (counted : Bool) : State :=
  let halves := atomHalves gang start
  let info := halves.map fun h => (assoc s.mem.atoms h).getD {}
  let whole := (List.range (atomSize gang)).all fun i => bs.any fun b => b.1 == start + i
  let fresh : AtomInfo := { tag := some tag }
  let tagged (m : MemSys) : MemSys := { m with atoms := halves.foldl (fun a h => infoSet a h fresh) m.atoms }
  if whole then withMem s fun m => tagged { m with hbm := memPut m.hbm bs }
  else if info.any (·.ue) then withMem (findUe s halves) fun m => { m with errLog := m.errLog + 1 }
  else if info.any (·.poison) then withMem s fun m => { m with errLog := m.errLog + boolNat counted }
  else
    -- bytes under another tag are treated as zeros
    let clear := (List.range (atomSize gang)).filterMap fun i =>
      if (atomInfo s (start + i)).tag == some tag && !s.mem.keys.contains tag then none else some (start + i, (0 : Byte))
    withMem s fun m => tagged { m with hbm := memPut (memPut m.hbm clear) bs }

/-- The line of an address (R166). -/
def lineOf (a : Nat) : Nat := a / 64 * 64

/-- Strait entries of the lines that a write has reached accept no more merges (R295). -/
def closeEntries (s : State) (pkg : Option Nat) (line : Nat) : State :=
  withMem s fun m => { m with entries := mapIf (fun e => e.line == line && e.pkg == pkg) (fun e => { e with closed := true }) m.entries }

/-- A write of bytes within one 64-byte line at home. -/
def writeHome (s : State) (tag : Nat) (gang : Bool) (bs : List (Nat × Byte)) (counted : Bool := false) : State :=
  match bs with
  | [] => s
  | (a, _) :: _ =>
    let line := lineOf a
    let s := closeEntries s none line
    let starts := if gang then [line] else [line, line + 32]
    starts.foldl (fun s st =>
      let part := bs.filter fun b => decide (st ≤ b.1 ∧ b.1 < st + atomSize gang)
      if part.isEmpty then s else writeAtom s tag gang st part counted) s

/-- A write of bytes of another package's memory. -/
def writePod (s : State) (pkg : Nat) (bs : List (Nat × Byte)) : State :=
  let s := match bs with
    | (a, _) :: _ => closeEntries s (some pkg) (lineOf a)
    | [] => s
  withMem s fun m => { m with pods := assocSet m.pods pkg (memPut ((assoc m.pods pkg).getD []) bs) }

/-- Bytes at consecutive addresses. -/
def at_ (a : Nat) (bs : List Byte) : List (Nat × Byte) := bs.zipIdx.map fun (b, i) => (a + i, b)

/-- Bytes of a target written at home; a write that finds no path is dropped, and counted in the error log (R424). -/
def writeTarget (s : State) (t : Target) (bs : List (Nat × Byte)) (counted : Bool := false) : State :=
  match t.pkg with
  | some p => if reaches s t then writePod s p bs else withMem s fun m => { m with errLog := m.errLog + 1 }
  | none => writeHome s t.tag t.gang bs counted

/-! ### Store queues (R286) -/

/-- The entries of a lane group's store queue, oldest first. -/
def queueOf (s : State) (core lg : Nat) : List SqOp := s.mem.ops.filter fun q => q.level == 0 && q.core == core && q.lg == lg

/-- Whether an entry is a plain store. -/
def SqOp.plain (q : SqOp) : Bool := q.kind == .plain

/-- Whether an entry is a release. -/
def SqOp.isRelease (q : SqOp) : Bool :=
  match q.kind with
  | .release _ _ => true
  | _ => false

/-- Whether an entry is an atomic or reduction. -/
def SqOp.isAtomic (q : SqOp) : Bool :=
  match q.kind with
  | .atomic _ _ _ => true
  | _ => false

/-- The byte addresses of an operation. -/
def SqOp.covers (q : SqOp) (a : Nat) : Bool :=
  if q.isAtomic then decide (q.tgt.phys ≤ a ∧ a < q.tgt.phys + q.size) else q.bytes.any fun b => b.1 == a

/-- Whether an operation touches some byte of a target. -/
def SqOp.overlaps (q : SqOp) (t : Target) (n : Nat) : Bool :=
  q.tgt.pkg == t.pkg && (List.range n).any fun i => q.covers (t.phys + i)

/-- The aligned 32-byte chunks that an entry covers (R286). -/
def SqOp.chunks (q : SqOp) : List Nat := (List.range ((q.size + 31) / 32)).map (q.tgt.phys / 32 + ·)

/-- Whether an operation touches a line. -/
def SqOp.onLine (q : SqOp) (pkg : Option Nat) (line : Nat) : Bool := q.tgt.pkg == pkg && lineOf q.tgt.phys == line

/-- Whether a thread has a part in an operation before an order number. -/
def SqOp.by (q : SqOp) (t before : Nat) : Bool := q.contrib.any fun c => c.1 == t && decide (c.2 < before)

/-- The gate level that acknowledges at a scope (R13 Table 2): PKG and POD are home. -/
def ackLevel (scope : Nat) : Nat := min scope 5

/-- Every global store, atomic and reduction of a thread before an order number is acknowledged at a scope. -/
def ownAcked (s : State) (t before scope : Nat) : Bool :=
  s.mem.ops.all fun q => !q.by t before || decide (ackLevel scope ≤ q.level)

/-- Whether an operation on its way home is visible to the threads of a lane group: it is in their store queue, has left their core, or
is acknowledged at a gate of their layer, chiplet or reticle region (R13, R166). -/
def SqOp.seenBy (q : SqOp) (core lg : Nat) : Bool :=
  (q.core == core && (q.lg == lg || decide (1 ≤ q.level))) || (layerOfCore q.core == layerOfCore core && decide (2 ≤ q.level)) ||
    (chipOfCore q.core == chipOfCore core && decide (3 ≤ q.level)) || (retiOfCore q.core == retiOfCore core && decide (4 ≤ q.level))

/-- Every operation issued before an order number that a lane group sees is acknowledged at a scope. Order is transitive (R396, R397,
R399, R401): what a thread may have seen of others goes before what it releases. DESIGN CHOICE (notes/assumptions/135.md): all that
it could have seen counts, read or not. -/
def seenAcked (s : State) (core lg before scope : Nat) : Bool :=
  s.mem.ops.all fun q => !(q.seenBy core lg && q.contrib.any fun c => decide (c.2 < before)) || decide (ackLevel scope ≤ q.level)

/-- Every global store, atomic and reduction before an order number, of a thread or seen by it, is acknowledged at a scope. -/
def storesAcked (s : State) (t before scope : Nat) : Bool :=
  ownAcked s t before scope && (getThread s t).all fun u => seenAcked s u.core u.lg before scope

/-- A scratchpad access that has not reached its bank. -/
def Req.atBank (r : Req) : Option ScrAcc := if r.stage == .atCore then r.scr else none

/-- Whether a request serves a thread. -/
def Req.serves (r : Req) (t : Nat) : Bool := r.thread == t || r.mates.any fun m => m.1 == t

/-- The threads that a request serves. -/
def Req.threads (r : Req) : List Nat := r.thread :: r.mates.map (·.1)

/-- Every load, atomic and scratchpad access of a thread before an order number has its value, or has been performed. -/
def loadsDone (s : State) (t before : Nat) : Bool := s.mem.reqs.all fun r => !r.serves t || decide (before ≤ r.id)

/-- Requests without the threads that a test names: a request that serves another member goes on for it (R162). -/
def Req.without (p : Nat → Bool) (r : Req) : Option Req :=
  let ms := dropIf (fun m : Nat × Option Nat => p m.1) r.mates
  if !p r.thread then some { r with mates := ms }
  else match ms with
    | [] => none
    | m :: rest => some { r with thread := m.1, stream := m.2, mates := rest }

/-- The release conditions of an entry (R171); a thread that has issued it is the only one in its contribution. -/
def releaseMet (s : State) (q : SqOp) : Bool :=
  match q.kind with
  | .release scope n => (q.contrib.all fun c => loadsDone s c.1 n && ownAcked s c.1 n scope) && seenAcked s q.core q.lg n scope
  | _ => true

/-- The entry that a plain store merges into (R286): the youngest of its chunk and grid, plain, with no release after it. -/
def mergeInto (s : State) (core lg grid : Nat) (t : Target) : Option Nat :=
  let q := queueOf s core lg
  let after := (q.reverse.takeWhile fun x => !x.isRelease)
  match after.find? fun x => x.grid == grid && x.tgt.pkg == t.pkg && x.chunks.contains (t.phys / 32) with
  | some x => if x.plain && x.tgt.tag == t.tag && x.trace.isNone then some x.seq else none
  | none => none

/-- What the classifier measures of a grid's first admitted team, from the clock at which that began: request bytes and issued
instructions (R360). -/
def measure (s : State) (grid team bytes instrs : Nat) : State :=
  let add (g : Grid) : Grid :=
    match g.classMeas with
    | some (k, c, b, i) => if k == team then { g with classMeas := some (k, c, b + bytes, i + instrs) } else g
    | none => g
  withDisp s fun d => { d with grids := mapIf (fun g => g.id == grid) add d.grids }

/-- An operation entered in its lane group's store queue. -/
def enqueue (s : State) (q : SqOp) : State := withMem s fun m => { m with ops := m.ops ++ [q], seq := m.seq + 1 }

/-- A store by a thread, entered or merged; a traced store keeps an entry of its own, so that its record is of its own write. -/
def pushStore (s : State) (t : Thread) (tgt : Target) (bs : List Byte) (kind : OpKind) (trace : Option TraceTag) : State :=
  let n := s.mem.seq
  let cells := at_ tgt.phys bs
  let s := measure s t.grid t.team bs.length 0
  let fresh : SqOp :=
    { seq := n, grid := t.grid, owner := ownerOf s t.grid, core := t.core, lg := t.lg, tgt := tgt, size := bs.length, bytes := cells
      kind := kind, contrib := [(t.key, n)], fset := s.mem.uid, tpc := t.pc, trace := trace }
  match (if kind == .plain && trace.isNone then mergeInto s t.core t.lg t.grid tgt else none) with
  | none => enqueue s fresh
  | some k => withMem s fun m =>
      { m with
        seq := n + 1
        ops := mapIf (fun x => x.seq == k)
          (fun x => { x with bytes := (dropIf (fun b => cells.any fun c => c.1 == b.1) x.bytes) ++ cells, contrib := x.contrib ++ [(t.key, n)] }) m.ops }

/-- The store queue of a thread's lane group has no room for an access of n bytes: 64 entries, each of one chunk (R166, R286). -/
def queueFull (s : State) (t : Thread) (n : Nat) : Bool :=
  decide (64 < ((queueOf s t.core t.lg).map fun q => q.chunks.length).sum + (n + 31) / 32)

/-- A load of the thread that touches these bytes has no value yet, so a later store of the thread to them waits (R164). -/
def ownLoadPending (s : State) (t : Thread) (tgt : Target) (n : Nat) : Bool :=
  s.mem.reqs.any fun r => r.serves t.key && !r.scratch && r.tgt.pkg == tgt.pkg &&
    decide (r.tgt.phys < tgt.phys + n ∧ tgt.phys < r.tgt.phys + r.size) &&
    (match r.stage with | .data _ _ => false | _ => true)

/-! ### L1 (R288, R289) -/

/-- The key of an address in caches that hold lines of this package and of others (R298): the address, or it with the package above it. -/
def lineKey (pkg : Option Nat) (a : Nat) : Nat := match pkg with
  | none => a
  | some p => 2 ^ 64 * (p + 1) + a

/-- The lines of a core's L1, most recently used first. -/
def l1Of (s : State) (core : Nat) : List L1Line := (assoc s.mem.l1 core).getD []

/-- The lines of one set of an L1, and its ways (R288). -/
def l1Ways : Nat := 8

/-- The set of a line: 512 sets of a core's L1. -/
def l1Set (line : Nat) : Nat := line / 64 % 512

/-- A core's L1 lines set. -/
def setL1 (s : State) (core : Nat) (ls : List L1Line) : State := withMem s fun m => { m with l1 := assocSet m.l1 core ls }

/-- One line of a core's L1 dropped. -/
def dropL1 (s : State) (core line : Nat) : State := setL1 s core (dropIf (fun l => l.line == line) (l1Of s core))

/-- A core's request that waits at its slice's input, for a line or for any (R295). -/
def Req.awaits (r : Req) (core : Nat) (line : Option Nat) : Bool :=
  r.arrived && r.stage == .atCore && r.core == core && (line == none || line == some (lineKey r.tgt.pkg (lineOf r.tgt.phys)))

/-- Replies to a core that are on their way, and those of its requests that wait at a slice, install nothing (R289). -/
def suppressFills (s : State) (core : Nat) (line : Option Nat) : State :=
  withMem s fun m =>
    { m with reqs := mapIf (fun r => r.awaits core line) (fun r => { r with noInst := true }) m.reqs
             entries := mapIf (fun e => e.cores.contains core && (line == none || line == some (lineKey e.pkg e.line)))
               (fun e => { e with noInst := e.noInst ++ [core] }) m.entries
             fillMarks := dropIf (fun f => f.1 == core && (line == none || line == some (lineOf f.2.1))) m.fillMarks }

/-- A bulk invalidation of a core's L1 (R289): every line, and no fill on its way installs. -/
def invalidateL1 (s : State) (core : Nat) : State := suppressFills (setL1 s core []) core none

/-- The acquire of a thread at a scope: the L1 of its core loses every line at LAYER or wider (R170, R206, R208). -/
def acquireAt (s : State) (core scope : Nat) : State := if 2 ≤ scope then invalidateL1 s core else s

/-- The bytes of a line from an offset on, if the L1 holds it under the tag of the context's owner (R288): an access under another tag,
of a caddy that the owner does not own, never hits. -/
def l1Hit (s : State) (core owner : Nat) (t : Target) (n : Nat) : Option (List Byte) :=
  if t.tag != owner then none
  else ((l1Of s core).find? fun l => l.line == lineKey t.pkg (lineOf t.phys) && l.tag == owner).map fun l =>
    ((l.bytes.drop (t.phys % 64)).take n)

/-- A line installed, the most recently used; of a set that holds 8 lines the least recently used is replaced (R288). -/
def installLine (ls : List L1Line) (l : L1Line) : List L1Line :=
  let rest := dropIf (fun x => x.line == l.line) ls
  let ways := rest.filter fun x => l1Set x.line == l1Set l.line
  l :: (if l1Ways ≤ ways.length then dropIf (fun x => some x.line == ways.getLast?.map (·.line)) rest else rest)

/-- A hit makes its line the most recently used. -/
def touchL1 (s : State) (core line : Nat) : State :=
  let ls := l1Of s core
  setL1 s core (ls.filter (fun l => l.line == line) ++ dropIf (fun l => l.line == line) ls)

/-- A byte of a line as the line's tag sees it once a store has written: the store's own byte under its tag; under another tag the
atom that the store writes reads as zeros (R288, R302; notes/assumptions/103.md). -/
def storeSeen (q : SqOp) (tag line i : Nat) (old : Byte) : Byte :=
  if tag == q.tgt.tag then ((q.bytes.find? fun b => b.1 == line + i).map (·.2)).getD old
  else if q.bytes.any fun b => atomStart q.tgt.gang b.1 == atomStart q.tgt.gang (line + i) then 0 else old

/-- A store that drains updates the bytes of a present line (R288). -/
def updateL1 (s : State) (q : SqOp) : State :=
  let line := lineOf q.tgt.phys
  setL1 s q.core (mapIf (fun l => l.line == lineKey q.tgt.pkg line)
    (fun l => { l with bytes := (List.range 64).map fun i => storeSeen q l.tag line i (l.bytes.getD i 0) }) (l1Of s q.core))

/-! ### A load's sources (R166) -/

/-- The entries of the lane group's queue that touch a load's bytes. -/
def overlapping (s : State) (r : Req) : List SqOp := (queueOf s r.core r.lg).filter fun q => q.overlaps r.tgt r.size

/-- Whether an entry may forward to a load (R166, R170, R287): a store of the load's grid; an acquire at CORE takes only its own
thread's; a release of another thread forwards once its conditions hold; an acquire at LAYER or wider passes the queue. -/
def mayForward (s : State) (r : Req) (q : SqOp) : Bool :=
  q.grid == r.grid && !q.isAtomic && q.tgt.tag == r.tgt.tag &&
    (!r.own || q.contrib.all fun c => c.1 == r.thread) &&
    (!q.isRelease || (q.contrib.all fun c => c.1 == r.thread) || releaseMet s q)

/-- The bytes that the store queue forwards, when it holds all of them (R166). -/
def forwarded (s : State) (r : Req) : Option (List Byte) :=
  let qs := overlapping s r
  if qs.isEmpty || !qs.all (mayForward s r) then none
  else
    let byte (a : Nat) : Option Byte := ((qs.filter fun q => q.covers a).getLast?).bind fun q => (q.bytes.find? fun b => b.1 == a).map (·.2)
    let bs := (List.range r.size).filterMap fun i => byte (r.tgt.phys + i)
    if bs.length == r.size then some bs else none

/-- An earlier load of the thread on these bytes still has no value: values are taken in program order (R164). -/
def olderUnbound (s : State) (r : Req) : Bool :=
  s.mem.reqs.any fun x => r.threads.any x.serves && decide (x.id < r.id) && !x.scratch && x.tgt.pkg == r.tgt.pkg &&
    decide (x.tgt.phys < r.tgt.phys + r.size ∧ r.tgt.phys < x.tgt.phys + x.size) &&
    (match x.stage with | .data _ _ => false | _ => true)

/-- What a core's own sources give a load that has left the lane group: the store queue, or the L1 for a load that may hit it.
A load whose bytes lie partly in the queue takes nothing yet, and one that has taken words at home takes the rest there (R165, R166). -/
def coreSource (s : State) (r : Req) : Option (List Byte) :=
  if olderUnbound s r || !r.promote.isEmpty || r.atomic || r.got.isSome || r.acq.any (fun sc => decide (2 ≤ sc)) then none
  else match forwarded s r with
    | some b => some b
    | none => if (overlapping s r).isEmpty && !r.noL1 then l1Hit s r.core r.owner r.tgt r.size else none

/-- Operations on their way to home that a read of a core must follow on their line: those of its own core past the queue, and those
acknowledged at a gate of its layer, chiplet or reticle region (R13, R170, R295). -/
def aheadOf (s : State) (core : Nat) (pkg : Option Nat) (line : Nat) : Bool :=
  s.mem.ops.any fun q => q.onLine pkg line &&
    ((q.core == core && decide (1 ≤ q.level)) || (layerOfCore q.core == layerOfCore core && decide (2 ≤ q.level)) ||
      (chipOfCore q.core == chipOfCore core && decide (3 ≤ q.level)) || (retiOfCore q.core == retiOfCore core && decide (4 ≤ q.level)))

/-- The entry of a line that holds a core's request. -/
def entryWith (s : State) (core : Nat) (pkg : Option Nat) (line : Nat) : Option StraitEntry :=
  s.mem.entries.find? fun e => e.line == line && e.pkg == pkg && e.cores.contains core

/-- The bytes that an entry's reply gives under a tag, and whether one of the atoms that hold them is poisoned. -/
def entryView (s : State) (e : StraitEntry) (tag : Nat) (gang : Bool) (o n : Nat) : List Byte × Bool :=
  ((List.range n).map fun i =>
      if e.pkg.isSome then e.bytes.getD (o + i) 0 else visible s tag (e.infos.getD ((o + i) / 32) {}) (e.bytes.getD (o + i) 0),
    e.pkg.isNone && (halvesOf gang o n).any fun h => (e.infos.getD h {}).bad)

/-- An entry of a line with the bytes that its read takes in its place (R295), for no core yet. -/
def entryOf (s : State) (pkg : Option Nat) (line : Nat) : StraitEntry :=
  { line := line, pkg := pkg, cores := []
    bytes := match pkg with
      | some p => readPod s p line 64
      | none => if discBase ≤ line then discoveryBytes s (line - discBase) 64 else memRead s.mem.hbm line 64
    infos := if discBase ≤ line then [{ tag := some 0 }, { tag := some 0 }] else [atomInfo s line, atomInfo s (line + 32)]
    reqs := [] }

/-- What a core's request has missed while it waited at the slice's input, noted in the entry that it enters: a bulk invalidation of
its core's L1, and a store of its core to the line that has drained (R289, R294). -/
def markEntry (r : Req) (e : StraitEntry) : StraitEntry :=
  { e with noInst := e.noInst ++ (if r.noInst then [r.core] else []), dirty := e.dirty ++ (if r.dirty then [r.core] else []) }

/-- An entry opened for a line by a core's read (R295). -/
def openEntry (s : State) (r : Req) (pkg : Option Nat) (line : Nat) : State :=
  let s := if pkg.isNone then findUe s [line / 32, line / 32 + 1] else s
  withMem s fun m => { m with entries := m.entries ++ [markEntry r { entryOf s pkg line with cores := [r.core], reqs := [r.id] }] }

/-- An entry of its own opened for the read of another package, which merges with no other (R296). -/
def openLink (s : State) (t : Target) (n : Nat) : State :=
  let line := lineOf t.phys
  let s := findUe s [line / 32, line / 32 + 1]
  withMem s fun m => { m with entries := m.entries ++ [{ entryOf s t.pkg line with closed := true, link := some (t.tag, t.phys % 64, n, t.gang) }] }

/-- The slice that holds the entries of a line's key: its stack's, or one of the owning package's for REMOTE. -/
def sliceOf (key : Nat) : Nat := key / 2 ^ 48

/-- A free entry at a line's slice (R294). -/
def entryFree (s : State) (pkg : Option Nat) (line : Nat) : Bool :=
  decide ((s.mem.entries.filter fun e => sliceOf (lineKey e.pkg e.line) == sliceOf (lineKey pkg line)).length < 16384)

/-- The youngest entry of a line, when it accepts merges (R295). -/
def mergeable (s : State) (line : Nat) : Option StraitEntry :=
  ((s.mem.entries.filter fun e => e.line == line && e.pkg == none).getLast?).bind fun e => if e.closed then none else some e

/-- A core's read joined to an entry. -/
def joinEntry (s : State) (e : StraitEntry) (r : Req) : State :=
  withMem s fun m =>
    { m with entries := m.entries.map fun x =>
        if x == e then markEntry r { x with cores := if x.cores.contains r.core then x.cores else x.cores ++ [r.core]
                                            reqs := x.reqs ++ [r.id] } else x }

/-! ### The grants of R361 -/

/-- The grant order of R361 of a request: those that left their core 2,048 or more clocks ago, oldest first; then the lowest slack tag;
then the oldest. -/
def grantKey (clock left slack id : Nat) : List Nat := if left + 2048 ≤ clock then [0, left, id] else [1, slack, left, id]

end Sys2Proof.Machine
end

