-- ==== Sys2Proof/Machine/Fetch.lean ====
section
/-! DEFINITION. From a thread's PC to its next instruction: the instruction cache (R285, R289), clause headers and the chain (R82
to R86), the arrival at MEET (R33 to R35), breakpoints (R386), and words that hold no instruction (R104). -/

namespace Sys2Proof.Machine

/-- PARTn (R279). -/
def partReg (s : State) (n : Nat) : Nat := (s.regs.parts.getD n 0).toNat

/-- OWNER of a partition. -/
def partOwner (s : State) (n : Nat) : Nat := bitsOf (partReg s n) 27 16

/-! ### Counting (R391) -/

/-- A performance counter of a partition raised. -/
def countPart (s : State) (part k n : Nat) : State :=
  { s with debugs := s.debugs.mapIdx fun i d =>
      if i == part then { d with pcnt := putAt 0 d.pcnt k ((d.pcnt.getD k 0 + n) % 2 ^ 64) } else d }

/-- A performance counter of a grid's partition raised, while the grid's owner is the partition's. -/
def countGrid (s : State) (grid k n : Nat) : State :=
  match getGrid s grid with
  | some g => if partOwner s g.part == g.owner then countPart s g.part k n else s
  | none => s

/-! ### Code bytes -/

/-- What a fetch of a code line gives. -/
inductive Fetched where
  | ok (bs : List Byte) (s : State)
  | park (p : PageKey)
  | fault (c : FaultCode)

/-- The line of a code buffer in a core's instruction cache. -/
def icLine (s : State) (core owner code line : Nat) : Option (List Byte) :=
  (s.mem.icache.find? fun l => l.core == core && l.owner == owner && l.code == code && l.line == line).map (·.bytes)

/-- The lines of a core's instruction cache (R285): 128 KiB. -/
def icLines : Nat := 2048

/-- A line filled in a core's instruction cache; a full one loses a line of the device's choice, which is a free value
(notes/assumptions/109.md). -/
def fillICode (s : State) (l : ICLine) : State :=
  let mine := s.mem.icache.filter fun x => x.core == l.core
  if mine.length < icLines then withMem s fun m => { m with icache := m.icache ++ [l] }
  else
    let (v, s1) := takeFree s
    withMem s1 fun m => { m with icache := dropIf (fun x => some x == mine[v.toNat % icLines]?) m.icache ++ [l] }

/-- A grid's admission to a core whose instruction cache holds lines of another code buffer: they are invalidated (R289). -/
def freshICode (s : State) (g : Grid) (core : Nat) : State :=
  if s.mem.icache.any fun l => l.core == core && (l.owner != g.owner || l.code != g.code.toNat) then
    withMem s fun m => { m with icache := dropIf (fun l => l.core == core) m.icache }
  else s

/-- A line of a grid's code: from the core's instruction cache, or filled from the code buffer at home (R289). Bytes beyond the
buffer are not read. DESIGN CHOICE (notes/assumptions/17.md): a page that a fill does not find parks the thread or raises its fault at the fetch. -/
def fetchLine (s : State) (core : Nat) (g : Grid) (line : Nat) : Fetched :=
  match icLine s core g.owner g.code.toNat line with
  | some bs => .ok bs s
  | none =>
    let n := min 64 (g.codeLen - 64 * line)
    match unitAccess s g.owner g.id (g.code.toNat + 64 * line) n 1 rightX with
    | .ok t =>
      let (bs, bad) := readTarget s t 0 n
      if bad then .fault .poison
      else .ok bs (fillICode s { core := core, owner := g.owner, code := g.code.toNat, line := line, bytes := bs })
    | .fault c => .fault c
    | .park p => .park p
    | .miss p => .park p

/-- A 32-bit value of code at an offset, a multiple of 4, or nothing where it is not wholly within the buffer (R82). -/
def codeWord (s : State) (core : Nat) (g : Grid) (off : Nat) : Option Fetched :=
  if off + 4 ≤ g.codeLen then
    some (match fetchLine s core g (off / 64) with
      | .ok bs s' => .ok ((bs.drop (off % 64)).take 4) s'
      | x => x)
  else none

/-- The value of a code word, when it can be read now. -/
def codeValue (s : State) (core : Nat) (g : Grid) (off : Nat) : Option Nat :=
  match codeWord s core g off with
  | some (.ok bs _) => some (wordOfBytes bs)
  | _ => none

/-- What the header chain says of an offset: the header of the clause that it lies in, that it lies in none, or what stops the
reading of a header on the way, with that header's offset. -/
inductive Chained where
  | hdr (h : Nat)
  | none
  | park (p : PageKey) (off : Nat)
  | fault (c : FaultCode) (off : Nat)
  deriving DecidableEq, Repr

/-- The header offset at or before an offset: the chain of R82 from a header on, with the words that the chain still holds. A header
that cannot be read now stops the search (notes/assumptions/17.md). -/
def chainTo (s : State) (core : Nat) (g : Grid) (off : Nat) : Nat → Nat → Chained
  | 0, _ => .none
  | fuel + 1, h =>
    if g.codeLen ≤ h || off < h then .none
    else if h == off then .hdr h
    else match codeWord s core g h with
      | none => .none
      | some (.ok bs _) =>
        let next := h + 4 * ((decodeHeader (wordOfBytes bs)).n + 1)
        if off < next then .hdr h else chainTo s core g off fuel next
      | some (.park p) => .park p h
      | some (.fault c) => .fault c h

/-- The clause that holds an offset, by the chain from the start of the code buffer. -/
def chainAt (s : State) (core : Nat) (g : Grid) (off : Nat) : Chained :=
  if off % 4 == 0 then chainTo s core g off (g.codeLen / 4 + 1) 0 else .none

/-- Whether an offset is a header offset (R82, R85). -/
def isHeader (s : State) (core : Nat) (g : Grid) (off : Nat) : Bool := chainAt s core g off == .hdr off

/-! ### Clause headers (R84) -/

/-- The transfers that must end their clause (R84): BRA, BRX, CALL, CALLX, RET, EXIT, CONT and TRET. -/
def endsClause (cls op : Nat) : Bool :=
  (cls == 4 && (decide (op ≤ 5) || op == 0x34)) || (cls == 6 && op == 2)

/-- The checks of a clause's words (R84), from word i on: the literal tests, and a transfer before another instruction word. -/
def wordsOk (h : Header) (ws : List Nat) : Nat → Nat → Bool
  | 0, _ => true
  | fuel + 1, i =>
    if h.n ≤ i then true
    else
      let op := fieldOp (ws.getD i 0)
      let marked := bitOf h.lmap i
      let next := if marked then i + 2 else i + 1
      litOk h.cls op marked && (!endsClause h.cls op || decide (h.n ≤ next)) && wordsOk h ws fuel next

/-- The header's own checks (R84). -/
def headerOk (h : Header) : Bool :=
  h.n != 0 && h.cls != 7 &&
    (List.range 14).all fun i => !bitOf h.lmap i || (decide (i + 1 < h.n) && !bitOf h.lmap (i + 1))

/-- The words of a clause, when all can be read now, and the state with the lines that were filled; or what stops the fetch, and at
which offset. -/
def clauseWords (s : State) (core : Nat) (g : Grid) (off : Nat) : Nat → List Nat → (Fetched × Nat) ⊕ (List Nat × State)
  | 0, acc => .inr (acc.reverse, s)
  | n + 1, acc =>
    match codeWord s core g off with
    | some (.ok bs s') => clauseWords s' core g (off + 4) n (wordOfBytes bs :: acc)
    | some x => .inl (x, off)
    | none => .inl (.fault .illegalClause, off)

/-! ### MEET (R33 to R35) -/

/-- Two threads of one group; a continuation thread is a group of one (R41). DESIGN CHOICE (notes/assumptions/136.md): at MEET too, where
R41 says it of rendezvous only: a continuation is no sibling of its old group's threads (R33). -/
def sameGroup (a b : Thread) : Bool :=
  a.team == b.team && a.grp == b.grp && ((!a.isCont && !b.isCont) || a.key == b.key)

/-- A thread held at MEET. -/
def isHeldMeet (t : Thread) : Bool :=
  match t.st with
  | .heldMeet _ _ => true
  | _ => false

/-- The threads that count as siblings at an address: alive, not in a handler, with that MEET (R33, R411). -/
def meetsAt (s : State) (t : Thread) (adr : Word) : List Thread :=
  s.threads.filter fun u => sameGroup u t && u.meet == adr && !u.inHandler && u.st != .exited

/-- A release frees every thread that the group holds at an address (R34). -/
def releaseMeet (s : State) (t : Thread) (adr : Word) : State :=
  mapThreads s (fun u => sameGroup u t && u.meet == adr && isHeldMeet u)
    fun u => { u with st := .ready, meetDone := true, readySince := mainClocks s u.core }

/-- The release that holds when every sibling is held (R34, R35). -/
def settleMeet (s : State) (t : Thread) (adr : Word) : State :=
  let us := meetsAt s t adr
  if us.all isHeldMeet then releaseMeet s t adr else s

/-- A thread arrives at MEET (R33): it is held, and released at once when every sibling has arrived or MHB is 0. -/
def arriveMeet (s : State) (t : Thread) : State :=
  let s := putThread s { t with st := .heldMeet (mainClocks s t.core) t.mhb }
  if t.mhb == 0 then releaseMeet s t t.meet else settleMeet s t t.meet

/-! ### Breakpoints (R386) -/

/-- The breakpoint that a thread about to issue an instruction of a clause hits. -/
def breakpointAt (s : State) (t : Thread) : Option Nat :=
  match getGrid s t.grid with
  | none => none
  | some g =>
    let d := s.debugs.getD g.part {}
    if d.attach && d.target == t.grid && !t.skipBrk && t.clause.any (fun c => decide (t.pc < c.stop)) then
      (List.range 8).find? fun i => d.ben.getD i false && d.bpc.getD i 0 == t.pc
    else none

/-! ### The next instruction of a thread -/

noncomputable section

/-- The WAIT classes of a header that are still outstanding (R86 Table 2). -/
def waitUnmet (t : Thread) (mask : Nat) : Bool :=
  (bitOf mask 1 && t.outMem.count != 0) || (bitOf mask 2 && t.outMatrix.count != 0) ||
    (bitOf mask 3 && t.outCopy.count != 0) || (bitOf mask 5 && t.outSfu.count != 0)

/-- What comes before a thread's instruction: an outcome of its own, an instruction to execute in a state, or a breakpoint at it. -/
inductive Prepared where
  | done (o : Out)
  | run (s : State) (i : Instr)
  | brk (s : State) (thread : Nat) (i : Option Instr)

/-- A thread parked on a page at an access (R409), counted as a PAGE. -/
def parkOn (s : State) (t : Thread) (p : PageKey) (addr : Nat) : State :=
  countGrid (putThread s { t with st := .parked p addr }) t.grid 15 1

/-- The address of a fetch at an offset of a grid's code. -/
def codeAddr (g : Grid) (off : Nat) : Nat := faultAddr (ptrIdx g.code.toNat) (ptrOff g.code.toNat + off : Nat)

/-- What the fetch of a line of code has found: an uncorrectable error in it poisons its atom (R309). -/
def codeFound (s : State) (g : Grid) (off : Nat) : State :=
  let n := min 64 (g.codeLen - off / 64 * 64)
  match unitAccess s g.owner g.id (g.code.toNat + off / 64 * 64) n 1 rightX with
  | .ok t => foundAt s t n
  | _ => s

/-- A fault of the fetch at an offset, in a thread at its PC. POISON is late there too (R408 Table 1). -/
def fetchFault (s : State) (t : Thread) (g : Grid) (c : FaultCode) (off : Nat) : Out :=
  if c == .illegalClause then raise s t c
  else
    .next (putThread (if c == .poison then codeFound s g off else s)
      (faulted t { code := c, late := c == .poison, tpc := t.pc, addr := codeAddr g off }))

/-- A word that holds no instruction (R104), under the order of R90. -/
def rejected (s : State) (t : Thread) (c : ClauseCtx) (w n : Nat) (r : Reject) : Out :=
  match poisonDue t with
  | some f => .next (putThread s (faulted t f))
  | none =>
    let g := fieldGuard w
    if windowClosed t then waits s
    else if !guardWf g then raise s t .illegalOperand
    else if !guardPasses t g && !actsUnguarded c.cls (fieldOp w) then .next (putThread s (advance (issued s t) n))
    else if r == .opcode then raise s t .illegalOpcode
    else if !(needOf c.cls (fieldOp w)).met t.kind then raise s t .role
    else raise s t .illegalOperand

/-- A value of a thread's code taken, or what its fetch does to the thread instead: it parks on the page, or raises the fault (R84, R409). -/
def withCode (s : State) (t : Thread) (g : Grid) (off : Nat) (go : Nat → State → Prepared) : Prepared :=
  match codeWord s t.core g off with
  | some (.ok bs s1) => go (wordOfBytes bs) s1
  | some (.park p) => .done (.next (parkOn s t p (codeAddr g off)))
  | some (.fault f) => .done (fetchFault s t g f off)
  | none => .done (raise s t .illegalClause)

/-- The instruction at a thread's PC inside a clause, but for a breakpoint. -/
def fetchWord (s : State) (t : Thread) (g : Grid) (c : ClauseCtx) : Prepared :=
  withCode s t g c.hdr fun h _ => withCode s t g t.pc fun w s1 =>
    let run (lit : Option Nat) (s2 : State) : Prepared :=
      match decode c.cls w lit with
      | .ok i => .run s2 i
      | .error r => .done (rejected s2 t c w (if lit.isSome then 8 else 4) r)
    if bitOf (decodeHeader h).lmap ((t.pc - c.hdr) / 4 - 1) then withCode s1 t g (t.pc + 4) fun l s2 => run (some l) s2
    else run none s1

/-- The instruction at a thread's PC inside a clause; at a breakpoint, the thread hits it unless it is WAITING there (R386). -/
def fetchInstr (s : State) (t : Thread) (g : Grid) (c : ClauseCtx) : Prepared :=
  match breakpointAt s t with
  | none => fetchWord s t g c
  | some _ => match fetchWord s t g c with
    | .run _ i => .brk s t.key (some i)
    | .done (.next r) => if r.stall then .done (.next r) else .brk s t.key none
    | _ => .brk s t.key none

/-- ILLEGAL_CLAUSE at an offset that is no header and no issued instruction: an entry offset, or the end of the code (R85). -/
def raiseNowhere (s : State) (t : Thread) (tpc : Nat) : Out :=
  .next (putThread s (faulted t { code := .illegalClause, nowhere := true, tpc := tpc }))

/-- The clause whose header a thread is at: the header's checks, then its WAIT, then its first instruction (R84, R86). A header that is
not wholly within the code buffer extends past its end (R82). -/
def openClause (s : State) (t : Thread) (g : Grid) : Prepared :=
  withCode s t g t.pc fun hw s1 =>
    let h := decodeHeader hw
    if !headerOk h || g.codeLen < t.pc + 4 * (h.n + 1) then .done (raise s1 t .illegalClause)
    else
      match clauseWords s1 t.core g (t.pc + 4) h.n [] with
      | .inl (.park p, o) => .done (.next (parkOn s1 t p (codeAddr g o)))
      | .inl (.fault f, o) => .done (fetchFault s1 t g f o)
      | .inl (.ok _ _, _) => .done (raise s1 t .illegalClause)
      | .inr (ws, s2) =>
        if !wordsOk h ws h.n 0 then .done (raise s2 t .illegalClause)
        else if waitUnmet t h.wait then .done (waits s2)
        else
          let c : ClauseCtx := { hdr := t.pc, cls := h.cls, gw := h.gw, stop := t.pc + 4 * (h.n + 1) }
          let t' := { t with pc := t.pc + 4, clause := some c, meetDone := false, fresh := false }
          fetchInstr (putThread s2 t') t' g c

/-- A thread between clauses: the header that it must be at, the arrival at MEET (R33), and the clause. An offset beyond the chain is no
header, so no thread arrives there. DESIGN CHOICE (notes/assumptions/102.md): the arrival is taken when the picker picks the thread,
and is that thread's part in its lane group's pick of the clock. -/
def beginClause (s : State) (t : Thread) (g : Grid) : Prepared :=
  match t.windows.findSome? (·.poison) with
  | some f => .done (.next (putThread s (faulted t f)))
  | none =>
    match (if t.fresh then chainAt s t.core g t.pc else .hdr t.pc) with
    | .park p o => .done (.next (parkOn s t p (codeAddr g o)))
    | .fault c o => .done (fetchFault s t g c o)
    | .none => .done (raiseNowhere s t t.pc)
    | .hdr h =>
      if h != t.pc then .done (raiseNowhere s t t.pc)
      else if g.codeLen ≤ t.pc then .done (raiseNowhere s t g.codeLen)
      else if t.meet != 0xFFFFFFFF && t.meet.toNat == t.pc && !t.inHandler && !t.meetDone then .done (.next (arriveMeet s t))
      else openClause s t g

/-- The next thing that a thread of the fused set does. A member that is READY no longer does nothing (R28). -/
def prepare (s : State) (k : Nat) : Prepared :=
  match getThread s k with
  | none => .done (.next s)
  | some t =>
    if t.st != .ready then .done (.next s)
    else
      match getGrid s t.grid with
      | none => .done stuck
      | some g =>
        let s := { s with cur := k }
        match t.clause with
        | none => beginClause s t g
        | some c => fetchInstr s t g c

end

/-! ### Transfers (R85) -/

/-- A thread that needs an offset to be a header: it goes on; it raises ILLEGAL_CLAUSE; or a header on the way cannot be read, and it
parks on that header's page or raises its fault, as a fetch of it does (notes/assumptions/17.md). -/
def atHeader (s : State) (t : Thread) (off : Int) (go : Out) : Out :=
  need (getGrid s t.grid) fun g =>
    match (if 0 ≤ off then chainAt s t.core g off.toNat else .none) with
    | .hdr h => if (h : Int) == off then go else raise s t .illegalClause
    | .none => raise s t .illegalClause
    | .park p o => .next (parkOn s t p (codeAddr g o))
    | .fault c o => fetchFault s t g c o

/-- The clause that holds an offset, for a thread that resumes inside it (R412). -/
def clauseHolding (s : State) (core : Nat) (g : Grid) (off : Nat) : Option ClauseCtx :=
  match chainAt s core g off with
  | .hdr h =>
    if h == off then none
    else (codeValue s core g h).map fun w =>
      let x := decodeHeader w
      { hdr := h, cls := x.cls, gw := x.gw, stop := h + 4 * (x.n + 1) }
  | _ => none

end Sys2Proof.Machine
end

