-- ==== Sys2Proof/Machine/QueueOps.lean ====
section
/-! DEFINITION. The queue unit (R331, R340, R341): FIFO, spill ring, pushes, pops and refill; pushes by the device's own units
(R337, R384), and the units that wait on a page. -/

namespace Sys2Proof.Machine

/-! ### Units that wait on a page (R341, R346) -/

/-- Whether a unit waits on a page. -/
def unitWaiting (s : State) (u : UnitId) (p : PageKey) : Bool := s.mem.parks.any fun x => x.unit == u && x.page == p

/-- Whether the page that a unit waits on has been refused. -/
def unitRefused (s : State) (u : UnitId) (p : PageKey) : Bool := s.mem.parks.any fun x => x.unit == u && x.page == p && x.refused

/-- A unit that met a PAGE waits on it. -/
def unitPark (s : State) (u : UnitId) (p : PageKey) : State :=
  withMem s fun m => { m with parks := m.parks ++ [{ page := p, unit := u }] }

/-- A unit that waits no longer. -/
def unitGo (s : State) (u : UnitId) : State := withMem s fun m => { m with parks := dropIf (fun x => x.unit == u) m.parks }

/-- A unit's access under the checks of R155, its page waits and refusals in view: a page that the unit was refused is denied. -/
def unitCheck (s : State) (u : UnitId) (owner grid p size align right : Nat) : Check :=
  match unitAccess s owner grid p size align right with
  | .park pg => if unitRefused s u pg then .fault .pageDenied else .park pg
  | c => c

/-- The place of a record at a pointer that was checked before (R345): only check 6 of R155 is made, with the device's own rights. -/
def recordCheck (s : State) (u : UnitId) (owner p size : Nat) : Check :=
  let e := decodeBuf ((bufFor s none owner (ptrIdx p)).getD [])
  match entryExtent s e 0 with
  | none => .fault .pageDenied
  | some (base, _) =>
    match placed s { core := none, owner := owner, grid := 0, idx := ptrIdx p, off := (ptrOff p : Int), size := size, align := 1, right := rightW } e base with
    | .park pg => if unitRefused s u pg then .fault .pageDenied else .park pg
    | c => c

/-- A unit that met a PAGE: it waits on the page from now on, or waits already. -/
def unitWait (s : State) (u : UnitId) (p : PageKey) : Out :=
  if unitWaiting s u p then stuck else .next (unitPark s u p)

/-! ### Queues -/

/-- A queue that is enabled. -/
def queueFor (s : State) (q : Nat) : Option HwQueue := s.disp.queues.find? fun x => x.q == q && x.en

/-- A queue put back. -/
def putQueue (s : State) (q : HwQueue) : State :=
  withDisp s fun d =>
    { d with queues := if d.queues.any (fun x => x.q == q.q) then mapIf (fun x => x.q == q.q) (fun _ => q) d.queues else d.queues ++ [q] }

/-- The entries in the ring (R331). -/
def HwQueue.ringCount (q : HwQueue) : Nat := (q.tail + 2 ^ 32 - q.head) % 2 ^ 32
/-- The entries that the ring can hold. -/
def HwQueue.ringSize (q : HwQueue) : Nat := 2 ^ q.logcap
/-- Every entry of a queue. -/
def HwQueue.count (q : HwQueue) : Nat := q.fifo.length + q.ringCount
/-- The buffer pointer of ring entry k. -/
def HwQueue.ringPtr (q : HwQueue) (k : Nat) : Nat := (q.ring.toNat + 32 * (k % q.ringSize)) % 2 ^ 64

/-- A queue stopped by a ring fault at a ring address (R341). -/
def stopQueue (s : State) (q : HwQueue) (ptr : Nat) : State :=
  putQueue (unitGo s (.ring q.q)) { q with stopped := some (faultAddr (ptrIdx ptr) (ptrOff ptr : Nat)) }

/-- Whether a write of bytes at home would be discarded on poison (R310): some atom of them is poisoned, or holds an error, and
the bytes do not cover it. -/
def writeLost (s : State) (t : Target) (bs : List (Nat × Byte)) : Bool :=
  t.pkg.isNone && bs.any fun b =>
    (atomHalves t.gang b.1).any (fun h => ((assoc s.mem.atoms h).getD {}).bad) &&
      !((List.range (atomSize t.gang)).all fun i => bs.any fun c => c.1 == atomStart t.gang b.1 + i)

/-- What a queue operation meets (R340 Table 2, R341). -/
inductive QRes where
  | done (s : State) (es : List QEntry)
  | cannot
  | page (p : PageKey)
  | fault (s : State)

/-- A push of one entry. -/
def pushOne (s : State) (n : Nat) (e : QEntry) : QRes :=
  match queueFor s n with
  | none => .cannot
  | some q =>
    if q.ringCount == 0 && decide (q.fifo.length < 32) then .done (putQueue s { q with fifo := q.fifo ++ [e] }) []
    else if q.ringSize ≤ q.ringCount then .cannot
    else
      let p := q.ringPtr q.tail
      match unitCheck s (.ring n) q.owner 0 p 32 32 rightW with
      | .ok t =>
        let bs := at_ t.phys (bytesOf e.words)
        if writeLost s t bs then .fault (stopQueue (writeTarget s t bs) q p)
        else .done (putQueue (unitGo (writeTarget s t bs) (.ring n))
          { q with tail := (q.tail + 1) % 2 ^ 32, pushers := q.pushers ++ [e.pusher] }) []
      | .park pg => .page pg
      | _ => .fault (stopQueue s q p)

/-- Whether entries fit (R340). -/
def HwQueue.room (q : HwQueue) (n : Nat) : Bool := decide (n ≤ 32 - q.fifo.length + (q.ringSize - q.ringCount)) &&
  (n != 1 || q.ringCount != q.ringSize)

/-- A push of one or two adjacent entries: all of them, or none. A ring fault appends nothing. -/
def pushAll (s : State) (n : Nat) : List QEntry → QRes
  | [] => .done s []
  | e :: es =>
    match queueFor s n with
    | none => .cannot
    | some q =>
      if !q.room (es.length + 1) then .cannot
      else match pushOne s n e with
        | .done s1 _ =>
          (match es with
            | [] => .done s1 []
            | e2 :: _ => match pushOne s1 n e2 with
              | .done s2 _ => .done s2 []
              | .fault s2 => match (queueFor s2 n).bind (·.stopped) with
                | some a => .fault (putQueue (unitGo s (.ring n)) { q with stopped := some a })
                | none => .fault s2
              | r => r)
        | r => r

/-- The refill of a FIFO from the ring (R340), up to a number of entries. -/
def refill (s : State) (n : Nat) : Nat → QRes
  | 0 => .done s []
  | fuel + 1 =>
    match queueFor s n with
    | none => .done s []
    | some q =>
      if q.ringCount == 0 || decide (32 ≤ q.fifo.length) then .done s []
      else
        let p := q.ringPtr q.head
        match unitCheck s (.ring n) q.owner 0 p 32 32 rightR with
        | .ok t =>
          let (bs, bad) := readTarget s t 0 32
          if bad then .fault (stopQueue (foundAt s t 32) q p)
          else
            let e : QEntry := { words := wordsOf bs, pusher := q.pushers.head?.getD none }
            refill (putQueue (unitGo s (.ring n))
              { q with head := (q.head + 1) % 2 ^ 32, fifo := q.fifo ++ [e], pushers := q.pushers.drop 1 }) n fuel
        | .park pg => .page pg
        | _ => .fault (stopQueue s q p)

/-- A pop of one entry, with the refill that follows it. A ring fault in the refill stops the queue, and the pop stands. -/
def popOne (s : State) (n : Nat) : QRes :=
  match queueFor s n with
  | none => .cannot
  | some q =>
    match q.fifo with
    | [] => .cannot
    | e :: es =>
      match refill (putQueue s { q with fifo := es }) n 32 with
      | .done s1 _ => .done s1 [e]
      | .fault s1 => .done s1 [e]
      | r => r

/-- One more drop of a queue (R342), enabled or not. -/
def addDrop (s : State) (n : Nat) : State :=
  let q := (s.disp.queues.find? fun x => x.q == n).getD { q := n }
  putQueue s { q with drops := (q.drops + 1) % 2 ^ 32 }

/-! ### Pushes by the device's own units -/

/-- The name that a pending push of a device unit carries in place of a thread. -/
def devicePusher : Nat := 2 ^ 64

/-- The name that a pending push of a host window carries. -/
def hostPusher : Nat := 2 ^ 64 + 1

/-- Whether a name is no thread's. -/
def unitPusher (t : Nat) : Bool := decide (devicePusher ≤ t)

/-- Whether an operation pushes. -/
def QOpKind.isPush : QOpKind → Bool
  | .push => true
  | .pushD => true
  | .pushNb _ => true
  | _ => false

/-- The predicate that a non-blocking form writes. -/
def QOpKind.pred : QOpKind → Option Nat
  | .pushNb p => some p
  | .popNb p => some p
  | _ => none

/-- A queue's operations wait for a ring page (R341). -/
def ringWaits (s : State) (n : Nat) : Bool := s.mem.parks.any fun x => x.unit == .ring n && !x.refused

/-- An operation whose turn it is in its fused set: the set's lanes are performed in ascending order (R216). -/
def frontQop (s : State) (o : QOp) : Bool := (s.disp.qops.find? fun x => x.q == o.q && x.fset == o.fset) == some o

/-- A fused set's operations on a queue are in progress, or the queue's operations wait for a ring page: no other unit takes from the
queue (R341). -/
def ringHeld (s : State) (n : Nat) : Bool :=
  ringWaits s n || s.disp.qops.any fun o => o.q == n && o.started && !o.blocked && frontQop s o

/-- Whether a unit's push waits behind others: for a ring page, or for pushes that reached the queue before it (R341). -/
def pushesWait (s : State) (n : Nat) : Bool :=
  ringHeld s n || s.disp.qops.any fun o => o.q == n && (unitPusher o.thread || (o.blocked && o.kind.isPush))

/-- Whether a queue receives records and events: an enabled HOSTEV queue of owner 0 (R337, R383). -/
def eventQueue (s : State) (n : Nat) : Option HwQueue :=
  (queueFor s n).bind fun q => if q.kind == 3 && q.owner == 0 && q.stopped.isNone then some q else none

/-- A record that is dropped, counted in PCNT11 of its grid's partition, where that partition's OWNER owns the grid (R384, R391, R418). -/
def countDrop (s : State) (part owner : Nat) : State := if partOwner s part == owner then countPart s part 11 1 else s

/-- What the loss of an operation counts: one of a host window in DROPS (R342), a record in PCNT11 (R384, R418). -/
def countLost (s : State) (o : QOp) : State :=
  if o.thread == hostPusher then addDrop s o.q
  else match o.drop with
    | some (part, owner) => countDrop s part owner
    | none => s

/-- A record or event pushed as entries of eight words into an event queue: the state, and whether it was posted. A push that
waits for a ring page, or finds the queue's operations waiting for one, stays with the queue unit (R341); `drop` names the partition and
the owner for which it counts, should it be given up there. -/
def devicePush (s : State) (n : Nat) (es : List (List Word)) (drop : Option (Nat × Nat)) : State × Bool :=
  match eventQueue s n with
  | none => (s, false)
  | some q =>
    if !q.room es.length then (s, false)
    else
      let later : State := withDisp s fun d =>
        { d with qops := d.qops ++ [{ q := n, thread := devicePusher, kind := if es.length == 2 then .pushD else .push, d := 0
                                      words := es.flatten, after := 0, left := s.clock, drop := drop }] }
      if pushesWait s n then (later, true)
      else match pushAll s n (es.map fun ws => { words := ws }) with
        | .done s1 _ => (s1, true)
        | .fault s1 => (s1, false)
        | .page _ => (later, true)
        | .cannot => (s, false)

/-- A record of a grid pushed into an event queue, or dropped and counted. -/
def pushRecord (s : State) (n : Nat) (es : List (List Word)) (part owner : Nat) : State :=
  match devicePush s n es (some (part, owner)) with
  | (s', true) => s'
  | (s', false) => countDrop s' part owner

end Sys2Proof.Machine
end

