-- ==== Sys2Proof/Machine/DebugOps.lean ====
section
/-! DEFINITION. Observation records (R384), stop modes (R387) and watch regions (R389) of a partition's debug window. -/

namespace Sys2Proof.Machine

/-- The partition of a grid. -/
def partOf (s : State) (grid : Nat) : Nat := ((getGrid s grid).map (·.part)).getD 0

/-- A partition's debug window. -/
def debugOf (s : State) (part : Nat) : Debug := s.debugs.getD part {}

/-- A partition's debug window changed. -/
def withDebug (s : State) (part : Nat) (f : Debug → Debug) : State :=
  { s with debugs := s.debugs.mapIdx fun i d => if i == part then f d else d }

/-- An observation record (R384 Table 3): 16 words, with the body filled up with zeros. -/
def obsWords (kind sub grid team tid pc time blame : Nat) (body : List Word) : List Word :=
  [word (256 * sub + kind), word grid, word team, word tid, word pc, word (time % 2 ^ 32), word (time / 2 ^ 32), word blame] ++
    (body ++ List.replicate 8 0).take 8

/-- A record pushed into the partition's event queue; one that is not taken counts in PCNT11 (R384). -/
def observe (s : State) (part kind sub grid team tid pc blame : Nat) (body : List Word) : State :=
  let ws := obsWords kind sub grid team tid pc (Config.podTime s.clock) blame body
  pushRecord s (debugOf s part).evq [ws.take 8, ws.drop 8] part (ownerOf s grid)

/-- Whether the partition's window observes a grid for breakpoints, watch regions and stops (R383). -/
def targeted (s : State) (grid : Nat) : Bool :=
  let d := debugOf s (partOf s grid)
  d.attach && d.target == grid

/-- A thread that has not ended. -/
def alive (t : Thread) : Bool := t.st != .exited && t.st != .ended

/-- The threads that a stop mode stops with a thread (R387). -/
def stopsWith (mode : Nat) (t u : Thread) : Bool :=
  alive u && (u.key == t.key || (mode == 1 && u.team == t.team) || (mode == 2 && u.grid == t.grid))

/-- A stop asked of a thread, with the record that is to name it, if any: it issues nothing more. -/
def askStop (r : Option StopRec) (t : Thread) : Thread := { t with stopAsk := some (r.orElse fun _ => t.stopAsk.join) }

/-- A stop of a thread and of all that the mode stops with it (R386, R387); its record names the thread alone. -/
def stopBy (s : State) (t : Thread) (r : StopRec) : State :=
  mapAllThreads s (stopsWith r.mode t) fun u => askStop (if u.key == t.key then some r else none) u

/-- What a thread has issued has written its destinations, which a stop waits for (R139, R185). -/
def resultsDone (t : Thread) : Bool := t.windows.all fun w => w.regs.isEmpty || w.poison.isSome

/-- A thread that becomes STOPPED, with the record that names it; the flags of its results are in FLAGS (R139). -/
def becomeStopped (s : State) (t : Thread) : State :=
  let s := onThread s t.key fun u => { flushFlags u with stopped := true, stopAsk := none, stepping := 0 }
  match t.stopAsk.join with
  | none => s
  | some r => observe s (partOf s t.grid) 4 r.cause t.grid t.teamIdx t.tid r.pc 0 [word r.cause, word r.mode]

/-- A thread whose queue operation never is BLOCKED waits for the queue unit's answer (R215): it is WAITING. -/
def nbWaits (s : State) (t : Thread) : Bool := s.disp.qops.any fun o => o.thread == t.key && o.kind.pred.isSome

/-- A thread inside an instruction that is WAITING: its copy or near-memory command is not accepted yet (R252, R259), or its queue
operation not answered. -/
def midInstruction (s : State) (t : Thread) : Bool := t.st == .blocked .copyAccept || t.st == .blocked .nmcSend || nbWaits s t

/-- STATE is READY. -/
def isReady (s : State) : Bool := s.regs.state == 3

/-- The threads that become STOPPED now: at a boundary between instructions, with their results written (R387). -/
def settleStops (s : State) : State :=
  ((allThreads s).filter fun t => t.stopAsk.isSome && alive t && resultsDone t && !midInstruction s t && !s.fused.contains t.key).foldl
    becomeStopped s

/-- The watch region that an access to a buffer touches (R389): the lowest-numbered one with an action; one of length 0 holds no byte. -/
def watchHit (s : State) (t : Thread) (idx off size : Nat) : Option Nat :=
  if targeted s t.grid then
    let d := debugOf s (partOf s t.grid)
    (List.range 4).find? fun i =>
      let p := d.wptr.getD i 0
      d.wact.getD i 0 != 0 && ptrIdx p == idx &&
        decide (0 < d.wlen.getD i 0 ∧ ptrOff p < off + size ∧ off < ptrOff p + d.wlen.getD i 0)
  else none

/-- The VALUE records of a traced write (R389, R390): one for each aligned word that it writes, with the old and the new word. -/
def valueRecords (s : State) (grid pc : Nat) (g : TraceTag) (phys : Nat) (old : Nat → Byte) (bs : List (Nat × Byte)) : State :=
  let words := ((bs.map fun b => b.1 / 4 * 4).eraseDups)
  words.foldl (fun s a =>
    let new (x : Nat) : Byte := ((bs.find? fun b => b.1 == x).map (·.2)).getD (old x)
    let wd (f : Nat → Byte) : Word := word (wordOfBytes [f a, f (a + 1), f (a + 2), f (a + 3)])
    let mask := ((List.range 4).map fun i => boolNat (bs.any fun b => b.1 == a + i) * 2 ^ i).sum
    let ptr := g.ptr / 4 * 4 + (a - phys / 4 * 4)
    observe s g.part 3 g.region grid g.team g.tid pc 0
      [word (ptr % 2 ^ 32), word (ptr / 2 ^ 32), wd old, wd new, word mask]) s

end Sys2Proof.Machine
end

