-- ==== Sys2Proof/Machine/ConvoyOps.lean ====
section
/-! DEFINITION. The convoy table (R324, R325) and its counters: positions, tail, holds and lapses (R365 to R374). -/

namespace Sys2Proof.Machine

/-- An entry of the convoy table; every entry is unbound at reset. -/
def convoyOf (s : State) (c : Nat) : Convoy := (s.disp.convoys.find? fun x => x.id == c).getD { id := c }

/-- An entry as the last clock left it (R367). -/
def convoySeen (s : State) (c : Nat) : Convoy := (s.disp.convoysSeen.find? fun x => x.id == c).getD { id := c }

/-- An entry put back. -/
def putConvoy (s : State) (v : Convoy) : State :=
  withDisp s fun d =>
    { d with convoys := if d.convoys.any (fun x => x.id == v.id) then mapIf (fun x => x.id == v.id) (fun _ => v) d.convoys
                        else d.convoys ++ [v] }

/-- Whether index i is active. -/
def Convoy.active (v : Convoy) (i : Nat) : Bool := v.cvm.getLsbD i
/-- Whether index i is lapsed. -/
def Convoy.lapsed (v : Convoy) (i : Nat) : Bool := v.cvl.getLsbD i
/-- POS of an index; 0 where none holds it. -/
def Convoy.posOf (v : Convoy) (i : Nat) : Nat := ((v.pos.find? fun x => x.1 == i).map (·.2.2)).getD 0
/-- The thread that holds an index. -/
def Convoy.holder (v : Convoy) (i : Nat) : Option Nat := (v.pos.find? fun x => x.1 == i).map (·.2.1)
/-- A bit set in a mask of members. -/
def memberBit (i : Nat) : BitVec 64 := BitVec.ofNat 64 (2 ^ i)

/-- The least POS over the active members; 0 when there is none (R366). -/
def Convoy.leastPos (v : Convoy) : Nat := (leastOf ((v.pos.filter fun x => v.active x.1).map (·.2.2))).getD 0

/-- TAIL and TAILCLK after a change in a clock (R366): TAILCLK moves when TAIL increases or the active set has changed, be it that an
index has left it and joined it again, but keeps its value when CVM becomes 0. -/
def retail (old v : Convoy) (clock : Nat) : Convoy :=
  let t := v.leastPos
  { v with
    tail := t
    tailclk := if v.cvm == 0 then v.tailclk else if old.tail < t || old.cvm != v.cvm || v.changed then clock else v.tailclk }

/-- POS of an index set. -/
def Convoy.setPos (v : Convoy) (i key p : Nat) : Convoy :=
  { v with pos := dropIf (fun x => x.1 == i) v.pos ++ [(i, key, p)] }

/-- A member moved from active to lapsed, keeping its POS and index (R371). -/
def Convoy.lapse (v : Convoy) (i : Nat) : Convoy :=
  { v with cvm := v.cvm &&& ~~~memberBit i, cvl := v.cvl ||| memberBit i, changed := true }

/-- A member gone: its index is free, and the convoy is unbound with its last member (R218). -/
def Convoy.leave (v : Convoy) (i : Nat) : Convoy :=
  let w := { v with cvm := v.cvm &&& ~~~memberBit i, cvl := v.cvl &&& ~~~memberBit i, pos := dropIf (fun x => x.1 == i) v.pos
                    changed := v.changed || v.active i }
  if w.pos.isEmpty then { w with bound := false, grid := 0, heldClk := none } else w

/-- A change of a thread sent to its convoy node, to take effect at the end of the clock (R325). -/
def sendCv (s : State) (t : Thread) (kind : CvKind) (c i : Nat) : State :=
  withDisp s fun d =>
    { d with cvq := d.cvq ++
      [{ kind := kind, thread := t.key, grid := t.grid, core := t.core, lane := t.lane, convoy := c, idx := i, pc := t.pc }] }

/-- A thread leaves its convoy; in none, nothing happens (R218). -/
def leaveConvoy (s : State) (t : Thread) : State :=
  match t.cv with
  | none => s
  | some (c, i) => putThread (sendCv s t .leave c i) { t with cv := none }

/-- A thread that is a member lapses (R371). -/
def lapseThread (s : State) (t : Thread) : State :=
  match t.cv with
  | none => s
  | some (c, i) => sendCv s t .lapse c i

/-- Whether the hold test of this clock holds a thread that is about to take a step (R175, R368). -/
def convoyHolds (s : State) (t : Thread) : Bool :=
  match t.cv with
  | none => false
  | some (c, i) =>
    let v := convoySeen s c
    v.active i && decide (v.tail + v.sl ≤ (convoyOf s c).posOf i)

/-- A thread held by its convoy, and the clock noted for the lapse rule (R372). -/
def holdConvoy (s : State) (t : Thread) : State :=
  let s := putThread s { t with st := .heldConvoy }
  match t.cv with
  | none => s
  | some (c, _) => putConvoy s { convoyOf s c with heldClk := some s.clock }

/-- A step counted (R365). TAIL follows at the end of the clock (R366). -/
def stepConvoy (s : State) (t : Thread) : State :=
  match t.cv with
  | none => s
  | some (c, i) => putConvoy s ((convoyOf s c).setPos i t.key ((convoyOf s c).posOf i + 1))

/-- An entry as this clock's steps have left it (R325, R372). -/
def afterSteps (s : State) (c : Nat) : Convoy := retail (convoySeen s c) (convoyOf s c) s.clock

/-- Whether the lapse-time rule applies to an entry in this clock (R372). -/
def lapseDue (s : State) (c : Nat) : Bool :=
  let v := afterSteps s c
  v.cvm != 0 && v.heldClk == some s.clock && decide (v.tailclk + v.lt ≤ s.clock)

/-- The lapse-time rule: every active member at the tail lapses together, and TAILCLK is the clock (R372). -/
def applyLapse (s : State) (c : Nat) : State :=
  let v := afterSteps s c
  let at_ := (v.pos.filter fun x => v.active x.1 && x.2.2 == v.tail).map (·.1)
  let w := at_.foldl (fun w i => w.lapse i) v
  countGrid (putConvoy s { w with tail := w.leastPos, tailclk := s.clock }) v.grid 6 at_.length

/-- A convoy whose lapse is due. -/
def dueLapse (s : State) : Option Nat := (s.disp.convoys.find? fun v => lapseDue s v.id).map (·.id)

/-! ### The end of a clock (R325) -/

/-- What CVJOIN makes of an entry (R217 Table 12): none for the fault CONVOY, else the entry and whether the thread joined. `mine` says
that the thread is the member of that index. -/
def joinConvoy (v : Convoy) (grid thread i : Nat) (mine : Bool) : Option (Convoy × Bool) :=
  if (v.bound && v.grid != grid) || ((v.holder i).isSome && v.holder i != some thread) then none
  else if mine then
    if v.active i then some (v, false)
    else if v.leastPos ≤ v.posOf i || v.cvm == 0 then
      some ({ v with cvm := v.cvm ||| memberBit i, cvl := v.cvl &&& ~~~memberBit i, changed := true }, true)
    else some (v, false)
  else if !v.bound then
    some (({ v with bound := true, grid := grid, sl := 8, lt := 4096, cvm := memberBit i, cvl := 0, pos := [], changed := true }).setPos i thread 0, true)
  else some ({ v with cvm := v.cvm ||| memberBit i, changed := true }.setPos i thread (if v.cvm == 0 then 0 else v.leastPos), true)

/-- A member whose join has taken effect (R217); a first join begins a membership. -/
def joined (s : State) (c i : Nat) (t : Thread) : Thread :=
  { t with cv := some (c, i), cvmrg := 0, cvsolo := 0, cvStamp := if t.cv.isSome then t.cvStamp else s.mem.seq }

/-- A join at the end of its clock: the thread becomes a member, or raises CONVOY at its CVJOIN. -/
def applyJoin (s : State) (x : CvChange) : State :=
  match getThread s x.thread with
  | none => s
  | some t =>
    match joinConvoy (convoyOf s x.convoy) x.grid x.thread x.idx (t.cv == some (x.convoy, x.idx)) with
    | none => putThread s (faulted { t with pc := x.pc } { code := .convoy, tpc := x.pc })
    | some (v, true) => putThread (bump (putConvoy s v)) (joined s x.convoy x.idx t)
    | some (_, false) => s

/-- A change applied, while its thread holds its index; a lapse is counted (R391). -/
def applyCv (s : State) (x : CvChange) : State :=
  let v := convoyOf s x.convoy
  let held := v.holder x.idx == some x.thread
  match x.kind with
  | .join => applyJoin s x
  | .lapse => if held && v.active x.idx then countGrid (putConvoy s (v.lapse x.idx)) x.grid 6 1 else s
  | .leave => if held then putConvoy s (v.leave x.idx) else s
  | .setSl n => if held then putConvoy s { v with sl := n } else s
  | .setLt n => if held then putConvoy s { v with lt := n } else s

/-- The place of a change among those of its clock: its kind, then physical core, then lane. -/
def cvKey (x : CvChange) : List Nat :=
  [match x.kind with | .lapse => 0 | .leave => 1 | .join => 2 | _ => 3, x.core, x.lane]

/-- A change put in its place, after those that came before it with the same key. -/
def insertCv (x : CvChange) : List CvChange → List CvChange
  | [] => [x]
  | y :: r => if lexLess (cvKey x) (cvKey y) then x :: y :: r else y :: insertCv x r

/-- The convoy table at the end of a clock: the tail after the steps, then the changes that reached it in the order of R325, then the
tail again (R366). -/
def settleConvoys (s : State) : State :=
  let steps := s.disp.convoys.map fun v => afterSteps s v.id
  let s1 := withDisp s fun d => { d with convoys := steps, cvq := [] }
  let s2 := (s.disp.cvq.foldl (fun l x => insertCv x l) []).foldl applyCv s1
  let old (v : Convoy) : Convoy := (steps.find? fun x => x.id == v.id).getD { id := v.id }
  withDisp s2 fun d => { d with convoys := d.convoys.map fun v => { retail (old v) v s.clock with changed := false } }

/-- The table at the start of a clock, and the hold tests of the members that were held (R367, R368). -/
def tickConvoys (s : State) : State :=
  let s := withDisp s fun d => { d with convoysSeen := d.convoys }
  s.threads.foldl (fun s t =>
    if t.st == .heldConvoy then
      (if convoyHolds s t then holdConvoy s t else putThread s { t with st := .ready, readySince := mainClocks s t.core })
    else s) s

end Sys2Proof.Machine
end

