-- ==== Sys2Proof/Machine/Picker.lean ====
section
/-! DEFINITION. The issue picker (R26, R27), the clock, and the device steps that are due by themselves. -/

namespace Sys2Proof.Machine

/-- The launch priority of a thread's grid. -/
def prioOf (s : State) (t : Thread) : Nat := ((getGrid s t.grid).map (·.prio)).getD 0

/-- Whether a thread has been READY for 256 clocks of its lane group without issuing (R5, R26). -/
def starved (s : State) (t : Thread) : Bool := decide (t.readySince + 256 ≤ mainClocks s t.core)

/-- The thread of a list that comes first by a key. -/
def firstBy (key : Thread → List Nat) : List Thread → Option Thread
  | [] => none
  | t :: ts =>
    match firstBy key ts with
    | none => some t
    | some u => if lexLess (key u) (key t) then some u else some t

/-- When a thread issued last, for R26 and R27: one that has not issued counts as having issued in the clock of its creation. -/
def issueKey (t : Thread) : Nat := max t.lastIssue (t.created + 1)

/-- The thread whose PC and grid the picker chooses among the READY threads of a lane group (R26). -/
def chosen (s : State) (ready : List Thread) : Option Thread :=
  match firstBy (fun t => [t.readySince, t.lane, t.depth]) (ready.filter (starved s)) with
  | some t => some t
  | none =>
    let top := ready.foldl (fun p t => max p (prioOf s t)) 0
    let cand := ready.filter fun t => prioOf s t == top
    match firstBy (fun t => [t.pc]) cand with
    | none => none
    | some low => firstBy (fun t => [issueKey t, t.lane, t.depth]) (cand.filter fun t => t.pc == low.pc)

/-- One thread for each physical lane, the one that issued least recently, then the lower depth (R27), in ascending lane order. -/
def onePerLane (ts : List Thread) : List Nat :=
  (List.range 32).filterMap fun l =>
    (firstBy (fun t => [issueKey t, t.depth]) (ts.filter fun t => t.lane == l)).map (·.key)

/-- The fused set that the picker issues (R27); a thread that a debugger steps issues in a set of one (R388). -/
def fusedSet (s : State) (ready : List Thread) : List Nat :=
  match chosen s ready with
  | none => []
  | some t =>
    if t.stepping == 1 then [t.key] else onePerLane (ready.filter fun u => u.pc == t.pc && u.grid == t.grid && u.stepping != 1)

/-- The threads of a lane group. -/
def laneGroup (s : State) (core lg : Nat) : List Thread := s.threads.filter fun t => t.core == core && t.lg == lg

/-- Whether a thread's team is being stopped for a save (R414). -/
def isSaving (s : State) (t : Thread) : Bool := ((getTeam s t.team).map (·.saving.isSome)).getD false

/-- Threads that may issue, but for the dependences that only a trial finds: READY, not stopped (R16, R387), and in no team that is
being saved (R414). -/
def readyState (s : State) (t : Thread) : Bool := t.st == .ready && !t.stopped && t.stopAsk.isNone && !isSaving s t

/-- Threads by ascending physical lane. -/
def inLaneOrder (s : State) (ks : List Nat) : List Nat :=
  (List.range 32).flatMap fun l => ks.filter fun k => (getThread s k).any fun t => t.lane == l

/-- A lane group's turn in a clock: the fused set issues next, and with it, in lane order, the BLOCKED threads that look again at what
they wait for (R323). Its threads that are WAITING start their count of READY clocks anew (R26); the PC chosen is kept for samples (R385),
and a choice of the starvation override is counted (R391). -/
def takePick (s : State) (core lg : Nat) (ready : List Thread) : State :=
  let f := fusedSet s ready
  let mine (k : Nat) : Bool := (getThread s k).any fun t => t.core == core && t.lg == lg
  let looks := s.looks.filter fun k => mine k && !f.contains k
  let late (t : Thread) : Bool := t.core == core && t.lg == lg && t.st == .ready && !(ready.any fun u => u.key == t.key)
  let s1 := mapThreads s late fun t => { t with readySince := mainClocks s core + 1 }
  let s2 := { s1 with fused := inLaneOrder s (f ++ looks), looks := dropIf mine s.looks, ulead := none, ureq := none
                      picked := s.picked ++ [(core, lg)], phase := 4, mem := { s.mem with uid := s.mem.uid + 1 } }
  match chosen s ready with
  | none => s2
  | some t => countGrid { s2 with chose := s2.chose ++ [(core, lg, t.pc)] } t.grid 3 (boolNat (starved s t))

/-- The order of lane groups within a clock: ascending physical core, then lane group (R292, R323). -/
def pairLess (a b : Nat × Nat) : Bool := decide (a.1 < b.1) || (a.1 == b.1 && decide (a.2 < b.2))

/-- Whether a lane group's turn is still to come in this clock. -/
def turnOk (s : State) (l : Nat × Nat) : Bool := decide (s.phase ≤ 4) && beats s l.1 && s.picked.all fun p => pairLess p l

/-- The first of a list of lane groups. -/
def firstGroup : List (Nat × Nat) → Option (Nat × Nat)
  | [] => none
  | l :: ls =>
    match firstGroup ls with
    | none => some l
    | some m => if pairLess m l then some m else some l

/-- The lane groups that hold a thread. -/
def laneGroups (s : State) : List (Nat × Nat) := (s.threads.map fun t => (t.core, t.lg)).eraseDups

/-- The holds and waits that are due in this clock (R34, R193): a thread whose hold bound has passed, or whose count has expired. -/
def dueHold (s : State) : Option Nat :=
  (s.threads.find? fun t => match t.st with
    | .heldMeet since bound => decide (since + bound ≤ mainClocks s t.core)
    | _ => false).map (·.key)

/-- A YIELDED thread whose count has expired (R193). -/
def dueYield (s : State) : Option Nat :=
  (s.threads.find? fun t => match t.st with
    | .yielded e => decide (e ≤ mainClocks s t.core)
    | _ => false).map (·.key)

/-- Layer-clocks with rationed operand grants, for the partition of the grids with a team on the layer (R391, R428). -/
def countRationed (s : State) : State :=
  (List.range 16).foldl (fun s l =>
    if s.power.ration.getD l 0 == 0 || !layerBeats s l then s
    else
      let grids := (s.disp.teams.filter fun m => m.layer == l).filterMap fun m => (getGrid s m.grid).filter fun g => partOwner s g.part == g.owner
      (grids.map (·.part)).eraseDups.foldl (fun s p => countPart s p 9 1) s) s

/-- The counter of a thread's state in this clock: HELD at MEET, HELD by its convoy, or WAITING at a closed window (R391). -/
def idleCounter (t : Thread) : Option Nat :=
  if t.stopped then none
  else match t.st with
    | .heldMeet _ _ => some 4
    | .heldConvoy => some 5
    | .ready => if windowClosed t then some 10 else none
    | _ => none

/-- The thread-clocks of a clock, and the counters as they stand at its end, which a host reads (R391). -/
def countClock (s : State) : State :=
  let s := countRationed <| (s.threads.filter fun t => beats s t.core).foldl (fun s t => (idleCounter t).elim s fun k => countGrid s t.grid k 1) s
  { s with debugs := s.debugs.map fun d => { d with pcntEnd := d.pcnt } }

/-- The main clock of the fastest regulator that feeds a layer. -/
def topClock (s : State) : Nat := (List.range 16).foldl (fun m l => max m (s.power.mhz.getD (regOf s.regs.regActive l) 600)) 0

/-- The layers' main clocks after a clock of the package, which is one of the fastest regulator: each slower one has its share of them. -/
def tickRegulators (s : State) : Power :=
  let top := topClock s
  let now := (List.range 4).map fun r =>
    let c := s.power.credit.getD r 0 + min top (s.power.mhz.getD r 600)
    if top ≤ c then (true, c - top) else (false, c)
  { s.power with clocks := s.power.clocks.zipIdx.map fun p => p.1 + boolNat (layerBeats s p.2)
                 beats := now.map (·.1), credit := now.map (·.2) }

/-- The end of a clock of the main clock and the start of the next: the convoy nodes' changes take effect (R325); the threads of lane
groups that have not issued start their count of READY clocks anew (R26); thread-clocks are counted (R391). DESIGN CHOICE
(notes/assumptions/101.md): the clock of the package is that of the fastest regulator; a slower one (R427) has no main clock in some of
them, and its lane groups no turn. -/
def tickClock (s : State) : State :=
  let s := countClock (settleConvoys s)
  tickConvoys { s with
    clock := s.clock + 1, picked := [], looks := [], phase := 0, slacks := [], chose := [], banked := [], power := tickRegulators s
    threads := s.threads.map fun t =>
      if s.picked.contains (t.core, t.lg) || !beats s t.core || t.st != .ready then t else { t with readySince := mainClocks s t.core + 1 } }

/-- Cached copies that the device may lose at any time. -/
def evict (s : State) : Sched → State
  | .evictI c o code line => withMem s fun m =>
      { m with icache := dropIf (fun l => l.core == c && l.owner == o && l.code == code && l.line == line) m.icache }
  | .evictBuf c o i => withMem s fun m => { m with bufc := dropIf (fun b => b.core == c && b.owner == o && b.idx == i) m.bufc }
  | .evictTlb c p => withMem s fun m => { m with tlb := dropIf (fun e => e.core == c && e.page == p) m.tlb }
  | .evictRec c o p => withMem s fun m => { m with recs := dropIf (fun r => r.core == c && r.owner == o && r.ptr == p) m.recs }
  | _ => s

end Sys2Proof.Machine
end

