-- ==== Sys2Proof/Machine/DebugEvents.lean ====
section
/-! DEFINITION. The steps of a partition's debug window (R383 to R388, R391): configuration, stops, resumption, single steps, samples and
cleared counters. A command or write that the window ignores changes nothing. -/

namespace Sys2Proof.Machine

/-- Every STOPPED thread of a grid returns to the state beneath STOPPED (R388). -/
def resumeGrid (s : State) (grid : Nat) : State := mapAllThreads s (fun t => t.grid == grid) fun t => { t with stopped := false }

/-- Without ATTACH no stop applies to the target: its STOPPED threads resume, and the stops on their way end (R383, R388). -/
def detach (s : State) (grid : Nat) : State :=
  mapAllThreads (resumeGrid s grid) (fun t => t.grid == grid) fun t => { t with stopAsk := none }

/-- A word of a written line. -/
def lineWord (ws : List Word) (i : Nat) : Nat := (ws.getD i 0).toNat

/-- Line 0 of the window: ignored when a reserved bit is set, SMODE is reserved, SPER is out of its range, or EVQ is no event queue. -/
def writeDebug0 (s : State) (part : Nat) (ws : List Word) : State :=
  let w := lineWord ws
  let old := debugOf s part
  if w 0 % 2 ^ 31 != 0 || decide (256 ≤ w 2) || decide (4 ≤ w 8) || w 8 == 3 || (w 3 != 0 && (decide (w 3 < 256) || decide (2 ^ 24 ≤ w 3))) ||
      !((queueFor s (w 2)).any fun q => q.kind == 3 && q.owner == 0) then s
  else
    let attach := bitOf (w 0) 31
    let s := if old.attach && !attach then detach s old.target else s
    withDebug s part fun d =>
      { d with attach := attach, target := w 1, evq := w 2, sper := w 3, smode := w 8, trcen := BitVec.ofNat 128 (natOfWords ((ws.drop 4).take 4)) }

/-- Line 1: the breakpoints. -/
def writeDebug1 (s : State) (part : Nat) (ws : List Word) : State :=
  let w := lineWord ws
  let is := List.range 8
  if is.any fun i => decide (8 ≤ w (2 * i + 1)) || w (2 * i + 1) / 2 == 3 then s
  else withDebug s part fun d =>
    { d with bpc := is.map fun i => w (2 * i), bmode := is.map fun i => w (2 * i + 1) / 2, ben := is.map fun i => bitOf (w (2 * i + 1)) 0 }

/-- Line 2: the watch regions. -/
def writeDebug2 (s : State) (part : Nat) (ws : List Word) : State :=
  let w := lineWord ws
  let is := List.range 4
  if is.any fun i => decide (16 ≤ w (4 * i + 3)) || w (4 * i + 3) / 4 == 3 then s
  else withDebug s part fun d =>
    { d with wptr := is.map fun i => w (4 * i) + 2 ^ 32 * w (4 * i + 1), wlen := is.map fun i => w (4 * i + 2)
             wmode := is.map fun i => w (4 * i + 3) / 4, wact := is.map fun i => w (4 * i + 3) % 4 }

/-- The live thread of the window's TARGET with a name, resident or in a save block (R383). -/
def namedThread (s : State) (part : Nat) (n : Name) : Option Thread :=
  let d := debugOf s part
  if d.attach && d.target == n.grid then
    (allThreads s).find? fun t => t.grid == n.grid && partOf s t.grid == part && t.teamIdx == n.team && t.tid == n.tid && alive t
  else none

/-- DEBUG_CONFIG_WRITE: The host writes a debug window's configuration, breakpoints or watch regions; before READY a write is ignored.
(R383, R422) -/
def execDebugConfigWrite (part : Nat) (line : Nat) (ws : List Word) (s : State) : Out :=
  .next (if !isReady s then s else match line with
    | 0 => writeDebug0 s part ws
    | 1 => writeDebug1 s part ws
    | 2 => writeDebug2 s part ws
    | _ => s)

/-- DEBUG_STOP: CMD STOP stops the named thread by a stop mode, with a record of cause 0. (R387, R422) -/
def execDebugStop (part : Nat) (name : Name) (mode : Nat) (s : State) : Out :=
  .next (match if isReady s then namedThread s part name else none with
    | some t => if mode < 3 then stopBy s t { cause := 0, mode := mode, pc := t.pc } else s
    | none => s)

/-- DEBUG_RESUME: CMD RESUME returns every STOPPED thread of the target to the state beneath. (R388) -/
def execDebugResume (part : Nat) (s : State) : Out :=
  let d := debugOf s part
  .next (if isReady s && d.attach then resumeGrid s d.target else s)

/-- DEBUG_STEP: CMD STEP issues one instruction of a STOPPED thread alone. (R388) -/
def execDebugStep (part : Nat) (name : Name) (s : State) : Out :=
  .next (match if isReady s then namedThread s part name else none with
    | some t => if t.stopped then onThread s t.key fun u => { u with stopped := false, stepping := 1 } else s
    | none => s)

/-- PCNT_CLEAR: A write of line 4 clears the sixteen performance counters; before READY it is ignored. (R383, R422) -/
def execPcntClear (part : Nat) (s : State) : Out :=
  .next (if isReady s then withDebug s part fun d => { d with pcnt := List.replicate 16 0 } else s)

/-! ### Samples (R385) -/

/-- The place of a thread in the order of lane group, context depth and lane. -/
def sampleKey (t : Thread) : Nat := t.lg * 512 + t.depth * 32 + t.lane

/-- The threads of a core that a window samples. -/
def sampleThreads (s : State) (part core : Nat) : List Thread :=
  let d := debugOf s part
  s.threads.filter fun t => t.core == core && alive t && partOf s t.grid == part && (d.target == 0 || d.target == t.grid)

/-- The lowest register of some windows that is pending, and the PC of the instruction that marked it last, in whatever window, written or
not (R377). -/
def blamedReg (t : Thread) (ws : List Window) : Option (Nat × Nat) :=
  (leastOf ((ws.filter Window.pending).flatMap fun w => w.regs ++ w.reads)).map fun r =>
    (r, ((t.windows.reverse.find? fun w => w.poison.isNone && (w.dests ++ w.reads).contains r).map (·.pc)).getD 0)

/-- The lowest unmet class of a clause's WAIT bits, as its youngest outstanding PC. -/
def unmetClass (t : Thread) (m : Nat) : Option Nat :=
  if bitOf m 1 && t.outMem.count != 0 then some t.outMem.pc
  else if bitOf m 2 && t.outMatrix.count != 0 then some t.outMatrix.pc
  else if bitOf m 3 && t.outCopy.count != 0 then some t.outCopy.pc
  else if bitOf m 5 && t.outSfu.count != 0 then some t.outSfu.pc
  else none

/-- The WAIT bits of the header at an offset, for a thread that has left its clause there. -/
def waitAt (s : State) (t : Thread) (off : Nat) : Option Nat :=
  if t.clause.any fun c => decide (off < c.stop) then none
  else (getGrid s t.grid).bind fun g => (codeValue s t.core g off).map fun w => (decodeHeader w).wait

/-- The PC of the youngest operation of the class for which a thread waits at a header. -/
def blamedWait (s : State) (t : Thread) : Option Nat := (waitAt s t t.pc).bind (unmetClass t)

/-- Whether a raised fault takes a thread to its handler (R410 Table 2). -/
def trapsTo (t : Thread) : Bool := (match t.st with | .trapping _ => true | _ => false) && t.tvec != 0 && !t.inHandler

/-- The offset that a thread issues next (R384, R385): after the instruction at which it is BLOCKED or YIELDED, its handler's for a fault
that takes it there, and past a header unless its WAIT is unmet. -/
def nextOffset (s : State) (t : Thread) : Nat :=
  let t := if trapsTo t then { t with pc := t.tvec, clause := none } else t
  let off := if midInstruction s t then t.pc else match t.st with
    | .blocked (.poll i) => t.pc + lengthOf i
    | .blocked _ => t.pc + t.blen
    | .yielded _ => t.pc + t.blen
    | _ => t.pc
  match waitAt s t off with
  | some m => if (unmetClass t m).isSome then off else off + 4
  | none => off

/-- The PC that a thread's lane group chose in this clock (R26). -/
def chosenPc (s : State) (t : Thread) : Nat :=
  ((s.chose.find? fun c => c.1 == t.core && c.2.1 == t.lg).map (·.2.2)).getD t.pc

/-- The reason, the blamed PC and the blamed register of a sample (R385 Table 4), for a step that has found the READY threads of the
core. A thread whose trap entry (R411) or stop (R387) waits for pending destinations is taken as WAITING on them. -/
def sampleReason (s : State) (t : Thread) : Nat × Nat × Nat :=
  let own := nextOffset s t
  let onReg (ws : List Window) (other : Nat × Nat × Nat) : Nat × Nat × Nat := match blamedReg t ws with
    | some (r, pc) => (1, pc, r)
    | none => other
  if t.lastIssue == s.clock + 1 then (0, t.issuePc, 0)
  else if t.stopped then (10, own, 0)
  else match t.st with
    | .ready =>
      if s.ready.contains t.key then (4, chosenPc s t, 0)
      else onReg (t.windows.filter fun w => t.stopAsk.isSome || w.remain == 0) (match blamedWait s t with
        | some pc => (2, pc, 0)
        | none => (3, own, 0))
    | .heldMeet _ _ => (5, t.meet.toNat, 0)
    | .heldConvoy => (6, own, 0)
    | .yielded _ => (7, t.pc, 0)
    | .blocked _ => if midInstruction s t then (3, own, 0) else (8, t.pc, 0)
    | .parked _ _ => (9, t.pc, 0)
    | _ => onReg t.windows (3, own, 0)

/-- The clock and pointer of a core's last sample. -/
def lastSample (d : Debug) (core : Nat) : Nat × Nat := ((d.sampled.find? fun x => x.1 == core).map (·.2)).getD (0, 0)

/-- Whether a core's sample is due: SPER clocks after the last, with a thread to sample. -/
def sampleDue (s : State) (part core : Nat) : Bool :=
  let d := debugOf s part
  d.sper != 0 && decide ((lastSample d core).2 + d.sper ≤ s.clock) && !(sampleThreads s part core).isEmpty

/-- SAMPLE: Every SPER clocks a core samples one of its threads. (R385) -/
def execSample (part : Nat) (core : Nat) (s : State) : Out :=
  let d := debugOf s part
  let ts := sampleThreads s part core
  let ptr := (lastSample d core).1
  whenOk (sampleDue s part core) <|
    let after := ts.filter fun t => decide (ptr ≤ sampleKey t)
    need (firstBy (fun t => [sampleKey t]) (if after.isEmpty then ts else after)) fun t =>
      let (sub, blame, reg) := sampleReason s t
      let place := t.core + 2 ^ 8 * t.lg + 2 ^ 10 * t.lane + 2 ^ 15 * t.depth
      let s' := observe s part 1 sub t.grid t.teamIdx t.tid (nextOffset s t) blame [word place, word reg]
      .next (withDebug s' part fun d => { d with sampled := assocSet d.sampled core (sampleKey t + 1, s.clock) })

end Sys2Proof.Machine
end

