-- ==== Sys2Proof/Machine/MemOps.lean ====
section
/-! DEFINITION. What the MEM instructions share (07_memory_ops): forming and checking a global address (R154 to R157), what a load, a
store and an atomic enter in the memory system (R163 to R173, R180), and the scratchpad (R158 to R160, R177, R178, R183). -/

namespace Sys2Proof.Machine

noncomputable section

/-! ### Global addresses -/

/-- The literal of an ordinary form, or of an ordering form (R154). -/
def litOff (o : Option Word) : Int := match o with
  | some w => sextInt w.toNat 32
  | none => 0

/-- The offset of the ordering literal (R94). -/
def ordOff (o : OrdLit) : Int := sextInt o.ofs.toNat 20

/-- off of R154. -/
def gOff (t : Thread) (bs : BitVec 3) (a : Reg) (lit : Int) : Int :=
  (ptrOff (rdB t bs.toNat).toNat : Int) + ((rdV t a.toNat).toNat : Int) + lit

/-- The access of a thread (R154, R155). -/
def gAccess (s : State) (t : Thread) (bs : BitVec 3) (a : Reg) (lit : Int) (size align right : Nat) : Access :=
  { core := some t.core, owner := ownerOf s t.grid, grid := t.grid, idx := ptrIdx (rdB t bs.toNat).toNat, off := gOff t bs a lit
    size := size, align := align, right := right }

/-- The taint of a global access's address (R173). -/
def gTaint (t : Thread) (bs : BitVec 3) (a : Reg) : Bool := rdTaint t a.toNat || rdBTaint t bs.toNat

/-- The scope that an ordering form names (R169); none where it raises ILLEGAL_OPERAND. -/
def ordScope (t : Thread) (o : OrdLit) : Option Nat :=
  let x := if o.sfr then (rdV t o.scr.toNat).toNat else o.sci.toNat
  if x < 7 then some x else none

/-- A thread's page in its core's translation buffer is dropped with the outcome that it took (R320). -/
def dropTlb (s : State) (core : Nat) (p : PageKey → Bool) (r : WalkResult → Bool) : State :=
  withMem s fun m => { m with tlb := dropIf (fun e => e.core == core && p e.page && r e.res) m.tlb }

/-- Outcomes of walks that are no translation. -/
def WalkResult.isMissing : WalkResult → Bool
  | .missing _ => true
  | _ => false

/-- Whether an outcome is a refusal. -/
def WalkResult.isDenied : WalkResult → Bool
  | .denied => true
  | _ => false

/-- A miss of the core's translation buffer (R320): entered in the miss table of 256 entries, once for a page; the access waits. -/
def missed (s : State) (core : Nat) (p : PageKey) : Out :=
  if s.mem.miss.contains (core, p) || decide (256 ≤ (s.mem.miss.filter fun x => x.1 == core).length) then waits s
  else .next (withMem s fun m => { m with miss := m.miss ++ [(core, p)] })

/-- A checked access by a thread (R155, R156): `t` as it stands when the access has not issued. A page whose walk is not done is
missed, and one that is not present parks the thread (R409). -/
def withAccess (s : State) (t : Thread) (a : Access) (eff : State → Target → Out) : Out :=
  let s := cacheBuf (putThread s t) t.core a.owner a.idx
  match checkAccess s a with
  | .ok g => if g.pkg.isNone && decide (g.phys < discBase) && !physOk g.phys then .fault .noMemory else eff (noteUse s a) g
  | .fault c =>
    raise (dropTlb s t.core (fun p => p.owner == a.owner) WalkResult.isDenied) { t with stepped := false } c 0 (faultAddr a.idx a.off)
  | .miss p => missed s t.core p
  | .park p => .next (parkOn (dropTlb s t.core (· == p) WalkResult.isMissing) t p (faultAddr a.idx a.off))

/-- The thread as it stood before its instruction. -/
def unissued (s : State) (t : Thread) : Thread := (getThread s t.key).getD t

/-! ### Loads -/

/-- The request slots of a core are taken (R166). -/
def slotsFull (s : State) (core : Nat) : Bool :=
  decide (8192 ≤ (s.mem.reqs.filter fun r => r.core == core && !r.scratch && r.copy.isNone).length)

/-- The slack tag of a request that leaves a core in this clock: its number of READY threads (R275). -/
def slackOf (s : State) (core : Nat) : Nat := min 255 ((assoc s.slacks core).getD 0)

/-- The one request of a fused set under U, once its leader has entered it (R162). -/
def sharedReq (i : Instr) (s : State) : Option Nat := if uBit i then s.ureq else none

/-- A request entered: its destinations pending, the class count up (R163, R377 to R379). Under U the leader's access is performed
once: a later member joins the leader's request (R162). -/
def enterReq (i : Instr) (s : State) (t : Thread) (r : Req) (n la : Nat) : Out :=
  let id := (sharedReq i s).getD r.id
  let t := { t with stepped := false, outMem := { count := t.outMem.count + 1, pc := t.pc } }
  let t := if n == 0 then t else openWindow t id la ((List.range n).map (r.d + ·)) []
  let s := bump (if r.scratch then s else measure s t.grid t.team r.size 0)
  let s := match sharedReq i s with
    | some k => withMem s fun m =>
        { m with reqs := mapIf (fun x => x.id == k) (fun x => { x with mates := x.mates ++ [(t.key, r.stream)] }) m.reqs }
    | none =>
      let r := { r with left := s.clock, slack := slackOf s t.core }
      { withMem s fun m => { m with reqs := m.reqs ++ [r] } with ureq := if uBit i then some r.id else none }
  .next (retire i s t)

/-- A request of a thread for a target. -/
def reqOf (s : State) (t : Thread) (g : Target) (a : Access) (d : Nat) (fmt : LoadFmt) : Req :=
  { id := s.mem.seq, thread := t.key, pc := t.pc, grid := t.grid, owner := a.owner, core := t.core, lg := t.lg, tgt := g, size := a.size
    fmt := fmt, d := d, window := s.mem.seq, addr := faultAddr a.idx a.off }

/-- A global load (R166, R167): n destinations from D. `mk` gives the request its kind. -/
def loadOp (i : Instr) (s : State) (d a : Reg) (la : BitVec 4) (bs : BitVec 3) (lit : Int) (size n : Nat) (fmt : LoadFmt)
    (mk : Thread → Req → Req) : Out :=
  issue i s fun s t =>
    if t.acquires != 0 || slotsFull s t.core then waits s
    else
      let acc := gAccess s t bs a lit size size rightR
      withAccess s (unissued s t) acc fun s g =>
        enterReq i s t (mk t { reqOf s t g acc d.toNat fmt with noL1 := gTaint t bs a }) n la.toNat

/-- A plain load. -/
def plainReq (_ : Thread) (r : Req) : Req := r

/-- LDC (R173): never from L1, and its destinations are tainted. -/
def consumeReq (_ : Thread) (r : Req) : Req := { r with ldc := true, noL1 := true }

/-- The cores inside one instance of a scope with a core (R14, R172). -/
def coresInScope (scope core : Nat) : List Nat := (List.range 192).filter fun c => decide (scopeOfCores core c ≤ max 1 scope)

/-- LDA at a scope (R170): at CORE only the thread's own stores forward; at LAYER and wider its reply installs nothing. -/
def acquireReq (scope : Nat) (_ : Thread) (r : Req) : Req :=
  { r with acq := some scope, own := scope == 1, noInstall := decide (2 ≤ scope), noL1 := r.noL1 || decide (2 ≤ scope) }

/-- LDAP at a scope (R172): PROMOTE goes to every core in the scope first. -/
def promoteReq (scope : Nat) (t : Thread) (r : Req) : Req :=
  { acquireReq scope t r with promote := (coresInScope scope t.core).map fun c => (c, none) }

/-- An acquiring load at the scope that the instruction names; until it has its value no later access of the thread goes. DESIGN CHOICE
(notes/assumptions/137.md): a scope register outside 0 to 6 raises ILLEGAL_OPERAND before the checks of R155; R90 step 7 and R169 give no
order between them. -/
def acquireOp (i : Instr) (s : State) (d a : Reg) (la : BitVec 4) (bs : BitVec 3) (o : OrdLit) (size n : Nat)
    (mk : Nat → Thread → Req → Req) : Out :=
  issue i s fun s t =>
    if t.acquires != 0 || slotsFull s t.core then waits s
    else match ordScope t o with
      | none => raise s (unissued s t) .illegalOperand
      | some sc =>
        let acc := gAccess s t bs a (ordOff o) size size rightR
        withAccess s (unissued s t) acc fun s g =>
          enterReq i s { t with acquires := t.acquires + 1 }
            (mk sc t { reqOf s t g acc d.toNat (.words n) with noL1 := gTaint t bs a }) n la.toNat

/-- LDV (R174, R175): the convoy test and step come before every fault of the access, once for the issued instruction. -/
def streamOp (i : Instr) (s : State) (d a : Reg) (la : BitVec 4) (bs : BitVec 3) (lit : Int) (size n : Nat) : Out :=
  issue i s fun s t =>
    let t0 := unissued s t
    if t.acquires != 0 || slotsFull s t.core then waits s
    else if !t.stepped && convoyHolds s t then .next (holdConvoy s t0)
    else
      let s1 := if t.stepped then s else stepConvoy s t
      let acc := gAccess s t bs a lit size size rightR
      withAccess s1 { t0 with stepped := t.cv.isSome } acc fun s g =>
        enterReq i s t { reqOf s t g acc d.toNat (.words n) with noL1 := gTaint t bs a, stream := t.cv.map fun _ => t.cvStamp } n la.toNat

/-! ### Stores, atomics and reductions -/

/-- The end of a store or atomic: the thread goes on, and a watch region with STOP stops it (R389). -/
def afterStore (i : Instr) (s : State) (t : Thread) (w : Option Nat) : Out :=
  let s' := retire i s t
  match w with
  | none => .next s'
  | some k =>
    let d := debugOf s' (partOf s' t.grid)
    if d.wact.getD k 0 == 2 then .next (stopBy s' t { cause := 0x17, mode := d.wmode.getD k 0, pc := t.pc }) else .next s'

/-- A write access of a thread under its watch regions (R389): FAULT raises WATCH before any byte is written; TRACE tags the
operation. The rest of the effect enters the operation in the store queue. -/
def storeAccess (i : Instr) (s : State) (t : Thread) (acc : Access) (eff : State → Target → Option TraceTag → State × Thread) : Out :=
  if t.acquires != 0 || queueFull s t acc.size then waits s
  else withAccess s (unissued s t) acc fun s g =>
    if ownLoadPending s t g acc.size then waits s
    else
      let w := watchHit s t acc.idx acc.off.toNat acc.size
      let act := (w.map fun k => (debugOf s (partOf s t.grid)).wact.getD k 0).getD 0
      if act == 3 then raise s (unissued s t) .watch 0 (faultAddr acc.idx acc.off)
      else
        let tag : Option TraceTag := if act == 1 then w.map fun k =>
            { region := k, part := partOf s t.grid, ptr := faultAddr acc.idx acc.off, team := t.teamIdx, tid := t.tid } else none
        let r := eff s g tag
        afterStore i r.1 r.2 w

/-- A global store of bytes read at issue (R168). -/
def storeOp (i : Instr) (s : State) (a : Reg) (bs : BitVec 3) (lit : Int) (size : Nat) (data : Thread → List Byte)
    (kind : Nat → OpKind) : Out :=
  issue i s fun s t =>
    storeAccess i s t (gAccess s t bs a lit size size rightW) fun s g tag =>
      (pushStore s t g (data t) (kind s.mem.seq) tag, { t with outMem := { count := t.outMem.count + 1, pc := t.pc } })

/-- A releasing store (R171) at the scope that it names. A scope register outside 0 to 6 is looked at first, as an acquire's is
(notes/assumptions/137.md). -/
def releaseOp (i : Instr) (s : State) (a : Reg) (bs : BitVec 3) (o : OrdLit) (size : Nat) (data : Thread → List Byte) : Out :=
  issue i s fun s t =>
    match ordScope t o with
    | none => raise s (unissued s t) .illegalOperand
    | some sc => storeAccess i s t (gAccess s t bs a (ordOff o) size size rightW) fun s g tag =>
        (pushStore s t g (data t) (.release sc s.mem.seq) tag, { t with outMem := { count := t.outMem.count + 1, pc := t.pc } })

/-- The bytes of n data registers. -/
def regBytes (d : Reg) (n : Nat) (t : Thread) : List Byte := bytesOf (rdMany t d.toNat n)

/-- The low n bytes of a data register. -/
def lowBytes (d : Reg) (n : Nat) (t : Thread) : List Byte := bytesOfWord n (rdV t d.toNat).toNat

/-- An atomic or reduction (R180, R181): its operands are read at issue; `ret` destinations take the old value, none for a reduction. -/
def atomicOp (i : Instr) (s : State) (d a : Reg) (la : BitVec 4) (bs : BitVec 3) (lit : Int) (op : AtomOp) (size align ndata ret : Nat) :
    Out :=
  issue i s fun s t =>
    if ret != 0 && slotsFull s t.core then waits s
    else
      let acc := gAccess s t bs a lit size align rightA
      storeAccess i s t acc fun s g tag =>
        let n := s.mem.seq
        let q : SqOp :=
          { seq := n, grid := t.grid, owner := acc.owner, core := t.core, lg := t.lg, tgt := g, size := size, bytes := []
            kind := .atomic op (rdMany t d.toNat ndata) (if ret == 0 then none else some n), contrib := [(t.key, n)]
            fset := s.mem.uid, tpc := t.pc, trace := tag }
        let s' := enqueue (measure s t.grid t.team size 0) q
        let t' := { t with outMem := { count := t.outMem.count + 1, pc := t.pc } }
        if ret == 0 then (s', t')
        else
          (withMem s' fun m =>
            { m with reqs := m.reqs ++ [{ reqOf s t g acc d.toNat (.words ret) with atomic := true, left := s.clock, slack := slackOf s t.core }] },
            openWindow t' n la.toNat ((List.range ret).map (d.toNat + ·)) [])

/-! ### Scratchpad -/

/-- a of R158. -/
def scrAddr (t : Thread) (a : Reg) (off : Option Word) : Nat := ((rdV t a.toNat).toNat + (off.getD 0).toNat) % 2 ^ 32

/-- The physical offset of a logical one under a mode (R160). -/
def scrMap (mode o : Nat) : Nat :=
  let blk := o / 1024
  let q := o / 16 % 64
  let q2 := if mode == 0 then q else if mode == 1 then (q + blk) % 64 else q ^^^ (blk % 64)
  blk * 1024 + q2 * 16 + o % 16

/-- The mode of a scratchpad address. -/
def scrMode (a : Nat) : Nat := bitsOf a 31 28
/-- The team core of a scratchpad address. -/
def scrCore (a : Nat) : Nat := bitsOf a 22 20
/-- The logical offset of a scratchpad address. -/
def scrOff (a : Nat) : Nat := bitsOf a 19 0

/-- The bytes of scratchpad of each team core of a grid (R290). -/
def scrBytes (s : State) (grid : Nat) : Nat := ((getGrid s grid).map (·.scr)).getD 0 * 1024

/-- Check 2 of R159. -/
def scrBoundsOk (s : State) (t : Thread) (a size : Nat) : Bool :=
  bitsOf a 27 23 == 0 && decide (scrMode a < 3) && decide (scrCore a < ((getTeam s t.team).map (·.cores.length)).getD 0) &&
    decide (scrOff a + size ≤ scrBytes s t.grid)

/-- A byte of a team core's scratchpad at a logical offset under a mode (R160, R177). -/
def scrByte (tm : Team) (tc mode o : Nat) : Byte := cellGet (tm.scratch.getD tc []) (scrMap mode o)

/-- Bytes of scratchpad from a logical offset on. -/
def scrRead (tm : Team) (tc mode o n : Nat) : List Byte := (List.range n).map fun i => scrByte tm tc mode (o + i)

/-- Bytes written to scratchpad at logical offsets; the lines that they touch become valid (R291). -/
def scrWrite (tm : Team) (tc mode : Nat) : List (Nat × Byte) → Team
  | [] => tm
  | (o, x) :: r =>
    let p := scrMap mode o
    let valid := tm.scratchValid.getD tc []
    scrWrite
      { tm with
        scratch := putAt [] tm.scratch tc (cellSet (tm.scratch.getD tc []) p x)
        scratchValid := putAt [] tm.scratchValid tc (if valid.contains (p / 64) then valid else valid ++ [p / 64]) } tc mode r

/-- SCRATCH_BOUNDS in every member of the fused set that fails that check (R159): each takes the fault, with one lane mask. -/
def boundsFault (i : Instr) (s : State) (t : Thread) (addr : Thread → Nat) (fails : Thread → Bool) : Out :=
  let rest := s.fused.filterMap fun k =>
    match prepare s k with
    | .run s1 j => if j == i then (getThread s1 k).filter fun u => (match issueCheck i u with | .ok => fails u | _ => false) else none
    | _ => none
  let all := t :: rest
  let mask := (all.map fun u => 2 ^ u.lane).sum
  .next (all.foldl (fun s u =>
    putThread s (faulted u { code := .scratchBounds, tpc := u.pc, addr := addr u, mask := some mask })) s)

/-- SCRATCH_BOUNDS of an access (R159). A member that U would split off for another address takes no part (R32). -/
def scratchFault (i : Instr) (s : State) (t : Thread) (addr : Thread → Nat) (size : Nat) (ok : Nat → Bool) : Out :=
  boundsFault i s t addr fun u => ok (scrOff (addr u)) && !scrBoundsOk s u (addr u) size && (!uBit i || addr u == addr t)

/-- A checked scratchpad access (R159). -/
def scratchOp (i : Instr) (s : State) (a : Reg) (off : Option Word) (size align : Nat) (eff : State → Thread → Nat → Out) : Out :=
  issue i s fun s t =>
    if t.acquires != 0 then waits s
    else
      let adr := scrAddr t a off
      if scrOff adr % align != 0 then raise s (unissued s t) .misaligned 0 adr
      else if !scrBoundsOk s t adr size then scratchFault i s (unissued s t) (fun u => scrAddr u a off) size (fun o => o % align == 0)
      else eff s t adr

/-- The bytes that LDFRAG.T8 gives (R178): column c of a tile of 32 rows of 32 bytes. -/
def fragT8 (tm : Team) (tc mode o : Nat) : List Byte :=
  (List.range 32).map fun i => scrByte tm tc mode (o / 1024 * 1024 + 32 * i + o % 32)

/-- The bytes that LDFRAG.T16 gives (R178): column c of a tile of 16 rows of 64 bytes. -/
def fragT16 (tm : Team) (tc mode o : Nat) : List Byte :=
  (List.range 32).map fun j => scrByte tm tc mode (o / 1024 * 1024 + 64 * (j / 2) + 2 * (o / 2 % 32) + j % 2)

/-- A scratchpad access as it leaves for its bank. -/
def scratchReq (s : State) (t : Thread) (adr d size n : Nat) (kind : ScrKind) : Req :=
  { id := s.mem.seq, thread := t.key, pc := t.pc, grid := t.grid, owner := 0, core := t.core, lg := t.lg
    tgt := { phys := 0, gang := false, idx := 0, tag := 0 }, size := size, fmt := .words n, d := d, window := s.mem.seq
    scratch := true
    scr := some { team := t.team, tc := scrCore adr, mode := scrMode adr, off := scrOff adr, kind := kind, fset := s.mem.uid, lane := t.lane } }

/-- A scratchpad load of n words (R177). -/
def ldsOp (i : Instr) (s : State) (d a : Reg) (la : BitVec 4) (off : Option Word) (n : Nat) : Out :=
  scratchOp i s a off (4 * n) (4 * n) fun s t adr => enterReq i s t (scratchReq s t adr d.toNat (4 * n) n (.words n)) n la.toNat

/-- A scratchpad store of n words (R177). -/
def stsOp (i : Instr) (s : State) (d a : Reg) (off : Option Word) (n : Nat) : Out :=
  scratchOp i s a off (4 * n) (4 * n) fun s t adr => enterReq i s t (scratchReq s t adr 0 (4 * n) 0 (.store (regBytes d n t))) 0 0

/-- A transposing fragment load: the bits of the offset that must be 0, and the bytes (R178). -/
def fragOp (i : Instr) (s : State) (d a : Reg) (la : BitVec 4) (off : Option Word) (ok : Nat → Bool) (kind : ScrKind) : Out :=
  issue i s fun s t =>
    if t.acquires != 0 then waits s
    else
      let adr := scrAddr t a off
      if !ok (scrOff adr) then raise s (unissued s t) .misaligned 0 adr
      else if !scrBoundsOk s t adr 32 then scratchFault i s (unissued s t) (fun u => scrAddr u a off) 32 ok
      else enterReq i s t (scratchReq s t adr d.toNat 32 8 kind) 8 la.toNat

/-- A scratchpad atomic (R183) on its data registers, performed at the bank; D takes the old word. -/
def atomsOp (i : Instr) (s : State) (d a : Reg) (la : BitVec 4) (off : Option Word) (op : AtomOp) (ndata : Nat) : Out :=
  scratchOp i s a off 4 4 fun s t adr => enterReq i s t (scratchReq s t adr d.toNat 4 1 (.atomic op (rdMany t d.toNat ndata))) 1 la.toNat

end

end Sys2Proof.Machine
end

