-- ==== Sys2Proof/Machine/SyncOps.lean ====
section
/-! DEFINITION. Rendezvous instances (R195 to R200), team and grid barriers (R201 to R207, R364), gang instances (R223 to R226),
and the exit of a thread (R37). -/

namespace Sys2Proof.Machine

/-! ### BLOCKED threads -/

/-- A thread BLOCKED at its instruction until something else releases it (R16). -/
def blockOn (i : Instr) (t : Thread) (why : Block) : Thread := { t with st := .blocked why, blen := lengthOf i }

/-- A BLOCKED thread released: its instruction is done. -/
def unblock (s : State) (t : Thread) : Thread := advance { t with st := .ready, blen := 0, readySince := mainClocks s t.core } t.blen

/-- The LANE of a thread (R19). -/
def laneOf (t : Thread) : Nat := t.tid % 32

/-- The RSET of a thread (R18). -/
def rsetOf (t : Thread) : Nat := t.grp * 2 + laneOf t / 16

/-! ### Combinations (R199, R200) -/

/-- minimumNumber or maximumNumber of a list, canonical when every element is a NaN (R53). -/
def fpPickAll (greater : Bool) : List Word → Word
  | [] => 0
  | [a] => if (unpack .f32 a.toNat).isNan then word Fmt.f32.canonNan else a
  | a :: as => word (fpPick greater a.toNat (fpPickAll greater as).toNat).1

/-- The combination of the terms of a reduction, with the flags that REDX sets (R200 Table 4). -/
def combine (op : RdvOp) (xs : List Word) : Word × Nat :=
  let pick (f : Word → Word → Bool) : Word :=
    match xs with
    | [] => 0
    | a :: as => as.foldl (fun m x => if f x m then x else m) a
  let snan := flagIf (xs.any fun x => (unpack .f32 x.toNat).isSnan) fINVL
  match op with
  | .addI32 => (xs.foldl (· + ·) 0, 0)
  | .scanAdd => (xs.foldl (· + ·) 0, 0)
  | .minI32 => (pick fun x m => decide (x.toInt < m.toInt), 0)
  | .maxI32 => (pick fun x m => decide (m.toInt < x.toInt), 0)
  | .minN32 => (pick fun x m => decide (x.toNat < m.toNat), 0)
  | .maxN32 => (pick fun x m => decide (m.toNat < x.toNat), 0)
  | .and => (xs.foldl (· &&& ·) 0xFFFFFFFF, 0)
  | .or => (xs.foldl (· ||| ·) 0, 0)
  | .xor => (xs.foldl (· ^^^ ·) 0, 0)
  | .fadd => let r := wideRound (xs.foldl (fun w x => wideAdd w x.toNat) {})
    (word r.1, r.2 ||| snan)
  | .scanFadd => let r := wideRound (xs.foldl (fun w x => wideAdd w x.toNat) {})
    (word r.1, r.2 ||| snan)
  | .fmin => (fpPickAll false xs, snan)
  | .fmax => (fpPickAll true xs, snan)
  | _ => (0, 0)

/-- The combination of a barrier reduction's sub-operation code (R96 Table 7). -/
def redOp (code : Nat) : RdvOp :=
  match code with
  | 0 => .addI32 | 1 => .minI32 | 2 => .maxI32 | 3 => .minN32 | 4 => .maxN32 | 5 => .and | 6 => .or | 7 => .xor
  | 8 => .fadd | 9 => .fmin | _ => .fmax

/-! ### Rendezvous (R195 to R200) -/

/-- What an arrival receives at a release: a value and its taint for a general register, or a bit for a predicate, and flags. -/
inductive RdvGives where
  | none
  | reg (x : Word) (taint : Bool) (flags : Nat)
  | pred (b : Bool)

/-- The arrival of a lane. -/
def rdvLane (arrs : List RdvArr) (l : Nat) : Option RdvArr := arrs.find? fun a => a.lane == l

/-- A shuffle's result in a lane: the operand of a source lane that has arrived, else the lane's own (R199). -/
def rdvFrom (arrs : List RdvArr) (me : RdvArr) (src : Option Nat) : RdvGives :=
  match src.bind (rdvLane arrs) with
  | some a => .reg a.val a.taint 0
  | none => .reg me.val me.taint 0

/-- The mask of the lanes whose arrivals meet a test. -/
def rdvMask (arrs : List RdvArr) (p : RdvArr → Bool) : Word := word (((arrs.filter p).map fun a => 2 ^ a.lane).sum)

/-- What an arrival receives (R199 Table 3, R200 Table 4). -/
def rdvGives (op : RdvOp) (arrs : List RdvArr) (me : RdvArr) : RdvGives :=
  match op with
  | .rdv => .none
  | .shflIdx => rdvFrom arrs me (some me.n)
  | .shflXor => rdvFrom arrs me (some (me.lane ^^^ me.n))
  | .shflUp => rdvFrom arrs me (if me.n ≤ me.lane then some (me.lane - me.n) else none)
  | .shflDn => rdvFrom arrs me (if me.lane + me.n ≤ 31 then some (me.lane + me.n) else none)
  | .voteAll => .pred (arrs.all fun a => a.val != 0)
  | .voteAny => .pred (arrs.any fun a => a.val != 0)
  | .voteBal => .reg (rdvMask arrs fun a => a.val != 0) false 0
  | .matchAny => .reg (rdvMask arrs fun a => a.val == me.val) false 0
  | .matchAll => .reg (if arrs.all fun a => a.val == me.val then rdvMask arrs fun _ => true else 0) false 0
  | .scanAdd => let c := arrs.filter fun a => decide (a.lane ≤ me.lane)
    .reg (combine .scanAdd (c.map (·.val))).1 (c.any (·.taint)) 0
  | .scanFadd => let c := arrs.filter fun a => decide (a.lane ≤ me.lane)
    let r := combine .scanFadd (c.map (·.val))
    .reg r.1 (c.any (·.taint)) r.2
  | o => let r := combine o (arrs.map (·.val))
    .reg r.1 (arrs.any (·.taint)) r.2

/-- A released arrival takes its result when it writes. -/
def rdvTake (t : Thread) (a : RdvArr) (g : RdvGives) : Thread :=
  if !a.writes then t
  else match g with
    | .none => t
    | .reg x taint fl => orFlags (wrV t a.d x taint) fl
    | .pred b => wrP t a.d b

/-- The rendezvous group of a thread: a continuation thread is a group of its own (R41). -/
def contKeyOf (t : Thread) : Nat := if t.isCont then t.key + 1 else 0

/-- The threads of a rendezvous group that are alive. -/
def rdvGroup (s : State) (t : Thread) : List Thread := s.threads.filter fun u => sameGroup u t && u.st != .exited

/-- A BLOCKED thread raises a fault at its instruction. -/
def faultBlocked (s : State) (k : Nat) (c : FaultCode) (mask : Option Nat) : State :=
  match getThread s k with
  | none => s
  | some t => putThread s (faulted { t with blen := 0 } { code := c, tpc := t.pc, mask := mask })

/-- The open instances of a team changed. -/
def withRdv (s : State) (team : Nat) (f : List RdvInst → List RdvInst) : State :=
  withDisp s fun d => { d with teams := mapIf (fun x => x.key == team) (fun x => { x with rdv := f x.rdv }) d.teams }

/-- An instance released, if every lane of its mask has arrived (R196). -/
def releaseRdv (s : State) (team : Nat) (r : RdvInst) : State :=
  if (List.range 32).all fun l => !bitOf r.mask l || (rdvLane r.arrs l).isSome then
    let s := withRdv s team (dropIf (· == r))
    r.arrs.foldl (fun s a => match getThread s a.thread with
      | some t => putThread s (unblock s (rdvTake t a (rdvGives r.op r.arrs a)))
      | none => s) s
  else s

/-- An arrival at a rendezvous (R195 to R197): `t` stands at the instruction, unissued as `t0`. -/
def arriveRdv (i : Instr) (s : State) (t0 t : Thread) (op : RdvOp) (m : Nat) (a : RdvArr) : Out :=
  let here := rdvGroup s t
  if !bitOf m (laneOf t) then raise s t0 .rdvMask 0 0 (some m)
  else if (List.range 32).any fun l => bitOf m l && !(here.any fun u => laneOf u == l) then raise s t0 .rdvAbsent 0 0 (some m)
  else need (getTeam s t.team) fun tm =>
    match tm.rdv.find? fun r => r.grp == t.grp && r.contKey == contKeyOf t && r.pc == t.pc with
    | none =>
      let r : RdvInst := { grp := t.grp, contKey := contKeyOf t, pc := t.pc, op := op, mask := m, arrs := [a] }
      .next (releaseRdv (withRdv (putThread s (blockOn i t .rdv)) t.team (· ++ [r])) t.team r)
    | some r =>
      if r.mask != m then
        let s := withRdv s t.team (dropIf (· == r))
        raise (r.arrs.foldl (fun s x => faultBlocked s x.thread .rdvMask (some r.mask)) s) t0 .rdvMask 0 0 (some m)
      else
        let r' := { r with arrs := r.arrs ++ [a] }
        .next (releaseRdv (withRdv (putThread s (blockOn i t .rdv)) t.team (mapIf (· == r) fun _ => r')) t.team r')

/-- The instances that an exit ends: those whose mask names the lane of a thread that never arrived (R197). -/
def exitRdv (s : State) (t : Thread) : State :=
  match getTeam s t.team with
  | none => s
  | some tm =>
    (tm.rdv.filter fun r => r.grp == t.grp && r.contKey == contKeyOf t && bitOf r.mask (laneOf t)).foldl (fun s r =>
      r.arrs.foldl (fun s x => faultBlocked s x.thread .rdvAbsent (some r.mask)) (withRdv s t.team (dropIf (· == r)))) s

/-! ### Barriers (R201 to R207) -/

/-- The member roles of a team barrier (R201 Table 8). -/
def barRoles (bar : Nat) : List Nat :=
  match bar with
  | 0 => [0, 1, 2, 3] | 1 => [0] | 2 => [1] | 3 => [2] | 4 => [3] | 5 => [0, 1] | 6 => [0, 2] | 7 => [0, 3] | 8 => [1, 2] | 9 => [1, 3]
  | 10 => [2, 3] | 11 => [0, 1, 2] | 12 => [0, 1, 3] | 13 => [0, 2, 3] | 14 => [1, 2, 3] | _ => []

/-- A barrier of a thread: a team's, or its grid's. -/
def getBar (s : State) (team grid : Nat) (g : Bool) (bar : Nat) : Option Barrier :=
  if g then (getGrid s grid).map fun x => x.gbars.getD bar {} else (getTeam s team).map fun x => x.barriers.getD bar {}

/-- A barrier put back. -/
def putBar (s : State) (team grid : Nat) (g : Bool) (bar : Nat) (b : Barrier) : State :=
  if g then
    withDisp s fun d => { d with grids := mapIf (fun x => x.id == grid) (fun x => { x with gbars := putAt {} x.gbars bar b }) d.grids }
  else
    withDisp s fun d => { d with teams := mapIf (fun x => x.key == team) (fun x => { x with barriers := putAt {} x.barriers bar b }) d.teams }

/-- Whether a thread may use a barrier (R201, R22). -/
def barMember (s : State) (t : Thread) (g : Bool) (bar : Nat) : Bool :=
  if g then ((getGrid s t.grid).map (·.coop)).getD false else (barRoles bar).contains t.role

/-- Whether a thread counts among the members of a barrier. -/
def barCounts (team grid : Nat) (g : Bool) (bar : Nat) (t : Thread) : Bool :=
  t.st != .exited && (if g then t.grid == grid else t.team == team && (barRoles bar).contains t.role)

/-- The saved threads of a grid (R414). -/
def savedThreads (s : State) (grid : Nat) : List Thread := (((getGrid s grid).map (·.saved)).getD []).flatMap (·.threads)

/-- Every thread of a barrier, resident or saved, changed. -/
def mapBarThreads (s : State) (team grid : Nat) (g : Bool) (bar : Nat) (f : Thread → Thread) : State :=
  let s := mapThreads s (barCounts team grid g bar) f
  if g then
    let save (x : Grid) : Grid := { x with saved := x.saved.map fun b => { b with threads := mapIf (barCounts team grid g bar) f b.threads } }
    withDisp s fun d => { d with grids := mapIf (fun x => x.id == grid) save d.grids }
  else s

/-- The arrived bit of a thread for a barrier. -/
def arrivedAt (g : Bool) (bar : Nat) (t : Thread) : Bool := bitOf (if g then t.arrG else t.arrT) bar
/-- The pending bit. -/
def pendingAt (g : Bool) (bar : Nat) (t : Thread) : Bool := bitOf (if g then t.pendG else t.pendT) bar
/-- Whether a continuation's place has still to wait for the phase current at its spawn (R207). -/
def skipsAt (g : Bool) (bar : Nat) (t : Thread) : Bool := bitOf (if g then t.contSkipG else t.contSkipT) bar

/-- A bit of a mask set or cleared. -/
def setBit (x i : Nat) (b : Bool) : Nat := if bitOf x i == b then x else if b then x + 2 ^ i else x - 2 ^ i

/-- The arrived bit set or cleared. -/
def setArrived (g : Bool) (bar : Nat) (b : Bool) (t : Thread) : Thread :=
  if g then { t with arrG := setBit t.arrG bar b } else { t with arrT := setBit t.arrT bar b }
/-- The pending bit set or cleared. -/
def setPending (g : Bool) (bar : Nat) (b : Bool) (t : Thread) : Thread :=
  if g then { t with pendG := setBit t.pendG bar b } else { t with pendT := setBit t.pendT bar b }
/-- The wait of a continuation's place is over. -/
def clearSkip (g : Bool) (bar : Nat) (t : Thread) : Thread :=
  if g then { t with contSkipG := setBit t.contSkipG bar false } else { t with contSkipT := setBit t.contSkipT bar false }

/-- The scope of a barrier's release and acquire (R206). -/
def barScope (s : State) (t : Thread) (g : Bool) : Nat :=
  if g then 5 else if ((getTeam s t.team).map (·.cores.length)).getD 1 == 1 then 1 else 2

/-- What a thread BLOCKED at a barrier waits in: RED, its destination, and whether it writes. -/
def waitsIn (g : Bool) (bar : Nat) (t : Thread) : Option (Bool × Nat × Bool) :=
  match t.st with
  | .blocked (.tbar b red d wr) => if !g && b == bar then some (red, d, wr) else none
  | .blocked (.gbar b red d wr) => if g && b == bar then some (red, d, wr) else none
  | _ => none

/-- A thread's wait completed: its acquire, its pending bit clear, and it goes on (R206). -/
def endWait (s : State) (t : Thread) (g : Bool) (bar : Nat) : State :=
  acquireAt (putThread s (unblock s (setPending g bar false t))) t.core (barScope s t g)

/-- The cores of a limited release in the order of R364. -/
def slewOrder (last : Nat) (cores : List Nat) : List Nat :=
  (List.range 16).flatMap fun k => let l := (last + 1 + k) % 16
    (List.range 12).filterMap fun c => if cores.contains (12 * l + c) then some (12 * l + c) else none

/-- A phase completes (R202): the phase number advances, every arrived bit clears, RED results are written, and the waiting threads
are released, those of a grid barrier by the slew limiter (R364). -/
def completePhase (s : State) (team grid : Nat) (g : Bool) (bar : Nat) (b : Barrier) : State :=
  let r := match b.kind with
    | some (some c) => (combine (redOp c) (b.arrs.map (·.val))).1
    | _ => 0
  let taint := b.arrs.any (·.taint)
  let s := putBar s team grid g bar { phase := (b.phase + 1) % 2 ^ 32 }
  let result (t : Thread) : Thread :=
    match waitsIn g bar t with
    | some (true, d, true) => wrV t d r taint
    | _ => t
  let waiting := s.threads.filter fun t => barCounts team grid g bar t && (waitsIn g bar t).isSome && arrivedAt g bar t
  let s := mapBarThreads s team grid g bar fun t =>
    clearSkip g bar (setArrived g bar false (if arrivedAt g bar t then result t else t))
  if !g then waiting.foldl (fun s u => match getThread s u.key with
    | some t => endWait s t g bar
    | none => s) s
  else
    -- a saved thread's wait ends with the phase; it goes on from its restore
    let goOn (t : Thread) : Thread := if (waitsIn g bar t).isSome && !arrivedAt g bar t then unblock s (setPending g bar false t) else t
    let save (x : Grid) : Grid := { x with saved := x.saved.map fun blk => { blk with threads := blk.threads.map goOn } }
    let s := withDisp s fun d => { d with grids := mapIf (fun x => x.id == grid) save d.grids }
    let cores := (waiting.map (·.core)).eraseDups
    if cores.isEmpty then s
    else
      let limited := decide (24 < cores.length)
      let order := if limited then slewOrder s.disp.slewLast cores else cores
      withDisp s fun d => { d with slew := d.slew ++ [{ grid := grid, bar := bar, cores := order, clock := s.clock }]
                                   slewLast := if limited then (order.head?.map layerOfCore).getD d.slewLast else d.slewLast }

/-- A phase completes when every member that is alive has a counted arrival or a place that counts as arrived (R202, R207). -/
def checkBarrier (s : State) (team grid : Nat) (g : Bool) (bar : Nat) : State :=
  match getBar s team grid g bar with
  | none => s
  | some b =>
    let live := (s.threads ++ (if g then savedThreads s grid else [])).filter (barCounts team grid g bar)
    if !live.isEmpty && live.all fun t => skipsAt g bar t || b.arrs.any fun a => a.thread == t.key && a.counted
    then completePhase s team grid g bar b else s

/-- Every barrier of a team and its grid looked at again. -/
def checkBarriers (s : State) (team grid : Nat) : State :=
  let s := (List.range 15).foldl (fun s b => checkBarrier s team grid false b) s
  if ((getGrid s grid).map (·.coop)).getD false then (List.range 8).foldl (fun s b => checkBarrier s team grid true b) s else s

/-- A phase cancelled (R204): BARRIER in every thread that waits in it; the bits of its arrivals clear, and none of them counts. -/
def cancelPhase (s : State) (team grid : Nat) (g : Bool) (bar : Nat) (b : Barrier) : State :=
  let s := putBar s team grid g bar { phase := b.phase }
  mapBarThreads s team grid g bar fun t =>
    if arrivedAt g bar t then
      let t' := setPending g bar false (setArrived g bar false t)
      if (waitsIn g bar t).isSome then faulted { t' with blen := 0 } { code := .barrier, tpc := t.pc } else t'
    else t

/-- An arrival at a barrier (R202, R204). `kind` is none for plain, or a sub-operation code; `next` is what the thread does after
arriving. -/
def arriveBar (s : State) (t0 t : Thread) (g : Bool) (bar : Nat) (kind : Option Nat) (val : Word) (taint : Bool) (next : Thread → Thread) : Out :=
  if !barMember s t g bar then raise s t0 .barrier
  else need (getBar s t.team t.grid g bar) fun b =>
    if arrivedAt g bar t then raise s t0 .barrier
    else if b.kind.isSome && b.kind != some kind then raise (cancelPhase s t.team t.grid g bar b) t0 .barrier
    else
      let a : BarArr := { thread := t.key, counted := false, val := val, taint := taint, seq := s.mem.seq }
      .next (putThread (putBar s t.team t.grid g bar { b with kind := some kind, arrs := b.arrs ++ [a] })
        (next (setPending g bar true (setArrived g bar true t))))

/-- An arrival instruction: a continuation thread of a member role first waits for the phase current at its spawn (R207). -/
def barInstr (i : Instr) (s : State) (g : Bool) (bar : Nat) (kind : Option Nat) (val : Thread → Word × Bool)
    (next : Thread → Thread) : Out :=
  poll i s fun s t =>
    let t0 : Thread := { (getThread s t.key).getD t with st := .ready }
    if barMember s t g bar && skipsAt g bar t then pollBlock i s t else arriveBar s t0 t g bar kind (val t).1 (val t).2 next

/-- A WAIT (R202): it needs the pending bit, and waits for the phase of that arrival. -/
def barWait (i : Instr) (s : State) (g : Bool) (bar : Nat) : Out :=
  issue i s fun s t =>
    let t0 := (getThread s t.key).getD t
    if !barMember s t g bar || !pendingAt g bar t then raise s t0 .barrier
    else if arrivedAt g bar t then
      .next (putThread s (blockOn i t (if g then .gbar bar false 0 false else .tbar bar false 0 false)))
    else .next (acquireAt (retire i s (setPending g bar false t)) t.core (barScope s t g))

/-! ### Gangs (R223 to R226) -/

/-- COUNT of a gang value. -/
def gangCountOf (g : Nat) : Nat := bitsOf g 12 10
/-- FIRST of a gang value. -/
def gangFirst (g : Nat) : Nat := bitsOf g 9 0

/-- The threads of a gang's rowsets; a continuation thread is a member of no rowset (R41). -/
def gangThreads (s : State) (team g : Nat) : List Thread :=
  s.threads.filter fun t => t.team == team && !t.isCont && decide (gangFirst g ≤ rsetOf t ∧ rsetOf t < gangFirst g + gangCountOf g)

/-- The gang instances of a team changed. -/
def withGangs (s : State) (team : Nat) (f : List GangInst → List GangInst) : State :=
  withDisp s fun d => { d with teams := mapIf (fun x => x.key == team) (fun x => { x with gangs := f x.gangs }) d.teams }

/-- The latch as an accepted gang operation leaves it, and whether the operation takes its A operands from it (R230 Table 3). -/
def acceptLatch (s : State) (core team : Nat) (g : GangInst) (a : GangArr) : State × Bool :=
  let mine : Latch := { team := team, gang := g.gang, fmt := a.afmt }
  let load := a.opc == 9
  let held := assoc s.eng.latch core == some mine && !load
  (withEng s fun e => { e with latch := if load || a.keep then assocSet e.latch core mine else dropIf (fun x => x.1 == core) e.latch }, held)

/-- A gang instance that every thread of its rowsets has reached is accepted by the engine, and its threads go on (R224). -/
def releaseGang (s : State) (team : Nat) (g : GangInst) : State :=
  if (gangThreads s team g.gang).all fun t => t.st == .exited || g.arrs.any fun a => a.thread == t.key then
    let s := withGangs s team (dropIf (· == g))
    match g.arrs.head?, (g.arrs.head?.bind fun a => getThread s a.thread) with
    | some a, some t =>
      let (s, held) := acceptLatch s t.core team g a
      let s := withEng s fun e => { e with matq := e.matq ++ [(t.core, .gang team g held)] }
      g.arrs.foldl (fun s a => match getThread s a.thread with
        | some u => putThread s (unblock s u)
        | none => s) s
    | _, _ => s
  else s

/-- A waiting arrival of a gang instance raises GANG: its instruction has had no effect (R225). -/
def faultGang (s : State) (a : GangArr) : State :=
  match getThread s a.thread with
  | none => s
  | some t =>
    putThread s (faulted { t with blen := 0, gangCount := t.gangCount - 1, outMatrix := { t.outMatrix with count := t.outMatrix.count - 1 }
                                  windows := dropIf (fun w => w.id == a.window) t.windows } { code := .gang, tpc := t.pc })

/-- A gang instance closed by a fault. -/
def killGang (s : State) (team : Nat) (g : GangInst) : State :=
  g.arrs.foldl faultGang (withGangs s team (dropIf (· == g)))

/-- Two gang values that share a rowset. -/
def gangsMeet (a b : Nat) : Bool :=
  decide (gangFirst a < gangFirst b + gangCountOf b ∧ gangFirst b < gangFirst a + gangCountOf a)

/-! ### Exit (R37) -/

/-- The gang instances that a thread's exit completes (R224). -/
def exitGangs (s : State) (t : Thread) : State :=
  match getTeam s t.team with
  | none => s
  | some tm => tm.gangs.foldl (fun s g => releaseGang s t.team g) s

/-- A scratchpad store or atomic that has not reached its bank. -/
def Req.changesBank (r : Req) : Bool := r.stage == .atCore && match r.scr with
  | some a => (match a.kind with | .store _ => true | .atomic _ _ => true | _ => false)
  | none => false

/-- What a thread still has in flight that its end discards: loads, atomic returns and SFU results (R37). Scratchpad stores and atomics
are still performed. -/
def dropPending (s : State) (k : Nat) : State :=
  let s := withMem s fun m => { m with reqs := m.reqs.filterMap fun r => if r.changesBank then some r else r.without (· == k) }
  withEng s fun e => { e with sfu := dropIf (fun p => p.thread == k) e.sfu }

/-- The exit of a thread (R37): its results in flight are discarded, it leaves its convoy, counts as arrived at its barriers, gangs
and its siblings' meeting address, and ends the rendezvous that waits for it. -/
def exitThread (s : State) (t : Thread) : State :=
  let s := leaveConvoy (dropPending (putThread s t) t.key) t
  let t := { (getThread s t.key).getD t with st := .exited, clause := none, windows := [], acquires := 0, stopped := false, stopAsk := none }
  let s := settleMeet (putThread s t) t t.meet
  checkBarriers (exitGangs (exitRdv s t) t) t.team t.grid

end Sys2Proof.Machine
end

