-- ==== Sys2Proof/Machine/ControlOps.lean ====
section
/-! DEFINITION. What the CTRL instructions share (08_control_ops): transfers, meeting addresses, yields, scopes, convoy membership,
handles and continuation records. -/

namespace Sys2Proof.Machine

/-! ### Transfers (R191, R85) -/

/-- A thread moved to a header. -/
def moveTo (t : Thread) (target : Int) : Thread := { t with pc := target.toNat, clause := none, meetDone := false }

/-- A transfer: to a header, with what it writes; else ILLEGAL_CLAUSE at the transfer, which writes nothing. -/
def transferOp (i : Instr) (s : State) (target : Thread → Int) (wr : Thread → Thread) : Out :=
  issue i s fun s t => atHeader s (unissued s t) (target t) (.next (putThread s (moveTo (wr t) (target t))))

/-- A target relative to the instruction's own word (R91). -/
def relTarget (t : Thread) (ofs n : Nat) : Int := (t.pc : Int) + 4 * sextInt ofs n

/-- The link of a call: the offset of the header after its clause (R101). -/
def writeLink (d : Reg) (t : Thread) : Thread := wrV t d.toNat (word ((t.clause.map (·.stop)).getD 0)) false

/-! ### Meeting addresses (R192, R35) -/

/-- A value that MEET may take. -/
def meetOk (x : Word) : Bool := x.toNat % 4 == 0 || x == 0xFFFFFFFF

/-- MEET rewritten: a thread that leaves an address may be the last that the threads held there waited for. -/
def writeMeet (i : Instr) (s : State) (t : Thread) (x : Word) : State :=
  settleMeet (retire i s { t with meet := x }) t t.meet

/-! ### Yield, nap and wake (R193, R194) -/

/-- A thread YIELDED for c clocks, or going on when c is 0. -/
def yieldFor (i : Instr) (s : State) (t : Thread) (c : Nat) : Out :=
  if c == 0 then .next (retire i s t)
  else .next (putThread s { t with st := .yielded (mainClocks s t.core + c), blen := lengthOf i })

/-- A YIELDED thread that goes on. -/
def isYielded (t : Thread) : Bool :=
  match t.st with
  | .yielded _ => true
  | _ => false

/-- A wake of a thread of a team by TID. -/
def wakeTid (s : State) (team tid : Nat) : State :=
  mapThreads s (fun u => u.team == team && u.tid == tid && u.st != .exited)
    fun u => if isYielded u then unblock s u else { u with wake := true }

/-! ### Scopes (R209) -/

/-- Whether a group and lane exist in a grid's teams: the role of a group, in role order (R19). -/
def roleOfGroup (rs : List RoleDecl) (grp : Nat) : Option RoleDecl :=
  match rs with
  | [] => none
  | r :: rest => if grp < r.groups then some r else roleOfGroup rest (grp - r.groups)

/-- The lowest scope that encloses every core of a list, at least CORE. -/
def scopeOfAll (cores : List Nat) : Nat :=
  cores.foldl (fun m a => cores.foldl (fun m b => max m (scopeOfCores a b)) m) 1

/-- SCOPEOF kind 0: a TID of the team. -/
def scopeOfTid (s : State) (t : Thread) (x : Nat) : Option Nat :=
  (getGrid s t.grid).bind fun g =>
    match roleOfGroup g.roles (x / 32) with
    | none => none
    | some r =>
      if r.threads ≤ x % 32 then none
      else
        let us := s.threads.filter fun u => u.team == t.team && u.tid == x
        let u := match us.find? fun u => u.st != .exited with
          | some u => some u
          | none => us.find? fun u => !u.isCont
        u.map fun u => if u.core == t.core then (if u.lg == t.lg then 0 else 1) else 2

/-- SCOPEOF kind 1: a team index of the grid. -/
def scopeOfTeam (s : State) (t : Thread) (x : Nat) : Option Nat :=
  (getGrid s t.grid).bind fun g =>
    if g.nteam ≤ x then none
    else
      let own := ((getTeam s t.team).map (·.cores)).getD []
      if x == t.teamIdx && own.length == 1 then some 1
      else match s.disp.teams.find? fun m => m.grid == t.grid && m.idx == x with
        | none => some 5
        | some m => some (scopeOfAll (own ++ m.cores))

/-- The scope that encloses a core and a stack's chiplet. -/
def scopeOfStack (core stack : Nat) : Nat :=
  if chipOfCore core == stack then 3 else if retiOfCore core == stack / 2 then 4 else 5

/-- SCOPEOF kind 2: a buffer pointer; BUF_INDEX and BUF_BOUNDS by checks 2 and 3 of R155. DESIGN CHOICE (notes/assumptions/37.md): a
page that is refused, or whose walk ends at a malformed entry, gives 5, as one that is not present does. -/
def scopeOfPtr (s : State) (t : Thread) (p : Nat) : FaultCode ⊕ Nat :=
  let owner := ownerOf s t.grid
  let idx := ptrIdx p
  let off := ptrOff p
  if idx == 0 || (ownerRec s owner).isNone then .inl .bufIndex
  else if idx == 1 then (if 256 ≤ off then .inl .bufBounds else .inr 5)
  else match bufFor s (some t.core) owner idx with
    | none => .inl .bufIndex
    | some ws =>
      let e := decodeBuf ws
      if !bufValid s owner ws then .inl .bufIndex
      else match entryExtent s e t.grid with
        | none => .inl .bufIndex
        | some (base, len) =>
          if len ≤ off then .inl .bufBounds
          else if e.kind == 0 && e.mode == 4 then .inr 6
          else
            let va := base + off
            let own := if e.kind == 0 then owner else caddyTag s e.cslot
            match walk s own va (if e.kind == 0 then e.psz else 3) with
            | .leaf pte _ => .inr (scopeOfStack t.core (homeStack (if e.kind == 0 then e.mode else 0) e.stk va (pteRot pte)))
            | _ => .inr 5

/-- SCOPEOF kind 3: a physical core. -/
def scopeOfCore (t : Thread) (x : Nat) : Option Nat := if x < 192 then some (scopeOfCores t.core x) else none

/-- SCOPEOF's result, or its fault with the address that it gives. -/
def scopeofValue (s : State) (t : Thread) (a : Reg) (kind : Nat) : (FaultCode × Nat) ⊕ Nat :=
  let x := (rdV t a.toNat).toNat
  let orIllegal (o : Option Nat) : (FaultCode × Nat) ⊕ Nat := match o with
    | some v => .inr v
    | none => .inl (.illegalOperand, 0)
  match kind with
  | 0 => orIllegal (scopeOfTid s t x)
  | 1 => orIllegal (scopeOfTeam s t x)
  | 2 => let p := rdPair t a.toNat
    match scopeOfPtr s t p with
    | .inl c => .inl (c, p)
    | .inr v => .inr v
  | _ => orIllegal (scopeOfCore t x)

/-! ### Fences (R208) -/

/-- The scope of FENCE; none where it raises ILLEGAL_OPERAND. -/
def fenceScope (t : Thread) (sc : ScopeSrc) : Option Nat :=
  let x := if sc.sfr then (rdV t sc.scr.toNat).toNat else sc.sci.toNat
  if x < 7 then some x else none

/-- Everything that a thread has issued is performed, and its stores are acknowledged at a scope. -/
def settledAt (s : State) (t : Thread) (scope : Nat) : Bool := loadsDone s t.key s.mem.seq && storesAcked s t.key s.mem.seq scope

/-! ### Convoys (R217 to R219) -/

/-- CVJOIN: a thread that is a member elsewhere raises CONVOY; else the join reaches the convoy node, and its outcome is that of the end
of the clock (R217, R325). -/
def cvjoinOp (i : Instr) (s : State) (a b : Reg) : Out :=
  issue i s fun s t =>
    let c := (rdV t a.toNat).toNat
    let m := (rdV t b.toNat).toNat
    if 256 ≤ c || 64 ≤ m then raise s (unissued s t) .illegalOperand
    else if t.cv.isSome && t.cv != some (c, m) then raise s (unissued s t) .convoy
    else .next (retire i (sendCv s t .join c m) t)

/-- CVSET: a limit of the thread's convoy within its range (R219). -/
def cvsetOp (i : Instr) (s : State) (a : Reg) (lo hi : Nat) (kind : Nat → CvKind) : Out :=
  issue i s fun s t =>
    let x := (rdV t a.toNat).toNat
    if x < lo || hi < x then raise s (unissued s t) .illegalOperand
    else match t.cv with
      | none => raise s (unissued s t) .convoy
      | some (c, m) => .next (retire i (sendCv s t (kind x) c m) t)

/-! ### Handles (R210 to R213, R321, R322) -/

/-- A declared handle of a team. -/
def handleOf (s : State) (team h : Nat) : Option Handle := (getTeam s team).bind fun t => t.handles[h]?

/-- A handle put back. -/
def putHandle (s : State) (team h : Nat) (x : Handle) : State :=
  withDisp s fun d => { d with teams := mapIf (fun m => m.key == team) (fun m => { m with handles := putAt {} m.handles h x }) d.teams }

/-- A handle that enters FULL: the records ARMED on it start to spawn, in the order in which they were written (R382). -/
def enterFull (s : State) (team h : Nat) : State :=
  let fire (m : Team) : Team := { m with conts := mapIf (fun r => r.handle == h) (fun r => { r with armed := false }) m.conts }
  withDisp s fun d => { d with teams := mapIf (fun m => m.key == team) fire d.teams }

/-- Whether an entry is as a HWAIT of a handle wants it (R211). -/
def handleAs (h : Nat) (x : Handle) : Instr → Bool
  | .hwaitF _ k ph => k.toNat == h && x.state == 2 && x.ph == ph
  | .hwaitE _ k => k.toNat == h && x.state == 0
  | _ => false

/-- A HWAIT that completes: an acquire at the scope of R206 (R212). -/
def waitDone (i : Instr) (s : State) (t : Thread) : State := acquireAt (retire i s t) t.core (barScope s t false)

/-- The threads that wait for an entry to be as it now is go on, whatever becomes of it next. -/
def releaseWaits (s : State) (team h : Nat) (x : Handle) : State :=
  if x.err then s
  else s.threads.foldl (fun s t => match t.st with
    | .blocked (.poll i) => if t.team == team && handleAs h x i then waitDone i s { t with st := .ready, readySince := mainClocks s t.core } else s
    | _ => s) s

/-- A handle entry changed: entering FULL fires its records, and a new state releases the threads that wait for it. -/
def setHandle (s : State) (team h : Nat) (old new : Handle) : State :=
  let s := putHandle s team h new
  let s := if old.state != 2 && new.state == 2 then enterFull s team h else s
  if old.state != new.state then releaseWaits s team h new else s

/-- Whether a member of the thread's fused set in a lower lane still waits at the instruction (R212). -/
def laneWaits (i : Instr) (s : State) (t : Thread) : Bool :=
  s.threads.any fun u => u.team == t.team && u.core == t.core && u.lg == t.lg && decide (u.lane < t.lane) && u.pc == t.pc &&
    u.lastIssue == t.lastIssue && u.st == .blocked (.poll i)

/-- A handle instruction that changes the entry (R211): after the thread's earlier accesses, as a release at the scope of R206, and
after the lower lanes of its fused set (R212). -/
def handleOp (i : Instr) (s : State) (h : Nat) (f : Thread → Handle → Except FaultCode Handle) : Out :=
  poll i s fun s t =>
    let t0 : Thread := { unissued s t with st := .ready }
    if laneWaits i s t || !settledAt s t (barScope s t false) then pollBlock i s t
    else match handleOf s t.team h with
      | none => raise s t0 .handle
      | some x =>
        if x.err then raise s t0 .handle
        else match f t x with
          | .error c => raise s t0 c
          | .ok y => .next (setHandle (retire i s t) t.team h x y)

/-- HWAIT (R211): BLOCKED until the entry is as wanted; then an acquire at the scope of R206. -/
def handleWait (i : Instr) (s : State) (h : Nat) : Out :=
  poll i s fun s t =>
    let t0 : Thread := { unissued s t with st := .ready }
    match handleOf s t.team h with
    | none => raise s t0 .handle
    | some x =>
      if x.err then raise s t0 .handle
      else if handleAs h x i then .next (waitDone i s t)
      else pollBlock i s t

/-! ### Continuations (R39, R213) -/

/-- The continuation records of a core that are neither in use nor reserved to a team (R39, R348). -/
def freeRecords (s : State) (core : Nat) : Nat :=
  256 - ((s.disp.teams.filter fun m => m.cores.contains core).length +
    ((s.disp.teams.map fun m => (m.conts.filter fun r => r.core == core && !r.reserved).length).sum))

/-- A record that a team may take on a core: its reserved one first. -/
def takeRecord (s : State) (m : Team) (core : Nat) : Option Bool :=
  if !(m.conts.any fun r => r.core == core && r.reserved) then some true
  else if freeRecords s core != 0 then some false
  else none

/-- CONT: the record written and the thread exited, in one step. -/
def contOp (i : Instr) (s : State) (h : Nat) (w : Word) : Out :=
  poll i s fun s t =>
    let t0 : Thread := { unissued s t with st := .ready }
    match handleOf s t.team h with
    | none => raise s t0 .handle
    | some x =>
      if x.err then raise s t0 .handle
      else
        let target := relTarget t w.toNat 32
        atHeader s t0 target <| need (getTeam s t.team) fun m =>
          match takeRecord s m t.core with
          | none => pollBlock i s t
          | some rsv =>
            let r : ContRec :=
              { core := t.core, handle := h, armed := x.state != 2, target := target.toNat, v07 := rdMany t 0 8, orig := t.key, reserved := rsv
                stamp := s.mem.seq }
            .next (exitThread (bump (putTeam s { m with conts := m.conts ++ [r] })) { t with st := .ready })

end Sys2Proof.Machine
end

