-- ==== Sys2Proof/Machine/MatrixOps.lean ====
section
/-! DEFINITION. What the MATRIX instructions share (R221 to R238): layout words, gangs, arrivals at a gang instance, and what the matrix
engine does with an accepted operation. -/

namespace Sys2Proof.Machine

noncomputable section

/-! ### Scratchpad layout words (R248, R249) -/

/-- Word i of a layout word, as a number. -/
def slwWord (w : List Word) (i : Nat) : Nat := (w.getD i 0).toNat
/-- MODE of a layout word. -/
def slwMode (w : List Word) : Nat := bitsOf (slwWord w 0) 31 28
/-- TCR of a layout word. -/
def slwTcr (w : List Word) : Nat := bitsOf (slwWord w 0) 22 20
/-- Its reserved bits are 0. -/
def slwReservedOk (w : List Word) : Bool := bitsOf (slwWord w 0) 27 23 == 0 && decide (slwWord w 2 < 2 ^ 16)

/-- The logical offset of byte b of row i of plane p (R249). -/
def slwOff (w : List Word) (b i p : Nat) : Nat :=
  bitsOf (slwWord w 0) 19 0 + p * bitsOf (slwWord w 1) 31 16 + i * bitsOf (slwWord w 1) 15 0 + b / 32 * slwWord w 2 + b % 32

/-- The bytes of n rows of m bytes each lie in an allocation of a number of bytes: the last byte of the last row lies in it, and the last byte of its
last whole block. -/
def slwFits (w : List Word) (alloc rows m planes : Nat) : Bool :=
  decide (m = 0 ∨ rows = 0 ∨ planes = 0 ∨
    (slwOff w (m - 1) (rows - 1) (planes - 1) < alloc ∧
      (m < 32 ∨ slwOff w ((m / 32 - 1) * 32 + 31) (rows - 1) (planes - 1) < alloc)))

/-! ### Formats (R227 Table 2) -/

/-- K of an A format. -/
def matK (fmt : Nat) : Nat := if fmt == 2 then 64 else if fmt == 3 || fmt == 4 then 16 else 32
/-- The bits of an element of a format. -/
def matBits (fmt : Nat) : Nat := if fmt == 2 then 4 else if fmt == 3 || fmt == 4 then 16 else 8

/-- The A format of an MMA's opcode, and its B format. -/
def mmaFmts (opc : Nat) : Nat × Nat :=
  match opc with
  | 0 => (0, 0) | 1 => (0, 1) | 2 => (1, 0) | 3 => (1, 1) | 4 => (2, 2) | 5 => (3, 3) | 6 => (4, 4) | _ => (5, 5)

/-- Formats that take scales (R228). -/
def matScaled (fmt : Nat) : Bool := decide (fmt < 3)

/-- Element k of consecutive words, as a pattern (R48). -/
def elemOf (bits : Nat) (ws : List Word) (k : Nat) : Nat :=
  (ws.getD (k * bits / 32) 0).toNat / 2 ^ (k * bits % 32) % 2 ^ bits

/-- The value of a pattern of a format; CB4 patterns are already decoded to BF16. -/
def matVal (fmt p : Nat) : Val :=
  match fmt with
  | 0 => unpack .e4m3 p
  | 1 => unpack .e5m2 p
  | 4 => unpack .f16 p
  | _ => unpack .bf16 p

/-- The entry of a CB4 code in the eight words of a slot (R57). -/
def codeEntry (slot : List Word) (code : Nat) : Nat := elemOf 16 slot code

/-! ### Tiles -/

/-- The words of a sorted list of cells from index i on. -/
def denseFrom : WordMem → Nat → Nat → List Word
  | _, _, 0 => []
  | [], i, n + 1 => 0 :: denseFrom [] (i + 1) n
  | (a, x) :: r, i, n + 1 => if a == i then x :: denseFrom r (i + 1) n else 0 :: denseFrom ((a, x) :: r) (i + 1) n

/-- The cells of words from index i on, in canonical form. -/
def sparseFrom : List Word → Nat → WordMem
  | [], _ => []
  | x :: xs, i => if x == 0 then sparseFrom xs (i + 1) else (i, x) :: sparseFrom xs (i + 1)

/-- A tile of a core. -/
def tileOf (s : State) (core t : Nat) : WordMem := ((s.eng.tiles.find? fun x => x.1 == core && x.2.1 == t).map (·.2.2)).getD []

/-- A tile written. -/
def setTile (s : State) (core t : Nat) (m : WordMem) : State :=
  withEng s fun e => { e with tiles := dropIf (fun x => x.1 == core && x.2.1 == t) e.tiles ++ [(core, t, m)] }

/-- The bytes of a codebook slot; zeros until it is written (R221). -/
def slotOf (s : State) (core k : Nat) : List Byte :=
  ((s.eng.slots.find? fun x => x.1 == core && x.2.1 == k).map (·.2.2)).getD (List.replicate 32 0)

/-- A slot written. -/
def setSlot (s : State) (core k : Nat) (bs : List Byte) : State :=
  withEng s fun e => { e with slots := dropIf (fun x => x.1 == core && x.2.1 == k) e.slots ++ [(core, k, bs)] }

/-! ### The matrix log: what a late read may still see (R234) -/

/-- The words of a memory that differ from another's, with their old values. -/
def lostWords (a b : Memory) : List (Nat × Word) :=
  if a == b then []
  else (((a ++ b).map fun x => x.1 / 4 * 4).eraseDups).filterMap fun o =>
    if memNat a o 4 == memNat b o 4 then none else some (o, word (memNat a o 4))

/-- The registers of a thread that a step has changed. -/
def lostRegs (t u : Thread) : List (MatUnit × Word) :=
  if t.v == u.v then []
  else (t.v.zip u.v).zipIdx.filterMap fun x => if x.1.1 == x.1.2 then none else some (.reg t.key x.2, x.1.1)

/-- The words of the slots that a step has changed, of cores whose matrix state stays with one team: a team that takes a core, or is
restored on it, writes none of its slots. -/
def lostSlots (s r : State) : List (MatUnit × Word) :=
  if s.eng.slots == r.eng.slots then []
  else s.eng.slots.flatMap fun x =>
    match assoc s.eng.matTeam x.1 with
    | none => []
    | some k =>
      if assoc r.eng.matTeam x.1 != some k then []
      else
        let new := wordsOf (slotOf r x.1 x.2.1)
        (wordsOf x.2.2).zipIdx.filterMap fun w => if new.getD w.2 0 == w.1 then none else some (.slot k x.1 x.2.1 w.2, w.1)

/-- A MATRIX thread (R24). -/
def isMatrix (t : Thread) : Bool := t.kind == 2

/-- What a step has overwritten of the units that the matrix engines read, added to the matrix log: the registers of MATRIX threads,
and the scratchpad and slots of their teams. -/
def noteWrites (s r : State) : State :=
  if s.threads.any isMatrix then
    let regs := (s.threads.filter isMatrix).flatMap fun t => ((getThread r t.key).map (lostRegs t)).getD []
    let teams := ((s.threads.filter isMatrix).map (·.team)).eraseDups
    let scr := teams.flatMap fun k => match getTeam s k, getTeam r k with
      | some a, some b => (a.scratch.zip b.scratch).zipIdx.flatMap fun x =>
          (lostWords x.1.1 x.1.2).map fun w => (MatUnit.scr k x.2 w.1, w.2)
      | _, _ => []
    match regs ++ scr ++ lostSlots s r with
    | [] => r
    | l => withEng r fun e => { e with matlog := e.matlog ++ l }
  else r

/-- The value that a read of a unit takes: a value that it lost since a place of the log, where the read chooses one, else its own. -/
def pickUnit (s : State) (u : MatUnit) (pos : Option Nat) (base : Nat) (cur : Word) : Word :=
  match pos with
  | none => cur
  | some p => if p < base then cur else match s.eng.matlog[p]? with
    | some (v, w) => if v == u then w else cur
    | none => cur

/-- The choice for a register. -/
def choiceReg (old : List OperandChoice) (k r : Nat) : Option Nat :=
  old.findSome? fun c => match c with
    | .reg k' r' p => if k' == k && r' == r then some p else none
    | _ => none

/-- The choice for a scratchpad word. -/
def choiceScr (old : List OperandChoice) (off : Nat) : Option Nat :=
  old.findSome? fun c => match c with
    | .scratch o p => if o == off then some p else none
    | _ => none

/-- The choice for a word of a slot. -/
def choiceSlot (old : List OperandChoice) (k w : Nat) : Option Nat :=
  old.findSome? fun c => match c with
    | .slot k' w' p => if k' == k && w' == w then some p else none
    | _ => none

/-- A register as the engine reads it for an arrival. -/
def engReg (s : State) (old : List OperandChoice) (a : GangArr) (t : Thread) (r : Nat) : Word :=
  pickUnit s (.reg t.key r) (choiceReg old t.key r) a.mopf (rdV t r)

/-- A byte of scratchpad at a physical offset as the engine reads it. -/
def engByte (s : State) (old : List OperandChoice) (tm : Team) (tc base p : Nat) : Byte :=
  let o := p / 4 * 4
  let w := pickUnit s (.scr tm.key tc o) (choiceScr old o) base (word (memNat (tm.scratch.getD tc []) o 4))
  BitVec.ofNat 8 (w.toNat / 2 ^ (8 * (p % 4)))

/-- The words of a slot as the engine reads them for a team. -/
def engSlot (s : State) (old : List OperandChoice) (team core k base : Nat) : List Word :=
  (wordsOf (slotOf s core k)).zipIdx.map fun x => pickUnit s (.slot team core k x.2) (choiceSlot old k x.2) base x.1

/-! ### Arrivals (R223 to R226, R229) -/

/-- A field of the role of a rowset, when the rowset exists (R18). -/
def rowsetRole (s : State) (t : Thread) (r : Nat) : Option RoleDecl :=
  (getGrid s t.grid).bind fun g => (roleOfGroup g.roles (r / 2)).bind fun d => if r % 2 * 16 < d.threads then some d else none

/-- The team core of a group: the run that holds it (R20). -/
def runOf (tm : Team) (grp : Nat) : Option Nat := tm.runs.findIdx? fun x => decide (x.1 ≤ grp ∧ grp < x.1 + x.2)

/-- The tests of MGANG that raise GANG (R223). -/
def gangExists (s : State) (t : Thread) (v : Nat) : Bool :=
  let rows := (List.range (gangCountOf v)).map (gangFirst v + ·)
  let tm := (getTeam s t.team).getD default
  rows.all (fun r => (rowsetRole s t r).any fun d => d.kind == 2) &&
    rows.all (fun r => runOf tm (r / 2) == runOf tm (gangFirst v / 2)) && rows.contains (rsetOf t)

/-- MGANG (R223). -/
def mgangOp (i : Instr) (s : State) (x2 : Reg) : Out :=
  issue i s fun s t =>
    let v := (rdV t x2.toNat).toNat
    if v == 0 then .next (retire i s { t with mgang := 0, gangCount := 0 })
    else if decide (2 ^ 13 ≤ v) || decide (gangCountOf v < 2) || decide (6 < gangCountOf v) then raise s (unissued s t) .illegalOperand
    else if !gangExists s t v then raise s (unissued s t) .gang
    else .next (retire i s { t with mgang := v, gangCount := 0 })

/-- The arrivals of one instance agree (R225). -/
def gangAgrees (a b : GangArr) : Bool :=
  a.opc == b.opc && a.afmt == b.afmt && a.tile == b.tile && a.slw == b.slw && a.keep == b.keep && a.kslot == b.kslot

/-- The faults of an MMA's layout word (R229). -/
def mmaSlwFault (s : State) (t : Thread) (opc : Nat) (w : List Word) : Option FaultCode :=
  let f := (mmaFmts opc).2
  if !slwReservedOk w then some .illegalOperand
  else if decide (3 ≤ slwMode w) || slwTcr w != t.tcore || !slwFits w (scrBytes s t.grid) (matK f) (128 * matBits f / 8) 1 then some .scratchBounds
  else none

/-- A gang instruction (R224, R225): the thread arrives at the instance of its count and is BLOCKED until the instance releases. DESIGN
CHOICE (notes/assumptions/139.md): where an arrival's layout word is faulty (R229), that fault is raised and the instance stays open, though
the arrival would also disagree or clash; the spec gives no order. -/
def gangOp (i : Instr) (s : State) (la : BitVec 4) (x1 x3 : Reg) (mk : Thread → GangArr) : Out :=
  issue i s fun s t =>
    let t0 := unissued s t
    if t.mgang == 0 || t.isCont then raise s t0 .gang
    else
      let id := s.mem.seq
      let a := { mk t with thread := t.key, member := 16 * (rsetOf t - gangFirst t.mgang) + laneOf t % 16, x1 := x1.toNat, x3 := x3.toNat
                           window := id, mopf := t.mopf }
      match (if a.opc == 9 then none else mmaSlwFault s t a.opc a.slw) with
      | some .scratchBounds => boundsFault i s t0 (fun u => slwWord (mk u).slw 0) fun u =>
          u.mgang != 0 && !u.isCont && mmaSlwFault s u (mk u).opc (mk u).slw == some .scratchBounds
      | some c => raise s t0 c
      | none => need (getTeam s t.team) fun tm =>
        let n := t.gangCount + 1
        let reads := ((List.range 8).map (x1.toNat + ·)) ++ (if matScaled a.afmt then (List.range 5).map (x3.toNat + ·) else [])
        let t1 := openWindow { t with gangCount := n, outMatrix := { count := t.outMatrix.count + 1, pc := t.pc } } id la.toNat [] reads
        let clash := tm.gangs.filter fun g => g.gang != t.mgang && gangsMeet g.gang t.mgang
        let mine := tm.gangs.find? fun g => g.gang == t.mgang && g.n == n
        let bad := !clash.isEmpty || (mine.any fun g => g.arrs.any fun b => !gangAgrees a b)
        if bad then raise ((clash ++ mine.toList).foldl (fun s g => killGang s t.team g) s) t0 .gang
        else
          let g' : GangInst := { gang := t.mgang, n := n, arrs := (mine.map (·.arrs)).getD [] ++ [a] }
          let s := withGangs (putThread (bump s) (blockOn i t1 .gang)) t.team fun gs => (dropIf (fun g => some g == mine) gs) ++ [g']
          .next (releaseGang s t.team g')

/-- An arrival of an MMA. -/
def mmaArr (opc : Nat) (tile : BitVec 2) (x2 : Reg) (keep : Bool) (k : Nat) (sb : Nat) (t : Thread) : GangArr :=
  { thread := t.key, member := 0, opc := opc, afmt := (mmaFmts opc).1, tile := tile.toNat, slw := rdMany t x2.toNat 3, keep := keep
    kslot := k, sb := sb, x1 := 0, x3 := 0, window := 0, mopf := 0 }

/-- An arrival of an MLOAD. -/
def mloadArr (afmt : Nat) (k : Nat) (sb : Nat) (t : Thread) : GangArr :=
  { thread := t.key, member := 0, opc := 9, afmt := afmt, tile := 0, slw := [], keep := false
    kslot := k, sb := sb, x1 := 0, x3 := 0, window := 0, mopf := 0 }

/-! ### The engine (R227 to R236) -/

/-- The arrival and thread of a gang row, if any. -/
def gangRow (s : State) (g : GangInst) (row : Nat) : Option (GangArr × Thread) :=
  (g.arrs.find? fun a => a.member == row).bind fun a => (getThread s a.thread).map fun t => (a, t)

/-- The A patterns of a gang row (R227); CB4 codes are decoded through the slot. A missing row is zeros (R224). DESIGN CHOICE
(notes/assumptions/112.md): under MMA.CB4 too these are values of zero, not codes 0 that the slot would decode. -/
def gangARow (s : State) (old : List OperandChoice) (team core : Nat) (g : GangInst) (fmt kslot row : Nat) : List Nat :=
  match gangRow s g row with
  | none => List.replicate (matK fmt) 0
  | some (a, t) =>
    let ws := (List.range 8).map fun i => engReg s old a t (a.x1 + i)
    let ps := (List.range (matK fmt)).map (elemOf (matBits fmt) ws)
    if fmt == 2 then ps.map (codeEntry (engSlot s old team core kslot a.mopf)) else ps

/-- A scale byte of a gang row's registers. -/
def gangScale (s : State) (old : List OperandChoice) (g : GangInst) (row : Nat) (reg : GangArr → Nat) (byte : GangArr → Nat) : Int :=
  match gangRow s g row with
  | none => 0
  | some (a, t) => sextInt ((engReg s old a t (reg a)).toNat / 2 ^ (8 * byte a)) 8

/-- The row scale of a gang row, as a byte. -/
def rowScale (s : State) (old : List OperandChoice) (g : GangInst) (row : Nat) : Int := gangScale s old g row (·.x3) (·.sb)

/-- The column scale of a column (R228). -/
def colScale (s : State) (old : List OperandChoice) (g : GangInst) (j : Nat) : Int :=
  gangScale s old g (j / 4) (fun a => a.x3 + 1 + a.sb) fun _ => j % 4

/-- The rows of B, as patterns (R227). -/
def gangB (s : State) (old : List OperandChoice) (core : Nat) (tm : Team) (a : GangArr) (base : Nat) : List (List Nat) :=
  let fmt := (mmaFmts a.opc).2
  let bits := matBits fmt
  let slot := engSlot s old tm.key core a.kslot base
  (List.range (matK fmt)).map fun k =>
    let bs := (List.range (128 * bits / 8)).map fun b =>
      engByte s old tm (slwTcr a.slw) base (scrMap (slwMode a.slw) (slwOff a.slw b k 0))
    let ws := wordsOf bs
    (List.range 128).map fun j => let p := elemOf bits ws j
      if fmt == 2 then codeEntry slot p else p

/-- A product row: tile row c under A row and B rows (R228, R73, R74). -/
def mmaRow (opc : Nat) (c : List Word) (a : List Nat) (b : List (List Nat)) (sa : Int) (sb : List Int) : List Word :=
  let (fa, fb) := mmaFmts opc
  (List.range 128).map fun j =>
    let col := b.map fun r => r.getD j 0
    if opc == 7 then word (mmaSumI8 (c.getD j 0).toNat ((a.zip col).map fun x => (sextInt x.1 8, sextInt x.2 8)))
    else word (mmaSum (c.getD j 0).toNat ((a.zip col).map fun x => (matVal fa x.1, matVal fb x.2))
      (if matScaled fa then sa + sb.getD j 0 else 0))

/-- The rows that a latch would hold for an instance: A patterns and row scales. -/
def gangRows (s : State) (old : List OperandChoice) (team core : Nat) (g : GangInst) (fmt kslot : Nat) : LatchRows :=
  let n := 16 * gangCountOf g.gang
  { rows := (List.range n).map (gangARow s old team core g fmt kslot)
    scales := (List.range n).map fun r => if matScaled fmt then intBits (rowScale s old g r) 8 else 0 }

/-- An MMA of an instance over its tile. -/
def mmaTile (s : State) (old : List OperandChoice) (core : Nat) (tm : Team) (g : GangInst) (a : GangArr) (src : LatchRows) : WordMem :=
  let base := g.arrs.foldl (fun m x => max m x.mopf) 0
  let b := gangB s old core tm a base
  let sb := (List.range 128).map fun j => if matScaled a.afmt then colScale s old g j else 0
  let n := 16 * gangCountOf g.gang
  let ws := denseFrom (tileOf s core a.tile) 0 12288
  let rows := (List.range n).flatMap fun r =>
    mmaRow a.opc ((ws.drop (128 * r)).take 128) (src.rows.getD r []) b (sextInt (src.scales.getD r 0) 8) sb
  sparseFrom (rows ++ ws.drop (128 * n)) 0

/-- A matrix operation of a thread has reached its completion point (R235). -/
def matDone (t : Thread) : Thread := { t with outMatrix := { t.outMatrix with count := t.outMatrix.count - 1 } }

/-- The arrivals of a performed instance: their operands are read (R233). -/
def gangDone (s : State) (g : GangInst) : State :=
  g.arrs.foldl (fun s a => match getThread s a.thread with
    | some t => putThread s (closeWindow (matDone t) a.window)
    | none => s) s

/-- An instance performed. -/
def performGang (s : State) (old : List OperandChoice) (core team : Nat) (g : GangInst) (held : Bool) : Out :=
  need g.arrs.head? fun a => need (getTeam s team) fun tm =>
    let src := if held then (assoc s.eng.latched core).getD { rows := [], scales := [] } else gangRows s old team core g a.afmt a.kslot
    let s1 := if held then s else withEng s fun e => { e with latched := assocSet e.latched core src }
    .next (gangDone (if a.opc == 9 then s1 else setTile s1 core a.tile (mmaTile s old core tm g a src)) g)

/-- One thread's operation performed. -/
def threadMatDone (s : State) (k : Nat) : State :=
  match getThread s k with
  | some t => putThread s (matDone t)
  | none => s

/-- MCB performed: the slot takes 32 bytes of scratchpad (R238). -/
def performMcb (s : State) (old : List OperandChoice) (core thread team slot addr mopf : Nat) : Out :=
  need (getTeam s team) fun tm =>
    let bs := (List.range 32).map fun i => engByte s old tm (scrCore addr) mopf (scrMap (scrMode addr) (scrOff addr + i))
    .next (threadMatDone (setSlot s core slot bs) thread)

/-- The first accepted operation of a core taken out of its queue; a drain that follows it has one fewer to wait for (R236). -/
def dropMatOp (s : State) (x : Nat × MatOp) : State :=
  withEng s fun e => { e with
    matq := e.matq.erase x
    copies := mapIf (fun c => c.core == x.1 && c.after != 0) (fun c => { c with after := c.after - 1 }) e.copies }

/-- MATRIX_ENGINE_OPERATION: a core's engine performs its next accepted operation (R236). -/
def matrixEngine (s : State) (core : Nat) (old : List OperandChoice) : Out :=
  need (s.eng.matq.find? fun x => x.1 == core) fun x =>
    let s := dropMatOp s x
    match x.2 with
    | .gang team g held => performGang s old core team g held
    | .mzero thread tile => .next (threadMatDone (setTile s core tile []) thread)
    | .mcb thread team slot addr mopf => performMcb s old core thread team slot addr mopf

/-- An operation of one thread accepted at issue. -/
def acceptMat (i : Instr) (s : State) (t : Thread) (op : MatOp) : Out :=
  .next (retire i (withEng s fun e => { e with matq := e.matq ++ [(t.core, op)] })
    { t with outMatrix := { count := t.outMatrix.count + 1, pc := t.pc } })

/-- MCB (R238): its address is checked at issue. -/
def mcbOp (i : Instr) (s : State) (x2 : Reg) (k : BitVec 3) : Out :=
  issue i s fun s t =>
    let adr := (rdV t x2.toNat).toNat
    if scrOff adr % 32 != 0 then raise s (unissued s t) .misaligned 0 adr
    else if !scrBoundsOk s t adr 32 then scratchFault i s (unissued s t) (fun u => (rdV u x2.toNat).toNat) 32 (fun o => o % 32 == 0)
    else acceptMat i s t (.mcb t.key t.team k.toNat adr t.mopf)

/-- MOPF (R234): it waits for the thread's pending register writes, and for its scratchpad accesses to reach their banks. -/
def mopfOp (i : Instr) (s : State) : Out :=
  issue i s fun s t =>
    if t.windows.any (fun w => w.poison.isNone && !w.regs.isEmpty) || s.mem.reqs.any fun r => r.serves t.key && r.atBank.isSome then waits s
    else .next (retire i s { t with mopf := s.eng.matlog.length })

/-- MREL (R230): the latch that the thread's own gang holds is released. -/
def mrelOp (i : Instr) (s : State) : Out :=
  issue i s fun s t =>
    let mine := (assoc s.eng.latch t.core).any fun l => l.team == t.team && l.gang == t.mgang && t.mgang != 0
    let s' := if mine then withEng s fun e => { e with latch := dropIf (fun x => x.1 == t.core) e.latch } else s
    .next (retire i s' t)

end

end Sys2Proof.Machine
end

