-- ==== Sys2Proof/Machine/Shake.lean ====
section
/-! DEFINITION. SHAKE256, by which the device names shards (R306, R327), firmware bodies (R425) and mode tables (R426), and on which Ed448
rests. PRESUMED (notes/assumptions/105.md): the spec names the function, and FIPS 202 defines it. -/

namespace Sys2Proof

/-- A lane of the sponge's state; lane x of plane y stands at x + 5y. -/
abbrev Lane := BitVec 64

/-- A lane of a state. -/
def laneAt (a : List Lane) (x y : Nat) : Lane := a.getD (x % 5 + 5 * (y % 5)) 0

/-- A state by its lanes. -/
def laneMap (f : Nat → Nat → Lane) : List Lane := (List.range 25).map fun i => f (i % 5) (i / 5)

/-- The rotation of each lane. -/
def laneShift : List Nat :=
  [0, 1, 62, 28, 27, 36, 44, 6, 55, 20, 3, 10, 43, 25, 39, 41, 45, 15, 21, 8, 18, 2, 61, 56, 14]

/-- The constants of the 24 rounds. -/
def roundConsts : List Lane :=
  [0x0000000000000001, 0x0000000000008082, 0x800000000000808A, 0x8000000080008000, 0x000000000000808B, 0x0000000080000001,
   0x8000000080008081, 0x8000000000008009, 0x000000000000008A, 0x0000000000000088, 0x0000000080008009, 0x000000008000000A] ++
  [0x000000008000808B, 0x800000000000008B, 0x8000000000008089, 0x8000000000008003, 0x8000000000008002, 0x8000000000000080,
   0x000000000000800A, 0x800000008000000A, 0x8000000080008081, 0x8000000000008080, 0x0000000080000001, 0x8000000080008008]

/-- The parity of each column. -/
def columns (a : List Lane) : List Lane :=
  (List.range 5).map fun x => laneAt a x 0 ^^^ laneAt a x 1 ^^^ laneAt a x 2 ^^^ laneAt a x 3 ^^^ laneAt a x 4

/-- Each lane with the parities of two columns beside it. -/
def mixColumns (a : List Lane) : List Lane :=
  let c := columns a
  laneMap fun x y => laneAt a x y ^^^ c.getD ((x + 4) % 5) 0 ^^^ (c.getD ((x + 1) % 5) 0).rotateLeft 1

/-- Lanes rotated and moved. -/
def moveLanes (a : List Lane) : List Lane :=
  laneMap fun x y => (laneAt a (x + 3 * y) x).rotateLeft (laneShift.getD ((x + 3 * y) % 5 + 5 * x) 0)

/-- Each lane with the next two of its row. -/
def mixRows (a : List Lane) : List Lane := laneMap fun x y => laneAt a x y ^^^ (~~~laneAt a (x + 1) y &&& laneAt a (x + 2) y)

/-- One round. -/
def spongeRound (a : List Lane) (rc : Lane) : List Lane :=
  match mixRows (moveLanes (mixColumns a)) with
  | x :: r => (x ^^^ rc) :: r
  | [] => []

/-- The permutation of 24 rounds. -/
def permute (a : List Lane) : List Lane := roundConsts.foldl spongeRound a

/-- The bytes of a block taken at a time. -/
def spongeRate : Nat := 136

/-- The lanes of n eights of bytes. -/
def lanesOf : Nat → List Byte → List Lane
  | 0, _ => []
  | n + 1, bs => BitVec.ofNat 64 (wordOfBytes (bs.take 8)) :: lanesOf n (bs.drop 8)

/-- A block taken in. -/
def absorb (a : List Lane) (block : List Byte) : List Lane := permute (List.zipWith (· ^^^ ·) a (lanesOf 25 block))

/-- The blocks of a message taken in, n of them. -/
def absorbAll : Nat → List Byte → List Lane → List Lane
  | 0, _, a => a
  | n + 1, bs, a => absorbAll n (bs.drop spongeRate) (absorb a (bs.take spongeRate))

/-- A message filled up to whole blocks: 1F after its last byte, and the top bit of the last block. -/
def padded (bs : List Byte) : List Byte :=
  let fill := spongeRate - 1 - bs.length % spongeRate
  if fill == 0 then bs ++ [0x9F] else bs ++ 0x1F :: (List.replicate (fill - 1) 0 ++ [0x80])

/-- The first block of SHAKE256's output: 136 bytes. -/
def shakeBlock (bs : List Byte) : List Byte :=
  let m := padded bs
  ((absorbAll (m.length / spongeRate) m (List.replicate 25 0)).take 17).flatMap fun l => bytesOfWord 8 l.toNat

/-- SHAKE256 to 32 bytes. -/
def shake256 (bs : List Byte) : List Byte := (shakeBlock bs).take 32

/-- SHAKE256 to 114 bytes. -/
def shake912 (bs : List Byte) : List Byte := (shakeBlock bs).take 114

end Sys2Proof
end

