-- ==== Sys2Proof/Machine/CaddyOps.lean ====
section
/-! DEFINITION. Caddy generations as they are loaded (R306, R307, R327): shards, their digests and their bad marks. -/

namespace Sys2Proof.Machine

/-- The bytes of a shard, but for the last (R306). -/
def shardSize : Nat := 2 ^ 28

/-- The number of shards of a generation. -/
def shardCount (s : State) (slot g : Nat) : Nat := (caddyLen s slot g + shardSize - 1) / shardSize

/-- The bytes of shard n of a generation. -/
def shardLen (s : State) (slot g n : Nat) : Nat := min shardSize (caddyLen s slot g - n * shardSize)

/-- The entry that a walk for an address ends at, and its level. -/
def lastEntry (tbl : Memory) (va : Nat) : Nat → Nat → Nat → Nat × Nat
  | 0, _, lvl => (0, lvl)
  | fuel + 1, table, lvl =>
    let pte := memNat tbl (pteOffset table va lvl) 8
    if bitOf pte 0 && !bitOf pte 1 && lvl != 3 then lastEntry tbl va fuel (pteAddr pte) (lvl + 1) else (pte, lvl)

/-- A line of a caddy owner's plaintext, wherever its page is: in its frame, in transit too, or in the tier (R304, R305). -/
def caddyLine (s : State) (own va : Nat) : List Byte :=
  let e := ((ownerRec s own).map fun r => lastEntry s.mem.tbl va 4 r.proot 0).getD (0, 0)
  if bitOf e.1 0 && bitOf e.1 1 then readHome s own (physOf 0 0 va e.1 e.2) 64
  else match s.mem.tier.find? fun t => t.page.owner == own && decide (t.page.va ≤ va ∧ va < t.page.va + pageBytes t.page.psz) with
    | some t => (List.range 64).map fun i =>
        let o := va - t.page.va + i
        visible s own ((assoc t.infos (o / 32)).getD {}) (cellGet t.bytes o)
    | none => List.replicate 64 0

/-- The plaintext of a generation from an offset on, n lines of 64 bytes, as its own tag reads it. -/
def caddyLines (s : State) (slot g off : Nat) : Nat → List Byte
  | 0 => []
  | n + 1 => caddyLine s (caddyTag s slot) (caddyBase s slot g + off) ++ caddyLines s slot g (off + 64) n

/-- Whether bytes have the digest that a shard's record gives. -/
def digestOk (s : State) (slot g n : Nat) (bs : List Byte) : Bool := shake256 bs == memRead s.mem.tbl (caddyDigests s slot g + 64 * n) 32

/-- Whether a shard's bytes, as they stand, have the digest that its record gives (R329). -/
def shardMatches (s : State) (slot g n : Nat) : Bool :=
  digestOk s slot g n (caddyLines s slot g (n * shardSize) (shardLen s slot g n / 64))

/-- The key of a shard in a slot's progress. -/
def shardKey (g n : Nat) : Nat := g * 2 ^ 32 + n

/-- BAD of a shard written in its record, bit 0 of byte 32 (R327). -/
def markShard (s : State) (slot g n : Nat) (bad : Bool) : State :=
  let a := caddyDigests s slot g + 64 * n + 32
  let old := cellGet s.mem.tbl a
  withMem s fun m => { m with tbl := memWrite m.tbl a [if bad then old ||| 1 else old &&& 0xFE] }

/-- A generation that is LOADING is READY when every shard of it is good. -/
def settleCaddy (s : State) (slot g : Nat) : State :=
  let c := caddyOf s slot
  if c.state.getD g 0 == 1 && (List.range (shardCount s slot g)).all fun n => c.goodShards.contains (g, n)
  then putCaddy s { c with state := putAt 0 c.state g 2 } else s

/-- The progress of a shard whose order has been broken: only a rewrite from its start goes on. -/
def shardBroken : Nat := 2 ^ 29

/-- Whether a shard's progress is good, or bad, noted. -/
def Caddy.note (c : Caddy) (g sh : Nat) (good bad : Bool) : Caddy :=
  let but (l : List (Nat × Nat)) : List (Nat × Nat) := dropIf (· == (g, sh)) l
  { c with badShards := if bad then but c.badShards ++ [(g, sh)] else but c.badShards
           goodShards := if good then but c.goodShards ++ [(g, sh)] else but c.goodShards }

/-- A write of bytes through a KIND 2 entry (R327): a shard's bytes come in ascending order from its start, each once; one out of order,
or written again, sets BAD at once. The plaintext is kept as it arrives. The last byte of a shard written whole in order compares its
digest, and sets or clears BAD. -/
def noteCaddyBytes (s : State) (slot g off : Nat) (bs : List Byte) : State :=
  let n := bs.length
  let sh := off / shardSize
  let o := off % shardSize
  let c := caddyOf s slot
  let got := (assoc c.shard (shardKey g sh)).getD 0
  let inOrder := o == got
  let now := if inOrder || o == 0 then o + n else shardBroken
  let isBad := !inOrder || c.badShards.contains (g, sh)
  let data := if o == 0 then bs else (assoc c.data (shardKey g sh)).getD [] ++ bs
  let c1 := { c with shard := assocSet c.shard (shardKey g sh) now
                     data := assocSet c.data (shardKey g sh) (if now == shardBroken then [] else data) }.note g sh false isBad
  let s1 := putCaddy s c1
  let s2 := if inOrder then s1 else markShard s1 slot g sh true
  if now == shardLen s slot g sh then
    let good := digestOk s slot g sh data
    settleCaddy (markShard (putCaddy s2 ({ c1 with data := dropIf (fun d => d.1 == shardKey g sh) c1.data }.note g sh good !good)) slot g sh !good)
      slot g
  else s2

/-- Bytes by address, in ascending order, put together in runs of consecutive addresses. -/
def byteRuns : List (Nat × Byte) → List (Nat × List Byte)
  | [] => []
  | (a, x) :: r => match byteRuns r with
    | (b, xs) :: rs => if b == a + 1 then (a, x :: xs) :: rs else (a, [x]) :: (b, xs) :: rs
    | [] => [(a, [x])]

/-- The note of a write to a target, where it goes through a KIND 2 entry: the bytes of a line in ascending order. -/
def noteShard (s : State) (t : Target) (bs : List (Nat × Byte)) : State :=
  match t.cad, bs with
  | some (slot, g, off), (a, _) :: _ =>
    (byteRuns ((List.range 64).filterMap fun i => bs.find? fun b => b.1 == lineOf a + i)).foldl
      (fun s r => noteCaddyBytes s slot g (off + r.1 - t.phys) r.2) s
  | _, _ => s

end Sys2Proof.Machine
end

