-- ==== Sys2Proof/Machine/MemEvents.lean ====
section
/-! DEFINITION. The device steps of the memory path: loads that return (R166 to R176, R186), store queues that drain (R286), gates that
acknowledge (R13), writes and atomics at home (R180 to R182, R296, R310), Strait entries (R294 to R297), and PROMOTE (R172). -/

namespace Sys2Proof.Machine

/-! ### Loads -/

/-- A request by its id. -/
def reqFor (s : State) (r : Nat) : Option Req := s.mem.reqs.find? fun x => x.id == r

/-- A request changed. -/
def putReq (s : State) (r : Req) : State := withMem s fun m => { m with reqs := mapIf (fun x => x.id == r.id) (fun _ => r) m.reqs }

/-- The words that a load's bytes give its destinations (R167). -/
def loadWords (f : LoadFmt) (bs : List Byte) : List Word :=
  match f with
  | .zext _ => [word (wordOfBytes bs)]
  | .sext n => [wordOfInt (sextInt (wordOfBytes bs) n)]
  | .words n => (wordsOf bs).take n

/-- The counts of a thread after one operation of class MEM has completed (R379). -/
def memDone (t : Thread) : Thread := { t with outMem := { t.outMem with count := t.outMem.count - 1 } }

/-- A load's value taken by one of the threads that it serves: its destinations written, or POISON due after its window (R186). -/
def takeLoad (r : Req) (bs : List Byte) (bad : Bool) (s : State) (k : Nat) : State :=
  match getThread s k with
  | none => s
  | some t =>
    let t := memDone (if r.acq.isSome then { t with acquires := t.acquires - 1 } else t)
    let f : FaultInfo := { code := .poison, late := true, tpc := r.pc, addr := r.addr }
    let part (w : Window) : Window := { w with regs := dropIf (fun x => decide (r.d ≤ x ∧ x < r.d + (loadWords r.fmt bs).length)) w.regs }
    putThread s <|
      if bad then { t with windows := mapIf (fun w => w.id == r.window) (fun w => { w with poison := some f }) t.windows }
      else atWindow (wrMany t r.d r.ldc (loadWords r.fmt bs)) r.window part

/-- A load's value taken by every thread that it serves (R162), and an acquire's effect (R170). -/
def deliverLoad (s : State) (r : Req) (bs : List Byte) (bad : Bool) : State :=
  let s := withMem s fun m => { m with reqs := dropIf (fun x => x.id == r.id) m.reqs }
  let s := r.threads.foldl (takeLoad r bs bad) s
  match r.acq with
  | some sc => acquireAt s r.core sc
  | none => s

/-! ### Scratchpad banks (R164, R177 to R183, R292) -/

/-- The new value of an atomic operation (R181 Table 8): old and data as bytes and words. -/
def atomicNew (op : AtomOp) (d : List Word) (old : List Byte) : List Byte :=
  let o : Word := word (wordOfBytes old)
  let o64 := wordOfBytes old
  let x := d.getD 0 0
  let pair (i : Nat) : Nat := (d.getD i 0).toNat + 2 ^ 32 * (d.getD (i + 1) 0).toNat
  let w (v : Word) : List Byte := bytesOfWord 4 v.toNat
  match op with
  | .add => w (o + x)
  | .minI32 => w (if x.toInt < o.toInt then x else o)
  | .maxI32 => w (if o.toInt < x.toInt then x else o)
  | .minN32 => w (if x.toNat < o.toNat then x else o)
  | .maxN32 => w (if o.toNat < x.toNat then x else o)
  | .and => w (o &&& x)
  | .or => w (o ||| x)
  | .xor => w (o ^^^ x)
  | .xchg => w x
  | .cas => w (if o == d.getD 1 0 then x else o)
  | .incw => w (if x.toNat ≤ o.toNat then 0 else o + 1)
  | .add64 => bytesOfWord 8 ((o64 + pair 0) % 2 ^ 64)
  | .cas64 => bytesOfWord 8 (if o64 == pair 2 then pair 0 else o64)
  | .fadd => w (word (fpAdd .f32 o.toNat x.toNat).1)
  | .wadd => bytesOf (wideWords (wideMerge (wideOfWords (wordsOf old)) (wideOfWords d))) ++ [0, 0, 0, 0]

/-- The bytes of a scratchpad that an access touches, by physical offset (R160, R178). -/
def ScrAcc.cells (a : ScrAcc) : List Nat :=
  (match a.kind with
    | .words n => (List.range (4 * n)).map (a.off + ·)
    | .t8 => (List.range 32).map fun i => a.off / 1024 * 1024 + 32 * i + a.off % 32
    | .t16 => (List.range 32).map fun j => a.off / 1024 * 1024 + 64 * (j / 2) + 2 * (a.off / 2 % 32) + j % 2
    | .store bs => (List.range bs.length).map (a.off + ·)
    | .atomic _ _ => (List.range 4).map (a.off + ·)).map (scrMap a.mode)

/-- The accesses of an access's fused set to the same team core that go with it, in ascending lane order. -/
def bankBlock (s : State) (r : Req) (a : ScrAcc) : List (Req × ScrAcc) :=
  (s.mem.reqs.filterMap fun x => x.atBank.map fun b => (x, b)).filter fun x =>
    x.1.core == r.core && x.2.fset == a.fset && x.2.team == a.team && x.2.tc == a.tc

/-- The physical core whose scratchpad an access reaches. -/
def bankCore (s : State) (a : ScrAcc) : Nat := ((getTeam s a.team).bind fun m => m.cores[a.tc]?).getD 0

/-- The place of a fused set's access among those that reach one core's banks in one clock (R292): the core's own lane groups in
ascending order, then the accesses of other cores by core and lane group; of one in two steps, the second after the first. -/
def bankKey (s : State) (r : Req) (a : ScrAcc) : List Nat := [boolNat (r.core != bankCore s a), r.core, r.lg, a.fset, boolNat r.got.isSome]

/-- Whether an earlier access of one of the threads that an access serves to some of its bytes has still to reach its bank (R164). -/
def bankBehind (s : State) (r : Req) (a : ScrAcc) : Bool :=
  s.mem.reqs.any fun x => r.threads.any x.serves && decide (x.id < r.id) &&
    match x.atBank with
    | some b => b.team == a.team && b.tc == a.tc && b.cells.any a.cells.contains
    | none => false

/-! An access of several words may be performed in two steps, each of whole words (R165). -/

/-- Whether byte i of an access is of its first step: `tear` words of it, from its start, or, where `tear` is not less than its words, the
words from the difference on. -/
def Req.inFirst (r : Req) (i : Nat) : Bool := if 4 * r.tear < r.size then decide (i < 4 * r.tear) else decide (4 * r.tear - r.size ≤ i)

/-- Whether an access has a first step before it. -/
def Req.torn (r : Req) : Bool := r.tear != 0 && r.got.isNone

/-- Whether byte i of an access is of the step that comes now. -/
def Req.inStep (r : Req) (i : Nat) : Bool :=
  if r.tear == 0 then true else if r.got.isNone then r.inFirst i else !r.inFirst i

/-- The bytes of an access whose second step reads these: those that its first step took, and the rest. -/
def Req.mixed (r : Req) (bs : List Byte) : List Byte :=
  match r.got with
  | some (first, _) => bs.zipIdx.map fun (b, i) => if r.inFirst i then first.getD i 0 else b
  | none => bs

/-- A scratchpad access performed at its bank, or the step of it that comes now. A store is then complete; a load's or atomic's bytes are
on their way back. -/
def bankAccess (s : State) (x : Req × ScrAcc) : State :=
  let r := x.1
  let a := x.2
  match getTeam s a.team with
  | none => s
  | some tm =>
    let back (s : State) (bs : List Byte) : State :=
      putReq s (if r.torn then { r with got := some (bs, false) } else { r with stage := .data (r.mixed bs) false })
    match a.kind with
    | .words n => back s (scrRead tm a.tc a.mode a.off (4 * n))
    | .t8 => back s (fragT8 tm a.tc a.mode a.off)
    | .t16 => back s (fragT16 tm a.tc a.mode a.off)
    | .store bs =>
      let s := putTeam s (scrWrite tm a.tc a.mode ((at_ a.off bs).filter fun b => r.inStep (b.1 - a.off)))
      if r.torn then putReq s { r with got := some ([], false) }
      else onThread (withMem s fun m => { m with reqs := dropIf (fun y => y.id == r.id) m.reqs }) r.thread memDone
    | .atomic op data =>
      let old := scrRead tm a.tc a.mode a.off 4
      back (putTeam s (scrWrite tm a.tc a.mode (at_ a.off (atomicNew op data old)))) old

/-- The accesses of a fused set reach a core's banks together, in ascending lane order, in their place in the clock (R164, R292). -/
def bankStep (s : State) (r : Req) (a : ScrAcc) : Out :=
  let c := bankCore s a
  let block := bankBlock s r a
  let key := bankKey s r a
  whenOk (!(lexLess key ((assoc s.banked c).getD [])) && block.all fun x => !bankBehind s x.1 x.2) <|
    .next (block.foldl bankAccess { s with banked := assocSet s.banked c key })

/-- LOAD_RETURN: a load that its core's own sources serve now, or whose bytes have come; or a scratchpad access that reaches its
bank. DESIGN CHOICE (notes/assumptions/26.md): every load that a core serves makes its line the most recently used, one that the store queue
forwards too, and a store that drains does not. -/
def loadReturn (s : State) (id : Nat) : Out :=
  need (reqFor s id) fun r => whenOk r.copy.isNone <|
    match r.stage with
    | .data bs bad => .next (deliverLoad s r bs bad)
    | .atCore => match r.scr with
      | some a => bankStep s r a
      | none => need (coreSource s r) fun bs => .next (deliverLoad (touchL1 s r.core (lineKey r.tgt.pkg (lineOf r.tgt.phys))) r bs false)
    | _ => stuck

/-! ### Stores on their way (R13, R286, R296) -/

/-- An operation by its order number. -/
def opFor (s : State) (q : Nat) : Option SqOp := s.mem.ops.find? fun x => x.seq == q

/-- A thread's operation by its order number that has not been performed: on its way home, or to its bank. -/
def stillOut (s : State) (q : Nat) : Bool := (opFor s q).isSome || s.mem.reqs.any fun r => r.id == q && r.atBank.isSome

/-- One operation, or the same part of one store. -/
def sameOp (q x : SqOp) : Bool := x.seq == q.seq && x.part == q.part

/-- An operation passed on to a level, with the order number of its passing. -/
def passTo (s : State) (q : SqOp) (lvl : Nat) : State :=
  withMem s fun m =>
    { m with seq := m.seq + 1, ops := mapIf (sameOp q) (fun x => { x with level := lvl, stamps := m.seq :: x.stamps }) m.ops }

/-- Two atomics or reductions of one fused set. -/
def inSet (q x : SqOp) : Bool := q.isAtomic && x.isAtomic && x.fset == q.fset && x.core == q.core && x.lg == q.lg

/-- What goes on its way with an operation: of an atomic or reduction, those of its fused set that stand where it does, which go as one
block (R182, R362). -/
def travels (s : State) (q : SqOp) : List SqOp :=
  if q.isAtomic then s.mem.ops.filter fun x => inSet q x && x.level == q.level && x.lane == q.lane else [q]

/-- The threads whose stores have left the queue complete them for the wait mask; an atomic completes with its return (R86). -/
def leftQueue (s : State) (q : SqOp) : State :=
  match q.kind with
  | .atomic _ _ (some _) => s
  | _ => q.contrib.foldl (fun s c => onThread s c.1 memDone) s

/-- What leaves a core does to its L1 and to fills on their way (R180, R288, R289, R294). -/
def drainToL1 (s : State) (q : SqOp) : State :=
  let line := lineOf q.tgt.phys
  let key := lineKey q.tgt.pkg line
  let s := withMem s fun m => { m with reqs := mapIf (fun r => r.awaits q.core (some key)) (fun r => { r with dirty := true }) m.reqs }
  if q.isAtomic then suppressFills (dropL1 s q.core key) q.core (some key)
  else
    let s := updateL1 s q
    let inFlight := s.mem.entries.any fun e => e.line == line && e.pkg == q.tgt.pkg && e.cores.contains q.core
    if !inFlight then s
    else withMem s fun m =>
      { m with
        entries := mapIf (fun e => e.line == line && e.pkg == q.tgt.pkg && e.cores.contains q.core) (fun e => { e with dirty := e.dirty ++ [q.core] }) m.entries
        fillMarks := m.fillMarks ++ q.bytes.map fun b => (q.core, lineKey q.tgt.pkg b.1, q.tgt.tag, b.2) }

/-- An entry of a store queue leaves its core. -/
def drainOp (s : State) (q : SqOp) : State :=
  let s := drainToL1 s q
  let s := withMem s fun m => { m with ops := mapIf (sameOp q) (fun x => { x with left := s.clock, slack := slackOf s q.core }) m.ops }
  leftQueue (passTo s q 1) q

/-- STORE_QUEUE_DRAIN: the oldest entry of a lane group's queue leaves the core, and with an atomic or reduction its fused set's; a release
once its conditions hold (R171). -/
def drainQueue (s : State) (core lg : Nat) : Out :=
  need (queueOf s core lg).head? fun q => whenOk (releaseMet s q) (.next ((travels s q).foldl drainOp s))

/-- Whether two cores share the gate unit that an operation at a level leaves through. -/
def shareUnit (lvl a b : Nat) : Bool :=
  match lvl with
  | 1 => a == b
  | 2 => layerOfCore a == layerOfCore b
  | 3 => chipOfCore a == chipOfCore b
  | _ => retiOfCore a == retiOfCore b

/-- Whether an operation is the first of its line at its level among those that share its unit, but for its fused set: gates keep the
order of arrival. -/
def firstAtGate (s : State) (q : SqOp) : Bool :=
  !(s.mem.ops.any fun x => !sameOp q x && !inSet q x && x.level == q.level && x.onLine q.tgt.pkg (lineOf q.tgt.phys) &&
    shareUnit q.level x.core q.core && decide (x.stamps.headD 0 < q.stamps.headD 0))

/-- Whether an operation is the first of those to its package that have passed this package's last gate: one package's requests to
another are delivered in the order sent (R424). -/
def firstToPackage (s : State) (q : SqOp) : Bool :=
  q.tgt.pkg.isNone || !(s.mem.ops.any fun x => x.tgt.pkg == q.tgt.pkg && x.level == 4 && !inSet q x && !sameOp q x &&
    decide (x.stamps.headD 0 < q.stamps.headD 0))

/-- No write to another package is on its way before a read of it (R424). -/
def packageClear (s : State) (t : Target) : Bool := t.pkg.isNone || !(s.mem.ops.any fun x => x.tgt.pkg == t.pkg && x.level == 4)

/-- GATE_ACKNOWLEDGEMENT: the gate of the next level takes an operation, with its block, and acknowledges it (R13 Table 2). -/
def gateAck (s : State) (q lvl : Nat) : Out :=
  need (opFor s q) fun x =>
    whenOk (decide (2 ≤ lvl ∧ lvl ≤ 4) && x.level + 1 == lvl && (travels s x).all (firstAtGate s))
      (.next ((travels s x).foldl (fun s y => passTo s y lvl) s))

/-! ### At home -/

/-- What a read or atomic of another package, or of the host, returns, and whether it is POISON. -/
def answered (s : State) (ws : List Word) (bad : Bool) : State := { s with hostOut := ws, hostBad := bad }

/-- The value of a byte as a tag sees it at a target. -/
def homeByte (s : State) (t : Target) (a : Nat) : Byte :=
  match t.pkg with
  | some p => cellGet ((assoc s.mem.pods p).getD []) a
  | none => visible s t.tag (atomInfo s a) (cellGet s.mem.hbm a)

/-- A write of a thread or of a copy at home: a write that poison discards is counted (R310, R391). -/
def storeHome (s : State) (grid : Nat) (t : Target) (bs : List (Nat × Byte)) (counted : Bool) : State :=
  let lost := writeLost s t bs
  let s := noteShard (writeTarget s t bs counted) t bs
  if lost then countGrid s grid 13 1 else s

/-- The VALUE records of an operation that a watch region traces, written before its write (R389, R390). -/
def traceHome (s : State) (q : SqOp) (bs : List (Nat × Byte)) : State :=
  match q.trace with
  | none => s
  | some g => if writeLost s q.tgt bs then s else valueRecords s q.grid q.tpc g q.tgt.phys (homeByte s q.tgt) bs

/-- Whether an operation goes before a release of a core: its thread's own, or one seen there (R172; notes/assumptions/135.md). -/
def SqOp.goesBefore (q : SqOp) (core : Nat) (rel : List (Nat × Nat)) : Bool :=
  rel.any fun c => q.by c.1 c.2 || (q.seenBy core q.lg && q.contrib.any fun d => decide (d.2 < c.2))

/-- Whether a release that is at home still has an operation before it that is not (R172). -/
def relOpen (ops : List SqOp) (r : Nat × List (Nat × Nat)) : Bool := ops.any fun q => q.goesBefore r.1 r.2

/-- An operation performed: it is acknowledged at PKG and POD. A release is remembered while an operation before it is not (R172). -/
def dropOp (s : State) (q : SqOp) : State :=
  withMem s fun m =>
    let ops := dropIf (sameOp q) m.ops
    { m with ops := ops, rels := (if q.isRelease then m.rels ++ [(q.core, q.contrib)] else m.rels).filter (relOpen ops) }

/-- STRAIT_WRITE: a store takes its place at its home slice and is written (R296). -/
def straitWrite (s : State) (q : Nat) : Out :=
  need (opFor s q) fun x =>
    whenOk (!x.isAtomic && x.level == 4 && firstAtGate s x && firstToPackage s x && reaches s x.tgt) <|
      .next (storeHome (traceHome (dropOp s x) x x.bytes) x.grid x.tgt x.bytes false)

/-- The old value that an atomic returns: of a wide cell the bits above the flags read as 0 (R68). -/
def oldValue (op : AtomOp) (old : List Byte) : List Byte :=
  match op with
  | .wadd => old.take 40 ++ bytesOfWord 4 (wordOfBytes ((old.drop 40).take 4) % 16)
  | _ => old

/-! The lanes of the atomic service (R362): 16 for each chiplet, FIFOs of 256 requests. -/

/-- The requests that a lane holds. -/
def laneDepth : Nat := 256

/-- The lane of an address at home: its stack, or its package, and one of 16. -/
def kettleLane (t : Target) : Nat × Nat := (lineKey t.pkg t.phys / 2 ^ 48, t.phys / 64 % 16)

/-- The operations in a lane. -/
def inLane (s : State) (l : Nat × Nat) : List SqOp := s.mem.ops.filter fun x => x.lane.isSome && kettleLane x.tgt == l

/-- The operations of a fused set that enter the lanes of one service as one block: no other set comes between them in any lane. -/
def laneBlock (s : State) (q : SqOp) : List SqOp :=
  (travels s q).filter fun x => x.lane.isNone && (kettleLane x.tgt).1 == (kettleLane q.tgt).1

/-- Whether every lane of a block has room for its operations there. -/
def laneRoom (s : State) (block : List SqOp) : Bool :=
  block.all fun x =>
    decide ((inLane s (kettleLane x.tgt)).length + (block.filter fun y => kettleLane y.tgt == kettleLane x.tgt).length ≤ laneDepth)

/-- Whether an operation that a full lane holds in the routers is granted before a block (R361, R362). -/
def laneBehind (s : State) (block : List SqOp) (q : SqOp) : Bool :=
  let key (x : SqOp) : List Nat := grantKey s.clock x.left x.slack x.seq
  s.mem.ops.any fun x => x.held && x.fset != q.fset && block.any (fun y => kettleLane x.tgt == kettleLane y.tgt) && lexLess (key x) (key q)

/-- A fused set's operations enter the lanes of their service, in ascending lane order; a full lane holds them in the routers. Those on one
line keep the order of their gates, and those to one package theirs. -/
def enterLane (s : State) (q : SqOp) : Out :=
  let block := laneBlock s q
  let mine (x : SqOp) : Bool := block.any (sameOp x)
  whenOk (block.all fun x => x.level == 4 && firstToPackage s x && reaches s x.tgt && (s.mem.ops.all fun y =>
      mine y || !(y.level == 4 && y.onLine x.tgt.pkg (lineOf x.tgt.phys) && shareUnit 4 y.core x.core && y.lane.isNone &&
        decide (y.stamps.headD 0 < x.stamps.headD 0)))) <|
    if laneRoom s block && !laneBehind s block q then
      .next (withMem s fun m =>
        { m with seq := m.seq + 1, ops := mapIf mine (fun x => { x with lane := some m.seq, held := false }) m.ops })
    else if q.held then stuck
    else .next (withMem s fun m => { m with ops := mapIf mine (fun x => { x with held := true }) m.ops })

/-- The head of a lane: the first of the operations that entered first. -/
def laneHead (s : State) (l : Nat × Nat) : Option SqOp :=
  let xs := inLane s l
  let first := leastOf (xs.filterMap (·.lane))
  xs.find? fun x => x.lane == first

/-- An atomic or reduction performed on the value at home (R180, R181). On poison it changes no byte: an atomic raises POISON, a
reduction's discard is counted (R186, R310). -/
def serveAtomic (s : State) (x : SqOp) : State :=
  match x.kind with
  | .atomic op data ret =>
    let s := dropOp s x
    let bad := x.tgt.pkg.isNone && atomsBad s x.tgt.gang x.tgt.phys x.size
    let old := (List.range x.size).map fun i => homeByte s x.tgt (x.tgt.phys + i)
    let bs := at_ x.tgt.phys (atomicNew op data old)
    let s' :=
      if bad then
        let s := closeEntries (findUe s (halvesAt x.tgt x.size)) x.tgt.pkg (lineOf x.tgt.phys)
        if ret.isSome then s else countGrid (withMem s fun m => { m with errLog := m.errLog + 1 }) x.grid 13 1
      else storeHome (traceHome s x bs) x.grid x.tgt bs true
    match ret.bind (reqFor s') with
    | some r => putReq s' { r with stage := .data (oldValue op old) bad }
    | none => if x.link && ret.isSome then answered s' (if bad then [] else packWords (oldValue op old)) bad else s'
  | _ => s

/-- The operations of a lane's head that no other access of their line comes between (R182): those of its fused set on its line, in
ascending lane order. -/
def serveSet (s : State) (x : SqOp) : List SqOp :=
  s.mem.ops.filter fun y => y.isAtomic && y.lane == x.lane && y.onLine x.tgt.pkg (lineOf x.tgt.phys)

/-- ATOMIC_SERVICE: an atomic or reduction enters its lane with its fused set; at the head of its lane it is performed, and with it the
other operations of its fused set on its line, one after another (R180 to R182, R362). -/
def atomicService (s : State) (q : Nat) : Out :=
  need (opFor s q) fun x =>
    if !x.isAtomic then stuck
    else if x.lane.isNone then enterLane s x
    else whenOk (laneHead s (kettleLane x.tgt) == some x && firstToPackage s x) (.next ((serveSet s x).foldl serveAtomic s))

/-! ### Strait entries (R294 to R297) -/

/-- The stores that a copy's read follows have not all been performed (R252). -/
def copyWaits (s : State) (r : Req) : Bool :=
  match r.copy with
  | none => false
  | some c => (s.eng.copies.find? fun x => x.id == c).any fun x => x.stores.any (stillOut s)

/-- A load that L1 may serve (R294). -/
def mayL1 (r : Req) : Bool := !r.noL1 && !r.noInstall

/-- Reads that wait at a slice's input (R295 rule 3). -/
def waitingAt (s : State) (slice : Nat) : List Req :=
  s.mem.reqs.filter fun x => x.arrived && x.stage == .atCore && sliceOf (lineKey x.tgt.pkg x.tgt.phys) == slice

/-- Whether another read that waits at the slice's input is granted first (R295, R361). -/
def readBehind (s : State) (r : Req) : Bool :=
  let key (x : Req) : List Nat := grantKey s.clock x.left x.slack x.id
  (waitingAt s (sliceOf (lineKey r.tgt.pkg r.tgt.phys))).any fun x => x.id != r.id && lexLess (key x) (key r)

/-- A core's request of a line that waits at the slice's input: a core sends at most one request of a line at a time (R294). -/
def coreWaiting (s : State) (r : Req) : Bool :=
  s.mem.reqs.any fun x => x.arrived && x.stage == .atCore && x.id != r.id && x.core == r.core && x.tgt.pkg == r.tgt.pkg &&
    lineOf x.tgt.phys == lineOf r.tgt.phys

/-- Whether a load goes to its home slice (R166): its core's sources serve none of it, or it has taken words at home (R165). -/
def goesHome (s : State) (r : Req) : Bool :=
  r.stage == .atCore && !r.atomic && r.scr.isNone && !copyWaits s r && r.promote.isEmpty && !olderUnbound s r &&
    (r.got.isSome || ((coreSource s r).isNone && (overlapping s r).isEmpty))

/-- A read counted that its slice has merged, or for which it has opened an entry (R391); of one in two steps, the first. -/
def countRead (s : State) (r : Req) (k : Nat) : State := if r.got.isSome then s else countGrid s r.grid k 1

/-- STRAIT_READ: a load that its core cannot serve reaches its home slice: it joins its core's request of the line, merges into the
line's youngest entry, opens an entry, or waits at the slice's input (R294, R295). DESIGN CHOICE (notes/assumptions/104.md): a later
miss whose core's request was overtaken by a bulk invalidation, or by the loss of the line, does not take its reply. -/
def straitRead (s : State) (id : Nat) : Out :=
  need (reqFor s id) fun r =>
    let line := lineOf r.tgt.phys
    let pkg := r.tgt.pkg
    let at' := putReq s { r with stage := .atEntry, arrived := false }
    whenOk (goesHome s r && !coreWaiting s r && packageClear s r.tgt && reaches s r.tgt) <|
      match entryWith s r.core pkg line with
      | some e =>
        whenOk (mayL1 r && !e.dirty.contains r.core && !e.noInst.contains r.core) (.next (joinEntry at' e r))
      | none =>
        whenOk (!aheadOf s r.core pkg line) <|
          match if pkg.isNone then mergeable s line else none with
          | some e => .next (countRead (joinEntry at' e r) r 7)
          | none =>
            if entryFree s pkg line && !readBehind s r then .next (countRead (openEntry at' r pkg line) r 8)
            else if r.arrived then stuck
            else .next (putReq s { r with arrived := true })

/-- A stream load's counter: merged when the reply named more than one core (R176). -/
def countStream (t : Thread) (merged : Bool) : Thread :=
  if merged then { t with cvmrg := (t.cvmrg + 1) % 2 ^ 32 } else { t with cvsolo := (t.cvsolo + 1) % 2 ^ 32 }

/-- The reply counted for a member of a convoy whose stream access it serves, while that membership lasts (R176, R274). -/
def countMember (merged : Bool) (s : State) (m : Nat × Option Nat) : State :=
  match m.2, getThread s m.1 with
  | some k, some t => if t.cv.isSome && t.cvStamp == k then putThread s (countStream t merged) else s
  | _, _ => s

/-- Whether an entry's reply gives POISON to the bytes that a request takes from it now. -/
def badReply (s : State) (e : StraitEntry) (r : Req) : Bool :=
  (List.range r.size).any fun i => r.inStep i && (entryView s e r.tgt.tag r.tgt.gang (r.tgt.phys - e.line + i) 1).2

/-- A request takes the reply of its entry under its own tag (R297, R302), or the words of its first step (R165). -/
def takeReply (s : State) (e : StraitEntry) (id : Nat) : State :=
  match reqFor s id with
  | none => s
  | some r =>
    let bs := (entryView s e r.tgt.tag r.tgt.gang (r.tgt.phys - e.line) r.size).1
    let half (o : Nat) : Bool := (entryView s e r.tgt.tag r.tgt.gang o 32).2
    if r.torn then putReq s { r with stage := .atCore, got := some (bs, badReply s e r) }
    else
      let s := putReq s { r with stage := if r.copy.isSome then .line bs [half 0, half 32]
                                          else .data (r.mixed bs) (badReply s e r || r.got.any (·.2)) }
      ((r.thread % 2 ^ 64, r.stream) :: r.mates).foldl (countMember (decide (1 < e.cores.length))) s

/-- A byte of a fill after a store that drained while it was in flight (R289): the stored byte, or, after a store under another tag,
zero in the atom that it wrote (notes/assumptions/103.md). -/
def markByte (t : Target) (key i : Nat) (b : Byte) (f : Nat × Nat × Nat × Byte) : Byte :=
  if f.2.2.1 == t.tag then (if f.2.1 == key + i then f.2.2.2 else b)
  else if atomStart t.gang f.2.1 == atomStart t.gang (key + i) then 0 else b

/-- A reply's line installed in a core's L1, with the bytes of stores that drained while it was in flight (R288, R289). A poisoned
line, a reply that a bulk invalidation overtook, and one that serves only acquires at LAYER or wider install nothing. -/
def installReply (s : State) (e : StraitEntry) (core : Nat) : State :=
  let mine := (e.reqs.filterMap (reqFor s)).filter fun r => r.core == core && !r.noInstall
  match mine.head? with
  | none => s
  | some r =>
    let (bs, bad) := entryView s e r.tgt.tag true 0 64
    if bad || e.noInst.contains core then s
    else
      let key := lineKey e.pkg e.line
      let marks := s.mem.fillMarks.filter fun f => f.1 == core && lineOf f.2.1 == key
      setL1 s core (installLine (l1Of s core)
        { line := key, tag := r.tgt.tag, bytes := bs.zipIdx.map fun (b, i) => marks.foldl (markByte r.tgt key i) b })

/-- The reply of a read of another package, under the tag of the buffer's owner: it is POISON where one of the atoms that hold the bytes is
poisoned (R296, R299, R310). -/
def linkReply (s : State) (e : StraitEntry) : State :=
  match e.link with
  | none => s
  | some (tag, o, n, gang) =>
    let (bs, bad) := entryView s e tag gang o n
    answered s (if bad then [] else packWords bs) bad

/-- STRAIT_REPLY: an entry's reply goes to every core of its mask, or to the package that reads, and the entry is freed (R296, R297). -/
def straitReply (s : State) (n : Nat) : Out :=
  need s.mem.entries[n]? fun e =>
    let s := e.cores.foldl (fun s c => installReply s e c) s
    let s := linkReply (e.reqs.foldl (fun s id => takeReply s e id) s) e
    .next (withMem s fun m =>
      { m with entries := m.entries.eraseIdx n
               fillMarks := dropIf (fun f => e.cores.contains f.1 && lineOf f.2.1 == lineKey e.pkg e.line) m.fillMarks })

/-! ### PROMOTE (R172) -/

/-- What a promoted core takes: every release performed on it, with every store that the release waited for. -/
def promoted (s : State) (core : Nat) : List Nat :=
  let rel := s.mem.ops.filter fun q => q.core == core && q.isRelease && (decide (1 ≤ q.level) || releaseMet s q)
  let past := s.mem.rels.filter fun r => r.1 == core
  (s.mem.ops.filter fun q => rel.any (fun r => r.seq == q.seq || q.goesBefore core r.contrib) || past.any fun r => q.goesBefore core r.2).map (·.seq)

/-- PROMOTE: it arrives at a core, which takes its releases; and later, when all of them are acknowledged at home, the core
acknowledges. -/
def promoteStep (s : State) (id core : Nat) : Out :=
  need (reqFor s id) fun r =>
    whenOk (getThread s r.thread).isSome <| match assoc r.promote core with
    | none => stuck
    | some none => .next (putReq s { r with promote := assocSet r.promote core (some (promoted s core)) })
    | some (some ids) =>
      whenOk (ids.all fun i => (opFor s i).isNone) (.next (putReq s { r with promote := dropIf (fun p => p.1 == core) r.promote }))

/-! ### The words of one access apart (R165) -/

/-- A store on its way whose first words go on apart from the rest: at home they are written in two steps, `hi` the later words first. -/
def splitOp (s : State) (q words : Nat) (hi : Bool) : State :=
  match opFor s q with
  | none => s
  | some x =>
    let n := x.tgt.phys + 4 * words
    let low := x.bytes.filter fun b => decide (b.1 < n)
    let high := x.bytes.filter fun b => decide (n ≤ b.1)
    if x.isAtomic || x.level == 0 || x.trace.isSome || x.tgt.phys % 4 != 0 || low.isEmpty || high.isEmpty then s
    else
      let a := { x with bytes := low, size := 4 * words }
      let b := { x with bytes := high, size := x.size - 4 * words, part := s.mem.seq + 1, tgt := { x.tgt with phys := n } }
      withMem s fun m => { m with seq := m.seq + 1, ops := m.ops.flatMap fun y => if sameOp x y then (if hi then [b, a] else [a, b]) else [y] }

/-- A request of several words that will take them in two steps: at home, or at a scratchpad bank with the rest of its fused set, all of
one address mode (R160, R164). DESIGN CHOICE (notes/assumptions/117.md): LDFRAG.T8, LDFRAG.T16 and atomics always act whole, and so does a
fused set of mixed modes; a load that its core's own sources serve takes all of its bytes there (R166). -/
def splitReq (s : State) (id words : Nat) : State :=
  match reqFor s id with
  | none => s
  | some r =>
    let n := r.size / 4
    if r.stage != .atCore || r.atomic || r.copy.isSome || r.tear != 0 || words == 0 || words == n || 2 * n ≤ words then s
    else match r.fmt, r.scr with
      | .words _, none => putReq s { r with tear := words }
      | .words _, some a =>
        let block := bankBlock s r a
        let apart := match a.kind with
          | .words _ => true
          | .store _ => true
          | _ => false
        if apart && block.all fun x => x.2.mode == a.mode then
          withMem s fun m => { m with reqs := mapIf (fun x => block.any fun y => y.1.id == x.id) (fun x => { x with tear := words }) m.reqs }
        else s
      | _, _ => s

/-! ### The steps -/

/-- LOAD_RETURN: A load's or atomic's data returns and writes its destinations. (R166) -/
def execLoadReturn (r : Nat) (s : State) : Out := loadReturn s r

/-- STORE_QUEUE_DRAIN: The oldest store-queue entry drains to the core and toward home. (R286) -/
def execStoreQueueDrain (core : Nat) (lg : Nat) (s : State) : Out := drainQueue s core lg

/-- STRAIT_READ: A read reaches its home slice and merges into an in-flight entry or opens a new one. (R295) -/
def execStraitRead (r : Nat) (s : State) : Out := straitRead s r

/-- STRAIT_WRITE: A write reaching its home slice takes its place in order and is acknowledged. (R296) -/
def execStraitWrite (q : Nat) (s : State) : Out := straitWrite s q

/-- STRAIT_REPLY: Memory's reply is multicast to every core in the entry's mask and the entry is freed. (R297) -/
def execStraitReply (e : Nat) (s : State) : Out := straitReply s e

/-- ATOMIC_SERVICE: The atomic service performs an atomic or reduction on the value at home. (R180) -/
def execAtomicService (q : Nat) (s : State) : Out := atomicService s q

/-- PROMOTE: A core takes every release performed on it and acknowledges once all are at home. (R172) -/
def execPromote (r : Nat) (core : Nat) (s : State) : Out := promoteStep s r core

/-- GATE_ACKNOWLEDGEMENT: A gate acknowledges a store, atomic or reduction at its scope. (R13) -/
def execGateAcknowledgement (q : Nat) (lvl : Nat) (s : State) : Out := gateAck s q lvl

end Sys2Proof.Machine
end

