-- ==== Sys2Proof/Machine/CopyOps.lean ====
section
/-! DEFINITION. The copy engine (R239 to R257): tensor records, the elements of a copy or drain and where they lie, acceptance, range
checks, parts and finish. -/

namespace Sys2Proof.Machine

/-! ### Global tensor records (R243, R244) -/

/-- The fields of a global tensor record. -/
structure Gtr where
  ptr : Nat
  swz : Nat
  fmt : Nat
  dim0 : Nat
  blk : Nat
  dim1 : Nat
  stride1 : Nat
  dim2 : Nat
  stride2 : Nat
  box1 : Nat
  box0 : Nat
  deriving DecidableEq, Repr

/-- The fields of the eight words of a record. -/
def decodeGtr (ws : List Word) : Gtr :=
  let w (i : Nat) : Nat := (ws.getD i 0).toNat
  { ptr := w 0 + 2 ^ 32 * w 1, swz := bitsOf (w 2) 31 28, fmt := bitsOf (w 2) 27 24, dim0 := bitsOf (w 2) 23 0, blk := bitsOf (w 3) 29 26
    dim1 := bitsOf (w 3) 23 0, stride1 := w 4, dim2 := bitsOf (w 5) 23 0, stride2 := w 6, box1 := bitsOf (w 7) 31 16, box0 := bitsOf (w 7) 15 0 }

/-- The bits of an element of a record's format. -/
def gtrBits (fmt : Nat) : Nat := [8, 8, 8, 4, 16, 16, 32, 32].getD fmt 8
/-- The width that offsets and strides are multiples of: the element's bytes, 1 for CB4. -/
def gtrWidth (fmt : Nat) : Nat := max 1 (gtrBits fmt / 8)

/-- The limits of R243. -/
def gtrOk (ws : List Word) : Bool :=
  let g := decodeGtr ws
  let w (i : Nat) : Nat := (ws.getD i 0).toNat
  bitsOf (w 3) 31 30 == 0 && bitsOf (w 5) 31 24 == 0 && decide (g.swz < 3 ∧ g.fmt < 8 ∧ g.blk < 5 ∧ 1 ≤ g.dim0 ∧ 1 ≤ g.dim1 ∧ 1 ≤ g.dim2 ∧
    1 ≤ g.box0 ∧ 1 ≤ g.box1) && (g.fmt != 3 || (g.dim0 % 2 == 0 && g.box0 % 2 == 0)) &&
    ptrOff g.ptr % gtrWidth g.fmt == 0 && g.stride1 % gtrWidth g.fmt == 0 && g.stride2 % gtrWidth g.fmt == 0

/-- Whether an element is inside a tensor. -/
def Gtr.inside (g : Gtr) (x0 x1 x2 : Nat) : Bool := decide (x0 < g.dim0 ∧ x1 < g.dim1 ∧ x2 < g.dim2)

/-- The byte offset of an element in the tensor's buffer (R244). -/
def Gtr.offset (g : Gtr) (x0 x1 x2 : Nat) : Nat := ptrOff g.ptr + x0 * gtrBits g.fmt / 8 + x1 * g.stride1 + x2 * g.stride2

/-! ### The forms (R240, R241, R251) -/

/-- A drain. -/
def CopyForm.isDrain : CopyForm → Bool
  | .mdrain => true | .mdraina => true | .mdrains => true
  | _ => false

/-- A form that adds at home. -/
def CopyForm.adds : CopyForm → Bool
  | .s2ga => true | .mdraina => true
  | _ => false

/-- A form whose source is global. -/
def CopyForm.globalSource : CopyForm → Bool
  | .g2s => true | .g2sT8 => true | .g2sT16 => true | .mc => true | .v2s => true | .g2g => true
  | _ => false

/-- A form whose destination is global. -/
def CopyForm.globalDest : CopyForm → Bool
  | .s2g => true | .s2ga => true | .g2g => true | .mdrain => true | .mdraina => true
  | _ => false

/-- Record A of a copy: the one that governs its box. -/
def Copy.gtr (c : Copy) : Gtr := decodeGtr c.recA
/-- Record B: the destination of G2G. -/
def Copy.gtrB (c : Copy) : Gtr := decodeGtr c.recB
/-- o0 or v[X3], and o1 or v[X3+1]. -/
def Copy.arg (c : Copy) (i : Nat) : Nat := (c.orig.getD i 0).toNat

/-- The format of a drain's elements at their destination, as a record format. -/
def cvtFmt (cvt : Nat) : Nat := [6, 4, 5, 1].getD cvt 6

/-- The bits of an element at its destination. -/
def Copy.bits (c : Copy) : Nat :=
  match c.form with
  | .g2g => gtrBits c.gtrB.fmt
  | .s2s => 8
  | .mdrains => gtrBits (cvtFmt c.cvt)
  | _ => gtrBits c.gtr.fmt

/-- The elements for one destination. -/
def Copy.count (c : Copy) : Nat :=
  match c.form with
  | .s2s => c.arg 0 % 2 ^ 16 * (c.arg 0 / 2 ^ 16)
  | .mdrains => c.arg 0 * c.arg 1
  | .mdrain => c.gtr.box0 * c.gtr.box1
  | .mdraina => c.gtr.box0 * c.gtr.box1
  | _ => c.gtr.box0 * c.gtr.box1 * c.gtr.dim2

/-- The bytes for one destination (R253). -/
def Copy.bytes (c : Copy) : Nat := c.count * c.bits / 8

/-- The place of a copied element: scratchpad byte, global byte, or none; with the bit at which it starts in that byte. -/
inductive Place where
  | scr (tc mode off : Nat)
  | glob (idx off : Nat)
  | tile (word : Nat)
  | none
  deriving DecidableEq, Repr

/-- Row, column and plane of element n of the box: i, j and p. -/
def Copy.ijp (c : Copy) (n : Nat) : Nat × Nat × Nat :=
  let w := match c.form with
    | .s2s => c.arg 0 % 2 ^ 16
    | .mdrains => c.arg 1
    | _ => c.gtr.box0
  let h := match c.form with
    | .s2s => c.arg 0 / 2 ^ 16
    | .mdrains => c.arg 0
    | _ => c.gtr.box1
  (n / w % h, n % w, n / w / h)

/-- A global element. -/
def globPlace (g : Gtr) (x0 x1 x2 : Nat) : Place × Nat :=
  if g.inside x0 x1 x2 then (.glob (ptrIdx g.ptr) (g.offset x0 x1 x2), x0 * gtrBits g.fmt % 8) else (.none, 0)

/-- Element j of row i of plane p in scratchpad, of a width in bits. -/
def scrPlace (w : List Word) (tc bits j i p : Nat) : Place × Nat :=
  (.scr tc (slwMode w) (slwOff w (j * bits / 8) i p), j * bits % 8)

/-- The source place of element n. -/
def Copy.source (c : Copy) (n : Nat) : Place × Nat :=
  let (i, j, p) := c.ijp n
  match c.form with
  | .s2g => scrPlace c.slwS (slwTcr c.slwS) c.bits j i p
  | .s2ga => scrPlace c.slwS (slwTcr c.slwS) c.bits j i p
  | .s2s => scrPlace c.slwS (slwTcr c.slwS) 8 j i 0
  | .mdrain => (.tile (i * 128 + j), 0)
  | .mdraina => (.tile (i * 128 + j), 0)
  | .mdrains => (.tile (i * 128 + j), 0)
  | _ => globPlace c.gtr (c.arg 0 + j) (c.arg 1 + i) p

/-- The destination place of element n at destination d. -/
def Copy.dest (c : Copy) (d n : Nat) : Place × Nat :=
  let (i, j, p) := c.ijp n
  match c.form with
  | .g2s => scrPlace c.slwD (slwTcr c.slwD) c.bits j i p
  | .v2s => scrPlace c.slwD (slwTcr c.slwD) c.bits j i p
  | .mc => scrPlace c.slwD d c.bits j i p
  | .g2sT8 => scrPlace c.slwD (slwTcr c.slwD) c.bits i j p
  | .g2sT16 => scrPlace c.slwD (slwTcr c.slwD) c.bits i j p
  | .s2s => scrPlace c.slwD (slwTcr c.slwD) 8 j i 0
  | .mdrains => scrPlace c.slwD (slwTcr c.slwD) c.bits j i 0
  | .g2g => globPlace c.gtrB j i p
  | .mdrain => globPlace c.gtr (c.arg 1 + j) (c.arg 0 + i) 0
  | .mdraina => globPlace c.gtr (c.arg 1 + j) (c.arg 0 + i) 0
  | _ => globPlace c.gtr (c.arg 0 + j) (c.arg 1 + i) p

/-- An element converted on its way (R63, R239, R251). -/
def Copy.convert (c : Copy) (x : Nat) : Nat :=
  let conv (f : Fmt) : Nat := (convertFp f c.rmode (unpack .f32 x)).1
  let byFmt (k : Nat) : Nat := match k with
    | 1 => conv .e4m3 | 4 => conv .bf16 | 5 => conv .f16
    | _ => x
  match c.form with
  | .g2g => if c.gtr.fmt == 6 && c.gtrB.fmt != 6 then byFmt c.gtrB.fmt else x
  | .mdrain => byFmt (cvtFmt c.cvt)
  | .mdrains => byFmt (cvtFmt c.cvt)
  | _ => x

/-! ### Range checks (R254) -/

/-- A range cut at multiples of 4096 of its offset. -/
def granules (off : Nat) : Nat → Nat → List (Nat × Nat)
  | 0, _ => []
  | fuel + 1, n =>
    if n == 0 then []
    else
      let k := min n (4096 - off % 4096)
      (off, k) :: granules (off + k) fuel (n - k)

/-- A copy's check of global bytes (R254): steps 2 to 6 of R155, a page that was refused being denied. -/
def copyCheck (s : State) (c : Copy) (idx off n right : Nat) : Check :=
  match checkAccess s { core := none, owner := c.owner, grid := c.grid, idx := idx, off := (off : Int), size := n, align := 1, right := right } with
  | .park pg => if unitRefused s (.copy c.id) pg then .fault .pageDenied else .park pg
  | k => k

/-- The first check of a list that does not pass. -/
def firstBad (f : Nat × Nat → Check) : List (Nat × Nat) → Option Check
  | [] => none
  | x :: xs => match f x with
    | .ok _ => firstBad f xs
    | c => some c

/-- The global ranges of a copy's box under a record from an origin, as offset and bytes: the bytes of the rows' inside elements, or, `whole`,
those that the elements fill with all of their bits. -/
def boxRanges (g : Gtr) (box0 box1 planes o0 o1 : Nat) (whole : Bool := false) : List (Nat × Nat) :=
  let w := min box0 (g.dim0 - o0)
  if w == 0 then []
  else
    (List.range planes).flatMap fun p => (List.range box1).flatMap fun i =>
      if g.inside o0 (o1 + i) p then
        let row := g.offset 0 (o1 + i) p
        let first := o0 * gtrBits g.fmt
        let stop := (o0 + w) * gtrBits g.fmt
        let a := row + if whole then (first + 7) / 8 else first / 8
        let z := row + if whole then stop / 8 else (stop + 7) / 8
        granules a (z - a) (z - a)
      else []

/-- The planes of a copy's box. -/
def Copy.planes (c : Copy) : Nat := if c.form.isDrain then 1 else c.gtr.dim2

/-- The check of the global source ranges. -/
def Copy.sourceRanges (c : Copy) : List (Nat × Nat) := boxRanges c.gtr c.gtr.box0 c.gtr.box1 c.planes (c.arg 0) (c.arg 1)

/-- The global destination ranges. -/
def Copy.destRanges (c : Copy) (whole : Bool := false) : List (Nat × Nat) :=
  match c.form with
  | .g2g => boxRanges c.gtrB c.gtr.box0 c.gtr.box1 c.planes 0 0 whole
  | .mdrain => boxRanges c.gtr c.gtr.box0 c.gtr.box1 1 (c.arg 1) (c.arg 0) whole
  | .mdraina => boxRanges c.gtr c.gtr.box0 c.gtr.box1 1 (c.arg 1) (c.arg 0) whole
  | _ => boxRanges c.gtr c.gtr.box0 c.gtr.box1 c.planes (c.arg 0) (c.arg 1) whole

/-- A scratchpad range of a layout word at a team core (R249). -/
def scrRangeOk (s : State) (c : Copy) (w : List Word) (tc rows m planes : Nat) : Bool :=
  decide (slwMode w < 3) && decide (tc < ((getTeam s c.team).map (·.cores.length)).getD 0) && slwFits w (scrBytes s c.grid) rows m planes

/-- The rows, bytes of a row and planes that a copy covers in scratchpad. -/
def Copy.scrShape (c : Copy) : Nat × Nat × Nat :=
  match c.form with
  | .s2s => (c.arg 0 / 2 ^ 16, c.arg 0 % 2 ^ 16, 1)
  | .mdrains => (c.arg 0, c.arg 1 * c.bits / 8, 1)
  | .g2sT8 => (c.gtr.box0, c.gtr.box1 * c.bits / 8, c.gtr.dim2)
  | .g2sT16 => (c.gtr.box0, c.gtr.box1 * c.bits / 8, c.gtr.dim2)
  | _ => (c.gtr.box1, c.gtr.box0 * c.bits / 8, c.gtr.dim2)

/-- The check of a copy's whole source. -/
def sourceCheck (s : State) (c : Copy) : Option Check :=
  let (r, m, p) := c.scrShape
  if c.form.globalSource then firstBad (fun x => copyCheck s c (ptrIdx c.gtr.ptr) x.1 x.2 rightR) c.sourceRanges
  else if c.form.isDrain || scrRangeOk s c c.slwS (slwTcr c.slwS) r m p then none
  else some (.fault .scratchBounds)

/-- The bytes of an atom, as offsets of a buffer that holds one of them. -/
def atomOffsets (gang : Bool) (off : Nat) : List Nat := (List.range (atomSize gang)).map (atomStart gang off + ·)

/-- The atoms that a copy will merge bytes into and whose ECC fails (R254): they give POISON, and the copy's ranges do not cover them. A
write into an atom already poisoned is discarded when it is made, with no error (R310).
Additions are reductions, and discarded one by one (R310). -/
def badChunks (s : State) (c : Copy) : List Nat :=
  if !c.form.globalDest || c.form.adds then []
  else
    let g := match c.form with
      | .g2g => c.gtrB
      | _ => c.gtr
    let covered (o : Nat) : Bool := (c.destRanges true).any fun x => decide (x.1 ≤ o ∧ o < x.1 + x.2)
    c.destRanges.flatMap fun x => [x.1, x.1 + x.2 - 1].flatMap fun o =>
      match copyCheck s c (ptrIdx g.ptr) o 1 rightW with
      | .ok t =>
        let halves := atomHalves t.gang t.phys
        if t.pkg.isNone && (halves.any fun h => ((assoc s.mem.atoms h).getD {}).ue) && !((atomOffsets t.gang o).all covered) then halves else []
      | _ => []

/-- The check of one destination's whole range. -/
def destCheck (s : State) (c : Copy) (d : Nat) : Option Check :=
  let (r, m, p) := c.scrShape
  if c.form.globalDest then
    let g := match c.form with
      | .g2g => c.gtrB
      | _ => c.gtr
    match firstBad (fun x => copyCheck s c (ptrIdx g.ptr) x.1 x.2 (if c.form.adds then rightA else rightW)) c.destRanges with
    | some k => some k
    | none => if (badChunks s c).isEmpty then none else some (.fault .poison)
  else if scrRangeOk s c c.slwD (match c.form with
      | .mc => d
      | _ => slwTcr c.slwD) r m p then none
  else some (.fault .scratchBounds)

/-! ### Copies in the engine -/

/-- A copy by its id. -/
def copyFor (s : State) (c : Nat) : Option Copy := s.eng.copies.find? fun x => x.id == c

/-- A copy put back. -/
def putCopy (s : State) (c : Copy) : State := withEng s fun e => { e with copies := mapIf (fun x => x.id == c.id) (fun _ => c) e.copies }

/-- A copy taken out. -/
def dropCopy (s : State) (c : Copy) : State :=
  let s := withMem (unitGo s (.copy c.id)) fun m => { m with reqs := dropIf (fun r => r.copy == some c.id) m.reqs }
  withEng s fun e => { e with copies := dropIf (fun x => x.id == c.id) e.copies }

/-- A failure of an accepted copy: the handle's error bit, with the first code (R254, R322). -/
def failHandle (s : State) (c : Copy) (code : FaultCode) : State :=
  match handleOf s c.team c.hnd with
  | none => s
  | some h => if h.err then s else putHandle s c.team c.hnd { h with err := true, ecode := code.num }

/-- A missing page found by a check. -/
def Check.page : Check → Option PageKey
  | .park p => some p
  | .miss p => some p
  | _ => none

/-- The code of a failing check. -/
def Check.code : Check → FaultCode
  | .fault c => c
  | _ => .pageDenied

/-- The lines of a copy's global source, as targets (R252, R255). -/
def sourceLines (s : State) (c : Copy) : List Target :=
  (c.sourceRanges.flatMap fun x =>
    ((List.range ((x.1 + x.2 + 63) / 64 - x.1 / 64)).map fun k => (x.1 / 64 + k) * 64).filterMap fun o =>
      let first := max o x.1
      match copyCheck s c (ptrIdx c.gtr.ptr) first 1 rightR with
      | .ok t => some { t with phys := lineOf t.phys }
      | _ => none).eraseDups

/-- The bytes of a chunk of a copy's destination: of the atoms of a global one (R299). -/
def copyAtom (s : State) (c : Copy) : Nat :=
  if !c.form.globalDest then 32
  else
    let g := match c.form with
      | .g2g => c.gtrB
      | _ => c.gtr
    match c.destRanges.head? with
    | none => 32
    | some x => match copyCheck s c (ptrIdx g.ptr) x.1 1 (if c.form.adds then rightA else rightW) with
      | .ok t => atomSize t.gang
      | _ => 32

/-- The requests of a copy for the lines of its source, with the slack tag of their core: its READY threads (R275, R361). -/
def postLines (s : State) (c : Copy) : State :=
  (sourceLines s c).foldl (fun s t =>
    withMem (bump s) fun m =>
      { m with reqs := m.reqs ++ [{ id := s.mem.seq, thread := c.thread + 2 ^ 64, pc := c.pc, grid := c.grid, owner := c.owner, core := c.core, lg := 4
                                    tgt := t, size := 64, fmt := .words 0, d := 0, window := 0, noL1 := true, stream := c.stream
                                    noInstall := true, copy := some c.id, left := s.clock, slack := min 255 s.ready.length }] }) s

/-- The first look of an accepted copy at its ranges (R254). A page that is missing holds the copy; a source failure gives no destination
any byte, a destination failure gives that one none. -/
def checkCopy (s : State) (c : Copy) : Out :=
  let all := sourceCheck s c :: c.dests.map (destCheck s c)
  match all.findSome? fun k => k.bind Check.page with
  | some p => unitWait s (.copy c.id) p
  | none =>
    let s := unitGo s (.copy c.id)
    match sourceCheck s c with
    | some k => .next (failHandle (putCopy s { c with checked := true, srcFail := true }) c k.code)
    | none =>
      let bad := c.dests.filterMap fun d => (destCheck s c d).map fun k => (d, k.code)
      let s := bad.foldl (fun s x => failHandle s c x.2) (findUe s (badChunks s c))
      let c' := { c with checked := true, failed := bad.map (·.1), atom := copyAtom s c }
      .next (if c.form.globalSource then postLines (putCopy s c') c' else putCopy s c')

/-! ### Parts (R252 to R254) -/

/-- A read of an element: its pattern, or that its line has not come, a page is missing, or it fails. -/
inductive ElemRes where
  | val (x : Nat)
  | late
  | bad (c : FaultCode)
  | page (p : PageKey)

/-- A pattern of some bits out of bytes. -/
def patOf (bits bitAt : Nat) (bs : List Byte) : Nat := wordOfBytes bs / 2 ^ bitAt % 2 ^ bits

/-- The bits of an element at its source. -/
def Copy.srcBits (c : Copy) : Nat := if c.form.isDrain then 32 else if c.form.globalSource then gtrBits c.gtr.fmt else c.bits

/-- The bytes that an element's read takes. -/
def Copy.srcBytes (c : Copy) : Nat := max 1 (c.srcBits / 8)

/-- Element n as its source gives it now: a line that has come, scratchpad, or the tile. -/
def readElem (s : State) (c : Copy) (n : Nat) : ElemRes :=
  match assoc c.buf n with
  | some x => .val x
  | none =>
    let (pl, bitAt) := c.source n
    match pl with
    | .none => .val 0
    | .tile w => .val (cellGet (tileOf s c.core c.tile) w).toNat
    | .scr tc mode o => match getTeam s c.team with
      | none => .bad .scratchBounds
      | some tm => .val (patOf c.srcBits bitAt (scrRead tm tc mode o c.srcBytes))
    | .glob idx off =>
      match copyCheck s c idx off c.srcBytes rightR with
      | .ok t =>
        match s.mem.reqs.find? fun r => r.copy == some c.id && r.tgt.pkg == t.pkg && r.tgt.phys == lineOf t.phys with
        | none => .late
        | some r => match r.stage with
          | .line bs bad =>
            if bad.getD (t.phys / 32 % 2) false then .bad .poison else .val (patOf c.srcBits bitAt ((bs.drop (t.phys - lineOf t.phys)).take c.srcBytes))
          | _ => .late
      | k => match k.page with
        | some p => .page p
        | none => .bad k.code

/-- Elements of a list. -/
def readElems (s : State) (c : Copy) : List Nat → Except ElemRes (List (Nat × Nat))
  | [] => .ok []
  | n :: ns =>
    match readElem s c n with
    | .val x => match readElems s c ns with
      | .ok l => .ok ((n, x) :: l)
      | e => e
    | r => .error r

/-- A byte that a copy writes: where, and the byte. -/
structure CopyByte where
  tgt : Target
  adr : Nat
  val : Byte

/-- The byte of a write so far, else the one at home. -/
def byteSoFar (s : State) (acc : List CopyByte) (t : Target) (a : Nat) : Byte :=
  match acc.find? fun b => b.adr == a && b.tgt.pkg == t.pkg with
  | some b => b.val
  | none => homeByte s t a

/-- A nibble of a byte replaced (R244). -/
def setNibble (b : Byte) (bitAt x : Nat) : Byte :=
  if bitAt == 4 then BitVec.ofNat 8 (b.toNat % 16 + 16 * x) else BitVec.ofNat 8 (b.toNat / 16 * 16 + x % 16)

/-- An element's bytes, added to a global write. -/
def addElem (s : State) (c : Copy) (acc : List CopyByte) (t : Target) (bitAt x : Nat) : List CopyByte :=
  if c.bits == 4 then { tgt := t, adr := t.phys, val := setNibble (byteSoFar s acc t t.phys) bitAt x } :: acc.filter (fun b => b.adr != t.phys || b.tgt.pkg != t.pkg)
  else ((bytesOfWord (c.bits / 8) x).zipIdx.map fun b => ({ tgt := t, adr := t.phys + b.2, val := b.1 } : CopyByte)) ++ acc

/-- A line lost by the L1 of every core of a team (R252). -/
def loseLine (s : State) (team line : Nat) : State :=
  (((getTeam s team).map (·.cores)).getD []).foldl (fun s k => suppressFills (dropL1 s k line) k (some line)) s

/-- Global bytes of a part written at home, one line at a time. -/
def writeLines (s : State) (c : Copy) (bs : List CopyByte) : State :=
  let lines := (bs.reverse.map fun b => (b.tgt.pkg, lineOf b.adr)).eraseDups
  lines.foldl (fun s l =>
    let mine := bs.filter fun b => b.tgt.pkg == l.1 && lineOf b.adr == l.2
    let cells := (mine.mergeSort fun a b => decide (a.adr ≤ b.adr)).map fun b => (b.adr, b.val)
    match mine.getLast? with
    | none => s
    | some b =>
      let t := b.tgt
      let first := (cells.head?.map (·.1)).getD t.phys
      let cad := t.cad.map fun x => (x.1, x.2.1, x.2.2 + first - t.phys)
      storeHome (loseLine s c.team l.2) c.grid { t with phys := first, cad := cad } cells false) s

/-- A 4-byte element to be added at home (R240, R251), as RED.FADD for FMT 6 and as RED.ADD for FMT 7: a request of its own to the atomic
service (R339, R362), of part k of its copy. -/
def postAdd (s : State) (c : Copy) (k : Nat) (t : Target) (x : Nat) : State :=
  let s := loseLine s c.team (lineOf t.phys)
  withMem s fun m =>
    { m with
      seq := m.seq + 1, uid := m.uid + 1
      ops := m.ops ++ [{ seq := m.seq, grid := c.grid, owner := c.owner, core := c.core, lg := 4, tgt := t, size := 4, bytes := []
                         kind := .atomic (if c.gtr.fmt == 6 then .fadd else .add) [word x] none, contrib := [], level := 4, stamps := [m.seq]
                         fset := m.uid + 1, tpc := c.pc, left := s.clock, slack := min 255 s.ready.length, copy := some (c.id, k) }] }

/-- Whether bytes to be written meet an uncorrectable error not yet found: in an atom that they do not fill, which is then read (R254, R310). -/
def meetsUe (s : State) (bs : List CopyByte) : Bool :=
  bs.any fun b => b.tgt.pkg.isNone && (atomHalves b.tgt.gang b.adr).any (fun h => ((assoc s.mem.atoms h).getD {}).ue) &&
    !((List.range (atomSize b.tgt.gang)).all fun i => bs.any fun x => x.adr == atomStart b.tgt.gang b.adr + i && x.tgt.pkg == none)

/-- The write of part k's elements at a destination: the state, and whether an uncorrectable error has been met; or the check that one of
the elements does not pass. -/
def writeElems (s : State) (c : Copy) (k d : Nat) : List (Nat × Nat) → List CopyByte → Except Check (State × Bool)
  | [], acc => .ok (writeLines s c acc, meetsUe s acc)
  | (n, x) :: r, acc =>
    let (pl, bitAt) := c.dest d n
    match pl with
    | .scr tc mode o =>
      (match getTeam s c.team with
        | none => .error (.fault .scratchBounds)
        | some tm =>
          let bs := if c.bits == 4 then [setNibble (scrByte tm tc mode o) bitAt (c.convert x)] else bytesOfWord (c.bits / 8) (c.convert x)
          writeElems (putTeam s (scrWrite tm tc mode (at_ o bs))) c k d r acc)
    | .glob idx off =>
      (match copyCheck s c idx off (max 1 (c.bits / 8)) (if c.form.adds then rightA else rightW) with
        | .ok t =>
          if c.form.adds then writeElems (postAdd s c k t x) c k d r acc else writeElems s c k d r (addElem s c acc t bitAt (c.convert x))
        | e => .error e)
    | _ => writeElems s c k d r acc

/-! A part is written in whole chunks of its destination (R253): of the atoms of global bytes (R299), and of 32 bytes of scratchpad. The clipped
elements, which are written nowhere, make one chunk more. -/

/-- The chunk of an element at a destination. -/
def Copy.chunkOf (c : Copy) (d n : Nat) : Option (Nat × Nat) :=
  match (c.dest d n).1 with
  | .scr tc _ off => some (tc, off / c.atom)
  | .glob idx off => some (idx, off / c.atom)
  | _ => none

/-- The chunks of a destination, in the order of their first elements. -/
def Copy.chunks (c : Copy) (d : Nat) : List (Option (Nat × Nat)) := ((List.range c.units).map (c.chunkOf d)).eraseDups

/-- The elements of a range of chunks. -/
def Copy.elemsIn (c : Copy) (d lo hi : Nat) : List Nat :=
  let ks := ((c.chunks d).drop lo).take (hi - lo)
  (List.range c.units).filter fun n => ks.contains (c.chunkOf d n)

/-- The elements of a destination that are written. -/
def Copy.doneAt (c : Copy) (d : Nat) : Nat := ((c.written.filter fun w => w.1 == d).map fun w => (c.elemsIn d w.2.1 w.2.2).length).sum

/-- Bytes received so far, of every destination. -/
def Copy.received (c : Copy) : Nat := (c.dests.map fun d => c.doneAt d * c.bits / 8).sum

/-- Bytes added to a handle's received count (R253, R322). -/
def receive (s : State) (c : Copy) (n : Nat) : State :=
  match handleOf s c.team c.hnd with
  | none => s
  | some h =>
    let h' := { h with rcv := (h.rcv + n) % 2 ^ 24 }
    setHandle s c.team c.hnd h (if h.state == 1 && h'.rcv == h.exp then { h' with state := 2 } else h')

/-- Elements that the engine has read are kept for a drain, whose thread's wait ends when all of them are read (R235, R236). -/
def keepRead (s : State) (c : Copy) (xs : List (Nat × Nat)) : State :=
  let buf := c.buf ++ xs.filter fun x => (assoc c.buf x.1).isNone
  let all := c.form.isDrain && !c.readDone && decide (c.units ≤ buf.length)
  let s := putCopy s { c with buf := buf, readDone := c.readDone || all }
  if all then threadMatDone s c.thread else s

/-- A copy stopped by an error while it moves bytes. -/
def stopCopy (s : State) (c : Copy) (code : FaultCode) : State := failHandle (putCopy s { c with stopped := true }) c code

/-- The stores that a copy follows are performed, and a drain's earlier matrix operations (R236, R252). -/
def copyMayMove (s : State) (c : Copy) : Bool := c.after == 0 && !c.stores.any (stillOut s)

/-- Whether the writes of elements may be sent: another package takes them after this one's earlier requests to it (R424). -/
def sendable (s : State) (c : Copy) (d : Nat) (ns : List Nat) : Bool :=
  ns.all fun n => match (c.dest d n).1 with
    | .glob idx off => match copyCheck s c idx off (max 1 (c.bits / 8)) (if c.form.adds then rightA else rightW) with
      | .ok t => c.form.adds || (packageClear s t && reaches s t)
      | _ => true
    | _ => true

/-- The destination number that names the engine's own reading of elements, before any of them is written (R236). -/
def readAhead : Nat := 8

/-- A copy that its core's engine accepted before has still to start: the engine serves its queue in order of acceptance (R363). -/
def copyBehind (s : State) (c : Copy) : Bool :=
  (s.eng.copies.takeWhile fun x => x.id != c.id).any fun x =>
    x.core == c.core && x.accepted && !x.checked && !x.stopped && !(s.mem.parks.any fun p => p.unit == .copy x.id)

/-- A part written, and its bytes counted (R253). -/
def partDone (s : State) (c : Copy) (d lo hi : Nat) : State :=
  let c' := { c with written := c.written ++ [(d, lo, hi)] }
  receive (putCopy (unitGo s (.copy c.id)) c') c (c'.received - c.received)

/-- Elements read for a part, or what their reading meets instead. -/
def withElems (s : State) (c : Copy) (ns : List Nat) (go : List (Nat × Nat) → Out) : Out :=
  match readElems s c ns with
  | .error (.page p) => unitWait s (.copy c.id) p
  | .error (.bad k) => .next (stopCopy s c k)
  | .error _ => stuck
  | .ok xs => go xs

/-- A part's elements written; a part of additions is written once the atomic service has performed them. -/
def writePart (s : State) (c : Copy) (d lo hi : Nat) (xs : List (Nat × Nat)) : Out :=
  let s := if c.form.isDrain then keepRead s c xs else s
  match writeElems s c s.mem.seq d xs [] with
  | .error e => match e.page with
    | some p => unitWait s (.copy c.id) p
    | none => .next (stopCopy s c e.code)
  | .ok (s', ue) => need (copyFor s' c.id) fun c' =>
    if ue then .next (stopCopy s' c' .poison)
    else if c.form.adds then .next (putCopy (unitGo s' (.copy c.id)) { c' with adding := c'.adding ++ [(s.mem.seq, d, lo, hi)] })
    else .next (partDone s' c' d lo hi)

/-- A range of chunks of a destination that no part has taken yet. -/
def partFree (s : State) (c : Copy) (d lo hi : Nat) : Bool :=
  copyMayMove s c && decide (lo < hi ∧ hi ≤ (c.chunks d).length) && c.dests.contains d && !c.failed.contains d &&
    (c.written ++ c.adding.map (·.2)).all fun w => w.1 != d || decide (hi ≤ w.2.1 ∨ w.2.2 ≤ lo)

/-- Whether every element of a part goes to another package (R424). -/
def goesAway (s : State) (c : Copy) (d : Nat) (ns : List Nat) : Bool :=
  ns.all fun n => match (c.dest d n).1 with
    | .glob idx off => match copyCheck s c idx off (max 1 (c.bits / 8)) rightW with
      | .ok t => t.pkg.isSome
      | _ => false
    | _ => false

/-- A part of a copy's writes to another package that has found no path: it is dropped and counted, and the copy goes on (R424). -/
def losePart (s : State) (id d lo hi : Nat) : Out :=
  need (copyFor s id) fun c =>
    whenOk (c.accepted && c.checked && !c.srcFail && !c.stopped && !c.form.adds && partFree s c d lo hi && goesAway s c d (c.elemsIn d lo hi)) <|
      withElems s c (c.elemsIn d lo hi) fun xs =>
        let s := withMem (if c.form.isDrain then keepRead s c xs else s) fun m => { m with errLog := m.errLog + 1 }
        need (copyFor s id) fun c' => .next (partDone s c' d lo hi)

/-- COPY_PART_WRITTEN: the first look at the ranges; then elements lo to hi are read into the engine, or chunks lo to hi written at a
destination, where they count toward the handle. -/
def copyPart (s : State) (id d lo hi : Nat) : Out :=
  need (copyFor s id) fun c =>
    whenOk (c.accepted && !c.srcFail && !c.stopped) <|
      if !c.checked then whenOk (!copyBehind s c) (checkCopy s c)
      else if d == readAhead then
        whenOk (copyMayMove s c && decide (lo < hi ∧ hi ≤ c.units)) <|
          withElems s c ((List.range (hi - lo)).map (lo + ·)) fun xs => .next (keepRead s c xs)
      else match c.adding.find? fun p => p.2 == (d, lo, hi) with
        | some p =>
          whenOk (s.mem.ops.all fun q => q.copy != some (id, p.1)) <|
            .next (partDone s { c with adding := dropIf (· == p) c.adding } d lo hi)
        | none =>
          whenOk (partFree s c d lo hi && sendable s c d (c.elemsIn d lo hi)) <|
            withElems s c (c.elemsIn d lo hi) (writePart s c d lo hi)

/-- Whether a copy has written every byte that it will write; one that an error has stopped has no addition on its way. -/
def Copy.finished (c : Copy) : Bool :=
  c.accepted && (c.srcFail || c.stopped || (c.checked && c.dests.all fun d => c.failed.contains d || c.doneAt d == c.units))

/-- A handle after a finish (R322): INFL falls, and with ERR set the last one makes it FULL. -/
def handleFinish (s : State) (c : Copy) : State :=
  match handleOf s c.team c.hnd with
  | none => s
  | some h =>
    let h' := { h with infl := h.infl - 1 }
    setHandle s c.team c.hnd h (if h.err && h'.infl == 0 && decide (h.state ≤ 1) then { h' with state := 2 } else h')

/-- COPY_FINISH: a copy or drain finishes. -/
def copyFinish (s : State) (id : Nat) : Out :=
  need (copyFor s id) fun c =>
    whenOk c.finished <|
      let s := handleFinish (dropCopy s c) c
      .next (match getThread s c.thread with
        | none => s
        | some t => putThread s (if c.form.isDrain then (if c.readDone then t else matDone t)
                                 else { t with outCopy := { t.outCopy with count := t.outCopy.count - 1 } }))

/-! ### Acceptance (R245 to R247, R252, R253) -/

/-- What a record fetch gives. -/
inductive RecRes where
  | ok (s : State) (ws : List Word)
  | fault (s : State) (c : FaultCode)
  | page (p : PageKey)
  | miss (p : PageKey)

/-- A record taken from the core's record cache, or read from home with the owner's rights into the cache. A poisoned record raises POISON
(R310; notes/assumptions/81.md). -/
def fetchRecord (s : State) (c : Copy) (ptr : Option (Nat × Nat)) : RecRes :=
  match ptr with
  | none => .ok s []
  | some (idx, off) =>
    let key := faultAddr idx off
    if off % 32 != 0 then .fault s .misaligned
    else match s.mem.recs.find? fun r => r.core == c.core && r.owner == c.owner && r.ptr == key with
      | some r => .ok s r.words
      | none =>
        let s := cacheBuf s c.core c.owner idx
        match checkAccess s { core := some c.core, owner := c.owner, grid := c.grid, idx := idx, off := (off : Int), size := 32, align := 32, right := rightR } with
        | .fault k => .fault (dropTlb s c.core (fun p => p.owner == c.owner) WalkResult.isDenied) k
        | .park p => .page p
        | .miss p => .miss p
        | .ok t =>
          let (bs, bad) := readTarget s t 0 32
          if bad then .fault (foundAt s t 32) .poison
          else .ok (withMem s fun m => { m with recs := m.recs ++ [{ core := c.core, owner := c.owner, ptr := key, words := wordsOf bs }] }) (wordsOf bs)

/-- A copy that has a layout word for its destination, and one for its source. -/
def CopyForm.hasSlwD : CopyForm → Bool
  | .g2s => true | .g2sT8 => true | .g2sT16 => true | .mc => true | .v2s => true | .s2s => true | .mdrains => true
  | _ => false
/-- A layout word for the source. -/
def CopyForm.hasSlwS : CopyForm → Bool
  | .s2g => true | .s2ga => true | .s2s => true
  | _ => false

/-- The formats that a form allows. -/
def formatsOk (c : Copy) : Bool :=
  let f := c.gtr.fmt
  match c.form with
  | .g2sT8 => decide (f ≤ 2)
  | .g2sT16 => f == 4 || f == 5
  | .s2ga => f == 6 || f == 7
  | .mdraina => f == 6 || f == 7
  | .mdrain => if c.cvt == 0 then f == 6 || f == 7 else f == cvtFmt c.cvt
  | .g2g => f == c.gtrB.fmt || (f == 6 && (c.gtrB.fmt == 1 || c.gtrB.fmt == 4 || c.gtrB.fmt == 5))
  | _ => true

/-- The checks of a copy's operands and records at acceptance (R240, R241, R247, R249, R251). -/
def copyFault (s : State) (c : Copy) : Option FaultCode :=
  let swzBad (w : List Word) : Bool := (c.gtr.swz == 1 || c.gtr.swz == 2) && c.gtr.swz != slwMode w
  if (c.ptrA.isSome && !gtrOk c.recA) || (c.ptrB.isSome && !gtrOk c.recB) then some .illegalOperand
  else if (c.form.hasSlwD && !slwReservedOk c.slwD) || (c.form.hasSlwS && !slwReservedOk c.slwS) then some .illegalOperand
  else if c.ptrA.isSome && ((c.form.hasSlwD && swzBad c.slwD) || (c.form.hasSlwS && swzBad c.slwS)) then some .illegalOperand
  else if c.ptrA.isSome && !formatsOk c then some .illegalOperand
  else match c.form with
    | .mdrain => if 128 < c.gtr.box0 || 96 < c.gtr.box1 then some .illegalOperand else none
    | .mdraina => if 128 < c.gtr.box0 || 96 < c.gtr.box1 then some .illegalOperand else none
    | .mdrains =>
      let (r, m, p) := c.scrShape
      if c.arg 0 == 0 || 96 < c.arg 0 || c.arg 1 == 0 || 128 < c.arg 1 then some .illegalOperand
      else if !scrRangeOk s c c.slwD (slwTcr c.slwD) r m p then some .scratchBounds else none
    | .mc => if slwTcr c.slwD != 0 then some .illegalOperand else none
    | .s2s => if c.arg 0 % 2 ^ 16 == 0 || c.arg 0 / 2 ^ 16 == 0 then some .illegalOperand else none
    | _ => none

/-- The destinations of a copy. -/
def Copy.destList (c : Copy) : List Nat :=
  match c.form with
  | .mc => (List.range 8).filter fun t => bitOf c.cmask t
  | _ => [0]

/-- The stores that have left their store queues, of a thread or seen by it, and its scratchpad accesses on their way (R252): what goes before a
store of the thread goes before its copy too (R396; notes/assumptions/135.md). -/
def leftStores (s : State) (t : Thread) : List Nat :=
  (s.mem.ops.filter fun q => decide (1 ≤ q.level) && !q.contrib.isEmpty && (q.contrib.any (fun k => k.1 == t.key) || q.seenBy t.core t.lg)).map (·.seq) ++
    (s.mem.reqs.filter fun r => r.serves t.key && r.atBank.isSome).map (·.id)

/-- A copy that does not get accepted: it is gone, and its thread raises the fault precisely; POISON of a record is late (R408 Table 1). -/
def refuseCopy (s : State) (c : Copy) (t : Thread) (code : FaultCode) (addr : Nat) : Out :=
  .next (putThread (dropCopy s c)
    (faulted { t with blen := 0, stepped := false } { code := code, late := code == .poison, tpc := t.pc, addr := addr }))

/-- A copy that meets a missing page at its record: its thread is parked, and issues it again (R247, R409). -/
def parkCopy (s : State) (c : Copy) (t : Thread) (p : PageKey) (addr : Nat) : Out :=
  .next (parkOn (dropTlb (dropCopy s c) c.core (· == p) WalkResult.isMissing) { t with blen := 0 } p addr)

/-- A copy accepted, the last of its core's queue (R253, R363). -/
def takeCopy (s : State) (c : Copy) (t : Thread) (h : Handle) : Out :=
  let c' := { c with accepted := true, units := c.count, dests := c.destList, stores := leftStores s t, started := s.clock
                     after := if c.form.isDrain then (s.eng.matq.filter fun x => x.1 == c.core).length else 0 }
  let n := c.bytes * c'.dests.length
  let s := withEng s fun e => { e with copies := dropIf (fun x => x.id == c.id) e.copies ++ [c'] }
  let s := setHandle s c.team c.hnd h { h with state := 1, rsv := h.rsv + n, infl := h.infl + 1 }
  let t1 := { counted t with stepped := false }
  .next (putThread s (unblock s (if c.form.isDrain then { t1 with outMatrix := { count := t.outMatrix.count + 1, pc := t.pc } }
    else { t1 with outCopy := { count := t.outCopy.count + 1, pc := t.pc } })))

/-- The tests of the handle at acceptance, then the acceptance, unless INFL or the copy queue is full. -/
def acceptHandle (s : State) (c : Copy) (t : Thread) : Out :=
  let n := c.bytes * c.destList.length
  match handleOf s c.team c.hnd with
  | none => refuseCopy s c t .handle 0
  | some h =>
    if h.err || decide (2 ≤ h.state) || decide (h.exp < h.rsv + n) then refuseCopy s c t .handle 0
    else whenOk (decide (h.infl < 255) && decide ((s.eng.copies.filter fun x => x.core == c.core && x.accepted).length < 64)) (takeCopy s c t h)

/-- A record that a copy needs, then the rest. -/
def withRecord (s : State) (c : Copy) (t : Thread) (ptr : Option (Nat × Nat)) (k : State → List Word → Out) : Out :=
  match fetchRecord s c ptr with
  | .ok s ws => k s ws
  | .fault s f => refuseCopy s c t f ((ptr.map fun p => faultAddr p.1 p.2).getD 0)
  | .page p => parkCopy s c t p ((ptr.map fun p => faultAddr p.1 p.2).getD 0)
  | .miss p => whenOk (!s.mem.miss.contains (c.core, p) && decide ((s.mem.miss.filter fun x => x.1 == c.core).length < 256))
      (.next (withMem s fun m => { m with miss := m.miss ++ [(c.core, p)] }))

/-- COPY_ACCEPT: the engine fetches and checks a copy's records and handle. DESIGN CHOICE (notes/assumptions/140.md): CPY.G2G's source
record is fetched first, and its destination record before the fields of either are tested; R247 names no order for two faulty records. -/
def copyAccept (s : State) (id : Nat) : Out :=
  need (copyFor s id) fun c => need (getThread s c.thread) fun t =>
    whenOk (!c.accepted && t.st == .blocked .copyAccept) <|
      withRecord s c t c.ptrA fun s ra => withRecord s c t c.ptrB fun s rb =>
        let c := { c with recA := ra, recB := rb }
        match copyFault s c with
        | some f => refuseCopy s c t f (if f == .scratchBounds then slwWord c.slwD 0 else 0)
        | none => acceptHandle s c t

/-! ### Issue -/

/-- The index and offset of a record pointer b[BS] + v[X2] (R154). -/
def recPtr (t : Thread) (bs : BitVec 3) (x : Reg) : Nat × Nat :=
  (ptrIdx (rdB t bs.toNat).toNat, ptrOff (rdB t bs.toNat).toNat + (rdV t x.toNat).toNat)

/-- A copy as a thread issues it. -/
def newCopy (s : State) (t : Thread) (form : CopyForm) (h : Nat) (x3 : Reg) : Copy :=
  { id := s.mem.uid, thread := t.key, grid := t.grid, owner := ownerOf s t.grid, team := t.team, core := t.core, form := form, pc := t.pc
    hnd := h, orig := rdMany t x3.toNat 2, rmode := t.rmode }

/-- A copy or drain issued: the thread is WAITING until the engine accepts it. -/
def postCopy (i : Instr) (s : State) (t0 t : Thread) (c : Copy) : Out :=
  let s := withEng (withMem s fun m => { m with uid := m.uid + 1 }) fun e => { e with copies := e.copies ++ [c] }
  .next (putThread s { blockOn i t0 .copyAccept with lastIssue := t.lastIssue, issuePc := t.issuePc, readySince := t.readySince, skipBrk := false })

/-- A copy or drain instruction; `mk` completes its operands. -/
def copyOp (i : Instr) (s : State) (form : CopyForm) (h : BitVec 6) (x3 : Reg) (mk : Thread → Copy → Copy) : Out :=
  issue i s fun s t => postCopy i s (unissued s t) t (mk t (newCopy s t form h.toNat x3))

/-- CPY.MC: a destination core that the team has not, or none, is illegal (R99), which is found before LOOKAHEAD (R90 step 5). -/
def copyMcOp (i : Instr) (s : State) (h : BitVec 6) (x3 : Reg) (cmask : BitVec 8) (mk : Thread → Copy → Copy) : Out :=
  need (getThread s s.cur) fun t =>
    let n := ((getTeam s t.team).map (·.cores.length)).getD 0
    let bad := cmask == 0 || decide (2 ^ n ≤ cmask.toNat)
    if bad && t.st == .ready && issueCheck i t == .bad .lookahead then raise s t .illegalOperand
    else issue i s fun s t =>
      if bad then raise s (unissued s t) .illegalOperand
      else postCopy i s (unissued s t) t { mk t (newCopy s t .mc h.toNat x3) with cmask := cmask.toNat }

/-- CPY.V2S: the convoy test and step at issue (R255, R175), once for the issued instruction. -/
def copyV2sOp (i : Instr) (s : State) (h : BitVec 6) (x3 : Reg) (mk : Thread → Copy → Copy) : Out :=
  issue i s fun s t =>
    let t0 := unissued s t
    if !t.stepped && convoyHolds s t then .next (holdConvoy s t0)
    else
      let s1 := if t.stepped then s else stepConvoy s t
      postCopy i s1 { t0 with stepped := t.cv.isSome } t { mk t (newCopy s1 t .v2s h.toNat x3) with stream := t.cv.map fun _ => t.cvStamp }

/-- GTRINV (R245): the address is checked, then the record leaves the cache once the thread's stores are acknowledged. -/
def gtrinvOp (i : Instr) (s : State) (bs : BitVec 3) (x2 : Reg) : Out :=
  poll i s fun s t =>
    let t0 : Thread := { unissued s t with st := .ready }
    let owner := ownerOf s t.grid
    let (idx, off) := recPtr t bs x2
    let valid := (ownerRec s owner).isSome && (idx == 1 || (bufFor s (some t.core) owner idx).any (bufValid s owner))
    if off % 32 != 0 then raise s t0 .misaligned 0 (faultAddr idx off)
    else if !valid then raise s t0 .bufIndex 0 (faultAddr idx off)
    else if !storesAcked s t.key s.mem.seq 5 then pollBlock i s t
    else .next (retire i (withMem s fun m => { m with recs := dropIf (fun r => r.core == t.core && r.owner == owner && r.ptr == faultAddr idx off) m.recs }) t)

/-- CPYWAIT (R256). -/
def cpywaitOp (i : Instr) (s : State) : Out :=
  poll i s fun s t =>
    if s.eng.copies.any fun c => c.thread == t.key && !c.form.isDrain then pollBlock i s t
    else .next (acquireAt (retire i s t) t.core 5)

end Sys2Proof.Machine
end

