-- ==== Sys2Proof/Machine/NearMemOps.lean ====
section
/-! DEFINITION. The near-memory engine (R258 to R263): the command and its checks, sending, steps and the completion record. -/

namespace Sys2Proof.Machine

/-! ### The command (R258) -/

/-- OP of a command. -/
def nmOp (ws : List Word) : Nat := (ws.getD 0 0).toNat % 2 ^ 8
/-- COUNT of a command. -/
def nmCount (ws : List Word) : Nat := (ws.getD 1 0).toNat
/-- DST. -/
def nmDst (ws : List Word) : Nat := natOfWords ((ws.drop 2).take 2)
/-- SRCA. -/
def nmSrc (ws : List Word) : Nat := natOfWords ((ws.drop 4).take 2)
/-- w6 and w7 as patterns. -/
def nmScalar (ws : List Word) (i : Nat) : Nat := (ws.getD i 0).toNat
/-- FILL reads no source. -/
def nmFill (ws : List Word) : Bool := nmOp ws == 4

/-- The operands of a command: a pointer and whether it is the destination. -/
def nmOperands (ws : List Word) : List (Nat × Bool) := if nmFill ws then [(nmDst ws, true)] else [(nmDst ws, true), (nmSrc ws, false)]

/-- The buffer entry of an operand, when it is valid (R317). -/
def nmEntry (s : State) (core owner p : Nat) : Option BufEntry :=
  (bufFor s (some core) owner (ptrIdx p)).bind fun ws => if bufValid s owner ws && ptrIdx p != 0 then some (decodeBuf ws) else none

/-- An operand's own tests (R259): offset, mode STACK, rights, owner and bounds. -/
def nmOperandOk (s : State) (core owner bytes : Nat) (x : Nat × Bool) : Bool :=
  (nmEntry s core owner x.1).any fun e =>
    ptrOff x.1 % 64 == 0 && e.kind == 0 && e.mode == 1 && bitOf e.rights rightN && bitOf e.rights (if x.2 then rightW else rightR) &&
      e.owner == owner && decide (ptrOff x.1 + bytes ≤ e.len)

/-- The tests that raise NM (R259). -/
def nmOk (s : State) (core owner : Nat) (ws : List Word) : Bool :=
  let homes := (nmOperands ws).map fun x => (nmEntry s core owner x.1).map (·.stk)
  decide ((ws.getD 0 0).toNat < 2 ^ 8 ∧ 1 ≤ nmOp ws ∧ nmOp ws ≤ 4 ∧ 1 ≤ nmCount ws ∧ nmCount ws ≤ 16777216) &&
    (!nmFill ws || nmSrc ws == 0) && (nmOperands ws).all (nmOperandOk s core owner (4 * nmCount ws)) &&
    homes.all (· == homes.headD none)

/-- The accesses of an operand's lines. -/
def nmLines (owner grid core p count : Nat) : List Access :=
  (List.range ((count + 15) / 16)).map fun l =>
    { core := some core, owner := owner, grid := grid, idx := ptrIdx p, off := (ptrOff p + 64 * l : Nat), size := min 64 (4 * count - 64 * l)
      align := 1, right := rightN }

/-- The first line whose translation is not at hand, with its check. -/
def nmUntranslated (s : State) : List Access → Option (Access × Check)
  | [] => none
  | a :: as => match checkAccess s a with
    | .ok _ => nmUntranslated s as
    | c => some (a, c)

/-- The target of a checked line. -/
def nmTarget (s : State) (a : Access) : Option Target :=
  match checkAccess s a with
  | .ok t => some t
  | _ => none

/-- The page that an access reaches. -/
def accessPage (s : State) (a : Access) : Option PageKey :=
  (bufFor s a.core a.owner a.idx).map fun ws => let e := decodeBuf ws
    pageOf a.owner (e.base + a.off.toNat) e.psz

/-- PIN of the leaves of pages as the commands hold them now (R259, R319). -/
def pinPages (s : State) (ps : List PageKey) : State :=
  ps.foldl (fun s p =>
    match walkSlot s p.owner p.va p.psz with
    | none => s
    | some o =>
      let pte := memNat s.mem.tbl o 8
      let held := s.eng.nm.any fun c => c.pages.contains p
      let pte' := if bitOf pte 7 == held then pte else if held then pte + 2 ^ 7 else pte - 2 ^ 7
      withMem s fun m => { m with tbl := memWrite m.tbl o (bytesOfWord 8 pte') }) s

/-- NMC (R259): the record's address, the command, and every page of its operands are checked; the thread is WAITING until it is sent. DESIGN
CHOICE (notes/assumptions/141.md): of several pages that are missing or refused, the first in the order of DST's lines, then SRCA's, decides
between PAGE and PAGE_DENIED. -/
def nmcOp (i : Instr) (s : State) (bs : BitVec 3) (x1 x2 : Reg) : Out :=
  issue i s fun s t =>
    let acc := gAccess s t bs x2 0 16 16 rightW
    withAccess s (unissued s t) acc fun s record =>
      let ws := rdMany t x1.toNat 8
      let t0 := unissued s t
      if !nmOk s t.core acc.owner ws then raise s t0 .nm
      else
        let lines (p : Nat) : List Access := nmLines acc.owner t.grid t.core p (nmCount ws)
        let src := if nmFill ws then [] else lines (nmSrc ws)
        match nmUntranslated s (lines (nmDst ws) ++ src) with
        | some (a, .fault c) => raise (dropTlb s t.core (fun p => p.owner == a.owner) WalkResult.isDenied) t0 c 0 (faultAddr a.idx a.off)
        | some (_, .miss p) => missed s t.core p
        | some (a, .park p) => .next (parkOn (dropTlb s t.core (· == p) WalkResult.isMissing) t0 p (faultAddr a.idx a.off))
        | some (_, .ok _) => stuck
        | none =>
          let c : NmCmd :=
            { id := s.mem.uid, thread := t.key, grid := t.grid, owner := acc.owner, core := t.core
              stack := ((nmEntry s t.core acc.owner (nmDst ws)).map (·.stk)).getD 0, words := ws
              dst := (lines (nmDst ws)).filterMap (nmTarget s), srcA := src.filterMap (nmTarget s), record := record
              after := s.mem.seq, pages := ((acc :: lines (nmDst ws) ++ src).filterMap (accessPage s)).eraseDups, pc := t.pc }
          let s := withEng (withMem s fun m => { m with uid := m.uid + 1 }) fun e => { e with nm := e.nm ++ [c] }
          .next (putThread (pinPages s c.pages) (blockOn i t .nmcSend))

/-! ### The engine -/

/-- A command by its id. -/
def nmFor (s : State) (n : Nat) : Option NmCmd := s.eng.nm.find? fun c => c.id == n

/-- A command put back. -/
def putNm (s : State) (c : NmCmd) : State := withEng s fun e => { e with nm := mapIf (fun x => x.id == c.id) (fun _ => c) e.nm }

/-- NMC_SEND (R259, R363): once the thread's earlier stores are acknowledged at home, and the stack's queue has room. -/
def nmSend (s : State) (n : Nat) : Out :=
  need (nmFor s n) fun c => need (getThread s c.thread) fun t =>
    whenOk (!c.sent && t.st == .blocked .nmcSend && storesAcked s c.thread c.after 5 &&
        decide ((s.eng.nm.filter fun x => x.stack == c.stack && x.sent).length < 64)) <|
      .next (putThread (putNm s { c with sent := true }) (unblock s { t with outCopy := { count := t.outCopy.count + 1, pc := t.pc } }))

/-- The new value of an element (R258 Table 12). -/
def nmElem (ws : List Word) (d a : Nat) : Nat :=
  let neg (x : Nat) : Nat := (x + 2 ^ 31) % 2 ^ 32
  match nmOp ws with
  | 1 => (fpMul .f32 a (nmScalar ws 6)).1
  | 2 => (fpFma .f32 (nmScalar ws 6) a d).1
  | 3 => let t := (fpFma .f32 (nmScalar ws 7) d a).1
    (fpFma .f32 (neg (nmScalar ws 6)) t d).1
  | _ => nmScalar ws 6

/-- The 32-byte halves of an operand's line, all of which a step reads (R260). -/
def nmHalves (t : Target) : List Nat := [lineOf t.phys / 32, lineOf t.phys / 32 + 1]

/-- The halves of the atom that FILL covers only in part. -/
def nmPartial (t : Target) (bytes : Nat) : List Nat :=
  let n := atomSize t.gang
  if bytes % n == 0 then [] else atomHalves t.gang (t.phys + bytes - 1)

/-- A command done: its record is written at home (R262), and the thread's count falls. -/
def nmRecord (s : State) (c : NmCmd) : State :=
  let ws : List Word := [if c.stopped then 1 else 0, word (if c.stopped then c.next else nmCount c.words), word (nmOp c.words), 0]
  let s := storeHome s c.grid c.record (at_ c.record.phys (bytesOf ws)) false
  let s := withEng s fun e => { e with nm := dropIf (fun x => x.id == c.id) e.nm }
  onThread (pinPages s c.pages) c.thread fun t => { t with outCopy := { t.outCopy with count := t.outCopy.count - 1 } }

/-- One step of 16 elements (R260, R261). -/
def nmAdvance (s : State) (c : NmCmd) : Out :=
  need c.dst[c.next / 16]? fun d =>
    let k := min 16 (nmCount c.words - c.next)
    let src := c.srcA[c.next / 16]?
    let read := if nmFill c.words then nmPartial d (4 * k)
      else nmHalves d ++ (src.map nmHalves).getD []
    if read.any fun h => ((assoc s.mem.atoms h).getD {}).bad then .next (putNm (findUe s read) { c with stopped := true })
    else
      let word4 (t : Target) (i : Nat) : Nat := wordOfBytes ((List.range 4).map fun b => homeByte s t (t.phys + 4 * i + b))
      let bs := (List.range k).flatMap fun i =>
        bytesOfWord 4 (nmElem c.words (word4 d i) ((src.map fun t => word4 t i).getD 0))
      .next (putNm (storeHome s c.grid d (at_ d.phys bs) false) { c with next := c.next + k })

/-- Whether an earlier command of the thread to the same stack is still to be performed (R260). -/
def nmBehind (s : State) (c : NmCmd) : Bool :=
  (s.eng.nm.takeWhile fun x => x.id != c.id).any fun x => x.thread == c.thread && x.stack == c.stack

/-- NM_STEP: the next step of a command, or its completion record. -/
def nmStepOp (s : State) (n : Nat) : Out :=
  need (nmFor s n) fun c =>
    whenOk (c.sent && !nmBehind s c) <|
      if c.stopped || decide (nmCount c.words ≤ c.next) then .next (nmRecord s c) else nmAdvance s c

/-- NMWAIT (R263). -/
def nmwaitOp (i : Instr) (s : State) : Out :=
  poll i s fun s t =>
    if s.eng.nm.any fun c => c.thread == t.key then pollBlock i s t else .next (acquireAt (retire i s t) t.core 5)

end Sys2Proof.Machine
end

