-- ==== Sys2Proof/Machine/FmOps.lean ====
section
/-! DEFINITION. The management functions (R336 to R338): events, reports and questions, and the decisions that device steps take
under them. -/

namespace Sys2Proof.Machine

/-- The clocks of a number of microseconds, at the nominal clock (R333). -/
def clocksOfUs (us : Nat) : Nat := 600 * us

/-- TSLICE in clocks (R347). -/
def tslice : Nat := 1200000

/-- A function's entry. -/
def fnMode (s : State) (fn : Nat) : FnMode := s.disp.fnModes.getD fn {}

/-- A function's mode: HOST only while its queue is an enabled HOSTEV queue of owner 0 (R337). -/
def fnHost (s : State) (fn : Nat) : Bool := (fnMode s fn).host && (eventQueue s (fnMode s fn).evq).isSome

/-- The words of an event (R337). -/
def eventWords (fn seq : Nat) (args : List Nat) (hw : Nat) : List Word :=
  word (fn + 256 * seq) :: ((args ++ List.replicate 5 0).take 5).map word ++ [word hw, 0]

/-- An event posted on a function's queue: the state, and its sequence number when it was posted. -/
def postEvent (s : State) (fn : Nat) (args : List Nat) (hw : Nat) : State × Option Nat :=
  let n := s.disp.fnSeq.getD fn 0
  match devicePush s (fnMode s fn).evq [eventWords fn n args hw] none with
  | (s', true) => (withDisp s' fun d => { d with fnSeq := putAt 0 d.fnSeq fn ((n + 1) % 2 ^ 24) }, some n)
  | (s', false) => (s', none)

/-- A report of what the device does (R336, R337). -/
def report (s : State) (fn : Nat) (args : List Nat) (hw : Nat) : State := (postEvent s fn args hw).1

/-- The question that is open on a matter. -/
def openOn (s : State) (q : Question) : Option OpenQ := s.disp.openQs.find? fun x => x.what == q

/-- A question forgotten. -/
def dropQ (s : State) (q : Question) : State := withDisp s fun d => { d with openQs := dropIf (fun x => x.what == q) d.openQs }

/-- A decision by a function (R337, R338). In HW mode, with a timeout of 0, or when the event cannot be posted, the hardware decision is
taken at once; else the question is posted and open. `act` goes on under a decision; while there is none yet, it waits. -/
def decided (s : State) (q : Question) (fn : Nat) (args : List Nat) (hw : Nat) (act : State → Nat → Out) : Out :=
  match openOn s q with
  | some o => (match o.answer with
    | some d => act (dropQ s q) d
    | none => stuck)
  | none =>
    let tmo := (fnMode s fn).tmo
    match postEvent s fn args hw with
    | (s', some n) =>
      if fnHost s fn && tmo != 0 then
        .next (withDisp s' fun d => { d with openQs := d.openQs ++ [{ fn := fn, seqNo := n, what := q, hw := hw, deadline := s.clock + clocksOfUs tmo }] })
      else act s' hw
    | (s', none) => act s' hw

/-- A question answered. -/
def answerQ (s : State) (fn seq d : Nat) : State :=
  withDisp s fun x => { x with openQs := mapIf (fun o => o.fn == fn && o.seqNo == seq) (fun o => { o with answer := some d }) x.openQs }

/-- The open question with a function and sequence number that has no answer yet. -/
def pendingQ (s : State) (fn seq : Nat) : Option OpenQ := s.disp.openQs.find? fun o => o.fn == fn && o.seqNo == seq && o.answer.isNone

/-- FM_TIMEOUT: A question's timeout has expired, and the hardware decision is taken. (R338) -/
def execFmTimeout (fn : Nat) (seqNo : Nat) (s : State) : Out :=
  need (pendingQ s fn seqNo) fun o => whenOk (decide (o.deadline ≤ s.clock)) (.next (answerQ s fn seqNo o.hw))

end Sys2Proof.Machine
end

