-- ==== Sys2Proof/Machine/PlaceOps.lean ====
section
/-! DEFINITION. Placement (R19, R20, R25, R38, R43, R348, R349): which resources a core has free, how a team's groups fit on the cores
of a layer, the order of the waiting teams (R347), and the creation of a thread (R80, R40). -/

namespace Sys2Proof.Machine

/-! ### Roles and groups (R19, R23) -/

/-- A group of a team: role, kind, threads and budget. -/
structure GroupDecl where
  role : Nat
  kind : Nat
  threads : Nat
  budget : Nat
  deriving DecidableEq, Repr, Inhabited

/-- The groups of a team in ascending GRP. -/
def groupsOf (rs : List RoleDecl) : List GroupDecl :=
  rs.zipIdx.flatMap fun (r, i) => List.replicate r.groups { role := i, kind := r.kind, threads := r.threads, budget := r.budget }

/-- The number of groups of each run (R20). -/
def runLength (groups n : Nat) : Nat := (groups + n - 1) / n

/-- Items cut into runs of a length. -/
def chunks {α : Type} (n : Nat) : Nat → List α → List (List α)
  | 0, _ => []
  | _, [] => []
  | fuel + 1, l => l.take n :: chunks n fuel (l.drop n)

/-- The runs of a team on n cores: the first group of each, and its groups. -/
def runsOf (gs : List GroupDecl) (n : Nat) : List (Nat × List GroupDecl) :=
  let k := runLength gs.length n
  (chunks k (gs.length + 1) gs).zipIdx.map fun (c, i) => (i * k, c)

/-- The rowsets of the MATRIX groups of a role, as group numbers, in order (R18). -/
def matrixRowsets (gs : List GroupDecl) (role : Nat) : List Nat :=
  gs.zipIdx.flatMap fun (g, i) => if g.kind == 2 && g.role == role then List.replicate ((g.threads + 15) / 16) i else []

/-- Whether a split into runs of a length divides no gang (R20). -/
def gangsWhole (gs : List GroupDecl) (gangr k : Nat) : Bool :=
  gangr == 0 || (List.range 4).all fun r =>
    let rows := matrixRowsets gs r
    (chunks gangr (rows.length + 1) rows).all fun c => c.all fun x => x / k == c.headD 0 / k

/-! ### What a core has free -/

/-- Context depths of a slice already promised: lane group, depth, slice. -/
abbrev Promised := List (Nat × Nat × Nat × Nat)

/-- A thread that holds its slice: one that has not exited, and every thread of a terminated grid until its team completes. -/
def holdsSlice (t : Thread) : Bool := t.st != .exited

/-- The register budget of the thread that holds a slice of a context depth, if one does (R38). -/
def sliceHeld (s : State) (core lg depth k : Nat) : Option Nat :=
  (s.threads.find? fun t => holdsSlice t && t.core == core && t.lg == lg && t.depth == depth && t.lane / 8 == k).map (·.budget)

/-- Whether the first n slices of a depth are free (R25). -/
def depthFree (s : State) (core lg depth n : Nat) (pr : Promised) : Bool :=
  (List.range n).all fun k => (sliceHeld s core lg depth k).isNone && !(pr.any fun p => p.1 == lg && p.2.1 == depth && p.2.2.1 == k)

/-- The register blocks taken of a lane group's 512 (R25). -/
def blocksTaken (s : State) (core lg : Nat) (pr : Promised) : Nat :=
  ((List.range 16).map fun d => ((List.range 4).map fun k => ((sliceHeld s core lg d k).getD 0) / 8).sum).sum +
    ((pr.filter fun p => p.1 == lg).map fun p => p.2.2.2 / 8).sum

/-- The lowest depth of a lane group at which n slices of a budget fit. -/
def depthFor (s : State) (core lg n budget : Nat) (pr : Promised) : Option Nat :=
  if 512 < blocksTaken s core lg pr + n * (budget / 8) then none
  else (List.range 16).find? fun d => depthFree s core lg d n pr

/-- The slices of a group. -/
def slicesOf (threads : Nat) : Nat := (threads + 7) / 8

/-- Where group k of a run goes (R349): the first lane group from k mod 4 that has the depth and the blocks. -/
def placeGroup (s : State) (core k : Nat) (g : GroupDecl) (pr : Promised) : Option (Nat × Nat) :=
  ((List.range 4).map fun j => (k + j) % 4).findSome? fun lg => (depthFor s core lg (slicesOf g.threads) g.budget pr).map fun d => (lg, d)

/-- A group's slices promised. -/
def promise (lg d : Nat) (g : GroupDecl) : Promised := (List.range (slicesOf g.threads)).map fun k => (lg, d, k, g.budget)

/-- Where the groups of a run go on a core, in order; none when one of them finds no place (R349). -/
def placeRun (s : State) (core : Nat) : List GroupDecl → Nat → Promised → Option (List (Nat × Nat))
  | [], _, _ => some []
  | g :: gs, k, pr =>
    (placeGroup s core k g pr).bind fun (lg, d) => (placeRun s core gs (k + 1) (promise lg d g ++ pr)).map fun r => (lg, d) :: r

/-- The granules of a core that teams hold (R290). -/
def granulesHeld (s : State) (core : Nat) : List Nat :=
  s.disp.teams.flatMap fun m => (m.cores.zipIdx.filter fun c => c.1 == core).flatMap fun c => m.granules.getD c.2 []

/-- n granules of a core that are free, the lowest first; none when it has too few. -/
def freeGranules (s : State) (core n : Nat) : Option (List Nat) :=
  let held := granulesHeld s core
  let free := ((List.range 128).filter fun g => !held.contains g).take n
  if free.length == n then some free else none

/-- The granules of a team on each of its cores (R290). -/
def granuleCount (scr : Nat) : Nat := (scr + 3) / 4

/-- Handle entries of a core that teams hold: first entry and number (R321). -/
def handlesHeld (s : State) (core : Nat) : List (Nat × Nat) :=
  (s.disp.teams.filter fun m => m.cores.head? == some core).map fun m => (m.hbase, m.handles.length)

/-- The first of n consecutive free handle entries of a core (R321). -/
def freeHandles (s : State) (core n : Nat) : Option Nat :=
  let held := handlesHeld s core
  (0 :: held.map fun h => h.1 + h.2).find? fun b => decide (b + n ≤ 1024) && held.all fun h => decide (b + n ≤ h.1 ∨ h.1 + h.2 ≤ b)

/-- What a team asks of each of its cores besides its groups (R348). -/
structure Needs where
  scr : Nat
  handles : Nat
  deriving DecidableEq, Repr

/-- Whether a core has all of R348 Table 7 for a run: the first core of a team also holds its handles. -/
def coreFits (s : State) (need : Needs) (core : Nat) (first : Bool) (run : List GroupDecl) : Bool :=
  (freeGranules s core (granuleCount need.scr)).isSome && (!first || (freeHandles s core need.handles).isSome) &&
    decide (0 < freeRecords s core) && !(run.any (fun g => g.kind == 2) && (assoc s.eng.matTeam core).isSome) &&
    (placeRun s core run 0 []).isSome

/-- The cores of a layer that may hold runs in order, ascending: the first fit of each run. -/
def chooseCores (ok : Nat → Bool → List GroupDecl → Bool) : List (Nat × List GroupDecl) → List Nat → Option (List Nat)
  | [], _ => some []
  | _, [] => none
  | r :: rs, c :: cs =>
    if ok c (r.1 == 0) r.2 then (chooseCores ok rs cs).map fun l => c :: l else chooseCores ok (r :: rs) cs

/-- The cores of a layer. -/
def coresOfLayer (l : Nat) : List Nat := (List.range 12).map fun c => 12 * l + c

/-- The cores that hold a team of a convoy hint (R360). -/
def hintCores (s : State) (hint : Nat) : List Nat :=
  if hint == 0 then []
  else s.disp.teams.flatMap fun m => if ((getGrid s m.grid).map (·.cvhint)) == some hint then m.cores else []

/-- The groups, needs and gang declaration of a grid's teams. -/
def gridNeeds (g : Grid) : Needs := { scr := g.scr, handles := g.nhnd + 1 }

/-- n cores of a layer for a team, avoiding some (R20). -/
def fitsOn (s : State) (g : Grid) (layer n : Nat) (avoid : List Nat) : Option (List Nat) :=
  let gs := groupsOf g.roles
  let runs := runsOf gs n
  if runs.length == n && gangsWhole gs g.gangr (runLength gs.length n) then
    chooseCores (coreFits s (gridNeeds g)) runs ((coresOfLayer layer).filter fun c => !avoid.contains c)
  else none

/-- Cores of a layer for a team, in the smallest count that can admit it (R20), avoiding some. -/
def fitFree (s : State) (g : Grid) (layer : Nat) (avoid : List Nat) : Option (List Nat) :=
  ((List.range 8).find? fun k => (fitsOn s g layer (k + 1) []).isSome).bind fun k => fitsOn s g layer (k + 1) avoid

/-- The cores that the dispatcher would take on a layer, with cores that hold no other team of the grid's convoy hint where there are such
(R360). -/
def fit (s : State) (g : Grid) (layer : Nat) : Option (List Nat) :=
  (fitFree s g layer (hintCores s g.cvhint)).orElse fun _ => fitFree s g layer []

/-- Whether chosen cores are ascending cores of a layer that hold a team's runs, in the smallest count (R20, R360). -/
def coresOk (s : State) (g : Grid) (layer : Nat) (cores : List Nat) : Bool :=
  let gs := groupsOf g.roles
  let runs := runsOf gs cores.length
  let hint := hintCores s g.cvhint
  ((fit s g layer).map (·.length)) == some cores.length && gangsWhole gs g.gangr (runLength gs.length cores.length) &&
    runs.length == cores.length && cores.all (fun c => layerOfCore c == layer) &&
    (cores.zip (cores.drop 1)).all (fun p => decide (p.1 < p.2)) &&
    (cores.zip runs).all (fun p => coreFits s (gridNeeds g) p.1 (p.2.1 == 0) p.2.2) &&
    (!(cores.any hint.contains) || (fitsOn s g layer cores.length hint).isNone)

/-! ### Partitions and layers (R43, R279, R280) -/

/-- EN of a partition. -/
def partEn (s : State) (n : Nat) : Bool := bitOf (partReg s n) 31
/-- Whether a layer belongs to a partition. -/
def partLayer (s : State) (n l : Nat) : Bool := bitOf (partReg s n) l

/-- A layer is pending a regulator switch (R280). -/
def preswitch (s : State) (l : Nat) : Bool := regOf s.regs.regsel l != regOf s.regs.regActive l

/-- A layer on which the dispatcher may place teams of a partition (R43, R279, R280). -/
def layerOk (s : State) (part l : Nat) : Bool :=
  decide (l < 16) && partEn s part && partLayer s part l && !preswitch s l && !s.regs.premove.contains (part, l)

/-- The layers of a partition that may take teams. -/
def layersOf (s : State) (part : Nat) : List Nat := (List.range 16).filter (layerOk s part)

/-- Layers without a team take their new regulators, and removed layers without a team of their partition are pending no more. -/
def settleLayers (s : State) : State :=
  let busy (l : Nat) : Bool := s.disp.teams.any fun m => m.layer == l
  let regsOf := (List.range 16).map fun l => (if busy l then regOf s.regs.regActive l else regOf s.regs.regsel l) * 4 ^ l
  let stays (p : Nat × Nat) : Bool := s.disp.teams.any fun m => m.layer == p.2 && ((getGrid s m.grid).map (·.part)) == some p.1
  { s with regs := { s.regs with regActive := word regsOf.sum, premove := s.regs.premove.filter stays } }

/-! ### The order of the waiting teams (R347) -/

/-- A waiting team: grid, team index, layer. Teams in save blocks come first of their grid (R358). -/
structure Waiting where
  grid : Nat
  team : Nat
  layer : Nat
  saved : Bool
  deriving DecidableEq, Repr, Inhabited

/-- The waiting teams of a grid in order. -/
def waitingOf (g : Grid) : List Waiting :=
  (g.saved.map fun b => { grid := g.id, team := b.team.idx, layer := b.team.layer, saved := true }) ++
    g.waiting.map fun w => { grid := g.id, team := w.1, layer := w.2.1, saved := false }

/-- Whether a grid's teams stand before another's: higher PRIO, then the earlier entry (R347). -/
def gridBefore (a b : Grid) : Bool := decide (b.prio < a.prio) || (a.prio == b.prio && decide (a.order < b.order))

/-- A waiting team that stands before another (R347). -/
def standsBefore (s : State) (a b : Waiting) : Bool :=
  if a.grid == b.grid then (a.saved && !b.saved) || (a.saved == b.saved && decide (a.team < b.team))
  else match getGrid s a.grid, getGrid s b.grid with
    | some x, some y => gridBefore x y
    | _, _ => false

/-- Every waiting team of a running grid. -/
def allWaiting (s : State) : List Waiting := (s.disp.grids.filter fun g => g.status == .running).flatMap waitingOf

/-- A team of a grid, as it waits. -/
def asWaiting (g : Grid) (team layer : Nat) : Waiting :=
  { grid := g.id, team := team, layer := layer, saved := g.saved.any fun b => b.team.idx == team }

/-- A reserving team that keeps another from a layer: that one has its priority or a lower one (R347). Of two that are reserving on one
layer, the one that stands first keeps the other from it. -/
def reservedFrom (s : State) (layer : Nat) (me : Grid) (team : Nat) : Bool :=
  let mine := me.reserving.contains (team, layer)
  s.disp.grids.any fun g => g.reserving.any fun r =>
    r.2 == layer && (g.id != me.id || (!g.coop && r.1 != team)) && decide (me.prio ≤ g.prio) &&
      (!mine || standsBefore s (asWaiting g r.1 layer) (asWaiting me team layer))

/-! ### The choice of a layer (R43, R360, R376) -/

/-- The last hot spot that a layer has reported. -/
def tempOf (s : State) (l : Nat) : Int := s.power.temps.getD l 0

/-- The number of grids of the class opposite to a grid's that have a team on a layer (R360); 0 for a NEUTRAL grid. -/
def opposite (s : State) (g : Grid) (l : Nat) : Nat :=
  if g.cls == 0 then 0
  else ((s.disp.teams.filter fun m => m.layer == l && ((getGrid s m.grid).map (·.cls)) == some (3 - g.cls)).map (·.grid)).eraseDups.length

/-- The elements of a list that meet a test, or all of them when none does. -/
def prefer (p : Nat → Bool) (ls : List Nat) : List Nat := if ls.any p then ls.filter p else ls

/-- The layers that the dispatcher prefers for a team now, by the constraints of R43 in order: those of the partition on which `cores` finds
a place for it, the second argument naming cores to avoid; of these, those with a place free of its convoy hint; those with most grids of
the opposite class; and those not above 95 °C. DESIGN CHOICE (notes/assumptions/111.md): the last. -/
def preferred (s : State) (g : Grid) (team : Nat) (cores : Nat → List Nat → Option (List Nat)) : List Nat :=
  let ok := (layersOf s g.part).filter fun l => !reservedFrom s l g team && (cores l []).isSome
  let ok := prefer (fun l => (cores l (hintCores s g.cvhint)).isSome) ok
  let most := (ok.map (opposite s g)).foldl max 0
  prefer (fun l => decide (tempOf s l ≤ 95)) (ok.filter fun l => opposite s g l == most)

/-- The layers on which a waiting team may be admitted now: its own when that is a preferred one, else every preferred one. -/
def chooseLayers (s : State) (g : Grid) (team own : Nat) (cores : Nat → List Nat → Option (List Nat)) : List Nat :=
  let p := preferred s g team cores
  if p.contains own then [own] else p

/-! ### Threads -/

/-- A thread as created (R80, R40): `lane` is its physical lane. -/
def newThread (s : State) (g : Grid) (tm : Team) (d : GroupDecl) (key tid lane core tcore lg depth : Nat) : Thread :=
  { key := key, grid := g.id, team := tm.key, teamIdx := tm.idx, tid := tid, lane := lane, grp := tid / 32, role := d.role, kind := d.kind
    budget := d.budget, core := core, tcore := tcore, lg := lg, depth := depth, pc := g.entry, tvec := g.tvec, fresh := true
    v := List.replicate d.budget 0, vt := List.replicate d.budget false, b := g.param :: List.replicate 7 0
    mopf := s.eng.matlog.length, created := s.clock, readySince := mainClocks s core }

end Sys2Proof.Machine
end

