-- ==== Sys2Proof/Machine/TeamOps.lean ====
section
/-! DEFINITION. Teams from admission to completion (R21, R203, R221, R290, R291, R321, R348, R349), saving and restoring them (R44,
R45, R207, R265, R414 to R416), and spawning (R39 to R41, R382). -/

namespace Sys2Proof.Machine

/-- The threads of a team. -/
def teamThreads (s : State) (m : Team) : List Thread := s.threads.filter fun t => t.team == m.key

/-! ### Owner tags (R285) -/

/-- The parts of its cores' memories that a team holds. -/
def teamUnits (s : State) (m : Team) : List CoreUnit :=
  ((teamThreads s m).map fun t => CoreUnit.slice t.core t.lg t.depth (t.lane / 8)).eraseDups ++
    ((m.cores.zip m.granules).flatMap fun c => c.2.map (CoreUnit.granule c.1)) ++
    ((s.eng.matTeam.filter fun x => x.2 == m.key).map fun x => CoreUnit.tiles x.1)

/-- The tag of a grid's owner set in what its team holds: it stays there until another context's replaces it. -/
def tagTeam (s : State) (m : Team) : State :=
  withMem s fun x => { x with tags := (teamUnits s m).foldl (fun l u => assocSet l u (ownerOf s m.grid, m.grid)) x.tags }

/-! ### Admission (R348, R349) -/

/-- The threads of a run, created in ascending GRP; the keys are taken from the dispatcher's counter. -/
def createRun (s : State) (g : Grid) (tm : Team) (core tcore first : Nat) (run : List GroupDecl) : State :=
  let places := (placeRun s core run 0 []).getD []
  (run.zip places).zipIdx.foldl (fun s ((d, lg, dep), i) =>
    let mk (l : Nat) : Thread := newThread s g tm d (s.disp.nextKey + l) ((first + i) * 32 + l) l core tcore lg dep
    let ts := (List.range d.threads).map mk
    withDisp { s with threads := s.threads ++ ts } fun x => { x with nextKey := x.nextKey + d.threads }) s

/-- The matrix engine of a core given to a team: its tiles and codebook slots read zero, its latch is EMPTY (R221, R277, R293). -/
def takeMatrix (s : State) (team core : Nat) : State :=
  withEng s fun e =>
    { e with tiles := dropIf (fun x => x.1 == core) e.tiles, slots := dropIf (fun x => x.1 == core) e.slots
             latch := dropIf (fun x => x.1 == core) e.latch, latched := dropIf (fun x => x.1 == core) e.latched
             matTeam := assocSet e.matTeam core team }

/-- A team admitted to cores that have room for it: its resources taken and initialised, then its threads created (R348). DEDUCED
(notes/assumptions/135.md): the cores' L1 lose their lines, so that it reads what was at home before its launch (R403). -/
def admitTeam (s : State) (g : Grid) (team layer : Nat) (cores : List Nat) : State :=
  let runs := runsOf (groupsOf g.roles) cores.length
  let granules := cores.map fun c => (freeGranules s c (granuleCount g.scr)).getD []
  let tm : Team :=
    { key := s.disp.nextKey, grid := g.id, idx := team, layer := layer, cores := cores, runs := runs.map fun r => (r.1, r.2.length)
      resident := s.clock, handles := List.replicate (g.nhnd + 1) {}, barriers := List.replicate 15 {}
      scratch := List.replicate cores.length [], scratchValid := List.replicate cores.length []
      granules := granules, hbase := (freeHandles s (cores.headD 0) (g.nhnd + 1)).getD 0 }
  let s := withDisp (cores.foldl (fun s c => freshICode (invalidateL1 s c) g c) s) fun d => { d with nextKey := d.nextKey + 1 }
  let s := (cores.zip runs).foldl (fun s (c, r) => if r.2.any fun d => d.kind == 2 then takeMatrix s tm.key c else s) s
  let s := (cores.zip runs).zipIdx.foldl (fun s ((c, r), i) => createRun s g tm c i r.1 r.2) s
  let first := g.doneTeams == 0 && !(s.disp.teams.any fun m => m.grid == g.id) && g.saved.isEmpty
  let g := (getGrid s g.id).getD g
  putGrid (tagTeam (withDisp s fun d => { d with teams := d.teams ++ [tm] }) tm)
    { g with waiting := dropIf (fun w => w.1 == team) g.waiting, reserving := dropIf (fun r => r.1 == team) g.reserving
             classMeas := if first && g.cls == 0 && g.classMeas.isNone then some (tm.key, s.clock, 0, 0) else g.classMeas }

/-! ### The end of a team (R21, R348) -/

/-- A team's resources returned: its threads, records, granules, handles and engines are gone (R290, R321, R348). -/
def removeTeam (s : State) (m : Team) : State :=
  let s := { s with threads := dropIf (fun t => t.team == m.key) s.threads }
  let s := withEng s fun e =>
    { e with matTeam := dropIf (fun x => x.2 == m.key) e.matTeam
             latch := dropIf (fun x => assoc e.matTeam x.1 == some m.key) e.latch
             latched := dropIf (fun x => assoc e.matTeam x.1 == some m.key) e.latched }
  settleLayers (withDisp s fun d => { d with teams := dropIf (fun x => x.key == m.key) d.teams })

/-- A thread that does nothing more: exited, or of a terminated grid. -/
def isOver (t : Thread) : Bool := t.st == .exited || t.st == .ended

/-- Whether a matrix operation is a team's. -/
def matOpOf (s : State) (m : Team) (o : MatOp) : Bool :=
  match o with
  | .gang team _ _ => team == m.key
  | .mcb _ team _ _ _ => team == m.key
  | .mzero k _ => ((getThread s k).map (·.team)) == some m.key

/-- The engines still work for a team: matrix operations, copies, drains, near-memory commands, and its scratchpad's accesses (R21). -/
def teamWorks (s : State) (m : Team) : Bool :=
  s.eng.matq.any (fun q => matOpOf s m q.2) || s.eng.copies.any (fun c => c.team == m.key) ||
    s.eng.nm.any (fun c => (teamThreads s m).any fun t => t.key == c.thread) || s.mem.reqs.any fun r => r.scr.any fun a => a.team == m.key

/-- Whether a team is complete (R21, R382). -/
def teamOver (s : State) (m : Team) : Bool :=
  (teamThreads s m).all isOver && !teamWorks s m && m.saving.isNone &&
  (m.conts.isEmpty || ((getGrid s m.grid).map (·.status)) != some .running)

/-! ### Saving (R414, R415) -/

/-- The memory that a save block needs (R415). -/
def saveBytes (s : State) (m : Team) : Nat :=
  let ts := teamThreads s m
  Config.saveBlockBytes ts.length (ts.map (·.budget)).sum (scrBytes s m.grid * m.cores.length)
    (s.eng.matTeam.filter fun x => x.2 == m.key).length

/-- The bytes of the save pool in use. -/
def savedBytes (s : State) : Nat := (s.disp.grids.map fun g => (g.saved.map (·.len)).sum).sum

/-- The bytes of the save pool (R423). -/
def poolBytes (s : State) : Nat := s.regs.savePool * 2 ^ 20

/-- The save blocks of some teams, of those that are stopping, and of those saved fit together in the pool (R415). -/
def poolFits (s : State) (ms : List Team) : Bool :=
  let stopping := s.disp.teams.filter fun m => m.saving.isSome && !(ms.any fun x => x.key == m.key)
  decide (savedBytes s + ((stopping ++ ms).map (saveBytes s)).sum ≤ poolBytes s)

/-- The blocks of a grid laid in the pool from an offset on, and the offset after them. -/
def layBlocks (o : Nat) : List SaveBlock → List SaveBlock
  | [] => []
  | b :: bs => { b with start := o } :: layBlocks (o + b.len) bs

/-- The save blocks of grids laid in the pool one after another. -/
def layGrids (o : Nat) : List Grid → List Grid
  | [] => []
  | g :: gs => { g with saved := layBlocks o g.saved } :: layGrids (o + (g.saved.map (·.len)).sum) gs

/-- The save blocks in the pool, which ends at the region's end (R415, R423). They stand under owner tags, so the host reads zeros there
(R302). DESIGN CHOICE (notes/assumptions/142.md): the engine lays them one after another. -/
def layPool (s : State) : State :=
  let o := s.regs.tblSize * 2 ^ 26 - poolBytes s
  let s := withDisp s fun d => { d with grids := layGrids o d.grids }
  withMem s fun m => { m with tbl := dropIf (fun c => decide (o ≤ c.1 ∧ c.1 < o + savedBytes s)) m.tbl }

/-- An LDAP of a team's threads alone that waits for promotion: one that is pre-empted so starts whole on restore (R172). -/
def promotes (mine : Nat → Bool) (r : Req) : Bool := !r.promote.isEmpty && r.threads.all mine

/-- A window that a save waits for (R414 step 2): not that of an arrival at a gang instance, nor of an LDAP that waits for promotion,
both of which start whole on restore (R172, R265). -/
def holdsSave (s : State) (m : Team) (mine : Nat → Bool) (t : Thread) (w : Window) : Bool :=
  w.pending && !(m.gangs.any fun g => g.arrs.any fun a => a.thread == t.key && a.window == w.id) &&
    !(s.mem.reqs.any fun r => r.serves t.key && r.window == w.id && promotes mine r)

/-- A team has stopped (R414 steps 1, 2 and 4): no trap entry is under way, results have been written, engines have finished what
they have accepted, and the arrivals that were issued are counted. -/
def teamQuiet (s : State) (m : Team) : Bool :=
  let ts := teamThreads s m
  let mine (k : Nat) : Bool := ts.any fun t => t.key == k
  let uncounted (b : Barrier) : Bool := b.arrs.any fun a => mine a.thread && !a.counted
  ts.all (fun t => (match t.st with | .trapping _ => false | _ => true) && t.windows.all fun w => !holdsSave s m mine t w) &&
    !(s.mem.reqs.any fun r => r.threads.any mine && !promotes mine r) && !(s.eng.sfu.any fun p => mine p.thread) &&
    !(s.eng.copies.any fun c => c.team == m.key && c.accepted) && !(s.eng.matq.any fun q => matOpOf s m q.2) &&
    !(m.barriers.any uncounted) && !(((getGrid s m.grid).map (·.gbars)).getD []).any uncounted &&
    !(s.disp.qops.any fun o => mine o.thread && o.started && !o.blocked)

/-- A thread's scheduling state as a save block holds it (R414 Table 4): what waits for a unit's acceptance issues again. -/
def saveState (s : State) (m : Team) (t : Thread) : Thread :=
  match t.st with
  | .blocked .gang =>
    let waits (w : Window) : Bool := m.gangs.any fun g => g.arrs.any fun a => a.thread == t.key && a.window == w.id
    { t with st := .ready, blen := 0, gangCount := t.gangCount - 1
             outMatrix := { t.outMatrix with count := t.outMatrix.count - 1 }, windows := dropIf waits t.windows }
  | .blocked .queueOp => { t with st := .ready, blen := 0 }
  | .blocked .copyAccept => { t with st := .ready, blen := 0 }
  | .blocked .nmcSend => { t with st := .ready, blen := 0 }
  | .heldConvoy => { t with st := .ready }
  | .yielded e => { t with st := .yielded (e - mainClocks s t.core) }
  | _ => t

/-- A team saved (R414 step 5): its members have lapsed, what engines had not accepted is dropped, its block is in the pool, and its
resources are free. -/
def saveTeam (s : State) (m : Team) : State :=
  let ts := teamThreads s m
  let mine (k : Nat) : Bool := ts.any fun t => t.key == k
  let s := ts.foldl lapseThread s
  let pages := s.eng.nm.flatMap (·.pages)
  let s := withEng s fun e => { e with copies := dropIf (fun c => c.team == m.key) e.copies, nm := dropIf (fun c => mine c.thread && !c.sent) e.nm }
  let s := withDisp (pinPages s pages) fun d => { d with qops := dropIf (fun o => mine o.thread) d.qops }
  let m := (getTeam s m.key).getD m
  let block : SaveBlock :=
    { team := { m with gangs := [], saving := none }, threads := (teamThreads s m).map fun t => flushFlags (saveState s m t)
      since := s.clock, len := saveBytes s m
      tiles := s.eng.tiles.filter fun x => assoc s.eng.matTeam x.1 == some m.key
      slots := s.eng.slots.filter fun x => assoc s.eng.matTeam x.1 == some m.key, move := m.saving.join }
  let s := m.cores.foldl invalidateL1 (countGrid (removeTeam s m) m.grid 14 (boolNat (m.saving == some none)))
  match getGrid s m.grid with
  | some g => layPool (putGrid s { g with saved := g.saved ++ [block] })
  | none => s

/-! ### Restoring (R416, R44, R45) -/

/-- The slices of a saved team on a team core: lane group, old depth, slices with a live thread, budget. -/
def savedSlices (b : SaveBlock) (tcore : Nat) : List (Nat × Nat × List Nat × Nat) :=
  let ts := b.threads.filter fun t => t.tcore == tcore && holdsSlice t
  ((ts.map fun t => (t.lg, t.depth)).eraseDups).map fun (lg, d) =>
    let us := ts.filter fun t => t.lg == lg && t.depth == d
    (lg, d, (us.map fun t => t.lane / 8).eraseDups, (us.map (·.budget)).headD 0)

/-- New depths for a saved team's slices on a core, in their own lane groups: lane group, old depth, new depth. -/
def restoreDepths (s : State) (core : Nat) : List (Nat × Nat × List Nat × Nat) → Promised → Option (List (Nat × Nat × Nat))
  | [], _ => some []
  | (lg, d, ks, budget) :: rest, pr =>
    if 512 < blocksTaken s core lg pr + ks.length * (budget / 8) then none
    else
      let free (x : Nat) : Bool := ks.all fun k => (sliceHeld s core lg x k).isNone && !(pr.any fun p => p.1 == lg && p.2.1 == x && p.2.2.1 == k)
      ((List.range 16).find? free).bind fun x =>
        (restoreDepths s core rest (pr ++ ks.map fun k => (lg, x, k, budget))).map fun r => (lg, d, x) :: r

/-- Whether a core has room for a saved team's core (R348). -/
def restoreFits (s : State) (g : Grid) (b : SaveBlock) (core tcore : Nat) : Bool :=
  let records := 1 + (b.team.conts.filter fun r => b.team.cores[tcore]? == some r.core && !r.reserved).length
  (freeGranules s core (granuleCount g.scr)).isSome && (tcore != 0 || (freeHandles s core (g.nhnd + 1)).isSome) &&
    decide (records ≤ freeRecords s core) &&
    !((b.threads.any fun t => t.tcore == tcore && t.kind == 2) && (assoc s.eng.matTeam core).isSome) &&
    (restoreDepths s core (savedSlices b tcore) []).isSome

/-- Cores of a layer for a saved team, as many as it had (R44), avoiding some. -/
def restoreCores (s : State) (g : Grid) (b : SaveBlock) (layer : Nat) (avoid : List Nat) : Option (List Nat) :=
  chooseCores (fun c first r => restoreFits s g b c (if first then 0 else r.length))
    (b.team.cores.zipIdx.map fun c => (c.2, List.replicate c.2 default)) ((coresOfLayer layer).filter fun c => !avoid.contains c)

/-- Whether chosen cores can take a saved team: ascending cores of one layer, as many as it had (R44), without another team of the grid's
convoy hint where there are such (R376). -/
def restoreOk (s : State) (g : Grid) (b : SaveBlock) (layer : Nat) (cores : List Nat) : Bool :=
  let hint := hintCores s g.cvhint
  cores.length == b.team.cores.length && cores.all (fun c => layerOfCore c == layer) &&
    (cores.zip (cores.drop 1)).all (fun p => decide (p.1 < p.2)) && (cores.zipIdx.all fun p => restoreFits s g b p.1 p.2) &&
    (!cores.any hint.contains || (restoreCores s g b layer hint).isNone)

/-- The layers on which a saved team may be restored now. -/
def restoreLayers (s : State) (g : Grid) (b : SaveBlock) : List Nat := chooseLayers s g b.team.idx b.team.layer (restoreCores s g b)

/-- The core that takes the place of an old one. -/
def movedCore (b : SaveBlock) (cores : List Nat) (c : Nat) : Nat := (assoc (b.team.cores.zip cores) c).getD c

/-- A thread as restored: at its new core and depth, with its holds and counts begun anew (R414 Table 4). -/
def restoreThread (s : State) (g : Grid) (cores : List Nat) (depths : List (List (Nat × Nat × Nat))) (t : Thread) : Thread :=
  let d := (((depths.getD t.tcore []).find? fun x => x.1 == t.lg && x.2.1 == t.depth).map (·.2.2)).getD t.depth
  let core := cores.getD t.tcore t.core
  let now := mainClocks s core
  let t := { t with core := core, depth := d, readySince := now }
  match t.st with
  | .heldMeet _ b => { t with st := .heldMeet now b }
  | .yielded n => { t with st := .yielded (now + n) }
  | .parked _ _ => { t with st := .ready }
  | .blocked (.gbar bar _ _ _) => if arrivedAt true bar t || g.status != .running then t else unblock s (setPending true bar false t)
  | _ => t

/-- The stores of a saved team have all been performed: the release of R45. -/
def storesHome (s : State) (b : SaveBlock) : Bool :=
  s.mem.ops.all fun q => !(q.contrib.any fun c => b.threads.any fun t => t.key == c.1)

/-- An LDAP that was pre-empted while it waited, restarted whole where its thread now is (R172). -/
def restartLdap (ts : List Thread) (r : Req) : Req :=
  match ts.find? fun t => t.key == r.thread with
  | some t =>
    if r.promote.isEmpty then r
    else { r with core := t.core, lg := t.lg, promote := (coresInScope (r.acq.getD 0) t.core).map fun c => (c, none) }
  | none => r

/-- A saved team restored on cores: resources taken, state written back, and a PKG acquire for every thread (R45, R416). -/
def restoreTeam (s : State) (g : Grid) (b : SaveBlock) (layer : Nat) (cores : List Nat) : State :=
  let depths := cores.zipIdx.map fun (c, i) => (restoreDepths s c (savedSlices b i) []).getD []
  let mat := cores.zipIdx.filter fun (_, i) => b.threads.any fun t => t.tcore == i && t.kind == 2
  let tm : Team :=
    { b.team with layer := layer, cores := cores, resident := s.clock
                  movedAt := if b.move.isSome then some s.clock else b.team.movedAt
                  granules := cores.map fun c => (freeGranules s c (granuleCount g.scr)).getD []
                  hbase := (freeHandles s (cores.headD 0) (g.nhnd + 1)).getD 0
                  conts := b.team.conts.map fun r => { r with core := movedCore b cores r.core } }
  let ts := b.threads.map (restoreThread s g cores depths)
  let s := mat.foldl (fun s (c, _) => takeMatrix s tm.key c) s
  let s := withEng s fun e =>
    { e with tiles := e.tiles ++ b.tiles.map fun x => (movedCore b cores x.1, x.2)
             slots := e.slots ++ b.slots.map fun x => (movedCore b cores x.1, x.2) }
  let s := withDisp { s with threads := s.threads ++ ts } fun d => { d with teams := d.teams ++ [tm] }
  let s := tagTeam (withMem (cores.foldl invalidateL1 s) fun m => { m with reqs := m.reqs.map (restartLdap ts) }) tm
  match getGrid s g.id with
  | some g =>
    -- the classifier counts clocks of residence (R360)
    let meas := g.classMeas.map fun c => if c.1 == tm.key then (c.1, c.2.1 + (s.clock - b.since), c.2.2) else c
    putGrid s { g with saved := dropIf (fun x => x.team.key == tm.key) g.saved, reserving := dropIf (fun r => r.1 == tm.idx) g.reserving
                       classMeas := meas }
  | none => s

/-! ### Continuations (R39 to R41, R382) -/

/-- The slice of a lane group and depth that a spawn may take: the team's continuations of the role share it, or it is free (R40). -/
def spawnSlice (s : State) (m : Team) (o : Thread) (core lg depth k : Nat) : Bool :=
  let held := s.threads.filter fun t => holdsSlice t && t.core == core && t.lg == lg && t.depth == depth && t.lane / 8 == k
  if held.isEmpty then decide (blocksTaken s core lg [] + o.budget / 8 ≤ 512)
  else held.all fun t => t.isCont && t.team == m.key && t.role == o.role

/-- A lane that no thread holds. -/
def laneFree (s : State) (core lg depth lane : Nat) : Bool :=
  !(s.threads.any fun t => holdsSlice t && t.core == core && t.lg == lg && t.depth == depth && t.lane == lane)

/-- Whether a slice that continuations of the team and role share on a core has a free lane. -/
def sharedFree (s : State) (m : Team) (o : Thread) (core : Nat) : Bool :=
  s.threads.any fun t => holdsSlice t && t.core == core && t.isCont && t.team == m.key && t.role == o.role &&
    (List.range 8).any fun i => laneFree s core t.lg t.depth (8 * (t.lane / 8) + i)

/-- A slot of a spawn: a free lane of the slice that the team's continuations of the role share, or, when that has none, of a free
slice (R40). -/
def spawnSlot (s : State) (m : Team) (o : Thread) (core lg depth lane : Nat) : Bool :=
  let taken := s.threads.any fun t => holdsSlice t && t.core == core && t.lg == lg && t.depth == depth && t.lane / 8 == lane / 8
  decide (lg < 4 ∧ depth < 16 ∧ lane < 32) && spawnSlice s m o core lg depth (lane / 8) && laneFree s core lg depth lane &&
    (taken || !sharedFree s m o core)

/-- A bit for each barrier: those in whose current phase the original's place counts as arrived (R207). -/
def allBits (n : Nat) : Nat := 2 ^ n - 1

/-- CONT_SPAWN: the record that has waited longest on its handle becomes a thread (R39, R40); its place counts as arrived in the current
phases of its barriers (R41). DEDUCED (notes/assumptions/138.md): it spawns once the stores that the original saw before the record have
left the core's queues, so that it reads them from any lane group (R396). -/
def spawnCont (s : State) (team k lg depth lane : Nat) : Out :=
  need (getTeam s team) fun m => need m.conts[k]? fun r => need (getThread s r.orig) fun o => need (getGrid s m.grid) fun g =>
    whenOk (!r.armed && m.saving.isNone && g.status == .running &&
        !(m.conts.any fun x => x.handle == r.handle && decide (x.stamp < r.stamp)) && storesAcked s r.orig r.stamp 1 && spawnSlot s m o r.core lg depth lane) <|
      let d : GroupDecl := { role := o.role, kind := o.kind, threads := 1, budget := o.budget }
      let base := newThread s g m d s.disp.nextKey o.tid lane r.core o.tcore lg depth
      let t := wrMany { base with b := List.replicate 8 0, pc := r.target, isCont := true, contSkipT := allBits 15, contSkipG := allBits 8 } 0 false r.v07
      let s := withDisp { s with threads := s.threads ++ [t] } fun x => { x with nextKey := x.nextKey + 1 }
      .next (checkBarriers (tagTeam (putTeam s { m with conts := m.conts.eraseIdx k }) m) m.key m.grid)

end Sys2Proof.Machine
end

