-- ==== Sys2Proof/Machine/EndOps.lean ====
section
/-! DEFINITION. How grids end: caddy pins (R328), completion records (R345), termination by a fault (R413), containment (R417, R418),
and the delivery of a fault (R410, R411). -/

namespace Sys2Proof.Machine

/-! ### Caddy pins (R307, R308, R328) -/

/-- The CURRENT generation of every enabled slot. -/
def currentPins (s : State) : List (Nat × Nat) :=
  s.disp.caddies.filterMap fun c =>
    if !caddyEn s c.slot then none
    else if c.state.getD 0 0 == 3 then some (c.slot, 0) else if c.state.getD 1 0 == 3 then some (c.slot, 1) else none

/-- The pins of a launch or kick counted. -/
def pinCaddies (s : State) : State :=
  let add (s : State) (p : Nat × Nat) : State :=
    let c := caddyOf s p.1
    putCaddy s { c with pin := putAt 0 c.pin p.2 (c.pin.getD p.2 0 + 1) }
  (currentPins s).foldl add s

/-- A pin released: an OLD generation without pins becomes EMPTY. -/
def unpin (s : State) (p : Nat × Nat) : State :=
  let c := caddyOf s p.1
  let n := c.pin.getD p.2 0 - 1
  let empty := n == 0 && c.state.getD p.2 0 == 4
  putCaddy s { c with pin := putAt 0 c.pin p.2 n, state := if empty then putAt 0 c.state p.2 0 else c.state
                      sus := if empty then putAt false c.sus p.2 false else c.sus }

/-- Whether a grid holds pins of its own: the grids of a replay use the replay's (R357). -/
def ownPins (g : Grid) : Bool :=
  match g.origin with
  | .queue _ _ => true
  | .node _ _ => false

/-! ### Completion records (R314, R345) -/

/-- A unit's record written: none while a page is missing. A pointer that was `checked` before is written with the device's own rights; a
write that PAGE_DENIED refuses, or that is lost on poison, is counted in the error log (R345). -/
def writeRecord (s : State) (u : UnitId) (owner ptr : Nat) (ws : List Word) (checked : Bool := true) : Except PageKey State :=
  if ptr == 0 then .ok s
  else
    let lost (s : State) : State := withMem (unitGo s u) fun m => { m with errLog := m.errLog + 1 }
    match if checked then recordCheck s u owner ptr (4 * ws.length) else unitCheck s u owner 0 ptr (4 * ws.length) 32 rightW with
    | .ok t =>
      let bs := at_ t.phys (bytesOf ws)
      if writeLost s t bs then .ok (lost (foundAt s t (4 * ws.length))) else .ok (unitGo (writeTarget s t bs) u)
    | .park p => .error p
    | _ => .ok (lost s)

/-- A record of a grid or replay (R345 Table 6). -/
def doneWords (status code grid node : Nat) (f : Option FirstFault) : List Word :=
  let f := f.getD { code := 0, team := 0, tid := 0, tpc := 0, addr := 0 }
  [word status, word code, word grid, word f.team, word (node % 2 ^ 16 * 2 ^ 16 + f.tid % 2 ^ 14), word f.tpc, word (f.addr % 2 ^ 32)
    , word (f.addr / 2 ^ 32)]

/-! ### Termination (R413) -/

/-- A thread of a terminated grid: it stops where it is, leaves its convoy, and what it has in flight is discarded. -/
def endThread (s : State) (k : Nat) : State :=
  match getThread s k with
  | none => s
  | some t =>
    if t.st == .exited then s
    else
      let s := leaveConvoy (dropPending s k) t
      putThread s { (getThread s k).getD t with st := .ended, windows := [], acquires := 0, stopped := false, stopAsk := none, blen := 0 }

/-- A team of a terminated grid: its rendezvous, gangs and barriers are closed. -/
def closeTeam (m : Team) : Team :=
  { m with rdv := [], gangs := [], barriers := List.replicate 15 {}, saving := none, conts := m.conts.map fun r => { r with armed := true } }

/-- Queue operations, copies not accepted and commands not sent of some threads are dropped. -/
def dropUnsent (s : State) (mine : Nat → Bool) : State :=
  let s := withDisp s fun d => { d with qops := dropIf (fun o => mine o.thread) d.qops }
  withEng s fun e => { e with copies := dropIf (fun c => mine c.thread && !c.accepted) e.copies, nm := dropIf (fun c => mine c.thread && !c.sent) e.nm }

/-- The questions about a grid's teams are dropped. -/
def dropGridQs (s : State) (grid : Nat) : State :=
  let about (o : OpenQ) : Bool := match o.what with
    | .placement g _ => g == grid
    | .classify g => g == grid
    | _ => false
  withDisp s fun d => { d with openQs := dropIf about d.openQs, slew := dropIf (fun x => x.grid == grid) d.slew }

/-- A grid terminated by a thread's fault, which is its first unless one is recorded already. -/
def terminateGrid (s : State) (t : Thread) (f : FaultInfo) : State :=
  match getGrid s t.grid with
  | none => s
  | some g =>
    let keys := (s.threads.filter fun u => u.grid == g.id).map (·.key)
    let saved := g.saved.flatMap (·.threads)
    let s := saved.foldl (fun s u => leaveConvoy (dropPending s u.key) u) s
    let pages := s.eng.nm.flatMap (·.pages)
    let s := dropGridQs (pinPages (dropUnsent (keys.foldl endThread s) keys.contains) pages) g.id
    let s := withDisp s fun d => { d with teams := mapIf (fun m => m.grid == g.id) closeTeam d.teams }
    let first : FirstFault := { code := f.code.num, team := t.teamIdx, tid := t.tid, tpc := f.tpc, addr := f.addr }
    putGrid s { g with status := .terminated, first := some (g.first.getD first), waiting := [], reserving := [], saved := []
                       gbars := g.gbars.map fun _ => {}, classMeas := none }

/-! ### Delivery (R410, R411) -/

/-- Every pending destination of a thread has been written or discarded (R380, R411). -/
def destinationsDone (s : State) (t : Thread) : Bool :=
  t.windows.all (fun w => !w.pending) && !(s.mem.reqs.any fun r => r.serves t.key && r.fmt != .words 0) &&
    !(s.eng.sfu.any fun p => p.thread == t.key)

/-- A fault delivered: trap entry, or the end of the grid (R410 Table 2). -/
def deliverFault (s : State) (t : Thread) (f : FaultInfo) : State :=
  if t.tvec != 0 && !t.inHandler then settleMeet (putThread s (takeTrap t f)) t t.meet else terminateGrid s t f

/-- TRAP_ENTRY: once its pending destinations have settled, a thread takes its fault. (R411) -/
def trapEntryOp (s : State) (k : Nat) : Out :=
  need (getThread s k) fun t =>
    match t.st with
    | .trapping f => whenOk (destinationsDone s t) (.next (deliverFault s t f))
    | _ => stuck

/-! ### Containment (R417, R418) -/

/-- A number put into an ascending list, once. -/
def insertNat (x : Nat) : List Nat → List Nat
  | [] => [x]
  | y :: r => if x < y then x :: y :: r else if x == y then y :: r else y :: insertNat x r

/-- The buffers to which a grid has writes that are still on their way home: of stores that have left their core, of unfinished accepted copies
and drains, and of near-memory commands sent (R418). -/
def writesInFlight (s : State) (grid : Nat) : List Nat :=
  let ops := (s.mem.ops.filter fun q => q.grid == grid && decide (1 ≤ q.level)).map fun q => q.tgt.idx
  let copies := (s.eng.copies.filter fun c => c.grid == grid && c.accepted && !c.finished).flatMap fun c =>
    match c.form with
    | .s2g => [ptrIdx c.gtr.ptr]
    | .s2ga => [ptrIdx c.gtr.ptr]
    | .mdrain => [ptrIdx c.gtr.ptr]
    | .mdraina => [ptrIdx c.gtr.ptr]
    | .g2g => [ptrIdx c.gtrB.ptr]
    | _ => []
  let nm := (s.eng.nm.filter fun c => c.grid == grid && c.sent).map fun c => ptrIdx (nmDst c.words)
  (ops ++ copies ++ nm).foldr insertNat []

/-- A convoy entry cleared (R325). -/
def clearConvoys (s : State) (grid : Nat) : State :=
  withDisp s fun d => { d with convoys := mapIf (fun v => v.bound && v.grid == grid) (fun v => { id := v.id }) d.convoys }

/-- A grid contained: it stops in this clock, its own state is gone at once, and what has left its cores is still performed whole. -/
def containGrid (s : State) (g : Grid) (cause core : Nat) : State :=
  if (match g.status with | .contained _ _ _ => true | _ => false) then s
  else
    let wrote := writesInFlight s g.id
    let mine (k : Nat) : Bool := s.threads.any fun t => t.key == k % 2 ^ 64 && t.grid == g.id
    let pages := (s.eng.nm.filter fun c => c.grid == g.id).flatMap (·.pages)
    let copies := (s.eng.copies.filter fun c => c.grid == g.id).map (·.id)
    let teams := s.disp.teams.filter fun m => m.grid == g.id
    let s := withMem s fun m =>
      { m with ops := dropIf (fun q => q.grid == g.id && q.level == 0) m.ops, reqs := dropIf (fun r => r.grid == g.id) m.reqs
               parks := dropIf (fun p => match p.unit with | .copy c => copies.contains c | _ => false) m.parks }
    let s := withEng s fun e =>
      { e with sfu := dropIf (fun p => mine p.thread) e.sfu, copies := dropIf (fun c => c.grid == g.id) e.copies
               matq := dropIf (fun q => teams.any fun m => matOpOf s m q.2) e.matq, nm := dropIf (fun c => c.grid == g.id) e.nm }
    let s := withDisp (pinPages s pages) fun d => { d with qops := dropIf (fun o => mine o.thread) d.qops }
    let s := clearConvoys (teams.foldl removeTeam s) g.id
    let s := dropGridQs (if ownPins g then g.pins.foldl unpin s else s) g.id
    putGrid s { g with status := .contained cause core s.clock, waiting := [], reserving := [], saved := [], pins := if ownPins g then [] else g.pins
                       gbars := g.gbars.map fun _ => {}, classMeas := none, wrote := wrote }

/-- The containment record (R418 Table 6). -/
def containWords (g : Grid) (cause core clock : Nat) : List Word :=
  let n := min 12 g.wrote.length
  let time := Config.podTime clock
  let buf (i : Nat) : Nat := if i < n then g.wrote.getD i 0 else 0
  [word (256 * cause + 5), word g.id, word g.owner, word core, word (time % 2 ^ 32), word (time / 2 ^ 32)
    , word (n + 16 * boolNat (decide (12 < g.wrote.length)))] ++
    (List.range 6).map (fun i => word (buf (2 * i) + 2 ^ 16 * buf (2 * i + 1))) ++ [0, 0, 0]

/-- The containment record pushed to the queue of function 8, or dropped and counted (R418). -/
def pushContained (s : State) (g : Grid) (cause core clock : Nat) : State :=
  let ws := containWords g cause core clock
  pushRecord s (fnMode s 8).evq [ws.take 8, ws.drop 8] g.part g.owner

/-! ### Completion -/

/-- TEAM_COMPLETE: a team whose threads have exited and whose engine work is done returns its resources. (R21) -/
def completeTeam (s : State) (k : Nat) : Out :=
  need (getTeam s k) fun m => need (getGrid s m.grid) fun g =>
    whenOk (teamOver s m) (.next (putGrid (removeTeam s m) { g with doneTeams := g.doneTeams + 1 }))

/-- A grid that a thread of another pushed (R346). -/
def childOf (parent : Nat) (g : Grid) : Bool :=
  match g.origin with
  | .queue _ (some p) => p == parent
  | _ => false

/-- A GRID packet that a thread of a grid pushed stands in a launch queue: the grid that it makes is still to come (R22, R346). -/
def childQueued (s : State) (grid : Nat) : Bool :=
  s.disp.queues.any fun x => x.kind == 1 && (x.fifo.any (fun e => e.pusher == some grid) || x.pushers.contains (some grid))

/-- A grid has completed but for its record: its teams are done, its writes acknowledged at home, its child grids complete (R22, R345,
R413, R418). -/
def gridOver (s : State) (g : Grid) : Bool :=
  (match g.status with
    | .running => g.doneTeams == g.nteam
    | _ => !(s.disp.teams.any fun m => m.grid == g.id)) &&
    !(s.disp.grids.any (childOf g.id)) && !childQueued s g.id && !(s.mem.ops.any fun q => q.grid == g.id) && !(s.eng.copies.any fun c => c.grid == g.id) &&
    !(s.eng.nm.any fun c => c.grid == g.id)

/-- STATUS and CODE of a grid's record. -/
def gridStatusCode (g : Grid) : Nat × Nat :=
  match g.status with
  | .running => (0, 0)
  | .terminated => (1, (g.first.map (·.code)).getD 0)
  | .contained _ _ _ => (3, 0x1A)

/-- A replay learns of a node's grid that ended badly (R357). -/
def tellReplay (s : State) (g : Grid) : State :=
  let (status, code) := gridStatusCode g
  match g.origin with
  | .node r n =>
    if status == 0 then s
    else withDisp s fun d =>
      { d with replays := mapIf (fun x => x.id == r) (fun x => { x with stopped := some (x.stopped.getD (status, code, n, g.first)) }) d.replays }
  | _ => s

/-- GRID_COMPLETE: a grid's completion record is written, and its entry leaves the grid table. (R345) -/
def completeGrid (s : State) (id : Nat) : Out :=
  need (getGrid s id) fun g => whenOk (gridOver s g) <|
    let (status, code) := gridStatusCode g
    match writeRecord s (.done id) g.owner g.done.toNat (doneWords status code id 0 g.first) with
    | .error p => unitWait s (.done id) p
    | .ok s1 =>
      let s2 := match g.status with
        | .contained cause core clock => pushContained s1 g cause core clock
        | _ => s1
      let s3 := if ownPins g then g.pins.foldl unpin s2 else s2
      .next (withDisp (clearConvoys (tellReplay (dropGridQs s3 id) g) id) fun d => { d with grids := dropIf (fun x => x.id == id) d.grids })

/-- TRAP_ENTRY: After pending destinations settle, the trap registers are written and PC moves to TVEC. (R411) -/
def execTrapEntry (t : Nat) (s : State) : Out := trapEntryOp s t

/-- TEAM_COMPLETE: A team completes when its threads have exited and its engine work is done. (R21) -/
def execTeamComplete (team : Nat) (s : State) : Out := completeTeam s team

/-- GRID_COMPLETE: A grid completes and its completion record is written. (R345) -/
def execGridComplete (gr : Nat) (s : State) : Out := completeGrid s gr

/-- CONT_SPAWN: A continuation record that fires spawns a thread in a free slot. (R40) -/
def execContSpawn (team : Nat) (k : Nat) (lg : Nat) (depth : Nat) (lane : Nat) (s : State) : Out := spawnCont s team k lg depth lane

end Sys2Proof.Machine
end

