-- ==== Sys2Proof/Machine/LaunchOps.lean ====
section
/-! DEFINITION. Launch packets (R343, R344): their fields, what refuses them, and the grid that they make (R42, R346). -/

namespace Sys2Proof.Machine

/-! ### Fields (R343) -/

/-- Word i of a packet or of a graph node's BODY. -/
def pw (ws : List Word) (i : Nat) : Nat := (ws.getD i 0).toNat
/-- A 64-bit field from word i on. -/
def pq (ws : List Word) (i : Nat) : Nat := natOfWords ((ws.drop i).take 2)
/-- TYPE. -/
def pktType (ws : List Word) : Nat := pw ws 0 % 2 ^ 8

/-- A role word (R343, R23). -/
def roleOf (w : Nat) : RoleDecl :=
  { kind := bitsOf w 19 16, groups := bitsOf w 15 6, threads := bitsOf w 5 0, budget := 8 * bitsOf w 24 20 }

/-- The four roles of a packet. -/
def pktRoles (ws : List Word) : List RoleDecl := (List.range 4).map fun i => roleOf (pw ws (5 + i))

/-! ### Refusals (R344 Table 5) -/

/-- CODE 1: a reserved field or TYPE, or a CLS of 3; in WAIT and KICK packets, a field that the type does not use. -/
def pktReserved (ws : List Word) : Bool :=
  let unused (is : List Nat) : Bool := is.any fun i => pw ws i != 0
  match pktType ws with
  | 1 => decide (2 ^ 17 ≤ pw ws 0) || (List.range 4).any (fun i => decide (2 ^ 25 ≤ pw ws (5 + i))) || decide (2 ^ 10 ≤ pw ws 9) ||
      decide (2 ^ 24 ≤ pw ws 15) || bitsOf (pw ws 15) 7 2 != 0 || bitsOf (pw ws 15) 1 0 == 3
  | 2 => pw ws 0 != 2 || unused [4, 5, 6, 7, 8, 9, 10, 11, 14, 15]
  | 3 => pw ws 0 != 3 || decide (2 ^ 8 ≤ pw ws 3) || unused [1, 2, 4, 5, 6, 7, 8, 9, 14, 15]
  | _ => true

/-- A role declaration within R23. -/
def roleDeclOk (r : RoleDecl) : Bool :=
  if r.kind == 0 then r.groups == 0
  else decide (r.kind ≤ 3 ∧ 1 ≤ r.threads ∧ r.threads ≤ 32 ∧ r.groups ≤ 512 ∧ 8 ≤ r.budget ∧ r.budget ≤ 128)

/-- GANGR of a packet. -/
def pktGangr (ws : List Word) : Nat := bitsOf (pw ws 15) 23 16

/-- CODE 2: roles against R23, or a GANGR that is out of range or without a MATRIX role. -/
def pktRolesOk (ws : List Word) : Bool :=
  let rs := pktRoles ws
  let groups : Nat := (rs.map (·.groups)).sum
  let threads : Nat := (rs.map fun r => r.groups * r.threads).sum
  let g := pktGangr ws
  rs.all roleDeclOk && decide (groups ≤ 512 ∧ 1 ≤ threads ∧ threads ≤ 16384) &&
    (g == 0 || (decide (2 ≤ g ∧ g ≤ 6) && rs.any fun r => r.kind == 2))

/-- A pointer that passes checks 1 to 5 of R155 for some rights; check 6 is no matter here (R344). -/
def ptrOk (s : State) (owner grid p size align : Nat) (rights : List Nat) : Bool :=
  rights.all fun r => match unitAccess s owner grid p size align r with
    | .fault c => c == .pageDenied
    | _ => true

/-- The DONE pointer of a packet passes its checks, or there is none. -/
def pktDoneOk (s : State) (owner grid : Nat) (ws : List Word) : Bool := pq ws 12 == 0 || ptrOk s owner grid (pq ws 12) 32 32 [rightW]

/-- CODE 4: counts and pointers. -/
def pktPtrsOk (s : State) (owner grid : Nat) (ws : List Word) : Bool :=
  pktDoneOk s owner grid ws &&
    match pktType ws with
    | 1 => decide (1 ≤ pw ws 4 ∧ pw ws 4 < 2 ^ 24) && ptrOff (pq ws 1) == 0 && ptrOk s owner grid (pq ws 1) 1 1 [rightR, rightX] &&
        (pq ws 10 == 0 || ptrOk s owner grid (pq ws 10) 1 1 [rightR])
    | 2 => pq ws 1 == 0 || ptrOk s owner grid (pq ws 1) 4 4 [rightR]
    | _ => true

/-- The enabled partitions of an owner. -/
def partsOf (s : State) (owner : Nat) : List Nat := (List.range 16).filter fun n => partEn s n && partOwner s n == owner

/-- CODE 5. -/
def pktOwnerOk (s : State) (owner : Nat) : Bool := !(partsOf s owner).isEmpty && (ownerRec s owner).isSome

/-- The length of a code buffer, as its entry gives it at intake. -/
def codeLength (s : State) (owner grid p : Nat) : Nat :=
  match bufFor s none owner (ptrIdx p) with
  | some ws => ((entryExtent s (decodeBuf ws) grid).map (·.2)).getD 0
  | none => 0

/-- The grid that a packet makes. -/
def gridOf (s : State) (id owner part : Nat) (ws : List Word) (origin : Origin) (pins : List (Nat × Nat)) (cadgen : Nat) : Grid :=
  { id := id, owner := owner, part := part, prio := bitsOf (pw ws 0) 9 8, coop := bitOf (pw ws 0) 16, code := BitVec.ofNat 64 (pq ws 1)
    codeLen := codeLength s owner id (pq ws 1), entry := pw ws 3, tvec := pw ws 14, param := BitVec.ofNat 64 (pq ws 10)
    done := BitVec.ofNat 64 (pq ws 12), nteam := pw ws 4, roles := pktRoles ws, scr := pw ws 9, nhnd := bitsOf (pw ws 0) 15 10
    gangr := pktGangr ws, cvhint := bitsOf (pw ws 15) 15 8, cls := bitsOf (pw ws 15) 1 0, origin := origin, pins := pins, cadgen := cadgen
    gbars := if bitOf (pw ws 0) 16 then List.replicate 8 {} else [] }

/-- The machine with every layer empty. -/
def emptyMachine (s : State) : State := withEng (withDisp { s with threads := [] } fun d => { d with teams := [] }) fun e => { e with matTeam := [] }

/-- Teams of a cooperative grid put on layers one after another, as many as a count says. -/
def packs (s : State) (g : Grid) (layers : List Nat) : Nat → Bool
  | 0 => true
  | n + 1 =>
    match layers.findSome? fun l => (fit s g l).map fun c => (l, c) with
    | some (l, c) => packs (admitTeam s g n l c) g layers n
    | none => false

/-- CODE 6: every count that could admit a team divides a gang, or a cooperative grid cannot be resident whole (R20, R22). -/
def pktFits (s : State) (g : Grid) (layers : List Nat) : Bool :=
  let e := emptyMachine s
  let some1 (g : Grid) : Bool := layers.any fun l => (fit e g l).isSome
  (g.gangr == 0 || some1 g || !some1 { g with gangr := 0 }) && (!g.coop || packs e g layers g.nteam)

/-- The layers that PARTn gives a partition. -/
def partLayers (s : State) (part : Nat) : List Nat := (List.range 16).filter (partLayer s part)

/-- The machine with a grid's pins in view, for the checks of its packet (R308, R317). -/
def probed (s : State) (g : Grid) : State := withDisp s fun d => { d with grids := { g with id := 0 } :: d.grids }

/-- CODE of a GRID packet; none when it is not refused. -/
def gridCode (s : State) (owner part : Nat) (ws : List Word) (pins : List (Nat × Nat)) : Option Nat :=
  let g := gridOf s 0 owner part ws (.queue 0 none) pins 0
  if pktReserved ws || pktType ws != 1 then some 1
  else if !pktRolesOk ws then some 2
  else if 512 < pw ws 9 then some 3
  else if !pktPtrsOk (probed s g) owner 0 ws then some 4
  else if !pktOwnerOk s owner then some 5
  else if !pktFits s g (partLayers s part) then some 6
  else none

/-- The grid id after one (R42). -/
def nextId (n : Nat) : Nat := if n + 1 = 2 ^ 32 then 1 else n + 1

/-- A grid table entry is free (R339). -/
def gridFree (s : State) : Bool := decide (s.disp.grids.length < 1024)

/-- Whether every chosen layer is one of the partition's, and preferred for a team of the grid where some layer is (R43, R360). -/
def layersGood (s : State) (g : Grid) (layers : List Nat) : Bool :=
  let best := preferred s g 0 (fitFree s g)
  !layers.isEmpty && layers.all (partLayer s g.part) && (best.isEmpty || layers.all best.contains)

/-- A grid entered in the grid table, its teams waiting on the chosen layers in turn; its class is reported or asked for (R336, R346). -/
def enterGrid (s : State) (g : Grid) (layers : List Nat) : State :=
  let teams := (List.range g.nteam).map fun i => (i, layers.getD (i % layers.length) 0, s.clock)
  withDisp s fun d =>
    { d with grids := d.grids ++ [{ g with order := d.nextOrder, waiting := teams }], nextGrid := nextId d.nextGrid, nextOrder := d.nextOrder + 1 }

end Sys2Proof.Machine
end

