-- ==== Sys2Proof/Machine/DispatchEvents.lean ====
section
/-! DEFINITION. The dispatcher: packets (R346), admission (R347, R348), pre-emption and restore (R358, R414 to R416), work donation
(R359), the classifier (R360) and thermal moves (R429). -/

namespace Sys2Proof.Machine

/-! ### Packets (R346) -/

/-- The head packet of a launch queue taken, two entries, with the grid that pushed it (R346). -/
def takePacket (s : State) (q : Nat) : QRes :=
  match popOne s q with
  | .done s1 a => (match popOne s1 q with
    | .done s2 b => .done s2 (a ++ b)
    | r => r)
  | r => r

/-- A launch queue at whose head a packet stands that nothing holds. -/
def headPacket (s : State) (q : Nat) : Option (HwQueue × List Word) :=
  (queueFor s q).bind fun x =>
    if x.kind == 1 && x.stopped.isNone && !(s.disp.waits.any fun w => w.q == q) && decide (2 ≤ x.fifo.length)
    then some (x, (x.fifo.take 2).flatMap (·.words)) else none

/-- A packet taken: `k` acts on the state after the pop, with the packet's words and the grid of its pusher. -/
def withPacket (s : State) (q : Nat) (k : State → HwQueue → List Word → Option Nat → Out) : Out :=
  need (headPacket s q) fun (x, ws) => whenOk (!ringHeld s q) <|
    match takePacket s q with
    | .done s1 es => k s1 x ws ((es.head?.map (·.pusher)).join)
    | .page p => unitWait s (.ring q) p
    | _ => stuck

/-- A packet refused (R344): `s0` is the state before it was taken. -/
def refusePacket (s0 s : State) (x : HwQueue) (ws : List Word) (code : Nat) : Out :=
  if !pktDoneOk s x.owner 0 ws then .next (addDrop s x.q)
  else match writeRecord s (.command x.q) x.owner (pq ws 12) (doneWords 2 code 0 0 none) with
    | .ok s1 => .next s1
    | .error p => unitWait s0 (.command x.q) p

/-- Function 5 asked for, or told of, the class of a new grid (R336). -/
def askClass (s : State) (id cls : Nat) : State :=
  match postEvent s 5 [id] cls with
  | (s', some n) =>
    let tmo := (fnMode s 5).tmo
    if fnHost s 5 && tmo != 0 then
      withDisp s' fun d => { d with openQs := d.openQs ++ [{ fn := 5, seqNo := n, what := .classify id, hw := cls, deadline := s.clock + clocksOfUs tmo }] }
    else s'
  | (s', none) => s'

/-- GRID_PACKET: The dispatcher takes a GRID packet: a grid id, caddy pins, and its teams waiting on the layers that it chooses. A packet
of a reserved TYPE is taken here too, and refused. (R346) -/
def execGridPacket (q : Nat) (layers : List Nat) (s : State) : Out :=
  withPacket s q fun s1 x ws pusher =>
    let fits (p : Nat) : Bool := layers.all (partLayer s1 p)
    let parts := partsOf s1 x.owner
    let part := ((parts.find? fits).orElse fun _ => parts.head?).getD 0
    whenOk (pktType ws != 2 && pktType ws != 3) <|
      match gridCode s1 x.owner part ws (currentPins s1) with
      | some code => refusePacket s s1 x ws code
      | none =>
        let s2 := pinCaddies s1
        let g := gridOf s2 s.disp.nextGrid x.owner part ws (.queue q pusher) (currentPins s1) s1.disp.cadCount
        let g := { g with codeLen := codeLength (probed s2 g) x.owner 0 (pq ws 1) }
        whenOk (gridFree s && layersGood s1 g layers) (.next (askClass (enterGrid s2 g layers) g.id g.cls))

/-- CODE of a WAIT packet; none when it is not refused. -/
def waitCode (s : State) (owner : Nat) (ws : List Word) : Option Nat :=
  if pktReserved ws then some 1 else if !pktPtrsOk s owner 0 ws then some 4 else if !pktOwnerOk s owner then some 5 else none

/-- WAIT_PACKET: A WAIT packet holds its launch queue. (R346) -/
def execWaitPacket (q : Nat) (s : State) : Out :=
  withPacket s q fun s1 x ws _ =>
    whenOk (pktType ws == 2) <|
      match waitCode s1 x.owner ws with
      | some code => refusePacket s s1 x ws code
      | none =>
        let mine (g : Grid) : Bool := match g.origin with
          | .queue n _ => n == q
          | .node _ _ => false
        let w : WaitPkt :=
          { q := q, owner := x.owner, code := BitVec.ofNat 64 (pq ws 1), value := word (pw ws 3), done := BitVec.ofNat 64 (pq ws 12)
            grids := (s1.disp.grids.filter mine).map (·.id), polled := s.clock }
        .next (withDisp s1 fun d => { d with waits := d.waits ++ [w] })

/-- The end of a WAIT: its record, and the queue goes on. -/
def endWaitPkt (s : State) (w : WaitPkt) (status code : Nat) : Out :=
  match writeRecord s (.wait w.q) w.owner w.done.toNat (doneWords status code 0 0 none) with
  | .ok s1 => .next (withDisp (unitGo s1 (.wait w.q)) fun d => { d with waits := dropIf (fun x => x.q == w.q) d.waits })
  | .error p => unitWait s (.wait w.q) p

/-- WAIT_POLL: The wait word is read at home, and the wait ends when it is reached and the earlier grids are complete. (R346) -/
def execWaitPoll (q : Nat) (s : State) : Out :=
  need (s.disp.waits.find? fun x => x.q == q) fun w =>
    let idle := w.grids.all fun g => (getGrid s g).isNone
    if w.code == 0 then whenOk idle (endWaitPkt s w 0 0)
    else match unitCheck s (.wait q) w.owner 0 w.code.toNat 4 4 rightR with
      | .park p => unitWait s (.wait q) p
      | .ok t =>
        let (bs, bad) := readTarget s t 0 4
        if bad then endWaitPkt (foundAt s t 4) w 1 FaultCode.poison.num
        else if idle && decide (w.value.toNat ≤ wordOfBytes bs) then endWaitPkt s w 0 0
        else .next (withDisp (unitGo s (.wait q)) fun d => { d with waits := mapIf (fun x => x.q == q) (fun x => { x with polled := s.clock }) d.waits })
      | .fault c => endWaitPkt s w 1 c.num
      | .miss _ => stuck

/-- A word of a graph's directory entry (R351). -/
def graphWord (s : State) (k i : Nat) : Nat := memNat s.mem.tbl (0x4A000 + 32 * k + 4 * i) 4
/-- A graph is resident. -/
def graphResident (s : State) (k : Nat) : Bool := bitOf (graphWord s k 0) 31
/-- The owner of a graph's work. -/
def graphOwner (s : State) (k : Nat) : Nat := bitsOf (graphWord s k 0) 11 0

/-- KICK_PACKET: A KICK packet starts a graph replay, whose caddy pins are taken with it. (R346, R308) -/
def execKickPacket (q : Nat) (s : State) : Out :=
  withPacket s q fun s1 x ws _ =>
    whenOk (pktType ws == 3) <|
      let k := pw ws 3
      if pktReserved ws then refusePacket s s1 x ws 1
      else if !pktPtrsOk s1 x.owner 0 ws then refusePacket s s1 x ws 4
      else if !pktOwnerOk s1 x.owner then refusePacket s s1 x ws 5
      else if !graphResident s1 k || graphOwner s1 k != x.owner then refusePacket s s1 x ws 7
      else
        let kick : Kick :=
          { part := (partsOf s1 x.owner).headD 0, owner := x.owner, graph := k, patch := BitVec.ofNat 64 (pq ws 10)
            done := some (BitVec.ofNat 64 (pq ws 12)), queue := some q, pins := currentPins s1, cadgen := s1.disp.cadCount }
        .next (withDisp (pinCaddies s1) fun d => { d with kicks := d.kicks ++ [kick] })

/-! ### Admission (R347, R348) -/

/-- The places that the dispatcher would give the teams of a cooperative grid, one after another: team, layer and cores (R22, R43). -/
def coopPlan (s : State) (g : Grid) : List (Nat × Nat × Nat) → Option (List (Nat × Nat × List Nat))
  | [] => some []
  | (team, own, _) :: rest =>
    (chooseLayers s g team own (fitFree s g)).head?.bind fun l => (fit s g l).bind fun cs =>
      (coopPlan (admitTeam s g team l cs) g rest).map fun p => (team, l, cs) :: p

/-- The cores that the dispatcher would take for a saved team on a layer, with cores free of its convoy hint where there are such (R376). -/
def restoreFit (s : State) (g : Grid) (b : SaveBlock) (layer : Nat) : Option (List Nat) :=
  (restoreCores s g b layer (hintCores s g.cvhint)).orElse fun _ => restoreCores s g b layer []

/-- The places that the dispatcher would give the saved teams of a cooperative grid, one after another: team, layer and cores (R347). -/
def restorePlan (s : State) (g : Grid) : List SaveBlock → Option (List (Nat × Nat × List Nat))
  | [] => some []
  | b :: rest =>
    (restoreLayers s g b).head?.bind fun l => (restoreFit s g b l).bind fun cs =>
      (restorePlan (restoreTeam s g b l cs) g rest).map fun p => (b.team.idx, l, cs) :: p

/-- The layers on which a waiting team could be admitted, or restored, now. The teams of a cooperative grid go together (R347). -/
def layersFor (s : State) (g : Grid) (w : Waiting) : List Nat :=
  if w.saved then
    if !g.coop then ((g.saved.find? fun b => b.team.idx == w.team).map fun b => if storesHome s b then restoreLayers s g b else []).getD []
    else if (g.saved.head?.map (·.team.idx)) == some w.team && g.saved.all (storesHome s) then ((restorePlan s g g.saved).getD []).map (·.2.1)
    else []
  else if g.coop then (if (g.waiting.head?.map (·.1)) == some w.team then ((coopPlan s g g.waiting).getD []).map (·.2.1) else [])
  else chooseLayers s g w.team w.layer (fitFree s g)

/-- Teams that stand before one and could be admitted on its layer now (R347). The teams of one cooperative grid go together. -/
def earlierFits (s : State) (w : Waiting) : Bool :=
  (allWaiting s).any fun x => x != w && standsBefore s x w && (getGrid s x.grid).any fun g =>
    !(g.coop && x.grid == w.grid && x.saved == w.saved) && (layersFor s g x).contains w.layer

/-- The host's answer for a team's place (R336). -/
def placeTold (s : State) (grid team : Nat) : Option Nat := (openOn s (.placement grid team)).bind (·.answer)

/-- Whether a layer has no place free of a grid's convoy hint for a team while another layer of its partition has one (R360, R376). -/
def hintWorse (s : State) (g : Grid) (team layer : Nat) : Bool :=
  let free (l : Nat) : Bool := (fitFree s g l (hintCores s g.cvhint)).isSome
  !free layer && (layersOf s g.part).any fun l => !reservedFrom s l g team && free l

/-- Whether a team's layer and cores are the dispatcher's own choice, or where the host's answer places it: a layer, and a mask of its cores
or 0 for any. R43 holds in both modes: an answer that its convoy hint rules out leaves the choice to the dispatcher (R376). -/
def placeOk (s : State) (g : Grid) (team own layer : Nat) (cores : List Nat) : Bool :=
  layerOk s g.part layer && !reservedFrom s layer g team && coresOk s g layer cores &&
    match placeTold s g.id team with
    | some d =>
      if hintWorse s g team (d % 16) then (chooseLayers s g team own (fitFree s g)).contains layer
      else d % 16 == layer && (d / 16 == 0 || cores.all fun c => bitOf (d / 16) (c % 12))
    | none => (chooseLayers s g team own (fitFree s g)).contains layer

/-- Listed cores shared out to teams one after another, as many as each takes: team, layer and cores. -/
def shareCores (s : State) (g : Grid) : List (Nat × Nat × Nat) → List Nat → Option (List (Nat × Nat × List Nat))
  | [], cs => if cs.isEmpty then some [] else none
  | (team, own, _) :: rest, cs =>
    let layer := layerOfCore (cs.headD 0)
    let mine := cs.take (((fit s g layer).map (·.length)).getD 0)
    if !mine.isEmpty && placeOk s g team own layer mine
    then (shareCores (admitTeam s g team layer mine) g rest (cs.drop mine.length)).map fun p => (team, layer, mine) :: p else none

/-- Function 0 asked, or told, of a team's place (R336): the state, and whether every decision so far has been taken. -/
def askPlace (grid : Nat) (a : State × Bool) (p : Nat × Nat × List Nat) : State × Bool :=
  match openOn a.1 (.placement grid p.1) with
  | some o => (a.1, a.2 && o.answer.isSome)
  | none =>
    let tmo := (fnMode a.1 0).tmo
    match postEvent a.1 0 [grid, p.1] p.2.1 with
    | (s, some n) =>
      if fnHost a.1 0 && tmo != 0 then
        (withDisp s fun d => { d with openQs := d.openQs ++ [{ fn := 0, seqNo := n, what := .placement grid p.1, hw := p.2.1, deadline := s.clock + clocksOfUs tmo }] }, false)
      else (s, a.2)
    | (s, none) => (s, a.2)

/-- Teams admitted at their places, whose questions are settled. -/
def admitPlan (s : State) (grid : Nat) (plan : List (Nat × Nat × List Nat)) : State :=
  plan.foldl (fun s p => ((getGrid s grid).map fun g => admitTeam (dropQ s (.placement grid p.1)) g p.1 p.2.1 p.2.2).getD s) s

/-- TEAM_ADMISSION: A team is admitted to its cores with all resources at once, where function 0 has it placed; the teams of a
cooperative grid together, all or none. While the host is to decide, it waits. (R347, R348) -/
def execTeamAdmission (gr : Nat) (team : Nat) (cores : List Nat) (s : State) : Out :=
  need (getGrid s gr) fun g => need (g.waiting.find? fun w => w.1 == team) fun w =>
    whenOk (g.status == .running) <|
      need (shareCores s g (if g.coop then g.waiting else [w]) cores) fun plan =>
        whenOk (plan.all fun p => !earlierFits s { grid := gr, team := p.1, layer := p.2.1, saved := false }) <|
          match plan.foldl (askPlace gr) (s, true) with
          | (s1, true) =>
            let s2 := admitPlan s1 gr plan
            .next (if g.coop then putGrid s2 { (getGrid s2 gr).getD g with gbars := List.replicate 8 {} } else s2)
          | (s1, false) => whenOk (s1.disp.openQs.length != s.disp.openQs.length) (.next s1)

/-- The clock since which a team of a grid waits, fresh or saved (R347, R358). -/
def waitsSince (g : Grid) (team : Nat) : Option Nat :=
  ((assoc g.waiting team).map (·.2)).orElse fun _ => (g.saved.find? fun b => b.team.idx == team).map (·.since)

/-- RESERVING: A team that has waited 2 × TSLICE, fresh or pre-empted, becomes reserving on the layer chosen for it; the teams of a
cooperative grid on their layers together. (R347) -/
def execReserving (gr : Nat) (team : Nat) (layer : Nat) (s : State) : Out :=
  need (getGrid s gr) fun g => need (waitsSince g team) fun since =>
    whenOk (g.status == .running && decide (since + 2 * tslice ≤ s.clock) && layerOk s g.part layer && !(g.reserving.any fun r => r.1 == team)) <|
      .next (putGrid s
        (if g.coop then { g with reserving := (waitingOf g).map fun w => (w.team, w.layer) }
         else { g with reserving := g.reserving ++ [(team, layer)]
                       waiting := mapIf (fun w => w.1 == team) (fun w => (w.1, layer, w.2.2)) g.waiting
                       saved := mapIf (fun b => b.team.idx == team) (fun b => { b with team := { b.team with layer := layer } }) g.saved }))

/-! ### Pre-emption and restore (R358, R414 to R416) -/

/-- The machine without the teams that are being saved. -/
def withoutSaving (s : State) : State := (s.disp.teams.filter fun m => m.saving.isSome).foldl removeTeam s

/-- A waiting team, fresh or saved, could be admitted on some layer of its partition; one of a cooperative grid with the whole grid. -/
def fitsSomewhere (s : State) (g : Grid) (team : Nat) : Bool :=
  match g.saved.find? fun b => b.team.idx == team with
  | some b => if g.coop then (restorePlan s g g.saved).isSome else !(restoreLayers s g b).isEmpty
  | none => if g.coop then (coopPlan s g g.waiting).isSome else !(preferred s g team (fitFree s g)).isEmpty

/-- PRIO of a team's grid. -/
def teamPrio (s : State) (m : Team) : Nat := ((getGrid s m.grid).map (·.prio)).getD 0

/-- The team that a pre-emption for a grid takes next: of the lowest PRIO, and of those the longest resident (R358). -/
def victims (s : State) (g : Grid) : List Team :=
  let cand := s.disp.teams.filter fun m => m.saving.isNone && (layersOf s g.part).contains m.layer && decide (teamPrio s m < g.prio) &&
    decide (m.resident + tslice ≤ s.clock)
  let low := (leastOf (cand.map (teamPrio s))).getD 0
  let cand := cand.filter fun m => teamPrio s m == low
  let old := (leastOf (cand.map (·.resident))).getD 0
  cand.filter fun m => m.resident == old

/-- The teams that stop with one: it alone for a move; for a pre-emption, every team of a cooperative grid (R358). -/
def stopsTeam (s : State) (m : Team) (why : Option Nat) (x : Team) : Bool :=
  x.key == m.key || (((getGrid s m.grid).map (·.coop)).getD false && x.grid == m.grid && why.isNone)

/-- Teams told to stop. -/
def stopTeams (s : State) (m : Team) (why : Option Nat) : State :=
  withDisp s fun d => { d with teams := mapIf (stopsTeam s m why) (fun x => { x with saving := some why }) d.teams }

/-- A pre-emption may begin: no team that it stops is on a thermal move (R429), and their save blocks fit in the pool (R415). -/
def stopOk (s : State) (m : Team) : Bool :=
  let ms := s.disp.teams.filter (stopsTeam s m none)
  ms.all (fun x => x.saving.isNone) && !((getGrid s m.grid).any fun g => g.coop && g.saved.any fun b => b.move.isSome) && poolFits s ms

/-- PREEMPTION: a resident team is stopped for a waiting one, and, once it is quiet, saved. (R358, R414) -/
def execPreemption (gr : Nat) (team : Nat) (victim : Nat) (s : State) : Out :=
  need (getTeam s victim) fun m =>
    match m.saving with
    | some none => whenOk (teamQuiet s m) (.next (saveTeam s m))
    | some (some _) => stuck
    | none =>
      need (getGrid s gr) fun g =>
        let waits := (assoc g.waiting team).isSome || g.saved.any fun b => b.team.idx == team
        whenOk (waits && g.status == .running && (victims s g).any (fun v => v.key == victim) && !fitsSomewhere (withoutSaving s) g team && stopOk s m)
          (.next (stopTeams s m none))

/-- Whether a saved team may be restored on a layer by its turn: on the one that its move has chosen, or, where that has no place for it
any more, as any waiting team (R347, R429). -/
def restoreTurn (s : State) (g : Grid) (b : SaveBlock) (layer : Nat) : Bool :=
  match b.move with
  | some l => layer == l || ((restoreCores s g b l []).isNone && (restoreLayers s g b).contains layer)
  | none =>
    (restoreLayers s g b).contains layer &&
      !earlierFits s { grid := g.id, team := b.team.idx, layer := layer, saved := true }

/-- Saved teams restored one after another on listed cores, each on as many as it had, where each may be. -/
def restoreList (s : State) (g : Grid) : List SaveBlock → List Nat → Option State
  | [], cs => if cs.isEmpty then some s else none
  | b :: rest, cs =>
    let mine := cs.take b.team.cores.length
    let layer := layerOfCore (mine.headD 0)
    if layerOk s g.part layer && restoreTurn s g b layer && storesHome s b && restoreOk s g b layer mine
    then restoreList (restoreTeam s g b layer mine) g rest (cs.drop b.team.cores.length) else none

/-- The saved teams that are restored with one: it alone, or, for one that was pre-empted with its cooperative grid, all of them, once no
other team of the grid is left to save (R358). -/
def restoredWith (g : Grid) (b : SaveBlock) : List SaveBlock :=
  if !g.coop || b.move.isSome then [b]
  else if g.saved.length + g.doneTeams == g.nteam && g.saved.all fun x => x.move.isNone then g.saved
  else []

/-- RESTORE: A saved team is restored on allowed cores once its stores are home; the teams of a cooperative grid together. (R416, R45,
R347) -/
def execRestore (gr : Nat) (team : Nat) (cores : List Nat) (s : State) : Out :=
  need (getGrid s gr) fun g => need (g.saved.find? fun b => b.team.idx == team) fun b =>
    let bs := restoredWith g b
    whenOk (g.status == .running && (bs.head?.map (·.team.idx)) == some team) (need (restoreList s g bs cores) .next)

/-! ### Work donation (R359) -/

/-- The teams that a layer may ship, in its order: unstarted, of no cooperative grid, not reserving. -/
def shippable (s : State) (part layer : Nat) : List Waiting :=
  let mine := (s.disp.grids.filter fun g => g.status == .running && g.part == part && !g.coop).flatMap fun g =>
    (g.waiting.filter fun w => w.2.1 == layer && !(g.reserving.any fun r => r.1 == w.1)).map fun w =>
      ({ grid := g.id, team := w.1, layer := layer, saved := false } : Waiting)
  let rank (w : Waiting) : Nat := (mine.filter fun x => standsBefore s x w).length
  (List.range mine.length).filterMap fun i => mine.find? fun w => rank w == i

/-- A layer has a waiting team, fresh or saved, that it could admit; those of a cooperative grid only together. -/
def layerCanAdmit (s : State) (layer : Nat) : Bool :=
  (allWaiting s).any fun w => w.layer == layer && (getGrid s w.grid).any fun g =>
    layerOk s g.part layer && !reservedFrom s layer g w.team &&
      if g.coop then (layersFor s g w).contains layer
      else match g.saved.find? fun b => w.saved && b.team.idx == w.team with
        | some b => storesHome s b && (restoreCores s g b layer []).isSome
        | none => !w.saved && (fit s g layer).isSome

/-- Some team of a partition could be admitted on a layer. -/
def couldTake (s : State) (part layer : Nat) : Bool :=
  layerOk s part layer && s.disp.grids.any fun g => g.status == .running && g.part == part && !g.coop && !g.waiting.isEmpty && (fit s g layer).isSome

/-- STEAL_REQUEST: An idle dispatcher takes half of the unstarted teams of the first layer after its own that can ship. (R359) -/
def execStealRequest (part : Nat) (thief : Nat) (s : State) : Out :=
  whenOk (couldTake s part thief && !layerCanAdmit s thief) <|
    let others := ((List.range 15).map fun i => (thief + 1 + i) % 16).filter (partLayer s part)
    need (others.findSome? fun l => let ws := shippable s part l
      if ws.isEmpty then none else some ws) fun ws =>
        let go := ws.drop (ws.length - (ws.length + 1) / 2)
        let move (g : Grid) : Grid :=
          { g with waiting := mapIf (fun w => go.any fun x => x.grid == g.id && x.team == w.1) (fun w => (w.1, thief, w.2.2)) g.waiting }
        .next (withDisp s fun d => { d with grids := d.grids.map move })

/-! ### The classifier (R360) -/

/-- The class of a number of request bytes and issued instructions. -/
def classOfCounts (bytes instrs : Nat) : Nat := if bytes < 4 * instrs then 1 else if 16 * instrs ≤ bytes && instrs != 0 then 2 else 0

/-- CLASSIFY: The host's class of a new grid is taken, or that of its first team over its first 65,536 clocks. (R360) -/
def execClassify (gr : Nat) (s : State) : Out :=
  need (getGrid s gr) fun g =>
    match (openOn s (.classify gr)).bind (·.answer) with
    | some d => .next (putGrid (dropQ s (.classify gr)) { g with cls := if d < 3 then d else g.cls })
    | none => need g.classMeas fun (k, c, b, i) => need (getTeam s k) fun _ =>
      whenOk (decide (c + 65536 ≤ s.clock)) (.next (putGrid s { g with cls := classOfCounts b i, classMeas := none }))

/-! ### Thermal moves (R429) -/

/-- The hottest layer of a partition above 95 °C. -/
def hotLayer (s : State) (part : Nat) : Option Nat :=
  let ls := (partLayers s part).filter fun l => decide (95 < tempOf s l)
  let top := ls.foldl (fun m l => max m (tempOf s l)) 0
  ls.find? fun l => tempOf s l == top

/-- The team that a move takes: the longest resident on the layer without a move in the last 10 ms. -/
def movable (s : State) (part l : Nat) : Option Team :=
  let ts := s.disp.teams.filter fun m => m.layer == l && m.saving.isNone && ((getGrid s m.grid).map (·.part)) == some part &&
    (m.movedAt.map fun c => decide (c + clocksOfUs 10000 ≤ s.clock)).getD true
  let old := (leastOf (ts.map (·.resident))).getD 0
  ts.find? fun m => m.resident == old

/-- A resident team as a save block would hold it, but for what its matrix engines hold. -/
def blockOf (s : State) (m : Team) : SaveBlock := { team := m, threads := teamThreads s m, tiles := [], slots := [] }

/-- The coolest layer that may take a team under R43, at least 5 °C cooler than its own; none qualifies when every layer of the partition
is above 95 °C. -/
def coolLayer (s : State) (m : Team) (part l : Nat) : Option Nat :=
  (getGrid s m.grid).bind fun g =>
    let block := blockOf s m
    let cool := (partLayers s part).any fun d => decide (tempOf s d ≤ 95)
    let ok := (layersOf s part).filter fun d => cool && decide (tempOf s d + 5 ≤ tempOf s l) && !reservedFrom s d g m.idx && (restoreCores s g block d []).isSome
    let ok := prefer (fun d => (restoreCores s g block d (hintCores s g.cvhint)).isSome) ok
    let low := ok.foldl (fun x d => min x (tempOf s d)) (tempOf s l)
    ok.find? fun d => tempOf s d == low

/-- A team saved, and at once restored on the layer that its move has chosen, where it has a place there (R416). -/
def moveTeam (s : State) (m : Team) (d : Nat) : State :=
  let s1 := saveTeam s m
  ((getGrid s1 m.grid).bind fun g => (g.saved.find? fun b => b.team.key == m.key).bind fun b =>
    (restoreFit s1 g b d).map fun cs => restoreTeam s1 g b d cs).getD s1

/-- THERMAL_MOVE: a partition moves a team off its hottest layer: the team is stopped once function 6 confirms it, and, when it is
quiet and its stores are home, saved and at once restored on the layer of `cores`. (R429, R45, R416) -/
def execThermalMove (part : Nat) (team : Nat) (cores : List Nat) (s : State) : Out :=
  need (getTeam s team) fun m =>
    match m.saving with
    | some (some d) => whenOk (teamQuiet s m && storesHome s (blockOf s m)) (.next (moveTeam s m d))
    | some none => stuck
    | none =>
      need (hotLayer s part) fun l => need (movable s part l) fun v => need (coolLayer s v part l) fun d =>
        let free := ((s.power.lastMove.getD part none).map fun c => decide (c + clocksOfUs 1000 ≤ s.clock)).getD true
        whenOk (v.key == team && free && cores.all (fun c => layerOfCore c == d)) <|
          decided s (.thermal team d) 6 [m.grid, m.idx, l, d] 1 fun s go =>
            if go == 1 then
              .next { stopTeams s m (some d) with power := { s.power with lastMove := putAt none s.power.lastMove part (some s.clock) } }
            else .next s

end Sys2Proof.Machine
end

