-- ==== Sys2Proof/Machine/Ed448.lean ====
section
/-! DEFINITION. Ed448 as the device signs and verifies with it (R425, R426). PRESUMED (notes/assumptions/105.md): the spec names the scheme,
and RFC 8032 defines it: pure Ed448, with an empty context. -/

namespace Sys2Proof.Ed448

/-- The prime of the field. -/
def prime : Nat := 2 ^ 448 - 2 ^ 224 - 1

/-- The order of the base point. -/
def order : Nat := 2 ^ 446 - 13818066809895115352007386748515426880336692474882178609894547503885

/-- The constant of the curve x² + y² = 1 + d x² y², −39081. -/
def curveD : Nat := prime - 39081

/-- A power modulo the prime, by the exponent's bits from the highest of n. -/
def powBits (b e : Nat) : Nat → Nat
  | 0 => 1
  | n + 1 => let r := powBits b (e / 2) n; r * r % prime * (if e % 2 == 1 then b else 1) % prime

/-- A power modulo the prime. -/
def power (b e : Nat) : Nat := powBits (b % prime) e 448

/-- The inverse modulo the prime. -/
def inverse (a : Nat) : Nat := power a (prime - 2)

/-- A point in projective coordinates. -/
structure Point where
  x : Nat
  y : Nat
  z : Nat
  deriving DecidableEq, Repr, Inhabited

/-- The neutral point. -/
def zero : Point := { x := 0, y := 1, z := 1 }

/-- The base point. -/
def base : Point :=
  { x := 224580040295924300187604334099896036246789641632564134246125461686950415467406032909029192869357953282578032075146446173674602635247710
    y := 298819210078481492676017930443930673437544040154080242095928241372331506189835876003536878655418784733982303233503462500531545062832660
    z := 1 }

/-- The sum of two points. -/
def add (p q : Point) : Point :=
  let a := p.z * q.z % prime
  let b := a * a % prime
  let c := p.x * q.x % prime
  let d := p.y * q.y % prime
  let e := curveD * c % prime * d % prime
  let f := b + prime - e
  let g := b + e
  { x := a * f % prime * ((p.x + p.y) * (q.x + q.y) % prime + 2 * prime - c - d) % prime
    y := a * g % prime * (d + prime - c) % prime
    z := f * g % prime }

/-- A multiple of a point, by the factor's bits from the highest of n. -/
def timesBits (p : Point) (k : Nat) : Nat → Point
  | 0 => zero
  | n + 1 => let r := timesBits p (k / 2) n; let d := add r r; if k % 2 == 1 then add d p else d

/-- A multiple of a point. -/
def times (k : Nat) (p : Point) : Point := timesBits p k 456

/-- Whether two points are one. -/
def same (p q : Point) : Bool := p.x * q.z % prime == q.x * p.z % prime && p.y * q.z % prime == q.y * p.z % prime

/-- A point as 57 bytes: y, with the low bit of x above it. -/
def encodePoint (p : Point) : List Byte :=
  let i := inverse p.z
  bytesOfWord 57 (p.y * i % prime + p.x * i % prime % 2 * 2 ^ 455)

/-- The point of 57 bytes, where there is one. -/
def decodePoint (bs : List Byte) : Option Point :=
  let n := wordOfBytes bs
  let y := n % 2 ^ 455
  let sign := n / 2 ^ 455
  let u := (y * y + prime - 1) % prime
  let v := (curveD * (y * y % prime) + prime - 1) % prime
  let x := u * u % prime * u % prime * v % prime * power (power u 5 * power v 3) ((prime - 3) / 4) % prime
  if bs.length != 57 || prime ≤ y || v * x % prime * x % prime != u || (x == 0 && sign == 1) then none
  else some { x := if x % 2 == sign then x else prime - x, y := y, z := 1 }

/-- The prefix of every hash: the scheme's name, no prehash, no context. -/
def prefixed (bs : List Byte) : List Byte := [0x53, 0x69, 0x67, 0x45, 0x64, 0x34, 0x34, 0x38, 0, 0] ++ bs

/-- A hash as a number modulo the order. -/
def hashed (bs : List Byte) : Nat := wordOfBytes (shake912 (prefixed bs)) % order

/-- The scalar of a secret key: its low two bits and its last byte cleared, bit 447 set. -/
def scalarOf (secret : List Byte) : Nat := (wordOfBytes ((shake912 secret).take 57) % 2 ^ 447) / 4 * 4 + 2 ^ 447

/-- The public key of a secret key. -/
def publicKey (secret : List Byte) : List Byte := encodePoint (times (scalarOf secret) base)

/-- A signature of 114 bytes. -/
def sign (secret msg : List Byte) : List Byte :=
  let a := scalarOf secret
  let r := hashed ((shake912 secret).drop 57 ++ msg)
  let big := encodePoint (times r base)
  big ++ bytesOfWord 57 ((r + hashed (big ++ publicKey secret ++ msg) * a) % order)

/-- Whether a signature of a message verifies under a public key. -/
def verify (key msg sig : List Byte) : Bool :=
  match decodePoint key, decodePoint (sig.take 57) with
  | some a, some r =>
    let s := wordOfBytes (sig.drop 57)
    sig.length == 114 && decide (s < order) &&
      same (times (4 * s) base) (add (times 4 r) (times (4 * hashed (sig.take 57 ++ key ++ msg)) a))
  | _, _ => false

end Sys2Proof.Ed448
end

