-- ==== Sys2Proof/Machine/PageEvents.lean ====
section
/-! DEFINITION. Pages: walks (R319, R320), page-fault service and refusal (R336, R409), page placement (R300) and the capacity tier
(R304, R305). -/

namespace Sys2Proof.Machine

/-! ### Walks -/

/-- An entry put in a unit's part of a translation buffer, which holds n: a full part loses an entry of the device's choice, which is a
free value (R320; notes/assumptions/109.md). -/
def keepTlb (s : State) (n : Nat) (l : List TlbEntry) (e : TlbEntry) : List TlbEntry × State :=
  let rest := dropIf (fun x => x.core == e.core && x.page == e.page) l
  let mine := rest.filter fun x => x.core == e.core
  if mine.length < n then (rest ++ [e], s)
  else
    let (v, s1) := takeFree s
    (dropIf (fun x => some x == mine[v.toNat % n]?) rest ++ [e], s1)

/-- The outcome of a walk in a core's buffer of 1,024 entries (R320). -/
def keepFirst (s : State) (e : TlbEntry) : State :=
  let (l, s1) := keepTlb s 1024 s.mem.tlb e
  withMem s1 fun m => { m with tlb := l }

/-- A translation in a chiplet's buffer of 16,384 entries (R320). -/
def keepSecond (s : State) (e : TlbEntry) : State :=
  match e.res with
  | .leaf _ _ =>
    let (l, s1) := keepTlb s 16384 s.mem.tlb2 e
    withMem s1 fun m => { m with tlb2 := l }
  | _ => s

/-- Whether two pages of one owner share a byte: a caddy's accesses name 64 KiB of a page of any size (R317). -/
def pagesMeet (p q : PageKey) : Bool :=
  p.owner == q.owner && decide (p.va < q.va + pageBytes q.psz ∧ q.va < p.va + pageBytes p.psz)

/-- PAGE_WALK: The chiplet walker translates a missing page through the page tables; at most 64 walks run at once, in order of
arrival. (R320) -/
def execPageWalk (core : Nat) (page : PageKey) (s : State) : Out :=
  let ahead := s.mem.miss.takeWhile fun x => x != (core, page)
  whenOk (s.mem.miss.contains (core, page) && decide ((ahead.filter fun x => chipOfCore x.1 == chipOfCore core).length < 64)) <|
    let chip := chipOfCore core
    let known := (s.mem.tlb2.find? fun e => e.core == chip && e.page == page).map (·.res)
    let r := known.getD (walk s page.owner page.va page.psz)
    let s1 := withMem s fun m => { m with miss := dropIf (· == (core, page)) m.miss }
    .next (keepSecond (keepFirst s1 { core := core, page := page, res := r }) { core := chip, page := page, res := r })

/-- Translations of a page dropped everywhere (R320), those of a caddy within it among them. -/
def dropPage (s : State) (p : PageKey) : State :=
  withMem s fun m =>
    { m with tlb := dropIf (fun e => pagesMeet p e.page) m.tlb, tlb2 := dropIf (fun e => pagesMeet p e.page) m.tlb2
             miss := dropIf (fun x => pagesMeet p x.2) m.miss }

/-! ### Page-fault service (R336, R409) -/

/-- A thread parked on a page, with its access's address. -/
def parkedAt (p : PageKey) (t : Thread) : Option Nat :=
  match t.st with
  | .parked q a => if q == p then some a else none
  | _ => none

/-- Something waits on a page of this package. -/
def pageWanted (s : State) (p : PageKey) : Bool :=
  decide (p.psz < 4) && (s.threads.any (fun t => (parkedAt p t).isSome) || s.mem.parks.any fun x => x.page == p && !x.refused)

/-- What waits on a page goes on: threads issue their access again, units try theirs again. -/
def resumePage (s : State) (p : PageKey) : State :=
  let s := mapThreads s (fun t => (parkedAt p t).isSome) fun t => { t with st := .ready, readySince := mainClocks s t.core }
  dropPage (withMem s fun m => { m with parks := dropIf (fun x => x.page == p && !x.refused) m.parks }) p

/-- What waits within a page that has come goes on, and its translations are dropped. -/
def resumeWithin (s : State) (p : PageKey) : State :=
  let inside (t : Thread) : Bool := match t.st with
    | .parked q _ => pagesMeet p q
    | _ => false
  let s := mapThreads s inside fun t => { t with st := .ready, readySince := mainClocks s t.core }
  dropPage (withMem s fun m => { m with parks := dropIf (fun x => pagesMeet p x.page && !x.refused) m.parks }) p

/-- A page refused: its parked accesses raise PAGE_DENIED, and its units find it refused. -/
def refusePage (s : State) (p : PageKey) : State :=
  let deny (t : Thread) : Thread :=
    match parkedAt p t with
    | some a => faulted { t with stepped := false, blen := 0 } { code := .pageDenied, tpc := t.pc, addr := a }
    | none => t
  dropPage (withMem { s with threads := s.threads.map deny } fun m =>
    { m with parks := mapIf (fun x => x.page == p) (fun x => { x with refused := true }) m.parks }) p

/-- The offset of the leaf-level entry of an address, when the tables above it are there. -/
def leafSlot (tbl : Memory) (va psz : Nat) : Nat → Nat → Nat → Option Nat
  | 0, _, _ => none
  | fuel + 1, table, lvl =>
    if lvl == leafLevel psz then some (pteOffset table va lvl)
    else
      let pte := memNat tbl (pteOffset table va lvl) 8
      if bitOf pte 0 && !bitOf pte 1 then leafSlot tbl va psz fuel (pteAddr pte) (lvl + 1) else none

/-- A page table entry written. -/
def putPte (s : State) (o pte : Nat) : State := withMem s fun m => { m with tbl := memWrite m.tbl o (bytesOfWord 8 pte) }

/-- The words that name a page in an event. -/
def pageArgs (p : PageKey) : List Nat := [p.owner, p.va % 2 ^ 32, p.va / 2 ^ 32, p.psz]

/-- PAGE_SERVICED: A page is present, or the host had it mapped (its leaf is written at `adr` with `rot`), and what waits on it goes
on. (R336, R409) -/
def execPageServiced (page : PageKey) (adr : Nat) (rot : Nat) (s : State) : Out :=
  whenOk (pageWanted s page) <|
    match walk s page.owner page.va page.psz with
    | .leaf _ _ => .next (resumePage (dropQ s (.pageFault page)) page)
    | .missing false =>
      need ((ownerRec s page.owner).bind fun r => leafSlot s.mem.tbl page.va page.psz 4 r.proot 0) fun o =>
        whenOk ((openOn s (.pageFault page)).bind (·.answer) == some 1 && decide (adr % 4096 = 0 ∧ adr < 2 ^ 48 ∧ rot < 8)) <|
          .next (resumePage (putPte (dropQ s (.pageFault page)) o (adr + 8 * rot + 3)) page)
    | _ => stuck

/-- PAGE_REFUSED: Function 3 refuses a page, and the parked access raises PAGE_DENIED. (R336, R409) -/
def execPageRefused (page : PageKey) (s : State) : Out :=
  whenOk (pageWanted s page) <|
    match walk s page.owner page.va page.psz with
    | .missing false => decided s (.pageFault page) 3 (pageArgs page) 0 fun s d => if d == 0 then .next (refusePage s page) else stuck
    | .denied => .next (refusePage (dropQ s (.pageFault page)) page)
    | _ => stuck

/-! ### Where a page's atoms are -/

/-- The interleave of a page: that of the owner's first valid entry that covers it; PACKAGE for a caddy's (R306). -/
def pageMode (s : State) (p : PageKey) : Option (Nat × Nat) :=
  if p.psz == 3 then some (0, 0)
  else (ownerRec s p.owner).bind fun r =>
    ((List.range r.bcnt).findSome? fun i =>
      (bufWords s p.owner i).bind fun ws =>
        let e := decodeBuf ws
        if bufValid s p.owner ws && e.kind == 0 && e.psz == p.psz && decide (p.va < e.base + e.len ∧ e.base < p.va + pageBytes p.psz)
        then some (e.mode, e.stk) else none)

/-- A page as its leaf places it: interleave, entry, level. -/
structure PagePlace where
  mode : Nat
  stk : Nat
  pte : Nat
  lvl : Nat
  deriving DecidableEq, Repr

/-- The bytes of a page's share in each stack. -/
def PagePlace.share (x : PagePlace) : Nat := levelBytes x.lvl / stackCount x.mode x.stk

/-- Whether a physical address lies in a page. -/
def PagePlace.holds (x : PagePlace) (a : Nat) : Bool :=
  (stackSet x.mode x.stk).contains (a / 2 ^ 48) && decide (pteAddr x.pte ≤ a % 2 ^ 48 ∧ a % 2 ^ 48 < pteAddr x.pte + x.share)

/-- The offset in the page of a physical address that it holds. -/
def PagePlace.offset (x : PagePlace) (va a : Nat) : Option Nat :=
  let n := stackCount x.mode x.stk
  let l := a % 2 ^ 48 - pteAddr x.pte
  ((List.range n).find? fun j => homeStack x.mode x.stk (va + (l / 4096 * n + j) * 4096) (pteRot x.pte) == a / 2 ^ 48).map
    fun j => (l / 4096 * n + j) * 4096 + l % 4096

/-- The physical address of an offset in a page. -/
def PagePlace.addr (x : PagePlace) (va o : Nat) : Nat := physOf x.mode x.stk (va + o) x.pte x.lvl

/-- An access in flight that has translated through a page. -/
def pageBusy (s : State) (x : PagePlace) : Bool :=
  let mine (t : Target) : Bool := t.pkg.isNone && x.holds t.phys
  s.mem.ops.any (fun q => mine q.tgt) || s.mem.reqs.any (fun r => !r.scratch && mine r.tgt)

/-- Near-memory commands hold a page, or a page within it (R259). -/
def pagePinned (s : State) (p : PageKey) : Bool := s.eng.nm.any fun c => c.pages.any (pagesMeet p)

/-- Whether a key names a page of this package: one of a size of R319, at a multiple of it. -/
def pageNamed (p : PageKey) : Bool := decide (p.psz ≤ 3) && p.va % pageBytes p.psz == 0

/-- The clock at which a page was last used, 0 for one that has not been. -/
def lastUse (s : State) (p : PageKey) : Nat := (s.mem.pageUse.filter fun u => pagesMeet p u.1).foldl (fun m u => max m u.2) 0

/-- A page's bytes and side information by offset, and the memory without them. -/
def liftPage (s : State) (p : PageKey) (x : PagePlace) : Memory × List (Nat × AtomInfo) × State :=
  let bytes := (s.mem.hbm.filter fun c => x.holds c.1).filterMap fun c => (x.offset p.va c.1).map fun o => (o, c.2)
  let infos := (s.mem.atoms.filter fun c => x.holds (32 * c.1)).filterMap fun c => (x.offset p.va (32 * c.1)).map fun o => (o / 32, c.2)
  (memPut [] bytes, infos.foldl (fun l i => infoSet l i.1 i.2) [],
    withMem s fun m => { m with hbm := m.hbm.filter fun c => !x.holds c.1, atoms := m.atoms.filter fun c => !x.holds (32 * c.1) })

/-- A page's bytes and side information put down in a frame, whose own are gone (R304). -/
def dropInto (s : State) (p : PageKey) (x : PagePlace) (bytes : Memory) (infos : List (Nat × AtomInfo)) : State :=
  withMem s fun m =>
    { m with hbm := memPut (m.hbm.filter fun c => !x.holds c.1) (bytes.map fun c => (x.addr p.va c.1, c.2))
             atoms := infos.foldl (fun l i => infoSet l (x.addr p.va (32 * i.1) / 32) i.2) (m.atoms.filter fun c => !x.holds (32 * c.1)) }

/-- The lines of a page's frame leave every L1: the L1 names lines by address, and the frame holds other data after a move (R300). -/
def dropFrame (s : State) (x : PagePlace) : State :=
  withMem s fun m => { m with l1 := m.l1.map fun c => (c.1, dropIf (fun l => decide (l.line < 2 ^ 64) && x.holds l.line) c.2) }

/-- The shards that a page of a caddy's owner holds, as the migration engine writes them (R306): the bytes of each generation that is
LOADING, in ascending order, as the engine finds them in `src`. -/
def noteMigrated (src s : State) (p : PageKey) : State :=
  let gens := (List.range 256).flatMap fun slot => if caddyEn s slot && caddyTag s slot == p.owner then [(slot, 0), (slot, 1)] else []
  (gens.filter fun x => (caddyOf s x.1).state.getD x.2 0 == 1).foldl (fun s x =>
    let base := caddyBase s x.1 x.2
    let lo := max base p.va - base
    let hi := min (base + caddyLen s x.1 x.2) (p.va + pageBytes p.psz) - base
    (List.range ((hi - lo + 63) / 64)).foldl (fun s i =>
      noteCaddyBytes s x.1 x.2 (lo + 64 * i) ((caddyLine src p.owner (base + lo + 64 * i)).take (hi - lo - 64 * i))) s) s

/-- A page put in transit: TRANS is set, and its translations are dropped (R300, R320). -/
def beginTransit (s : State) (p : PageKey) (o pte : Nat) (dst : Option Nat) : State :=
  dropPage (putPte (withMem s fun m => { m with transit := m.transit ++ [(p, dst)] }) o (pte + 2 ^ 6)) p

/-- A page's entry, if it is in transit to a place. -/
def inTransit (s : State) (p : PageKey) : Option (Option Nat) := assoc s.mem.transit p

/-- A transit ended: the entry is written without TRANS, and what waits on the page goes on. -/
def endTransit (s : State) (p : PageKey) (o pte : Nat) : State :=
  resumeWithin (putPte (withMem s fun m => { m with transit := dropIf (fun x => x.1 == p) m.transit }) o pte) p

/-- ROT of an entry replaced. -/
def withRot (pte rot : Nat) : Nat := pte - 8 * pteRot pte + 8 * rot

/-- The level of a page's leaf: a page of a caddy is a leaf of 64 KiB. -/
def pageLevel (p : PageKey) : Nat := if p.psz == 3 then 3 else leafLevel p.psz

/-- A leaf in place: the offset and value of its entry, and its level. -/
def leafOf (s : State) (p : PageKey) : Option (Nat × Nat × Nat) :=
  ((ownerRec s p.owner).bind fun r => leafSlot s.mem.tbl p.va (if p.psz == 3 then 0 else p.psz) 4 r.proot 0).bind fun o =>
    let pte := memNat s.mem.tbl o 8
    if bitOf pte 0 && bitOf pte 1 then some (o, pte, pageLevel p) else none

/-- PAGE_MIGRATION: The migration engine moves a page to the rotation that function 1 decides: first the page is put in transit; once
its accesses in flight are done, its atoms, tags and poison are moved. `rot` is what it proposes. (R300) -/
def execPageMigration (page : PageKey) (rot : Nat) (s : State) : Out :=
  need (leafOf s page) fun (o, pte, lvl) => need (pageMode s page) fun (mode, stk) =>
    let x : PagePlace := { mode := mode, stk := stk, pte := pte, lvl := lvl }
    whenOk (mode != 1 && mode != 4 && pageNamed page && !pagePinned s page) <|
      match inTransit s page with
      | none =>
        whenOk (!bitOf pte 6) <|
          decided s (.pageRot page) 1 (pageArgs page ++ [rot]) (pteRot pte) fun s d =>
            if d == pteRot pte || 8 ≤ d then .next s else .next (beginTransit s page o pte (some d))
      | some (some r) =>
        whenOk (!pageBusy s x) <|
          let (bytes, infos, s) := liftPage s page x
          let pte' := withRot (pte - 2 ^ 6) r
          let y : PagePlace := { x with pte := pte' }
          .next (endTransit (dropFrame (dropFrame (dropInto s page y bytes infos) x) y) page o pte')
      | some none => stuck

/-- The pages that the migration engine may send to the tier now: those that a thread has used, not pinned and not moving (R259, R304). -/
def tierMovable (s : State) (p : PageKey) : Bool :=
  (leafOf s p).any (fun x => !bitOf x.2.1 6) && (pageMode s p).any (fun m => m.1 != 4) && pageNamed p && !pagePinned s p

/-- The migration engine's own choice of a page: no page that it may send has been used less recently (R336). DESIGN CHOICE
(notes/assumptions/143.md): a use is a thread's access. -/
def leastUsed (s : State) (p : PageKey) : Bool :=
  s.mem.pageUse.all fun u => pagesMeet p u.1 || !tierMovable s u.1 || decide (lastUse s p ≤ lastUse s u.1)

/-- A page sent to the tier (R304, R305): the one that has been used least recently, or the one that the host, asked, sends (R336). -/
def tierOut (s : State) (page : PageKey) : Out :=
  need (leafOf s page) fun (o, pte, lvl) => need (pageMode s page) fun (mode, stk) =>
    let x : PagePlace := { mode := mode, stk := stk, pte := pte, lvl := lvl }
    whenOk (mode != 4 && pageNamed page && !pagePinned s page) <|
      match inTransit s page with
      | none =>
        let asked := fnHost s 2 || (openOn s (.tier page)).isSome
        whenOk (!bitOf pte 6 && (leastUsed s page || asked)) <|
          decided s (.tier page) 2 (pageArgs page) (boolNat (leastUsed s page)) fun s d => if d == 1 then .next (beginTransit s page o pte none) else .next s
      | some none =>
        whenOk (!pageBusy s x) <|
          let (bytes, infos, s) := liftPage s page x
          let s := withMem (dropFrame s x) fun m => { m with tier := m.tier ++ [{ page := page, bytes := bytes, infos := infos }] }
          -- what waits on the page waits on, until it is brought in
          .next (dropPage (putPte (withMem s fun m => { m with transit := dropIf (fun x => x.1 == page) m.transit }) o (pte - 2 ^ 6 - 1 + 2 ^ 8)) page)
      | some (some _) => stuck

/-- A page brought in from the tier: it is put in transit, and then its bytes, tags and poison are put down and its entry is written. -/
def tierIn (s : State) (page : PageKey) (adr : Nat) : Out :=
  need (s.mem.tier.find? fun t => t.page == page) fun t => need (walkSlot s page.owner page.va page.psz) fun o =>
    need (pageMode s page) fun (mode, stk) =>
      let pte := memNat s.mem.tbl o 8
      whenOk (!bitOf pte 0 && bitOf pte 8 && decide (adr % 4096 = 0 ∧ adr < 2 ^ 48)) <|
        match inTransit s page with
        | none => .next (beginTransit s page o pte none)
        | some _ =>
          let pte' := adr + 8 * pteRot pte + 3
          let x : PagePlace := { mode := mode, stk := stk, pte := pte', lvl := pageLevel page }
          let s1 := withMem s fun m => { m with tier := dropIf (fun x => x.page == page) m.tier }
          .next (endTransit (noteMigrated s (dropFrame (dropInto s1 page x t.bytes t.infos) x) page) page o pte')

/-- TIER_MIGRATION: The migration engine moves a page between HBM and the capacity tier. (R304) -/
def execTierMigration (page : PageKey) (inward : Bool) (adr : Nat) (s : State) : Out := if inward then tierIn s page adr else tierOut s page

end Sys2Proof.Machine
end

