-- ==== Sys2Proof/Machine/HostEvents.lean ====
section
/-! DEFINITION. What the host and the other packages do to the device: register writes (R278 to R284), queue windows (R342), CXL.mem (R302,
R312, R419), bring-up (R420 to R423), attestation (R426), reset, and the Etlen Link (R424). -/

namespace Sys2Proof.Machine

/-- The register page answers: not after a failed bring-up (R422). -/
def pageAnswers (s : State) : Bool := s.regs.state != 15

/-- The device registers changed. -/
def withRegs (s : State) (f : Regs → Regs) : State := { s with regs := f s.regs }

/-! ### KICK and KSTAT (R283, R284) -/

/-- Bits of a partition's KSTAT set. -/
def setKstat (s : State) (part bits : Nat) : State :=
  withRegs s fun r => { r with kstat := putAt 0 r.kstat part ((r.kstat.getD part 0) ||| bits) }

/-- KICK: A 64-bit write to KICK queues a graph kick in the partition's FIFO, with the caddy pins and the switch count of its clock; one that
is dropped sets KSTAT. (R283, R308) -/
def execKick (part : Nat) (val : Quad) (wide : Bool) (s : State) : Out :=
  let v := val.toNat
  let g := v % 2 ^ 8
  let owner := partOwner s part
  let full := decide (16 ≤ (s.disp.kicks.filter fun k => k.part == part && k.queue.isNone).length)
  let bad := bitsOf v 15 8 != 0 || !graphResident s g || graphOwner s g != owner
  .next (if !pageAnswers s || 16 ≤ part then s
    else if !wide then setKstat s part (2 ^ 10)
    else if !isReady s then s
    else if full || bad then setKstat s part (2 ^ 8 * boolNat full + 2 ^ 9 * boolNat bad)
    else
      let kick : Kick :=
        { part := part, owner := owner, graph := g, patch := BitVec.ofNat 64 (v / 2 ^ 16 * 2 ^ 16), pins := currentPins s, cadgen := s.disp.cadCount }
      withDisp (pinCaddies s) fun d => { d with kicks := d.kicks ++ [kick] })

/-- Bits of a register that a write of ones clears. -/
def clearBits (x w mask : Nat) : Nat := x - (x &&& w &&& mask)

/-- KSTAT written: the bits written 1 are cleared (R284). -/
def kstatWrite (s : State) (part : Nat) (val : Word) : State :=
  if pageAnswers s && decide (part < 16) then
    withRegs s fun r => { r with kstat := putAt 0 r.kstat part (clearBits (r.kstat.getD part 0) val.toNat 0x700) }
  else s

/-- KSTAT_WRITE: A write clears KSTAT bits written 1. (R284) -/
def execKstatWrite (part : Nat) (val : Word) (s : State) : Out := .next (kstatWrite s part val)

/-! ### PARTn, REGSEL, LBUDGETn, DEVERR (R279 to R282) -/

/-- Bits of DEVERR set. -/
def setDeverr (s : State) (bits : Nat) : State := withRegs s fun r => { r with deverr := r.deverr ||| bits }

/-- A layer that another partition has, or is still to give up (R279). -/
def layerTaken (s : State) (n l : Nat) : Bool :=
  (List.range 16).any (fun m => m != n && partEn s m && partLayer s m l) || s.regs.premove.any fun p => p.1 != n && p.2 == l

/-- A partition's team is resident on a layer. -/
def partOnLayer (s : State) (n l : Nat) : Bool := s.disp.teams.any fun m => m.layer == l && ((getGrid s m.grid).map (·.part)) == some n

/-- PARTn written (R279). -/
def partWrite (s : State) (n : Nat) (val : Word) : State :=
  let v := val.toNat
  let en := bitOf v 31
  let overlap := en && (List.range 16).any fun l => bitOf v l && layerTaken s n l
  let owner := bitsOf v 30 28 != 0 || (en && bitsOf v 27 16 == 0)
  let has (l : Nat) : Bool := en && bitOf v l
  let lost := (List.range 16).filter fun l => partEn s n && partLayer s n l && !has l && partOnLayer s n l
  if !pageAnswers s || 16 ≤ n then s
  else if overlap || owner then setDeverr s (boolNat overlap + 2 * boolNat owner)
  else withRegs s fun r =>
    { r with parts := putAt 0 r.parts n val, premove := (dropIf (fun p => p.1 == n && has p.2) r.premove) ++ lost.map fun l => (n, l) }

/-- REGSEL written (R280). -/
def regselWrite (s : State) (val : Word) : State :=
  if pageAnswers s then settleLayers (withRegs s fun r => { r with regsel := val }) else s

/-- LBUDGETn written (R281). -/
def lbudgetWrite (s : State) (n : Nat) (val : Word) : State :=
  if !pageAnswers s || 16 ≤ n then s
  else if val.toNat < 0x0A0 || 0x3E8 < val.toNat then setDeverr s 4
  else withRegs s fun r => { r with lbudget := putAt 0 r.lbudget n val }

/-- DEVERR written: the bits written 1 are cleared (R282). -/
def deverrWrite (s : State) (val : Word) : State :=
  if pageAnswers s then withRegs s fun r => { r with deverr := clearBits r.deverr val.toNat 7 } else s

/-- PART_WRITE: A write to PARTn defines or disables a tenant partition. (R279) -/
def execPartWrite (n : Nat) (val : Word) (s : State) : Out := .next (partWrite s n val)

/-- REGSEL_WRITE: A write to REGSEL assigns layers to regulators; a layer that holds a team switches later. (R280) -/
def execRegselWrite (val : Word) (s : State) : Out := .next (regselWrite s val)

/-- LBUDGET_WRITE: A write to LBUDGETn sets a layer's power budget. (R281) -/
def execLbudgetWrite (n : Nat) (val : Word) (s : State) : Out := .next (lbudgetWrite s n val)

/-- DEVERR_WRITE: A write clears DEVERR bits written 1. (R282) -/
def execDeverrWrite (val : Word) (s : State) : Out := .next (deverrWrite s val)

/-- A 32-bit write to the device register at an offset (R278 Table 6): each register's own write; a write of half of KICK only sets
KSTAT[10] (R283); a write to DEVSTAT, or at an offset that the table does not list, is ignored. -/
def deviceWrite (s : State) (off : Nat) (val : Word) : State :=
  let n := off % 64 / 4
  let page := (off - 0x10000) / 0x1000
  let part := off - 0x10000 - 0x1000 * page
  if off % 4 != 0 then s
  else if off / 64 == 4 then partWrite s n val
  else if off == 0x140 then regselWrite s val
  else if off / 64 == 6 then lbudgetWrite s n val
  else if off == 0x1C4 then deverrWrite s val
  else if 0x10000 ≤ off && decide (page < 16) then
    (if part < 8 then (if pageAnswers s then setKstat s page (2 ^ 10) else s) else if part == 8 then kstatWrite s page val else s)
  else s

/-- REGISTER_WRITE: A 32-bit write at an offset of the device registers, or of the DVSEC: the addresses of R420 are kept, and a write that
no register takes is ignored. (R278, R420) -/
def execRegisterWrite (dvsec : Bool) (off : Nat) (val : Word) (s : State) : Out :=
  .next (if !dvsec then deviceWrite s off val
    else match off with
      | 0x0C => withRegs s fun r => { r with bootlo := val &&& 0xFFFFF000 }
      | 0x10 => withRegs s fun r => { r with boothi := val }
      | 0x1C => withRegs s fun r => { r with attlo := val }
      | 0x20 => withRegs s fun r => { r with atthi := val }
      | _ => s)

/-! ### Reads of registers (R278, R282, R284, R420) -/

/-- DEVSTAT: bit 16 + l, layer l is pending removal from a partition; bit l, it is pending a regulator switch (R279, R280, R282). -/
def devstat (s : State) : Nat :=
  ((List.range 16).map fun l => 2 ^ l * boolNat (preswitch s l) + 2 ^ (16 + l) * boolNat (s.regs.premove.any fun p => p.2 == l)).sum

/-- KSTAT: its W1C bits, and the kicks in the partition's FIFO (R284). -/
def kstatValue (s : State) (part : Nat) : Nat :=
  s.regs.kstat.getD part 0 + (s.disp.kicks.filter fun k => k.part == part && k.queue.isNone).length

/-- The device register at an offset (R278 Table 6). KICK is only written; an offset that the table does not list reads 0. -/
def deviceRegister (s : State) (off : Nat) : Nat :=
  let n := off % 64 / 4
  let page := (off - 0x10000) / 0x1000
  if off % 4 != 0 then 0
  else if off / 64 == 4 then (s.regs.parts.getD n 0).toNat
  else if off == 0x140 then s.regs.regsel.toNat
  else if off / 64 == 6 then (s.regs.lbudget.getD n 0).toNat
  else if off == 0x1C0 then devstat s
  else if off == 0x1C4 then s.regs.deverr
  else if 0x10000 ≤ off && decide (page < 16) && (off - 0x10000) % 0x1000 == 8 then kstatValue s page
  else 0

/-- The DVSEC register at an offset (R420 Table 1). GO and ATTGO are only written; bits that the table does not list read 0. -/
def dvsecRegister (s : State) (off : Nat) : Nat :=
  match off with
  | 0x0C => s.regs.bootlo.toNat
  | 0x10 => s.regs.boothi.toNat
  | 0x18 => s.regs.state + 2 ^ 8 * s.regs.err
  | 0x1C => s.regs.attlo.toNat
  | 0x20 => s.regs.atthi.toNat
  | 0x24 => 2 * boolNat s.regs.attbusy
  | _ => 0

/-- What the host reads from a register: it changes none, so no row of the table of operations stands for it. -/
def registerRead (s : State) (dvsec : Bool) (off : Nat) : Word :=
  word (if dvsec then dvsecRegister s off else if pageAnswers s then deviceRegister s off else 0)

/-- A read of a register by the host: it comes after the kicks of its clock (R284). -/
def readRegister (s : State) (dvsec : Bool) (off : Nat) : Out :=
  whenOk (decide (s.phase ≤ 2)) (.next (answered { s with phase := 2 } [registerRead s dvsec off] false))

/-! ### Reset and bring-up (R421, R422, R425) -/

/-- MODULE_RESET: Module reset returns the device to STATE RESET with reset values. What lies outside the module stays, and so do the
schedule and the count of free values, which are the model's own. (R422) -/
def execModuleReset (s : State) : Out :=
  .next { State.reset with
    mem := { ({} : MemSys) with hostMem := s.mem.hostMem, pods := s.mem.pods }
    sched := s.sched, free := s.free }

/-- The bytes of an address in the host's memory. -/
def hostBytes (s : State) (a n : Nat) : List Byte := memRead s.mem.hostMem a n

/-- A word of the boot descriptor. -/
def bootWord (s : State) (i : Nat) : Nat := memNat s.mem.hostMem (s.regs.bootlo.toNat + 2 ^ 32 * s.regs.boothi.toNat + 4 * i) 4

/-- The boot descriptor is within R421: no reserved bit, sizes in range. -/
def bootOk (s : State) : Bool :=
  let w := bootWord s
  decide (2 ≤ w 4 ∧ 1 ≤ w 5 ∧ 242 ≤ w 2) && w 6 / 2 ^ 15 == 0 && bitsOf (w 6) 7 6 == 0 && decide (1 ≤ bitsOf (w 6) 14 8 ∧ bitsOf (w 6) 14 8 ≤ 64) &&
    (List.range 9).all (fun i => w (7 + i) == 0) && decide (w 5 * 2 ^ 20 + 0x68000 ≤ w 4 * 2 ^ 26 ∧ (w 3 + w 4) * 2 ^ 26 ≤ 8 * stackBytes)

/-- The image's bytes. -/
def imageBytes (s : State) : List Byte := hostBytes s (bootWord s 0 + 2 ^ 32 * bootWord s 1) (bootWord s 2)

/-- Bytes filled up with zeros, or cut, to a length. -/
def padTo (n : Nat) (bs : List Byte) : List Byte := (bs ++ List.replicate n 0).take n

/-- An image is what R425 says, and its signature over header and body verifies under the root key. -/
def imageOk (bs : List Byte) : Bool :=
  let n (o k : Nat) : Nat := wordOfBytes ((bs.drop o).take k)
  n 0 4 == 0x454C5446 && 128 + n 8 4 + 114 == bs.length && (bs.drop 12).take 32 == shake256 ((bs.drop 128).take (n 8 4)) &&
    ((bs.drop 44).take 84).all (· == 0) &&
    Ed448.verify (padTo 57 Config.rootKey) (bs.take (128 + n 8 4)) (bs.drop (128 + n 8 4))

/-- A bring-up that failed (R422 Table 3). -/
def bootFail (s : State) (code : Nat) : State := withRegs s fun r => { r with state := 15, err := code }

/-- The machine after a bring-up that succeeded (R422 Table 2): memory tagless, the table region zero, registers at their reset values, and
the ports up that were trained. -/
def bootDone (s : State) (inp : BringUp) : State :=
  let w := bootWord s
  let bs := imageBytes s
  let fresh : Regs := {}
  { s with
    mem := { s.mem with hbm := [], atoms := [], tbl := [], keys := [] }
    regs := { s.regs with
      state := 3, err := 0, parts := fresh.parts, regsel := fresh.regsel, regActive := fresh.regActive, lbudget := fresh.lbudget
      pkg := bitsOf (w 6) 5 0, npkg := bitsOf (w 6) 14 8, tblBase := w 3, tblSize := w 4, savePool := w 5
      ports := (inp.ports ++ List.replicate 12 false).take 12, bootIn := none
      fwVersion := word (wordOfBytes ((bs.drop 4).take 4)), fwDigest := (bs.drop 12).take 32 } }

/-- GO: Writing GO starts bring-up, which meets `inp` outside the module; ignored unless STATE is RESET. (R422) -/
def execGo (inp : BringUp) (s : State) : Out :=
  .next (if s.regs.state != 0 then s else withRegs s fun r => { r with state := 1, bootIn := some inp })

/-- LOADING: the descriptor and the image are read and verified (R421, R425). -/
def bootLoad (s : State) (inp : BringUp) : State :=
  let bs := imageBytes s
  if !bootOk s then bootFail s 1
  else if !inp.imageRead then bootFail s 2
  else if !imageOk bs then bootFail s 3
  else if wordOfBytes ((bs.drop 4).take 4) < Config.fusedMinimum then bootFail s 4
  else withRegs s fun r => { r with state := 2 }

/-- Bring-up is under way. -/
def booting (s : State) : Bool := s.regs.state == 1 || s.regs.state == 2

/-- The next step of the bring-up that GO has started (R422 Table 2): from LOADING to TRAINING, and from there to READY; or a failure. -/
def bootStep (s : State) : Out :=
  need s.regs.bootIn fun inp => whenOk (booting s) <|
    .next (if s.regs.state == 1 then bootLoad s inp else if inp.trained then bootDone s inp else bootFail s 5)

/-! ### Attestation (R426) -/

/-- The address of an attestation request. -/
def attAddr (s : State) : Nat := s.regs.attlo.toNat / 64 * 64 + 2 ^ 32 * s.regs.atthi.toNat

/-- ATTGO: Writing ATTGO reads a request and starts production of one attestation report; ignored unless STATE is READY and none is under
way. (R420, R426) -/
def execAttgo (s : State) : Out :=
  .next (if isReady s && !s.regs.attbusy then withRegs s fun r => { r with attbusy := true, attReq := (attAddr s, hostBytes s (attAddr s) 32) } else s)

/-- The device's secret key, and its public key (R426). -/
def identitySecret : List Byte := padTo 57 Config.identitySecret

@[inherit_doc identitySecret] def identityKey : List Byte := Ed448.publicKey identitySecret

/-- The report for a nonce (R426): nonce, identity key, version, body digest, digest of the function mode entries, signature. -/
def attReport (s : State) (nonce : List Byte) : List Byte :=
  let body := padTo 32 nonce ++ identityKey ++ bytesOfWord 4 s.regs.fwVersion.toNat ++ padTo 32 s.regs.fwDigest ++
    padTo 32 (shake256 (s.disp.fnModes.flatMap fun f => bytesOf f.raw))
  padTo 320 (body ++ Ed448.sign identitySecret body)

/-- ATTESTATION_REPORT_DONE: The report is written at the request's address plus 64, and ATTBUSY clears. (R426) -/
def execAttestationReportDone (s : State) : Out :=
  let (a, nonce) := s.regs.attReq
  whenOk s.regs.attbusy <|
    .next (withRegs (withMem s fun m => { m with hostMem := memWrite m.hostMem (a + 64) (attReport s nonce) }) fun r => { r with attbusy := false })

/-! ### Queue windows (R342) -/

/-- What a host read returned. -/
def answer (s : State) (ws : List Word) : State := answered s ws false

/-- A line of sixteen words. -/
def lineOf16 (ws : List Word) : List Word := (ws ++ List.replicate 16 0).take 16

/-- A push that waits behind others of its queue for a ring page. -/
def laterPush (s : State) (q : Nat) (es : List (List Word)) : State :=
  withDisp s fun d =>
    { d with qops := d.qops ++ [{ q := q, thread := hostPusher, kind := if es.length == 2 then .pushD else .push, d := 0, words := es.flatten,
                                  after := 0, left := s.clock }] }

/-- A push of a line. -/
def hostPush (s : State) (q : Nat) (line : List Word) : State :=
  if !isReady s then s
  else match queueFor s q with
    | none => addDrop s q
    | some x =>
      let ws := lineOf16 line
      let es := if x.kind == 1 then [ws.take 8, ws.drop 8] else [ws.take 8]
      if x.stopped.isSome || !x.room es.length then addDrop s q
      else if pushesWait s q then laterPush s q es
      else match pushAll s q (es.map fun e => { words := e }) with
        | .done s1 _ => s1
        | .page _ => laterPush s q es
        | .fault s1 => addDrop s1 q
        | .cannot => addDrop s q

/-- A read of a window's line 1: a pop. -/
def hostPop (s : State) (q : Nat) : Out :=
  let nothing : Out := .next (answer s (lineOf16 []))
  match queueFor s q with
  | none => nothing
  | some x =>
    if !isReady s || x.kind == 1 || x.stopped.isSome || x.fifo.isEmpty then nothing
    else if ringHeld s q then stuck
    else match popOne s q with
      | .done s1 es => .next (answer s1 (lineOf16 (((es.head?.map (·.words)).getD []).take 8 ++ [1])))
      | .page p => unitWait s (.ring q) p
      | _ => nothing

/-- A read of a window's line 0: the entry count and DROPS. -/
def hostStatus (s : State) (q : Nat) : State :=
  let x := s.disp.queues.find? fun x => x.q == q
  answer s (lineOf16 (if isReady s then [word (((queueFor s q).map (·.count)).getD 0), word ((x.map (·.drops)).getD 0)] else []))

/-- HOST_QUEUE_PUSH: A host write of window line 0 pushes an entry or launch packet. (R342) -/
def execHostQueuePush (q : Nat) (line : List Word) (s : State) : Out := .next (hostPush s q line)

/-- HOST_QUEUE_POP: A host read of window line 1 pops an entry. (R342) -/
def execHostQueuePop (q : Nat) (s : State) : Out := hostPop s q

/-- HOST_QUEUE_STATUS: A host read of window line 0 returns the entry count and DROPS. (R342) -/
def execHostQueueStatus (q : Nat) (s : State) : Out := .next (hostStatus s q)

/-! ### CXL.mem (R302, R312, R383, R419) -/

/-- A line of a debug window as the host reads it (R383 Table 2). -/
def debugLine (s : State) (part line : Nat) : List Word :=
  let d := debugOf s part
  let quads (k : Nat) : List Word := (List.range 8).flatMap fun i => wordsOfNat 2 (d.pcntEnd.getD (k + i) 0)
  match line with
  | 0 => [word (2 ^ 31 * boolNat d.attach), word d.target, word d.evq, word d.sper] ++ wordsOfNat 4 d.trcen.toNat ++ [word d.smode]
  | 1 => (List.range 8).flatMap fun i => [word (d.bpc.getD i 0), word (2 * d.bmode.getD i 0 + boolNat (d.ben.getD i false))]
  | 2 => (List.range 4).flatMap fun i => wordsOfNat 2 (d.wptr.getD i 0) ++ [word (d.wlen.getD i 0), word (4 * d.wmode.getD i 0 + d.wact.getD i 0)]
  | 3 => [word ((allThreads s).filter fun t => t.grid == d.target && t.stopped).length]
  | 4 => quads 0
  | 5 => quads 8
  | _ => []

/-- A command of a debug window (R383, R387, R388). -/
def debugCommand (s : State) (part : Nat) (ws : List Word) : Out :=
  let n : Name := { grid := pw ws 1, team := pw ws 2, tid := pw ws 3 }
  match pw ws 0 with
  | 1 => execDebugStop part n (pw ws 4 % 4) s
  | 2 => execDebugResume part s
  | 3 => execDebugStep part n s
  | _ => .next s

/-- A line of a debug window written. -/
def debugWrite (s : State) (part line : Nat) (ws : List Word) : Out :=
  match line with
  | 3 => debugCommand s part ws
  | 4 => execPcntClear part s
  | n => execDebugConfigWrite part n ws s

/-- The bytes of the table region (R421). -/
def tableBytes (s : State) : Nat := s.regs.tblSize * 2 ^ 26

/-- The offset in the table region of a physical address within it. DESIGN CHOICE (notes/assumptions/98.md): the stacks follow one another
in package-physical addresses, in which R421 gives the region's base. -/
def tableAt (s : State) (phys : Nat) : Option Nat :=
  let a := phys / 2 ^ 48 * stackBytes + phys % 2 ^ 48
  let base := s.regs.tblBase * 2 ^ 26
  if base ≤ a && a < base + tableBytes s then some (a - base) else none

/-- The host reads the table region: the windows by whole lines, the rest as memory. -/
def hostReadTable (s : State) (off n : Nat) : Out :=
  let line := off % 64 == 0 && n == 64
  if tableBytes s < off + n then stuck
  else if off < 0x68000 && 0x50000 < off + n then
    if line && off < 0x58000 then (if off / 64 % 2 == 0 then .next (hostStatus s ((off - 0x50000) / 128)) else hostPop s ((off - 0x50000) / 128))
    else if line then .next (answer s (lineOf16 (debugLine s ((off - 0x58000) / 4096) (off / 64 % 64))))
    else .next (answer s (packWords (List.replicate n 0)))
  else .next (answer s (packWords (memRead s.mem.tbl off n)))

/-- The host writes the table region. -/
def hostWriteTable (s : State) (off : Nat) (bs : List Byte) : Out :=
  let line := off % 64 == 0 && bs.length == 64
  if tableBytes s < off + bs.length then stuck
  else if off < 0x68000 && 0x50000 < off + bs.length then
    if line && off < 0x58000 then .next (if off / 64 % 2 == 0 then hostPush s ((off - 0x50000) / 128) (wordsOf bs) else s)
    else if line then debugWrite s ((off - 0x58000) / 4096) (off / 64 % 64) (wordsOf bs)
    else .next s
  else .next (withMem s fun m => { m with tbl := memWrite m.tbl off bs })

/-- Bytes written at home under tag 0, a line at a time. DESIGN CHOICE (notes/assumptions/144.md): the host's write, which has no buffer
entry, is of atoms of 32 bytes. -/
def hostWriteHbm (s : State) (phys : Nat) (bs : List Byte) : State :=
  let cells := at_ phys bs
  ((cells.map fun c => lineOf c.1).eraseDups).foldl (fun s l => writeHome s 0 false (cells.filter fun c => lineOf c.1 == l)) s

/-- HOST_MEM_ACCESS: A host CXL.mem access reads or writes the table region or HBM under owner 0; before READY, reads are zero and writes are
ignored. The host's own memory is its own. DESIGN CHOICE (notes/assumptions/145.md): of a poisoned atom the host reads the bytes as they
stand. (R302, R422) -/
def execHostMemAccess (acc : HostAccess) (s : State) : Out :=
  match acc with
  | .readTable off n => if isReady s then hostReadTable s off n else .next (answer s (packWords (List.replicate n 0)))
  | .writeTable off bs => if isReady s then hostWriteTable s off bs else .next s
  | .readHbm phys n =>
    if !isReady s then .next (answer s (packWords (List.replicate n 0)))
    else if !physOk phys || !physOk (phys + n - 1) then .fault .noMemory
    else match tableAt s phys with
      | some off => hostReadTable s off n
      | none => .next (answer (findUe s ((List.range n).map fun i => (phys + i) / 32)) (packWords (readHome s 0 phys n)))
  | .writeHbm phys bs =>
    if !isReady s then .next s
    else if !physOk phys || !physOk (phys + bs.length - 1) then .fault .noMemory
    else match tableAt s phys with
      | some off => hostWriteTable s off bs
      | none => .next (hostWriteHbm s phys bs)
  | .hostMemory a bs => .next (withMem s fun m => { m with hostMem := memWrite m.hostMem a bs })

/-! ### The Etlen Link (R424) -/

/-- Bytes of a target written, a line at a time. -/
def writeSpread (s : State) (t : Target) (bs : List Byte) : State :=
  let cells := at_ t.phys bs
  ((cells.map fun c => lineOf c.1).eraseDups).foldl (fun s l => writeTarget s t (cells.filter fun c => lineOf c.1 == l)) s

/-- What another package has of a page that this package's accesses reach (R155): the accesses that wait on it go on, or raise
PAGE_DENIED. -/
def remoteNow (s : State) (pkg adr : Nat) (now : RemotePage) : State :=
  let p := remotePage (adr / 2 ^ 64) pkg adr
  let s := withMem s fun m => { m with podPages := if now == .present then dropIf (fun x => x.1 == p) m.podPages else assocSet m.podPages p now }
  match now with
  | .present => resumePage s p
  | .missing => s
  | .refused => refusePage s p

/-- The bytes of an atomic's operand at home, and its alignment (R180, R181). -/
def atomicSize : AtomOp → Nat × Nat
  | .add64 => (8, 8)
  | .cas64 => (8, 8)
  | .wadd => (48, 64)
  | _ => (4, 4)

/-- The core by which the model names another package's operations: none of this package's, so no gate of it is theirs. -/
def linkCore : Nat := 4096

/-- An atomic of another package, on its way to the atomic service of its home slice (R362, R424). -/
def linkAtomic (s : State) (owner : Nat) (t : Target) (size : Nat) (op : AtomOp) (data : List Word) : State :=
  let q : SqOp :=
    { seq := s.mem.seq, grid := 0, owner := owner, core := linkCore, lg := 0, tgt := t, size := size, bytes := []
      kind := .atomic op data (some s.mem.seq), contrib := [], level := 4, stamps := [s.mem.seq], fset := s.mem.uid + 1, left := s.clock
      link := true }
  withMem (enqueue s q) fun m => { m with uid := m.uid + 1 }

/-- LINK_REQUEST: A request of another package arrives by a port that is up: this package's own buffer entry applies. A read is of bytes
within a line and opens an entry of its own (R296), whose reply is its answer; an atomic goes to the atomic service, which answers it; a
request that fails its checks reads nothing and writes nothing; one that meets a missing page waits for it. The other package's own writes
arrive in its memory, and what becomes of its pages arrives as well. (R424, R298, R155) -/
def execLinkRequest (rq : LinkReq) (s : State) : Out :=
  let arrives (o : Out) : Out := whenOk (s.regs.ports.contains true) o
  match rq with
  | .read owner idx off n => arrives
    (match unitCheck s (.link owner) owner 0 (idx * 2 ^ 48 + off) n 1 rightR with
    | .ok t => whenOk (decide (0 < n ∧ t.phys % 64 + n ≤ 64) && entryFree s t.pkg (lineOf t.phys)) (.next (openLink (unitGo s (.link owner)) t n))
    | .park p => unitWait s (.link owner) p
    | _ => .next (answer (unitGo s (.link owner)) []))
  | .atomic owner idx off op data => arrives
    (match unitCheck s (.link owner) owner 0 (idx * 2 ^ 48 + off) (atomicSize op).1 (atomicSize op).2 rightA with
    | .ok t => .next (linkAtomic (unitGo s (.link owner)) owner t (atomicSize op).1 op data)
    | .park p => unitWait s (.link owner) p
    | _ => .next (answer (unitGo s (.link owner)) []))
  | .write owner idx off bs => arrives
    (match unitCheck s (.link owner) owner 0 (idx * 2 ^ 48 + off) bs.length 1 rightW with
    | .ok t => .next (writeSpread (unitGo s (.link owner)) t bs)
    | .park p => unitWait s (.link owner) p
    | _ => .next (unitGo s (.link owner)))
  | .remote pkg adr bs => .next (writePod s pkg (at_ adr bs))
  | .page pkg adr now => .next (remoteNow s pkg adr now)

/-- A request completed with POISON. -/
def poisonReq (s : State) (r : Req) : State :=
  let dead (x : Req) : ReqStage := if x.copy.isSome then .line (List.replicate 64 0) [true, true] else .data (List.replicate x.size 0) true
  let mark (x : Req) : Req := if x.id == r.id then { x with stage := dead x } else x
  let leave (e : StraitEntry) : StraitEntry := { e with reqs := dropIf (· == r.id) e.reqs }
  withMem s fun m => { m with entries := m.entries.map leave, reqs := m.reqs.map mark }

/-- 100 µs of pod time have passed since a clock (R424). -/
def pathLate (s : State) (since : Nat) : Bool := decide (Config.podTime since + 100000 ≤ Config.podTime s.clock)

/-- A read that waits for a path to another package. -/
def loadOut (s : State) (r : Req) : Bool := r.tgt.pkg.isSome && goesHome s r

/-- A store, atomic or reduction that waits for a path to another package. -/
def storeOut (q : SqOp) : Bool := q.tgt.pkg.isSome && q.level == 4 && q.lane.isNone

/-- LINK_TIMEOUT: A fabric request with no path for 100 us completes with POISON or is dropped, and the drop is counted. (R424) -/
def execLinkTimeout (w : LinkLost) (s : State) : Out :=
  match w with
  | .load r => need (s.mem.reqs.find? fun x => x.id == r) fun x =>
    whenOk (loadOut s x && pathLate s x.left) (.next (poisonReq s x))
  | .part id d lo hi => need (copyFor s id) fun c => whenOk (pathLate s c.started) (losePart s id d lo hi)
  | .store q => need (s.mem.ops.find? fun x => x.seq == q) fun x =>
    whenOk (storeOut x && pathLate s x.left) <|
      let s1 := withMem s fun m => { m with ops := dropIf (fun y => y.seq == q) m.ops, errLog := m.errLog + 1 }
      match x.kind with
      | .atomic _ _ (some r) => .next ((s1.mem.reqs.find? fun y => y.id == r).elim s1 (poisonReq s1))
      | _ => .next s1

end Sys2Proof.Machine
end

