-- ==== Sys2Proof/Machine/PowerEvents.lean ====
section
/-! DEFINITION. The power controller of a layer (R428) and the operating points of the regulators (R427). -/

namespace Sys2Proof.Machine

/-- The main clock one step below and one above, within 360 to 720 MHz. -/
def stepDown (mhz : Nat) : Nat := max 360 (mhz - 30)

/-- One step up. -/
def stepUp (mhz : Nat) : Nat := min 720 (mhz + 30)

/-- A number kept between two bounds. -/
def clampInt (lo hi x : Int) : Int := max lo (min hi x)

/-- One period of a layer's controller, for a power in units of 0.25 W: its integral, ration level and requested clock. -/
def powerStep (p : Power) (budget : Int) (l : Nat) (watts : Int) : Power :=
  let (kp, ki, imax) := Config.powerGains
  let e := budget - watts
  let i := clampInt (-imax) imax (p.integ.getD l 0 + e)
  let u := kp * e + ki * i
  let r := p.ration.getD l 0
  let want := p.want.getD l 600
  let (r', want') :=
    if u < 0 then (if r < 12 then (r + 1, want) else (r, stepDown want))
    else if 0 < u then (if 0 < r then (r - 1, want) else (r, stepUp want))
    else (r, want)
  { p with integ := putAt 0 p.integ l i, ration := putAt 0 p.ration l r', want := putAt 600 p.want l want' }

/-- POWER_CONTROL: a layer's controller runs once per microsecond of GTIME, on the power measured over the last period and the hot spot
that the layer reports. (R428, R429) -/
def execPowerControl (layer : Nat) (watts temp : Int) (s : State) : Out :=
  let us := Config.podTime s.clock / 1000
  whenOk (isReady s && decide (layer < 16) && us != s.power.period.getD layer 0) <|
    let p := powerStep s.power (Int.ofNat (bitsOf (s.regs.lbudget.getD layer 0).toNat 11 0)) layer watts
    .next { s with power := { p with temps := putAt 0 p.temps layer temp, period := putAt 0 p.period layer us } }

/-- The layers that a regulator feeds. -/
def layersOn (s : State) (reg : Nat) : List Nat := (List.range 16).filter fun l => regOf s.regs.regActive l == reg

/-- The lowest point that a regulator's layers request; one without layers stays. -/
def lowestWant (s : State) (reg : Nat) : Nat :=
  (leastOf ((layersOn s reg).map fun l => s.power.want.getD l 600)).getD (s.power.mhz.getD reg 600)

/-- The operating point of a regulator: its main clock in MHz, and the voltage that firmware pairs with it, in millivolts (R427). -/
def operatingPoint (s : State) (reg : Nat) : Nat × Nat :=
  let mhz := s.power.mhz.getD reg 600
  (mhz, Config.pointVoltage mhz)

/-- A control period of a regulator's layers has ended: each of them has run as many as the others (R428). -/
def periodEnded (s : State) (reg : Nat) : Bool :=
  let ps := (layersOn s reg).map fun l => s.power.period.getD l 0
  ps.all (· == ps.headD 0)

/-- The point that function 7 has been asked about for a regulator. -/
def askedPoint (s : State) (reg : Nat) : Option Nat :=
  s.disp.openQs.findSome? fun o => match o.what with
    | .opPoint r mhz => if r == reg then some mhz else none
    | _ => none

/-- OPERATING_POINT_CHANGE: at the end of a control period a regulator moves to the lowest point that its layers request; in HOST mode
function 7 decides on the point that it was asked about, and a refused change drops the requests. (R427, R428) -/
def execOperatingPointChange (reg : Nat) (s : State) : Out :=
  let now := s.power.mhz.getD reg 600
  let next := (askedPoint s reg).getD (lowestWant s reg)
  whenOk (decide (reg < 4) && periodEnded s reg && (next != now || (askedPoint s reg).isSome)) <|
    decided s (.opPoint reg next) 7 [reg, now, next] 1 fun s go =>
      let p := s.power
      .next (if go == 1 then { s with power := { p with mhz := putAt 600 p.mhz reg next } }
        else { s with power := { p with want := p.want.mapIdx fun l w => if regOf s.regs.regActive l == reg then now else w } })

end Sys2Proof.Machine
end

