-- ==== Sys2Proof/Machine/Auto.lean ====
section
/-! DEFINITION. The device steps that the model offers by itself when its schedule is empty, in the order in which it tries
them, and the placing of one instruction where the machine fetches next. The schedule is the model's own (notes/assumptions/1.md):
a step that depends on the outside world, or whose operands the device is free to choose, is offered here with one choice at most. -/

namespace Sys2Proof.Machine

noncomputable section

/-! ### Steps of accesses and engines in flight -/

/-- What a copy may do next: its checks, or the rest of a destination. -/
def copySteps (c : Copy) : List Instr :=
  .copyAccept c.id :: ((if c.checked then c.dests else [0]).map fun d => .copyPartWritten c.id d 0 (c.chunks d).length) ++
    (c.adding.map fun p => .copyPartWritten c.id p.2.1 p.2.2.1 p.2.2.2) ++ [.copyFinish c.id]

/-- The steps that requests, stores, entries and engine operations in flight may take next. -/
def flightSteps (s : State) : List Instr :=
  (s.mem.reqs.map fun r => Instr.loadReturn r.id) ++
  (s.mem.reqs.map fun r => Instr.straitRead r.id) ++
  ((s.mem.reqs.flatMap fun r => r.promote.map fun p => Instr.promote r.id p.1)) ++
  (s.mem.entries.zipIdx.map fun e => Instr.straitReply e.2) ++
  ((s.mem.ops.filter fun q => q.level == 0).map fun q => Instr.storeQueueDrain q.core q.lg) ++
  (s.mem.ops.map fun q => Instr.gateAcknowledgement q.seq (q.level + 1)) ++
  (s.mem.ops.map fun q => Instr.straitWrite q.seq) ++
  (s.mem.ops.map fun q => Instr.atomicService q.seq) ++
  (s.eng.sfu.map fun w => Instr.sfuResult w.window) ++
  (s.mem.miss.map fun p => Instr.pageWalk p.1 p.2) ++
  (s.eng.matq.map fun q => Instr.matrixEngineOperation q.1 []) ++
  (s.eng.copies.flatMap copySteps) ++
  (s.eng.nm.flatMap fun n => [Instr.nmcSend n.id, Instr.nmStep n.id]) ++
  (s.disp.qops.map fun q => Instr.queuePerform q.q q.thread)

/-- The pages that something waits on. -/
def wantedPages (s : State) : List PageKey :=
  ((s.threads.filterMap fun t => match t.st with
    | .parked p _ => some p
    | _ => none) ++ (s.mem.parks.filter fun x => !x.refused).map (·.page)).eraseDups

/-- The steps of pages: service, refusal, and the ends of transits. -/
def pageSteps (s : State) : List Instr :=
  ((wantedPages s).flatMap fun p => [Instr.pageServiced p 0 0, .pageRefused p]) ++
  ((s.mem.tier.filter fun t => (inTransit s t.page).isSome || (wantedPages s).any (pagesMeet t.page)).filterMap fun t =>
    (walkSlot s t.page.owner t.page.va t.page.psz).map fun o => Instr.tierMigration t.page true (pteAddr (memNat s.mem.tbl o 8))) ++
  (s.mem.transit.map fun x => match x.2 with
    | some r => Instr.pageMigration x.1 r
    | none => .tierMigration x.1 false 0)

/-! ### Steps of threads, teams and grids -/

/-- The lowest slot that a continuation record that has fired may spawn in. -/
def spawnSteps (s : State) : List Instr :=
  s.disp.teams.flatMap fun m => (m.conts.zipIdx.filter fun c => !c.1.armed).filterMap fun (r, k) =>
    (getThread s r.orig).bind fun o =>
      (List.range 4).findSome? fun lg => (List.range 16).findSome? fun d =>
        ((List.range 32).find? fun l => spawnSlot s m o r.core lg d l).map fun l => Instr.contSpawn m.key k lg d l

/-- The steps of threads and teams. -/
def threadSteps (s : State) : List Instr :=
  ((s.threads.filter fun t => match t.st with | .trapping _ => true | _ => false).map fun t => Instr.trapEntry t.key) ++
  (s.threads.flatMap fun t => (List.range 15).map fun b => Instr.barrierArrivalCounted t.key b false) ++
  (s.threads.flatMap fun t => (List.range 8).map fun b => Instr.barrierArrivalCounted t.key b true) ++
  (s.disp.slew.map fun x => Instr.slewResume x.grid x.bar) ++
  spawnSteps s ++
  (s.disp.teams.map fun t => Instr.teamComplete t.key) ++
  (s.disp.grids.map fun g => Instr.gridComplete g.id)

/-! ### Steps of the dispatcher -/

/-- The admissions of a waiting team: on the layer that the host has answered, or on those that the dispatcher chooses. -/
def admissionSteps (s : State) (g : Grid) : List Instr :=
  if g.coop then (g.waiting.take 1).filterMap fun w => (coopPlan s g g.waiting).map fun p => .teamAdmission g.id w.1 (p.flatMap (·.2.2))
  else g.waiting.flatMap fun w =>
    let ls := match placeTold s g.id w.1 with
      | some d => [d % 16]
      | none => chooseLayers s g w.1 w.2.1 (fitFree s g)
    ls.filterMap fun l => (fit s g l).map fun cs => .teamAdmission g.id w.1 cs

/-- The restores of a saved team; those of a cooperative grid together. -/
def restoreSteps (s : State) (g : Grid) : List Instr :=
  g.saved.flatMap fun b =>
    if g.coop && b.move.isNone then ((restorePlan s g g.saved).map fun p => Instr.restore g.id b.team.idx (p.flatMap (·.2.2))).toList
    else (b.move.toList ++ restoreLayers s g b).filterMap fun l => (restoreFit s g b l).map fun cs => .restore g.id b.team.idx cs

/-- Pre-emptions: a save that can go on, and the teams that a waiting team may stop. -/
def preemptSteps (s : State) : List Instr :=
  ((s.disp.teams.filter fun m => m.saving == some none).map fun m => Instr.preemption 0 0 m.key) ++
  (s.disp.grids.flatMap fun g =>
    ((g.saved.map fun b => b.team.idx) ++ g.waiting.map (·.1)).flatMap fun t => (victims s g).map fun v => Instr.preemption g.id t v.key)

/-- The launch packets: on the layers of a partition together, or one by one. -/
def packetSteps (s : State) : List Instr :=
  (s.disp.queues.filter fun x => x.kind == 1 && x.en).flatMap fun x =>
    let ls := (partsOf s x.owner).flatMap fun p => layersOf s p :: (layersOf s p).map fun l => [l]
    (ls.map fun l => Instr.gridPacket x.q l) ++ [.gridPacket x.q [], .waitPacket x.q, .kickPacket x.q]

/-- The management commands. -/
def manageSteps (s : State) : List Instr :=
  (s.disp.queues.filter fun x => x.kind == 2 && x.en).flatMap fun x =>
    let q := x.q
    [Instr.bufinv q, .xlatinv q, .ownrec q, .qdesc q, .cadload q, .cadswitch q, .caddrop q, .fmreload q, .fmreply q, .manageUnknown q]

/-- The steps of graphs. -/
def graphSteps (s : State) : List Instr :=
  (s.disp.kicks.zipIdx.map fun k => Instr.graphReplayStart k.2) ++
  (s.disp.replays.flatMap fun r => r.nodes.zipIdx.map fun n => Instr.graphNodeFinish r.id n.2)

/-- Work donations that let the thief admit a team at once. -/
def stealSteps (s : State) : List Instr :=
  (List.range 16).flatMap fun p => (layersOf s p).filterMap fun l =>
    match execStealRequest p l s with
    | .next r => if layerCanAdmit r l then some (.stealRequest p l) else none
    | _ => none

/-- The steps of the dispatcher. -/
def dispatchSteps (s : State) : List Instr :=
  (s.disp.grids.flatMap (restoreSteps s)) ++ (s.disp.grids.flatMap (admissionSteps s)) ++
  (s.disp.grids.flatMap fun g => (waitingOf g).map fun w => Instr.reserving g.id w.team w.layer) ++
  preemptSteps s ++ packetSteps s ++ manageSteps s ++ graphSteps s ++ stealSteps s ++
  (s.disp.grids.map fun g => Instr.classify g.id) ++
  ((s.disp.waits.filter fun w => decide (w.polled < s.clock)).map fun w => Instr.waitPoll w.q) ++
  ((s.disp.openQs.filter fun o => o.answer.isNone).map fun o => Instr.fmTimeout o.fn o.seqNo)

/-- Thermal moves that go on, and the regulators. -/
def deviceSteps (s : State) : List Instr :=
  ((s.disp.teams.filterMap fun m => match m.saving with
    | some (some _) => some (Instr.thermalMove 0 m.key [])
    | _ => none)) ++
  ((List.range 4).map fun r => Instr.operatingPointChange r)

/-- The requests to another package that have found no path in time (R424): while no port is up, they end. -/
def timeoutSteps (s : State) : List Instr :=
  if s.regs.ports.contains true then []
  else
    ((s.mem.reqs.filter fun r => loadOut s r && pathLate s r.left).map fun r => Instr.linkTimeout (.load r.id)) ++
    ((s.mem.ops.filter fun q => storeOut q && pathLate s q.left).map fun q => Instr.linkTimeout (.store q.seq)) ++
    (s.eng.copies.filter fun c => c.accepted && pathLate s c.started).flatMap fun c => c.dests.flatMap fun d =>
      (List.range (c.chunks d).length).filterMap fun k =>
        if partFree s c d k (k + 1) && goesAway s c d (c.elemsIn d k (k + 1)) then some (Instr.linkTimeout (.part c.id d k (k + 1))) else none

/-- The changes of operating points at the end of a control period (R428). -/
def pointSteps (s : State) : List Instr :=
  ((List.range 4).filter fun r => periodEnded s r && lowestWant s r != s.power.mhz.getD r 600).map fun r => Instr.operatingPointChange r

/-- The samples that are due (R385). -/
def sampleSteps (s : State) : List Instr :=
  (List.range 16).flatMap fun p =>
    if (debugOf s p).sper == 0 then [] else (((s.threads.map (·.core)).eraseDups).filter (sampleDue s p)).map fun c => Instr.sample p c

/-- The device steps that the clock may not leave undone once they can happen: the ends of holds (R34), yields (R193) and convoy holds
(R372), the resuming of released cores (R364), spawns (R40), timeouts (R338), the re-reads of wait words (R346), reserving (R347), the
classes of grids (R360), admissions of staged code (R350), restores of moved teams (R416), requests without a path (R424), operating points
(R428), samples (R385), and the passes of the scrubber (R311). -/
def dueSteps (s : State) : List Instr :=
  ((dueHold s).map Instr.meetHoldTimeout).toList ++ ((dueYield s).map Instr.yieldExpiry).toList ++
  ((s.disp.slew.filter fun x => decide (x.clock < s.clock)).map fun x => Instr.slewResume x.grid x.bar) ++ spawnSteps s ++
  ((s.disp.openQs.filter fun o => o.answer.isNone && decide (o.deadline ≤ s.clock)).map fun o => Instr.fmTimeout o.fn o.seqNo) ++
  ((dueLapse s).map Instr.convoyLapse).toList ++
  ((s.disp.waits.filter fun w => w.code != 0 && decide (w.polled + 4096 ≤ s.clock)).map fun w => Instr.waitPoll w.q) ++
  (s.disp.grids.flatMap fun g => ((waitingOf g).filter fun w => (waitsSince g w.team).any fun c => decide (c + 2 * tslice ≤ s.clock)).map fun w =>
    Instr.reserving g.id w.team (if layerOk s g.part w.layer then w.layer else (layersOf s g.part).headD 0)) ++
  ((s.disp.grids.filter fun g => g.classMeas.any fun c => decide (c.2.1 + 65536 ≤ s.clock)).map fun g => Instr.classify g.id) ++
  ((s.disp.grids.filter fun g => g.waiting.any fun w => w.2.2 == s.clock).flatMap fun g =>
    (admissionSteps s g).filter fun _ => (layersOf s g.part).any fun l => Config.codeStaged l g.code.toNat) ++
  (s.disp.grids.flatMap fun g => restoreSteps s { g with saved := g.saved.filter fun b => b.move.isSome }) ++
  timeoutSteps s ++ pointSteps s ++ sampleSteps s ++
  (if s.mem.scrub.sram + s.mem.scrub.sramEvery ≤ s.clock then [Instr.scrubPass (.pass false)] else []) ++
  (if s.mem.scrub.hbm + s.mem.scrub.hbmEvery ≤ s.clock then [Instr.scrubPass (.pass true)] else [])

/-- The device steps that are offered, in the order in which they are tried. -/
def candidates (s : State) : List Instr := flightSteps s ++ pageSteps s ++ threadSteps s ++ dispatchSteps s ++ deviceSteps s

end

/-! ### Placing an instruction -/

/-- A code image of one clause: its header, the word and a literal of zeros where the word needs one. -/
def clauseImage (cls w : Nat) : List Byte :=
  let marked := tableMarked cls w
  let h : Header := { n := if marked then 2 else 1, cls := cls, wait := 0, gw := 0, lmap := if marked then 1 else 0 }
  bytesOfWord 4 (encodeHeader h) ++ bytesOfWord 4 w ++ (if marked then bytesOfWord 4 0 else [])

/-- The role kind that may issue a class: MATRIX for class 2, COPY for class 3, else VECTOR (R24). -/
def kindFor (cls : Nat) : Nat := if cls == 2 then 2 else if cls == 3 then 3 else 1

/-- A machine with a code image as a grid of one team of one thread, resident in core 0, its lines in the core's instruction
cache, about to issue. It stands for a launch: a program reaches the machine from outside it. -/
def placeCode (s : State) (kind : Nat) (code : List Byte) : State :=
  let key := s.disp.nextKey
  let id := s.disp.nextGrid
  let role : RoleDecl := { kind := kind, groups := 1, threads := 1, budget := 128 }
  let g : Grid :=
    { id := id, owner := 1, part := 0, prio := 0, coop := false, code := 0, codeLen := code.length, entry := 0, tvec := 0, param := 0
      done := 0, nteam := 1, roles := [role, {}, {}, {}], scr := 0, nhnd := 0, gangr := 0, cvhint := 0, cls := 0, origin := .queue 0 none
      gbars := List.replicate 8 {} }
  let tm : Team :=
    { key := key, grid := id, idx := 0, layer := 0, cores := [0], runs := [(0, 1)], handles := [{}], barriers := List.replicate 15 {}
      scratch := [[]], scratchValid := [[]], granules := [[]], resident := s.clock }
  let t : Thread :=
    { key := key, grid := id, team := key, teamIdx := 0, tid := 0, lane := 0, grp := 0, role := 0, kind := kind, budget := 128, core := 0
      tcore := 0, lg := 0, depth := 0, v := List.replicate 128 0, vt := List.replicate 128 false, created := s.clock
      readySince := mainClocks s 0, mopf := s.eng.matlog.length, fresh := true }
  let lines := (List.range ((code.length + 63) / 64)).map fun n =>
    ({ core := 0, owner := 1, code := 0, line := n, bytes := (code.drop (64 * n)).take 64 } : ICLine)
  let s := if kind == 2 then takeMatrix s key 0 else s
  { s with
    threads := t :: s.threads
    disp := { s.disp with grids := g :: s.disp.grids, teams := tm :: s.disp.teams, nextKey := key + 1, nextGrid := id + 1 }
    mem := { s.mem with icache := lines ++ dropIf (fun l => l.core == 0 && l.owner == 1 && l.code == 0) s.mem.icache }
    fused := [key], slacks := [(0, 1)] }

end Sys2Proof.Machine
end

