-- ==== Sys2Proof/Machine/Flags.lean ====
section
/-! DEFINITION. RMODE and FLAGS as registers (R59, R66, R67). -/

namespace Sys2Proof.Machine

/-- A value that MOVSW may write to RMODE (R59): MODE 0 to 4 in [2:0], SAT in [3], the rest 0. -/
def rmodeOk (x : Nat) : Bool := decide (x < 16 ∧ x % 8 < 5)

/-- A value that MOVSW may write to FLAGS (R66): the six flags, the rest 0. -/
def flagsOk (x : Nat) : Bool := decide (x < 64)

/-- FLAGS with the flags of a mask cleared (R266). -/
def clearFlags (flags mask : Nat) : Nat := flags &&& (63 - mask % 64)

end Sys2Proof.Machine
end

