-- ==== Sys2Proof/Machine/Alu.lean ====
section
/-! DEFINITION. Class 0, the ALU instructions (05_alu, R109 to R135), but for MOVS and MOVSW. The value of each operation is a
function of its operand words; the shared shapes read the operands, set the taint (R112) and the flags, and retire. -/

namespace Sys2Proof.Machine

/-! ### Values (R115 to R132) -/

/-- The high 32 bits of the signed product. -/
def aluMulhI (a b : Word) : Word := wordOfInt (sextInt a.toNat 32 * sextInt b.toNat 32 / 2 ^ 32)
/-- The high 32 bits of the unsigned product. -/
def aluMulhN (a b : Word) : Word := word (a.toNat * b.toNat / 2 ^ 32)
/-- A sum or difference of I32 values saturated, with SATD (R116). -/
def satI32 (i : Int) : Word × Nat :=
  if 2 ^ 31 - 1 < i then (0x7FFFFFFF, fSATD) else if i < -(2 ^ 31) then (0x80000000, fSATD) else (wordOfInt i, 0)
/-- ADDS.I32. -/
def aluAdds (a b : Word) : Word × Nat := satI32 (sextInt a.toNat 32 + sextInt b.toNat 32)
/-- SUBS.I32. -/
def aluSubs (a b : Word) : Word × Nat := satI32 (sextInt a.toNat 32 - sextInt b.toNat 32)
/-- MIN.I32 and, with the operands exchanged in the test, MAX.I32. -/
def aluMinI (a b : Word) : Word := if sextInt b.toNat 32 < sextInt a.toNat 32 then b else a
/-- MAX.I32. -/
def aluMaxI (a b : Word) : Word := if sextInt a.toNat 32 < sextInt b.toNat 32 then b else a
/-- MIN.N32. -/
def aluMinN (a b : Word) : Word := if b.toNat < a.toNat then b else a
/-- MAX.N32. -/
def aluMaxN (a b : Word) : Word := if a.toNat < b.toNat then b else a
/-- MADW.I32 on a pair's value (R117). -/
def aluMadwI (a b : Word) (d : Nat) : Nat := intBits ((d : Int) + sextInt a.toNat 32 * sextInt b.toNat 32) 64
/-- MADW.N32 on a pair's value (R117). -/
def aluMadwN (a b : Word) (d : Nat) : Nat := (d + a.toNat * b.toNat) % 2 ^ 64
/-- SHL (R118). -/
def aluShl (a b : Word) : Word := if 32 ≤ b.toNat then 0 else word (a.toNat * 2 ^ b.toNat)
/-- SHR (R118). -/
def aluShr (a b : Word) : Word := if 32 ≤ b.toNat then 0 else word (a.toNat / 2 ^ b.toNat)
/-- SAR (R118). -/
def aluSar (a b : Word) : Word :=
  if 32 ≤ b.toNat then (if bitOf a.toNat 31 then 0xFFFFFFFF else 0) else wordOfInt (sextInt a.toNat 32 / (2 ^ b.toNat : Nat))
/-- The number of 1 bits of the low n bits. -/
def popcount : Nat → Nat → Nat
  | 0, _ => 0
  | n + 1, x => x % 2 + popcount n (x / 2)
/-- POPC (R119). -/
def aluPopc (a : Word) : Word := word (popcount 32 a.toNat)
/-- CLZ (R119): 32 for 0. -/
def aluClz (a : Word) : Word := if a.toNat == 0 then 32 else word (31 - Nat.log2 a.toNat)
/-- The low n bits of x in reverse order. -/
def reverseBits : Nat → Nat → Nat
  | 0, _ => 0
  | n + 1, x => x % 2 * 2 ^ n + reverseBits n (x / 2)
/-- BREV (R119). -/
def aluBrev (a : Word) : Word := word (reverseBits 32 a.toNat)
/-- The position of a field placed by b (R120). -/
def fieldPos (b : Word) : Nat := bitsOf b.toNat 4 0
/-- The width of a field placed by b (R120). -/
def fieldWidth (b : Word) : Nat := min (bitsOf b.toNat 13 8) (32 - fieldPos b)
/-- BFE.N32 (R120). -/
def aluBfeN (a b : Word) : Word := word (a.toNat / 2 ^ fieldPos b % 2 ^ fieldWidth b)
/-- BFE.I32 (R120). -/
def aluBfeI (a b : Word) : Word :=
  if fieldWidth b == 0 then 0 else wordOfInt (sextInt (a.toNat / 2 ^ fieldPos b) (fieldWidth b))
/-- BFI (R121). -/
def aluBfi (a b d : Word) : Word :=
  let w := fieldWidth b
  let p := fieldPos b
  let x := d.toNat
  word (x % 2 ^ p + a.toNat % 2 ^ w * 2 ^ p + x / 2 ^ (p + w) * 2 ^ (p + w))
/-- Byte i of a number. -/
def byteOf (x i : Nat) : Nat := x / 2 ^ (8 * i) % 256
/-- One result byte of PERMB: source bytes 0 to 3 are a's and 4 to 7 the old D's (R122). -/
def permByte (src sel : Nat) : Nat :=
  let y := byteOf src (sel % 8)
  if sel / 8 % 2 == 1 then (if y / 128 == 1 then 255 else 0) else y
/-- PERMB (R122). -/
def aluPermb (a b d : Word) : Word :=
  let src := a.toNat + 2 ^ 32 * d.toNat
  word (permByte src (bitsOf b.toNat 3 0) + 2 ^ 8 * permByte src (bitsOf b.toNat 7 4) +
    2 ^ 16 * permByte src (bitsOf b.toNat 11 8) + 2 ^ 24 * permByte src (bitsOf b.toNat 15 12))
/-- DOT4.I8 (R123). -/
def aluDot4I (a b d : Word) : Word :=
  wordOfInt ((d.toNat : Int) + ((List.range 4).map fun i => sextInt (byteOf a.toNat i) 8 * sextInt (byteOf b.toNat i) 8).sum)
/-- DOT4.N8 (R123). -/
def aluDot4N (a b d : Word) : Word :=
  word (d.toNat + ((List.range 4).map fun i => byteOf a.toNat i * byteOf b.toNat i).sum)
/-- SETP.LT.I32. -/
def cmpLtI (a b : Word) : Bool := decide (sextInt a.toNat 32 < sextInt b.toNat 32)
/-- SETP.LE.I32. -/
def cmpLeI (a b : Word) : Bool := decide (sextInt a.toNat 32 ≤ sextInt b.toNat 32)
/-- SETP.EQ.F32. -/
def cmpEqF (a b : Word) : Bool := fpCmp a.toNat b.toNat == .eq
/-- SETP.LT.F32. -/
def cmpLtF (a b : Word) : Bool := fpCmp a.toNat b.toNat == .lt
/-- SETP.LE.F32. -/
def cmpLeF (a b : Word) : Bool := cmpLtF a b || cmpEqF a b
/-- SETP.UN.F32. -/
def cmpUnF (a b : Word) : Bool := fpCmp a.toNat b.toNat == .un
/-- The F32 operations as words and flags (R130, R131). -/
def aluF (f : Nat → Nat → Nat × Nat) (a b : Word) : Word × Nat := (word (f a.toNat b.toNat).1, (f a.toNat b.toNat).2)
/-- FFMA (R130). -/
def aluFfma (a b d : Word) : Word × Nat :=
  (word (fpFma .f32 a.toNat b.toNat d.toNat).1, (fpFma .f32 a.toNat b.toNat d.toNat).2)
/-- Element i of a packed pair (R48). -/
def halfOf (x : Word) (i : Nat) : Nat := x.toNat / 2 ^ (16 * i) % 2 ^ 16
/-- The packed operations: each element by itself, the flags ORed (R132, R54). -/
def packed2 (f : Nat → Nat × Nat) : Word × Nat :=
  (word ((f 0).1 + 2 ^ 16 * (f 1).1), (f 0).2 ||| (f 1).2)
/-- HFMA2 and BFMA2 (R132). -/
def aluFma2 (f : Fmt) (a b d : Word) : Word × Nat := packed2 fun i => fpFma f (halfOf a i) (halfOf b i) (halfOf d i)
/-- HADD2 and HMUL2 (R132). -/
def aluPair (op : Fmt → Nat → Nat → Nat × Nat) (a b : Word) : Word × Nat := packed2 fun i => op .f16 (halfOf a i) (halfOf b i)
/-- PPACK's word (R126). -/
def packPreds (t : Thread) (base : Nat) : Nat → Nat
  | 0 => 0
  | n + 1 => packPreds t base n + boolNat (rdP t (base + n)) * 2 ^ n
/-- PUNPACK's writes (R126). -/
def unpackPreds (t : Thread) (base x : Nat) : Nat → Thread
  | 0 => t
  | n + 1 => wrP (unpackPreds t base x n) (base + n) (bitOf x n)

/-! ### Shapes -/

/-- D from A and B. -/
def aluAB (i : Instr) (s : State) (d a : Reg) (b : Src) (f : Word → Word → Word) : Out :=
  simple i s fun t => wrV t d.toNat (f (rdV t a.toNat) (rdSrc t b)) (rdTaint t a.toNat || taintSrc t b)

/-- D from A and B with flags. -/
def aluABF (i : Instr) (s : State) (d a : Reg) (b : Src) (f : Word → Word → Word × Nat) : Out :=
  simple i s fun t =>
    orFlags (wrV t d.toNat (f (rdV t a.toNat) (rdSrc t b)).1 (rdTaint t a.toNat || taintSrc t b)) (f (rdV t a.toNat) (rdSrc t b)).2

/-- D from A, B and the old D (R110). -/
def aluABD (i : Instr) (s : State) (d a : Reg) (b : Src) (f : Word → Word → Word → Word) : Out :=
  simple i s fun t =>
    wrV t d.toNat (f (rdV t a.toNat) (rdSrc t b) (rdV t d.toNat)) (rdTaint t a.toNat || taintSrc t b || rdTaint t d.toNat)

/-- D from A, B and the old D, with flags. -/
def aluABDF (i : Instr) (s : State) (d a : Reg) (b : Src) (f : Word → Word → Word → Word × Nat) : Out :=
  simple i s fun t =>
    orFlags (wrV t d.toNat (f (rdV t a.toNat) (rdSrc t b) (rdV t d.toNat)).1
      (rdTaint t a.toNat || taintSrc t b || rdTaint t d.toNat)) (f (rdV t a.toNat) (rdSrc t b) (rdV t d.toNat)).2

/-- D from A alone. -/
def aluA (i : Instr) (s : State) (d a : Reg) (f : Word → Word) : Out :=
  simple i s fun t => wrV t d.toNat (f (rdV t a.toNat)) (rdTaint t a.toNat)

/-- A pair from two pairs (R117). -/
def aluPairs (i : Instr) (s : State) (d a b : Reg) (f : Nat → Nat → Nat) : Out :=
  simple i s fun t =>
    wrPair t d.toNat (f (rdPair t a.toNat) (rdPair t b.toNat)) (taintMany t a.toNat 2 || taintMany t b.toNat 2)

/-- A pair from A, B and the old pair (R117). -/
def aluMadw (i : Instr) (s : State) (d a : Reg) (b : Src) (f : Word → Word → Nat → Nat) : Out :=
  simple i s fun t =>
    wrPair t d.toNat (f (rdV t a.toNat) (rdSrc t b) (rdPair t d.toNat)) (rdTaint t a.toNat || taintSrc t b || taintMany t d.toNat 2)

/-- A predicate from a comparison of A and B (R124). -/
def aluCmp (i : Instr) (s : State) (d a : Reg) (b : Src) (f : Word → Word → Bool) : Out :=
  simple i s fun t => wrP t d.toNat (f (rdV t a.toNat) (rdSrc t b))

/-- A predicate from two predicates (R125). -/
def aluPred (i : Instr) (s : State) (d a b : Reg) (f : Bool → Bool → Bool) : Out :=
  simple i s fun t => wrP t d.toNat (f (rdP t a.toNat) (rdP t b.toNat))

/-! ### The instructions -/

/-- ADD: Adds A and B (or a literal) modulo 2^32 into D. (R115) -/
def execAdd (g : Guard) (u : Bool) (d : Reg) (a : Reg) (b : Src) (s : State) : Out :=
  aluAB (.add g u d a b) s d a b (· + ·)

/-- SUB: Subtracts B from A modulo 2^32 into D. (R115) -/
def execSub (g : Guard) (u : Bool) (d : Reg) (a : Reg) (b : Src) (s : State) : Out :=
  aluAB (.sub g u d a b) s d a b (· - ·)

/-- MUL: Writes the low 32 bits of A times B to D. (R115) -/
def execMul (g : Guard) (u : Bool) (d : Reg) (a : Reg) (b : Src) (s : State) : Out :=
  aluAB (.mul g u d a b) s d a b (· * ·)

/-- MULH.I32: Writes the high 32 bits of the signed product of A and B to D. (R115) -/
def execMulhI32 (g : Guard) (u : Bool) (d : Reg) (a : Reg) (b : Src) (s : State) : Out :=
  aluAB (.mulhI32 g u d a b) s d a b aluMulhI

/-- MULH.N32: Writes the high 32 bits of the unsigned product of A and B to D. (R115) -/
def execMulhN32 (g : Guard) (u : Bool) (d : Reg) (a : Reg) (b : Src) (s : State) : Out :=
  aluAB (.mulhN32 g u d a b) s d a b aluMulhN

/-- MAD: Adds A times B to D modulo 2^32. (R115) -/
def execMad (g : Guard) (u : Bool) (d : Reg) (a : Reg) (b : Src) (s : State) : Out :=
  aluABD (.mad g u d a b) s d a b (fun a b d => d + a * b)

/-- MADW.I32: Adds the signed 64-bit product of A and B to the even pair D. (R117) -/
def execMadwI32 (g : Guard) (u : Bool) (d : Reg) (a : Reg) (b : Src) (s : State) : Out :=
  aluMadw (.madwI32 g u d a b) s d a b aluMadwI

/-- MADW.N32: Adds the unsigned 64-bit product of A and B to the even pair D. (R117) -/
def execMadwN32 (g : Guard) (u : Bool) (d : Reg) (a : Reg) (b : Src) (s : State) : Out :=
  aluMadw (.madwN32 g u d a b) s d a b aluMadwN

/-- ADD64: Adds two 64-bit register pairs modulo 2^64. (R117) -/
def execAdd64 (g : Guard) (u : Bool) (d : Reg) (a : Reg) (b : Reg) (s : State) : Out :=
  aluPairs (.add64 g u d a b) s d a b (fun a b => (a + b) % 2 ^ 64)

/-- SUB64: Subtracts one 64-bit register pair from another modulo 2^64. (R117) -/
def execSub64 (g : Guard) (u : Bool) (d : Reg) (a : Reg) (b : Reg) (s : State) : Out :=
  aluPairs (.sub64 g u d a b) s d a b (fun a b => (a + 2 ^ 64 - b) % 2 ^ 64)

/-- ADDS.I32: Adds A and B as I32 with saturation, setting SATD on a clamp. (R116) -/
def execAddsI32 (g : Guard) (u : Bool) (d : Reg) (a : Reg) (b : Src) (s : State) : Out :=
  aluABF (.addsI32 g u d a b) s d a b aluAdds

/-- SUBS.I32: Subtracts B from A as I32 with saturation, setting SATD on a clamp. (R116) -/
def execSubsI32 (g : Guard) (u : Bool) (d : Reg) (a : Reg) (b : Src) (s : State) : Out :=
  aluABF (.subsI32 g u d a b) s d a b aluSubs

/-- MIN.I32: Writes the smaller of A and B, read as I32, to D. (R115) -/
def execMinI32 (g : Guard) (u : Bool) (d : Reg) (a : Reg) (b : Src) (s : State) : Out :=
  aluAB (.minI32 g u d a b) s d a b aluMinI

/-- MAX.I32: Writes the larger of A and B, read as I32, to D. (R115) -/
def execMaxI32 (g : Guard) (u : Bool) (d : Reg) (a : Reg) (b : Src) (s : State) : Out :=
  aluAB (.maxI32 g u d a b) s d a b aluMaxI

/-- MIN.N32: Writes the smaller of A and B, read as N32, to D. (R115) -/
def execMinN32 (g : Guard) (u : Bool) (d : Reg) (a : Reg) (b : Src) (s : State) : Out :=
  aluAB (.minN32 g u d a b) s d a b aluMinN

/-- MAX.N32: Writes the larger of A and B, read as N32, to D. (R115) -/
def execMaxN32 (g : Guard) (u : Bool) (d : Reg) (a : Reg) (b : Src) (s : State) : Out :=
  aluAB (.maxN32 g u d a b) s d a b aluMaxN

/-- AND: Writes the bitwise AND of A and B to D. (R118) -/
def execAnd (g : Guard) (u : Bool) (d : Reg) (a : Reg) (b : Src) (s : State) : Out :=
  aluAB (.and g u d a b) s d a b (· &&& ·)

/-- OR: Writes the bitwise OR of A and B to D. (R118) -/
def execOr (g : Guard) (u : Bool) (d : Reg) (a : Reg) (b : Src) (s : State) : Out :=
  aluAB (.or g u d a b) s d a b (· ||| ·)

/-- XOR: Writes the bitwise XOR of A and B to D. (R118) -/
def execXor (g : Guard) (u : Bool) (d : Reg) (a : Reg) (b : Src) (s : State) : Out :=
  aluAB (.xor g u d a b) s d a b (· ^^^ ·)

/-- ANDN: Writes A AND NOT B to D. (R118) -/
def execAndn (g : Guard) (u : Bool) (d : Reg) (a : Reg) (b : Src) (s : State) : Out :=
  aluAB (.andn g u d a b) s d a b (fun a b => a &&& ~~~b)

/-- SHL: Shifts A left by B bits, giving 0 for shifts of 32 or more. (R118) -/
def execShl (g : Guard) (u : Bool) (d : Reg) (a : Reg) (b : Src) (s : State) : Out :=
  aluAB (.shl g u d a b) s d a b aluShl

/-- SHR: Shifts A right logically by B bits. (R118) -/
def execShr (g : Guard) (u : Bool) (d : Reg) (a : Reg) (b : Src) (s : State) : Out :=
  aluAB (.shr g u d a b) s d a b aluShr

/-- SAR: Shifts A right arithmetically by B bits. (R118) -/
def execSar (g : Guard) (u : Bool) (d : Reg) (a : Reg) (b : Src) (s : State) : Out :=
  aluAB (.sar g u d a b) s d a b aluSar

/-- POPC: Writes the number of 1 bits of A to D. (R119) -/
def execPopc (g : Guard) (u : Bool) (d : Reg) (a : Reg) (s : State) : Out :=
  aluA (.popc g u d a) s d a aluPopc

/-- CLZ: Writes the count of leading zero bits of A to D. (R119) -/
def execClz (g : Guard) (u : Bool) (d : Reg) (a : Reg) (s : State) : Out :=
  aluA (.clz g u d a) s d a aluClz

/-- BREV: Writes A with its bits reversed to D. (R119) -/
def execBrev (g : Guard) (u : Bool) (d : Reg) (a : Reg) (s : State) : Out :=
  aluA (.brev g u d a) s d a aluBrev

/-- BFE.N32: Extracts a bit field of A placed by B, zero-extended. (R120) -/
def execBfeN32 (g : Guard) (u : Bool) (d : Reg) (a : Reg) (b : Src) (s : State) : Out :=
  aluAB (.bfeN32 g u d a b) s d a b aluBfeN

/-- BFE.I32: Extracts a bit field of A placed by B, sign-extended. (R120) -/
def execBfeI32 (g : Guard) (u : Bool) (d : Reg) (a : Reg) (b : Src) (s : State) : Out :=
  aluAB (.bfeI32 g u d a b) s d a b aluBfeI

/-- BFI: Inserts the low bits of A into a field of D placed by B. (R121) -/
def execBfi (g : Guard) (u : Bool) (d : Reg) (a : Reg) (b : Src) (s : State) : Out :=
  aluABD (.bfi g u d a b) s d a b aluBfi

/-- PERMB: Builds each byte of D from a selected byte of A and the old D. (R122) -/
def execPermb (g : Guard) (u : Bool) (d : Reg) (a : Reg) (b : Src) (s : State) : Out :=
  aluABD (.permb g u d a b) s d a b aluPermb

/-- DOT4.I8: Adds four signed byte products of A and B into D. (R123) -/
def execDot4I8 (g : Guard) (u : Bool) (d : Reg) (a : Reg) (b : Src) (s : State) : Out :=
  aluABD (.dot4I8 g u d a b) s d a b aluDot4I

/-- DOT4.N8: Adds four unsigned byte products of A and B into D. (R123) -/
def execDot4N8 (g : Guard) (u : Bool) (d : Reg) (a : Reg) (b : Src) (s : State) : Out :=
  aluABD (.dot4N8 g u d a b) s d a b aluDot4N

/-- SETP.EQ: Sets predicate D when the 32-bit patterns of A and B are equal. (R124) -/
def execSetpEq (g : Guard) (u : Bool) (d : Reg) (a : Reg) (b : Src) (s : State) : Out :=
  aluCmp (.setpEq g u d a b) s d a b (fun a b => a == b)

/-- SETP.NE: Sets predicate D when the 32-bit patterns of A and B differ. (R124) -/
def execSetpNe (g : Guard) (u : Bool) (d : Reg) (a : Reg) (b : Src) (s : State) : Out :=
  aluCmp (.setpNe g u d a b) s d a b (fun a b => a != b)

/-- SETP.LT.I32: Sets predicate D when A < B as I32. (R124) -/
def execSetpLtI32 (g : Guard) (u : Bool) (d : Reg) (a : Reg) (b : Src) (s : State) : Out :=
  aluCmp (.setpLtI32 g u d a b) s d a b cmpLtI

/-- SETP.LE.I32: Sets predicate D when A <= B as I32. (R124) -/
def execSetpLeI32 (g : Guard) (u : Bool) (d : Reg) (a : Reg) (b : Src) (s : State) : Out :=
  aluCmp (.setpLeI32 g u d a b) s d a b cmpLeI

/-- SETP.LT.N32: Sets predicate D when A < B as N32. (R124) -/
def execSetpLtN32 (g : Guard) (u : Bool) (d : Reg) (a : Reg) (b : Src) (s : State) : Out :=
  aluCmp (.setpLtN32 g u d a b) s d a b (fun a b => decide (a.toNat < b.toNat))

/-- SETP.LE.N32: Sets predicate D when A <= B as N32. (R124) -/
def execSetpLeN32 (g : Guard) (u : Bool) (d : Reg) (a : Reg) (b : Src) (s : State) : Out :=
  aluCmp (.setpLeN32 g u d a b) s d a b (fun a b => decide (a.toNat ≤ b.toNat))

/-- SETP.EQ.F32: Sets predicate D when neither operand is NaN and A = B as F32. (R124) -/
def execSetpEqF32 (g : Guard) (u : Bool) (d : Reg) (a : Reg) (b : Src) (s : State) : Out :=
  aluCmp (.setpEqF32 g u d a b) s d a b cmpEqF

/-- SETP.NE.F32: Sets predicate D when either operand is NaN or A differs from B as F32. (R124) -/
def execSetpNeF32 (g : Guard) (u : Bool) (d : Reg) (a : Reg) (b : Src) (s : State) : Out :=
  aluCmp (.setpNeF32 g u d a b) s d a b (fun a b => !cmpEqF a b)

/-- SETP.LT.F32: Sets predicate D when neither operand is NaN and A < B as F32. (R124) -/
def execSetpLtF32 (g : Guard) (u : Bool) (d : Reg) (a : Reg) (b : Src) (s : State) : Out :=
  aluCmp (.setpLtF32 g u d a b) s d a b cmpLtF

/-- SETP.LE.F32: Sets predicate D when neither operand is NaN and A <= B as F32. (R124) -/
def execSetpLeF32 (g : Guard) (u : Bool) (d : Reg) (a : Reg) (b : Src) (s : State) : Out :=
  aluCmp (.setpLeF32 g u d a b) s d a b cmpLeF

/-- SETP.UN.F32: Sets predicate D when either operand is NaN. (R124) -/
def execSetpUnF32 (g : Guard) (u : Bool) (d : Reg) (a : Reg) (b : Src) (s : State) : Out :=
  aluCmp (.setpUnF32 g u d a b) s d a b cmpUnF

/-- SEL: Writes A or B to D, using the guard field as the selector. (R127) -/
def execSel (g : Guard) (u : Bool) (d : Reg) (a : Reg) (b : Src) (s : State) : Out :=
  simple (.sel g u d a b) s fun t =>
    wrV t d.toNat (if guardPasses t g then rdV t a.toNat else rdSrc t b) (rdTaint t a.toNat || taintSrc t b)

/-- PAND: Sets predicate D to the AND of two predicates. (R125) -/
def execPand (g : Guard) (u : Bool) (d : Reg) (a : Reg) (b : Reg) (s : State) : Out :=
  aluPred (.pand g u d a b) s d a b (fun a b => a && b)

/-- POR: Sets predicate D to the OR of two predicates. (R125) -/
def execPor (g : Guard) (u : Bool) (d : Reg) (a : Reg) (b : Reg) (s : State) : Out :=
  aluPred (.por g u d a b) s d a b (fun a b => a || b)

/-- PXOR: Sets predicate D to the XOR of two predicates. (R125) -/
def execPxor (g : Guard) (u : Bool) (d : Reg) (a : Reg) (b : Reg) (s : State) : Out :=
  aluPred (.pxor g u d a b) s d a b (fun a b => a != b)

/-- PANDN: Sets predicate D to pA AND NOT pB. (R125) -/
def execPandn (g : Guard) (u : Bool) (d : Reg) (a : Reg) (b : Reg) (s : State) : Out :=
  aluPred (.pandn g u d a b) s d a b (fun a b => a && !b)

/-- PPACK: Packs 32 predicates starting at base A into register D. (R126) -/
def execPpack (g : Guard) (u : Bool) (d : Reg) (a : Reg) (s : State) : Out :=
  simple (.ppack g u d a) s fun t => wrV t d.toNat (word (packPreds t a.toNat 32)) false

/-- PUNPACK: Writes the 32 bits of register A to predicates starting at base D. (R126) -/
def execPunpack (g : Guard) (u : Bool) (d : Reg) (a : Reg) (s : State) : Out :=
  simple (.punpack g u d a) s fun t => unpackPreds t d.toNat (rdV t a.toNat).toNat 32

/-- MOV: Copies register A and its taint to D. (R128) -/
def execMov (g : Guard) (u : Bool) (d : Reg) (a : Reg) (s : State) : Out :=
  aluA (.mov g u d a) s d a (fun a => a)

/-- MOVI: Writes the sign-extended 14-bit immediate to D, clearing its taint. (R129) -/
def execMovi (g : Guard) (u : Bool) (d : Reg) (imm : BitVec 14) (s : State) : Out :=
  simple (.movi g u d imm) s fun t => wrV t d.toNat (wordOfInt (sextInt imm.toNat 14)) false

/-- MOVI with a literal: Writes a 32-bit literal word to D, with IMM = 0, clearing its taint. (R129) -/
def execMoviLiteral (g : Guard) (u : Bool) (d : Reg) (w : Word) (s : State) : Out :=
  simple (.moviLiteral g u d w) s fun t => wrV t d.toNat w false

/-- FADD: Adds two F32 values, rounding RNE. (R130) -/
def execFadd (g : Guard) (u : Bool) (d : Reg) (a : Reg) (b : Src) (s : State) : Out :=
  aluABF (.fadd g u d a b) s d a b (aluF (fpAdd .f32))

/-- FSUB: Subtracts two F32 values, rounding RNE. (R130) -/
def execFsub (g : Guard) (u : Bool) (d : Reg) (a : Reg) (b : Src) (s : State) : Out :=
  aluABF (.fsub g u d a b) s d a b (aluF (fpSub .f32))

/-- FMUL: Multiplies two F32 values, rounding RNE. (R130) -/
def execFmul (g : Guard) (u : Bool) (d : Reg) (a : Reg) (b : Src) (s : State) : Out :=
  aluABF (.fmul g u d a b) s d a b (aluF (fpMul .f32))

/-- FFMA: Computes A times B plus D with one RNE rounding. (R130) -/
def execFfma (g : Guard) (u : Bool) (d : Reg) (a : Reg) (b : Src) (s : State) : Out :=
  aluABDF (.ffma g u d a b) s d a b aluFfma

/-- FMIN: Writes the IEEE minimumNumber of A and B. (R131) -/
def execFmin (g : Guard) (u : Bool) (d : Reg) (a : Reg) (b : Src) (s : State) : Out :=
  aluABF (.fmin g u d a b) s d a b (aluF (fpPick false))

/-- FMAX: Writes the IEEE maximumNumber of A and B. (R131) -/
def execFmax (g : Guard) (u : Bool) (d : Reg) (a : Reg) (b : Src) (s : State) : Out :=
  aluABF (.fmax g u d a b) s d a b (aluF (fpPick true))

/-- HFMA2: Computes a packed F16 fused multiply-add per element. (R132) -/
def execHfma2 (g : Guard) (u : Bool) (d : Reg) (a : Reg) (b : Src) (s : State) : Out :=
  aluABDF (.hfma2 g u d a b) s d a b (aluFma2 .f16)

/-- HADD2: Adds packed F16 elements. (R132) -/
def execHadd2 (g : Guard) (u : Bool) (d : Reg) (a : Reg) (b : Src) (s : State) : Out :=
  aluABF (.hadd2 g u d a b) s d a b (aluPair fpAdd)

/-- HMUL2: Multiplies packed F16 elements. (R132) -/
def execHmul2 (g : Guard) (u : Bool) (d : Reg) (a : Reg) (b : Src) (s : State) : Out :=
  aluABF (.hmul2 g u d a b) s d a b (aluPair fpMul)

/-- BFMA2: Computes a packed BF16 fused multiply-add per element. (R132) -/
def execBfma2 (g : Guard) (u : Bool) (d : Reg) (a : Reg) (b : Src) (s : State) : Out :=
  aluABDF (.bfma2 g u d a b) s d a b (aluFma2 .bf16)

end Sys2Proof.Machine
end

