-- ==== Sys2Proof/Machine/Control.lean ====
section
/-! DEFINITION. Class 4 but for rendezvous, barriers and queues (08_control_ops): transfers, meeting addresses, yield, nap and wake,
fences, SCOPEOF, handles, continuations and convoys. -/

namespace Sys2Proof.Machine

/-- BRA: Branches to a word offset relative to the BRA word. (R191) -/
def execBra (g : Guard) (ofs : BitVec 21) (s : State) : Out :=
  transferOp (.bra g ofs) s (fun t => relTarget t ofs.toNat 21) id

/-- BRX: Branches to the offset held in register A. (R191) -/
def execBrx (g : Guard) (a : Reg) (s : State) : Out :=
  transferOp (.brx g a) s (fun t => ((rdV t a.toNat).toNat : Int)) id

/-- CALL: Writes the link and branches to a relative offset. (R191) -/
def execCall (g : Guard) (d : Reg) (ofs : BitVec 14) (s : State) : Out :=
  transferOp (.call g d ofs) s (fun t => relTarget t ofs.toNat 14) (writeLink d)

/-- CALLX: Writes the link and branches to the offset in register A. (R191) -/
def execCallx (g : Guard) (d : Reg) (a : Reg) (s : State) : Out :=
  transferOp (.callx g d a) s (fun t => ((rdV t a.toNat).toNat : Int)) (writeLink d)

/-- RET: Returns to the offset held in register A. (R191) -/
def execRet (g : Guard) (a : Reg) (s : State) : Out :=
  transferOp (.ret g a) s (fun t => ((rdV t a.toNat).toNat : Int)) id

/-- EXIT: Moves the thread to EXITED, completing its issued writes and arriving everywhere. (R37) -/
def execExit (g : Guard) (s : State) : Out :=
  issue (.exit g) s fun s t => .next (exitThread s t)

/-- SETM: Sets MEET to a relative code offset. (R192) -/
def execSetm (g : Guard) (ofs : BitVec 21) (s : State) : Out :=
  issue (.setm g ofs) s fun s t => .next (writeMeet (.setm g ofs) s t (wordOfInt (relTarget t ofs.toNat 21)))

/-- SETMX: Sets MEET from register A. (R192) -/
def execSetmx (g : Guard) (a : Reg) (s : State) : Out :=
  issue (.setmx g a) s fun s t =>
    if meetOk (rdV t a.toNat) then .next (writeMeet (.setmx g a) s t (rdV t a.toNat)) else raise s (unissued s t) .illegalOperand

/-- CLRM: Clears MEET. (R192) -/
def execClrm (g : Guard) (s : State) : Out :=
  issue (.clrm g) s fun s t => .next (writeMeet (.clrm g) s t 0xFFFFFFFF)

/-- YIELD: Places the thread in YIELDED for a count of clocks. (R193) -/
def execYield (g : Guard) (c : Src) (s : State) : Out :=
  issue (.yield g c) s fun s t => yieldFor (.yield g c) s t (min (rdSrc t c).toNat 65535)

/-- NAP: Yields for a count unless the wake token is set, which it consumes. (R193) -/
def execNap (g : Guard) (c : Src) (s : State) : Out :=
  issue (.nap g c) s fun s t =>
    if t.wake && (rdSrc t c).toNat != 0 then .next (retire (.nap g c) s { t with wake := false })
    else yieldFor (.nap g c) s t (min (rdSrc t c).toNat 1048575)

/-- WAKE: Makes a YIELDED team thread READY or sets its wake token. (R194) -/
def execWake (g : Guard) (a : Reg) (s : State) : Out :=
  issue (.wake g a) s fun s t =>
    if 16384 ≤ (rdV t a.toNat).toNat then raise s (unissued s t) .illegalOperand
    else .next (wakeTid (retire (.wake g a) s t) t.team (rdV t a.toNat).toNat)

/-- FENCE: Waits for earlier accesses to be performed and acknowledged at a scope. (R208) -/
def execFence (g : Guard) (sc : ScopeSrc) (s : State) : Out :=
  poll (.fence g sc) s fun s t =>
    match fenceScope t sc with
    | none => raise s { unissued s t with st := .ready } .illegalOperand
    | some S =>
      if settledAt s t S then .next (acquireAt (retire (.fence g sc) s t) t.core S) else pollBlock (.fence g sc) s t

/-- SCOPEOF: Writes the lowest scope enclosing the thread and a named party. (R209) -/
def execScopeof (g : Guard) (d : Reg) (a : Reg) (kind : BitVec 2) (s : State) : Out :=
  issue (.scopeof g d a kind) s fun s t =>
    match scopeofValue s t a kind.toNat with
    | .inl (c, adr) => raise s (unissued s t) c 0 adr
    | .inr v => .next (retire (.scopeof g d a kind) s (wrV t d.toNat (word v) false))

/-- HWAIT.F: Blocks until the handle is FULL with the given phase. (R211) -/
def execHwaitF (g : Guard) (h : BitVec 6) (ph : Bool) (s : State) : Out :=
  handleWait (.hwaitF g h ph) s h.toNat

/-- HWAIT.E: Blocks until the handle is FREE. (R211) -/
def execHwaitE (g : Guard) (h : BitVec 6) (s : State) : Out :=
  handleWait (.hwaitE g h) s h.toNat

/-- HSET.FILL: Moves a FREE handle to FILLING. (R211) -/
def execHsetFill (g : Guard) (h : BitVec 6) (s : State) : Out :=
  handleOp (.hsetFill g h) s h.toNat fun _ x => if x.state == 0 then .ok { x with state := 1 } else .error .handle

/-- HSET.FULL: Moves a handle to FULL. (R211) -/
def execHsetFull (g : Guard) (h : BitVec 6) (s : State) : Out :=
  handleOp (.hsetFull g h) s h.toNat fun _ x =>
    if x.state == 0 || (x.state == 1 && x.infl == 0) then .ok { x with state := 2 } else .error .handle

/-- HSET.DRAIN: Moves a FULL handle to DRAINING. (R211) -/
def execHsetDrain (g : Guard) (h : BitVec 6) (s : State) : Out :=
  handleOp (.hsetDrain g h) s h.toNat fun _ x => if x.state == 2 then .ok { x with state := 3 } else .error .handle

/-- HSET.FREE: Moves a handle to FREE, flipping its phase. (R211) -/
def execHsetFree (g : Guard) (h : BitVec 6) (s : State) : Out :=
  handleOp (.hsetFree g h) s h.toNat fun _ x =>
    if x.state == 2 || x.state == 3 then .ok { x with state := 0, ph := !x.ph, rcv := 0, rsv := 0 } else .error .handle

/-- HARM: Sets a FREE handle's expected byte count. DESIGN CHOICE (notes/assumptions/36.md): the state is tested before the value. (R211) -/
def execHarm (g : Guard) (h : BitVec 6) (c : Reg) (s : State) : Out :=
  handleOp (.harm g h c) s h.toNat fun t x =>
    let n := (rdV t c.toNat).toNat
    if x.state != 0 then .error .handle
    else if n == 0 || 16777215 < n then .error .illegalOperand
    else .ok { x with exp := n, rcv := 0, rsv := 0 }

/-- CONT: Saves v0-v7 into a continuation record armed on a handle and exits. (R39) -/
def execCont (g : Guard) (h : BitVec 6) (w : Word) (s : State) : Out :=
  contOp (.cont g h w) s h.toNat w

/-- CVJOIN: Joins or rejoins a convoy under a member index. (R217) -/
def execCvjoin (g : Guard) (a : Reg) (b : Reg) (s : State) : Out :=
  cvjoinOp (.cvjoin g a b) s a b

/-- CVLEAVE: Leaves the thread's convoy and frees its index. (R218) -/
def execCvleave (g : Guard) (s : State) : Out :=
  issue (.cvleave g) s fun s t => .next (retire (.cvleave g) (leaveConvoy s t) { t with cv := none })

/-- CVSET.SL: Writes the convoy's slip limit. (R219) -/
def execCvsetSl (g : Guard) (a : Reg) (s : State) : Out :=
  cvsetOp (.cvsetSl g a) s a 1 65535 .setSl

/-- CVSET.LT: Writes the convoy's lapse time. (R219) -/
def execCvsetLt (g : Guard) (a : Reg) (s : State) : Out :=
  cvsetOp (.cvsetLt g a) s a 64 1048575 .setLt

end Sys2Proof.Machine
end

