-- ==== Sys2Proof/Machine/Copy.lean ====
section
/-! DEFINITION. Copies and drains (R239 to R257), and the steps of the copy engine. -/

namespace Sys2Proof.Machine

noncomputable section

/-- MDRAIN: Drains a tile to a global tensor box through a handle. (R240) -/
def execMdrain (g : Guard) (cvt : DrainFmt) (h : BitVec 6) (tile : BitVec 2) (bs : BitVec 3) (x2 : Reg) (x3 : Reg) (la : BitVec 4) (s : State) : Out :=
  copyOp (.mdrain g cvt h tile bs x2 x3 la) s .mdrain h x3 fun t c =>
    { c with ptrA := some (recPtr t bs x2), cvt := cvtCode cvt, tile := tile.toNat }

/-- MDRAINA: Drains a tile to a global tensor box by adding at home. (R240) -/
def execMdraina (g : Guard) (h : BitVec 6) (tile : BitVec 2) (bs : BitVec 3) (x2 : Reg) (x3 : Reg) (la : BitVec 4) (s : State) : Out :=
  copyOp (.mdraina g h tile bs x2 x3 la) s .mdraina h x3 fun t c =>
    { c with ptrA := some (recPtr t bs x2), tile := tile.toNat }

/-- MDRAINS: Drains a tile into scratchpad under a layout word. (R241) -/
def execMdrains (g : Guard) (cvt : DrainFmt) (h : BitVec 6) (tile : BitVec 2) (x1 : Reg) (x3 : Reg) (la : BitVec 4) (s : State) : Out :=
  copyOp (.mdrains g cvt h tile x1 x3 la) s .mdrains h x3 fun t c =>
    { c with slwD := rdMany t x1.toNat 3, cvt := cvtCode cvt, tile := tile.toNat }

/-- CPY.G2S: Copies a global tensor box into scratchpad through a handle. (R251) -/
def execCpyG2s (g : Guard) (h : BitVec 6) (bs : BitVec 3) (x1 : Reg) (x2 : Reg) (x3 : Reg) (la : BitVec 4) (s : State) : Out :=
  copyOp (.cpyG2s g h bs x1 x2 x3 la) s .g2s h x3 fun t c =>
    { c with ptrA := some (recPtr t bs x2), slwD := rdMany t x1.toNat 3 }

/-- CPY.G2S.T8: Copies a global box into scratchpad transposed, 1-byte elements. (R251) -/
def execCpyG2sT8 (g : Guard) (h : BitVec 6) (bs : BitVec 3) (x1 : Reg) (x2 : Reg) (x3 : Reg) (la : BitVec 4) (s : State) : Out :=
  copyOp (.cpyG2sT8 g h bs x1 x2 x3 la) s .g2sT8 h x3 fun t c =>
    { c with ptrA := some (recPtr t bs x2), slwD := rdMany t x1.toNat 3 }

/-- CPY.G2S.T16: Copies a global box into scratchpad transposed, 2-byte elements. (R251) -/
def execCpyG2sT16 (g : Guard) (h : BitVec 6) (bs : BitVec 3) (x1 : Reg) (x2 : Reg) (x3 : Reg) (la : BitVec 4) (s : State) : Out :=
  copyOp (.cpyG2sT16 g h bs x1 x2 x3 la) s .g2sT16 h x3 fun t c =>
    { c with ptrA := some (recPtr t bs x2), slwD := rdMany t x1.toNat 3 }

/-- CPY.S2G: Copies a scratchpad box to a global tensor box. (R251) -/
def execCpyS2g (g : Guard) (h : BitVec 6) (bs : BitVec 3) (x1 : Reg) (x2 : Reg) (x3 : Reg) (la : BitVec 4) (s : State) : Out :=
  copyOp (.cpyS2g g h bs x1 x2 x3 la) s .s2g h x3 fun t c =>
    { c with ptrA := some (recPtr t bs x2), slwS := rdMany t x1.toNat 3 }

/-- CPY.S2GA: Copies a scratchpad box to global memory by adding at home. (R251) -/
def execCpyS2ga (g : Guard) (h : BitVec 6) (bs : BitVec 3) (x1 : Reg) (x2 : Reg) (x3 : Reg) (la : BitVec 4) (s : State) : Out :=
  copyOp (.cpyS2ga g h bs x1 x2 x3 la) s .s2ga h x3 fun t c =>
    { c with ptrA := some (recPtr t bs x2), slwS := rdMany t x1.toNat 3 }

/-- CPY.G2G: Copies a global box to another global box, optionally converting. (R251) -/
def execCpyG2g (g : Guard) (h : BitVec 6) (bs : BitVec 3) (x1 : Reg) (x2 : Reg) (x3 : Reg) (la : BitVec 4) (s : State) : Out :=
  copyOp (.cpyG2g g h bs x1 x2 x3 la) s .g2g h x3 fun t c =>
    { c with ptrA := some (recPtr t bs x2), ptrB := some (recPtr t bs x1) }

/-- CPY.MC: Multicasts a global box to the scratchpad of several team cores. (R251) -/
def execCpyMc (g : Guard) (h : BitVec 6) (bs : BitVec 3) (x1 : Reg) (x2 : Reg) (x3 : Reg) (cmask : BitVec 8) (la : BitVec 4) (s : State) : Out :=
  copyMcOp (.cpyMc g h bs x1 x2 x3 cmask la) s h x3 cmask fun t c =>
    { c with ptrA := some (recPtr t bs x2), slwD := rdMany t x1.toNat 3 }

/-- CPY.S2S: Copies rows between scratchpad layouts. (R251) -/
def execCpyS2s (g : Guard) (h : BitVec 6) (x1 : Reg) (x2 : Reg) (x3 : Reg) (la : BitVec 4) (s : State) : Out :=
  copyOp (.cpyS2s g h x1 x2 x3 la) s .s2s h x3 fun t c =>
    { c with slwD := rdMany t x1.toNat 3, slwS := rdMany t x2.toNat 3 }

/-- CPY.V2S: Copies a global box into scratchpad as one convoy step. (R255) -/
def execCpyV2s (g : Guard) (h : BitVec 6) (bs : BitVec 3) (x1 : Reg) (x2 : Reg) (x3 : Reg) (la : BitVec 4) (s : State) : Out :=
  copyV2sOp (.cpyV2s g h bs x1 x2 x3 la) s h x3 fun t c =>
    { c with ptrA := some (recPtr t bs x2), slwD := rdMany t x1.toNat 3 }

/-- GTRINV: Drops a tensor record from the core's record cache after earlier stores are acknowledged. (R245) -/
def execGtrinv (g : Guard) (bs : BitVec 3) (x2 : Reg) (s : State) : Out :=
  gtrinvOp (.gtrinv g bs x2) s bs x2

/-- CPYWAIT: Blocks until all the thread's copies have finished, then acquires at PKG. (R256) -/
def execCpywait (g : Guard) (s : State) : Out :=
  cpywaitOp (.cpywait g) s

/-- PGHINT: Hints that a buffer range should be made resident. (R257) -/
def execPghint (g : Guard) (bs : BitVec 3) (x2 : Reg) (x3 : Reg) (s : State) : Out :=
  simple (.pghint g bs x2 x3) s id

/-- COPY.ACCEPT: The engine fetches and checks a copy's or drain's records and handle, and accepts it. (R252) -/
def execCopyAccept (c : Nat) (s : State) : Out :=
  copyAccept s c

/-- COPY.PART.WRITTEN: A written part of a copy adds its bytes to the handle's received count. (R253) -/
def execCopyPartWritten (c : Nat) (dst : Nat) (lo : Nat) (hi : Nat) (s : State) : Out :=
  copyPart s c dst lo hi

/-- COPY.FINISH: A copy or drain finishes, decrementing INFL and completing CPYWAIT. (R322) -/
def execCopyFinish (c : Nat) (s : State) : Out :=
  copyFinish s c

end

end Sys2Proof.Machine
end

