-- ==== Sys2Proof/Machine/FaultEvents.lean ====
section
/-! DEFINITION. The device steps of errors: containment on an uncorrectable error (R309 Table 6, R417), and the scrubber (R303, R310,
R311, R329). -/

namespace Sys2Proof.Machine

/-- A contained grid, by its id. -/
def containId (s : State) (grid cause core : Nat) : State :=
  match getGrid s grid with
  | some g => containGrid s g cause core
  | none => s

/-- The grid that an error in a part of a core's memories ends: that of its tag (R285, R309); of the accumulator store, the one whose MATRIX
role was last admitted to it (R417). -/
def containTag (s : State) (u : CoreUnit) (cause core : Nat) : State :=
  match assoc s.mem.tags u with
  | some (owner, grid) => if ownerOf s grid == owner then containId s grid cause core else s
  | none => s

/-- A Strait entry's uncorrectable error (R309): the entry is dropped and each requester's read is sent again once; its
second error gives POISON to that read. The read of another package opens its entry again once, and then is answered with POISON. -/
def straitError (s : State) (n : Nat) (e : StraitEntry) : State :=
  let lose (r : Req) : Req :=
    if !e.reqs.contains r.id then r
    else if r.again then
      { r with stage := if r.copy.isSome then .line (List.replicate 64 0) [true, true] else .data (List.replicate r.size 0) true }
    else { r with stage := .atCore, again := true }
  let rest := s.mem.entries.eraseIdx n
  let s1 := withMem s fun m => { m with reqs := m.reqs.map lose, entries := rest }
  match e.link with
  | none => s1
  | some _ =>
    if e.again then { s1 with hostOut := [], hostBad := true }
    else withMem s1 fun m => { m with entries := rest ++ [{ entryOf s e.pkg e.line with closed := true, link := e.link, again := true }] }

/-- A corrected error in a line of an owner: the data are as they were, and the owner's partitions count it (R309, R391). -/
def countCorrected (s : State) (o : Nat) : State :=
  ((List.range 16).filter fun p => partEn s p && partOwner s p == o).foldl (fun s p => countPart s p 12 1) s

/-- What an uncorrectable error does where it strikes (R309 Table 6, R417 Table 5), and a corrected one. A register block or granule that no
grid holds is cleared, which no context can tell: its registers and its valid bits are set anew at the next admission (R80, R291). -/
def unitError (s : State) (w : UnitError) : Out :=
  match w with
  | .regfile core lg depth lane =>
    match s.threads.find? fun t => holdsSlice t && t.core == core && t.lg == lg && t.depth == depth && t.lane / 8 == lane / 8 with
    | some t => .next (containId s t.grid 1 core)
    | none => .next s
  | .storeQueue q =>
    need (opFor s q) fun x => whenOk (x.level == 0) (.next (containId s x.grid 2 x.core))
  | .scratchpad core team line =>
    match getTeam s team with
    | none => .next s
    | some m => need ((m.cores.zipIdx.find? fun c => c.1 == core).map (·.2)) fun tc =>
      .next (if (m.scratchValid.getD tc []).contains line then containId s m.grid 3 core else s)
  | .tile core tile =>
    match (assoc s.eng.matTeam core).bind (getTeam s) with
    | some m => .next (containId s m.grid 4 core)
    | none => .next (containTag (withEng s fun e => { e with tiles := dropIf (fun x => x.1 == core && x.2.1 == tile) e.tiles }) (.tiles core) 4 core)
  | .l1Line core line => .next (dropL1 s core line)
  | .icLine core line => .next (withMem s fun m => { m with icache := dropIf (fun l => l.core == core && l.line == line) m.icache })
  | .straitEntry n => need s.mem.entries[n]? fun e => .next (straitError s n e)
  | .hbm phys =>
    whenOk (physOk phys) (.next (withMem s fun m => { m with atoms := infoSet m.atoms (phys / 32) { atomInfo s phys with ue := true } }))
  | .owner o =>
    whenOk (!bitOf ((ownerLoaded s o).getD 0 0).toNat 31 && s.disp.grids.any fun g => g.owner == o)
      (.next ((s.disp.grids.filter fun g => g.owner == o).foldl (fun s g => containId s g.id 5 0xFF) s))
  | .corrected o => .next (countCorrected s o)

/-- CONTAINMENT: An uncorrectable error in a grid's array unit contains that grid. (R417) -/
def execContainment (w : UnitError) (s : State) : Out := unitError s w

/-! ### The scrubber (R311) -/

/-- A pass over HBM has turned every atom of a destroyed owner's tag into a tagless one (R303). -/
def releaseTag (s : State) (o : Nat) : State :=
  let mine := s.mem.atoms.filter fun a => a.2.tag == some o
  let zero (m : Memory) (h : Nat) : Memory := memPut m ((List.range 32).map fun i => (32 * h + i, (0 : Byte)))
  let s := withMem s fun m =>
    { m with hbm := mine.foldl (fun h a => zero h a.1) m.hbm, atoms := mine.foldl (fun l a => infoSet l a.1 {}) m.atoms
             keys := dropIf (· == o) m.keys }
  report s 8 [o, 1] 0

/-- A shard of a generation that is READY, CURRENT or OLD, checked: a mismatch sets SUSPECT and is reported to its ADMIN (R329). -/
def scrubShard (s : State) (slot g n : Nat) : State :=
  let c := caddyOf s slot
  if shardMatches s slot g n then s
  else report (putCaddy s { c with sus := putAt false c.sus g true }) 4 [slot, g, caddyAdmin s slot, n] 0

/-- The shards that a pass over HBM checks: slot, generation and number. -/
def scrubShards (s : State) : List (Nat × Nat × Nat) :=
  s.disp.caddies.flatMap fun c => [0, 1].flatMap fun g =>
    if 2 ≤ c.state.getD g 0 then (List.range (shardCount s c.slot g)).map fun n => (c.slot, g, n) else []

/-- A pass over HBM (R303, R311, R329): every atom is read, every shard is checked, and the tags of destroyed owners are released. -/
def scrubHbm (s : State) : State :=
  let s := findUe s ((s.mem.atoms.filter fun a => a.2.ue).map (·.1))
  let s := (scrubShards s).foldl (fun s x => scrubShard s x.1 x.2.1 x.2.2) s
  let s := s.mem.keys.foldl releaseTag s
  withMem s fun m => { m with scrub := { m.scrub with hbm := s.clock } }

/-- The periods that a decision of function 8 sets (R336): 0 is the hardware's, those of R311. -/
def scrubEvery (x : Scrub) (d : Nat) : Scrub :=
  if d == 0 then { sram := x.sram, hbm := x.hbm } else { x with sramEvery := max 1 (Config.scrubPeriods d).1, hbmEvery := max 1 (Config.scrubPeriods d).2 }

/-- SCRUB_PASS: the scrubber reads an atom, a caddy shard, or ends a pass that releases a tag; it ends a pass over HBM or over the arrays on
chip, whose errors the model has strike at once; or function 8 sets its periods. (R311, R336) -/
def execScrubPass (w : ScrubWhat) (s : State) : Out :=
  match w with
  | .atom phys => .next (findUe s [phys / 32])
  | .shard slot g n => whenOk (decide (2 ≤ (caddyOf s slot).state.getD g 0 ∧ n < shardCount s slot g)) (.next (scrubShard s slot g n))
  | .tagRelease o => whenOk (s.mem.keys.contains o) (.next (releaseTag s o))
  | .pass true => .next (scrubHbm s)
  | .pass false => .next (withMem s fun m => { m with scrub := { m.scrub with sram := s.clock } })
  | .policy => decided s .scrub 8 [] 0 fun s d => .next (withMem s fun m => { m with scrub := scrubEvery m.scrub d })

end Sys2Proof.Machine
end

