-- ==== Sys2Proof/Machine/GraphEvents.lean ====
section
/-! DEFINITION. Task graphs (R351 to R357): the object and its checks, patches, replays, and how nodes start and finish. A graph has at
most one replay at a time (R283), which is known by the graph's number. -/

namespace Sys2Proof.Machine

/-! ### The object (R352) -/

/-- A word of the record of node n. -/
def nodeWord (s : State) (obj n i : Nat) : Nat := memNat s.mem.tbl (obj + 64 + 128 * n + 4 * i) 4

/-- The node count of an object; 0 when it is out of range. -/
def nodeCount (s : State) (obj : Nat) : Nat :=
  let n := memNat s.mem.tbl obj 4 % 2 ^ 17
  if 65536 < n then 0 else n

/-- KIND. -/
def nodeKind (s : State) (obj n : Nat) : Nat := bitsOf (nodeWord s obj n 0) 2 0
/-- NPRED. -/
def nodePreds (s : State) (obj n : Nat) : Nat := bitsOf (nodeWord s obj n 1) 15 0
/-- NSUCC. -/
def nodeSuccs (s : State) (obj n : Nat) : Nat := bitsOf (nodeWord s obj n 1) 20 16
/-- Half j of SUCC. -/
def nodeSucc (s : State) (obj n j : Nat) : Nat := nodeWord s obj n (2 + j / 2) / 2 ^ (16 * (j % 2)) % 2 ^ 16
/-- The successors of a node. -/
def succList (s : State) (obj n : Nat) : List Nat := (List.range (nodeSuccs s obj n)).map (nodeSucc s obj n)

/-- Patches: node, BODY word, value (R356). -/
abbrev Patches := List (Nat × Nat × Word)

/-- A BODY word under the patches of a replay; the later of two patches of one word holds. -/
def bodyWord (s : State) (obj : Nat) (ps : Patches) (n j : Nat) : Nat :=
  match ps.reverse.find? fun p => p.1 == n && p.2.1 == j with
  | some p => p.2.2.toNat
  | none => nodeWord s obj n (16 + j)

/-- The sixteen BODY words. -/
def bodyWords (s : State) (obj : Nat) (ps : Patches) (n : Nat) : List Word := (List.range 16).map fun j => word (bodyWord s obj ps n j)

/-! ### The checks of a kick (R353) -/

/-- The limits of a node's BODY by its kind. -/
def bodyOk (kind n : Nat) (b : List Word) : Bool :=
  let unused (k : Nat) : Bool := (b.drop k).all (· == 0)
  match kind with
  | 0 => pktType b == 1
  | 1 => pw b 4 != 0 && unused 5
  | 2 => unused 2
  | 3 => pw b 2 != 0 && decide (pw b 3 < n) && unused 4
  | 4 => unused 0
  | 5 => unused 3
  | _ => false

/-- The checks of one node. -/
def nodeOk (s : State) (obj count : Nat) (ps : Patches) (n : Nat) : Bool :=
  let k := nodeKind s obj n
  let succs := succList s obj n
  let named := ((List.range count).map fun m => ((succList s obj m).filter (· == n)).length).sum
  decide (nodeWord s obj n 0 < 8 ∧ nodeWord s obj n 1 < 2 ^ 21 ∧ nodeSuccs s obj n ≤ 28) && succs.all (fun m => decide (m < count)) &&
    ((List.range 28).drop (nodeSuccs s obj n)).all (fun j => nodeSucc s obj n j == 0) && nodePreds s obj n == named &&
    (k != 2 || nodeSuccs s obj n == 2) && bodyOk k n (bodyWords s obj ps n)

/-- The first node that fails its checks. -/
def badNode (s : State) (obj count : Nat) (ps : Patches) : Option Nat := (List.range count).find? fun n => !nodeOk s obj count ps n

/-! ### Patch tables (R356) -/

/-- What reading a patch table gives. -/
inductive PatchRead where
  | ok (ps : Patches)
  | bad
  | page (p : PageKey)

/-- The words of a patch table read at home, n of them from a byte on, and the state with what the reads have found (R309). -/
def patchWords (s : State) (u : UnitId) (owner ptr off : Nat) : Nat → List Word → State × Except (Option PageKey) (List Word)
  | 0, acc => (s, .ok acc.reverse)
  | n + 1, acc =>
    match unitCheck s u owner 0 (ptr + off) 4 4 rightR with
    | .ok t => let (bs, bad) := readTarget s t 0 4
      if bad then (foundAt s t 4, .error none) else patchWords s u owner ptr (off + 4) n (word (wordOfBytes bs) :: acc)
    | .park p => (s, .error (some p))
    | _ => (s, .error none)

/-- A patch entry. -/
def patchEntry (s : State) (obj count : Nat) (a v : Word) : Option (Nat × Nat × Word) :=
  let n := a.toNat % 2 ^ 16
  let j := bitsOf a.toNat 19 16
  if 2 ^ 20 ≤ a.toNat || count ≤ n || (nodeKind s obj n == 0 && j == 0) then none else some (n, j, v)

/-- Patch entries in order; none when one is refused. -/
def patchEntries (s : State) (obj count : Nat) : List Word → Option Patches
  | a :: v :: rest => (patchEntry s obj count a v).bind fun p => (patchEntries s obj count rest).map fun l => p :: l
  | _ => some []

/-- A patch table read and checked, and the state after its reads. -/
def readPatches (s : State) (u : UnitId) (owner ptr obj count : Nat) : State × PatchRead :=
  if ptr == 0 then (s, .ok [])
  else match patchWords s u owner ptr 0 4 [] with
    | (s, .error (some p)) => (s, .page p)
    | (s, .error none) => (s, .bad)
    | (s, .ok h) =>
      if 4096 < pw h 0 || !(h.drop 1).all (· == 0) then (s, .bad)
      else match patchWords s u owner ptr 16 (2 * pw h 0) [] with
        | (s, .error (some p)) => (s, .page p)
        | (s, .error none) => (s, .bad)
        | (s, .ok ws) => match patchEntries s obj count ws with
          | some ps => (s, .ok ps)
          | none => (s, .bad)

/-! ### Starting nodes (R353, R354) -/

/-- A node's progress changed. -/
def setNode (ns : List NodeState) (n : Nat) (f : NodeState → NodeState) : List NodeState := ns.mapIdx fun i x => if i == n then f x else x

/-- A mark and a decrement received by a node. -/
def mark1 (ns : List NodeState) (m : Nat × Bool) : List NodeState :=
  setNode ns m.1 fun x => { x with count := x.count - 1, run := x.run || m.2, skip := x.skip || !m.2 }

/-- A node whose count has reached 0 starts as run, or is skipped and finishes at once, which skips on (R354). -/
def wake (succs : Nat → List Nat) (wave : Nat) : Nat → List NodeState → Nat → List NodeState
  | 0, ns, _ => ns
  | fuel + 1, ns, n =>
    if (ns.getD n {}).run then setNode ns n fun x => { x with started := true, wave := wave }
    else
      let ns := setNode ns n fun x => { x with finished := true }
      let out := succs n
      let ns := (out.map fun m => (m, false)).foldl mark1 ns
      ((List.range ns.length).filter fun m => out.contains m && (ns.getD m {}).count == 0).foldl (wake succs wave fuel) ns

/-- A node finished, with the marks of its successors; those whose counts reach 0 start in ascending index, in one wave. -/
def finishNode (succs : Nat → List Nat) (wave : Nat) (ns : List NodeState) (n : Nat) (marks : List (Nat × Bool)) : List NodeState :=
  let ns := marks.foldl mark1 (setNode ns n fun x => { x with finished := true })
  ((List.range ns.length).filter fun m => marks.any (fun k => k.1 == m) && (ns.getD m {}).count == 0).foldl (wake succs wave (ns.length + 1)) ns

/-- The counts of a replay as the device writes them to its count array (R351). -/
def writeCounts (s : State) (r : Replay) : State :=
  withMem s fun m => { m with tbl := memWrite m.tbl r.cnt (r.nodes.flatMap fun x => bytesOfWord 4 x.count) }

/-- A replay put back. -/
def putReplay (s : State) (r : Replay) : State :=
  writeCounts (withDisp s fun d => { d with replays := mapIf (fun x => x.id == r.id) (fun _ => r) d.replays }) r

/-- A kick gone from its queue. -/
def dropKick (s : State) (k : Nat) : State := withDisp s fun d => { d with kicks := d.kicks.eraseIdx k }

/-- A kick may start: it is the oldest of its source, and no replay of its graph runs (R283). -/
def kickReady (s : State) (k : Nat) (x : Kick) : Bool :=
  !((s.disp.kicks.take k).any fun y => y.part == x.part && y.queue == x.queue) && !(s.disp.replays.any fun r => r.id == x.graph)

/-- A replay refused with CODE 7 (R353, R356): the pins of its kick are released. -/
def refuseReplay (s : State) (k : Nat) (x : Kick) (ptr node : Nat) : Out :=
  match writeRecord s (.replay x.graph) x.owner ptr (doneWords 2 7 0 node none) x.done.isSome with
  | .ok s1 => .next (unitGo (x.pins.foldl unpin (dropKick s1 k)) (.replay x.graph))
  | .error p => unitWait s (.replay x.graph) p

/-- GRAPH_REPLAY_START: The graph walker checks a graph and starts its root nodes, under the caddy pins and the switch count of its kick
(R308, R328). (R353) -/
def execGraphReplayStart (k : Nat) (s : State) : Out :=
  need s.disp.kicks[k]? fun x =>
    whenOk (kickReady s k x) <|
      let g := x.graph
      let obj := 64 * graphWord s g 1
      let count := nodeCount s obj
      let ptr := (x.done.getD (BitVec.ofNat 64 (graphWord s g 2 + 2 ^ 32 * graphWord s g 3))).toNat
      let entryOk := graphResident s g && graphOwner s g == x.owner && bitsOf (graphWord s g 0) 30 12 == 0 &&
        (List.range 3).all (fun i => graphWord s g (5 + i) == 0)
      if !entryOk || count == 0 then refuseReplay s k x ptr 0
      else match readPatches s (.replay g) x.owner x.patch.toNat obj count with
        | (s, .page p) => unitWait s (.replay g) p
        | (s, .bad) => refuseReplay s k x ptr 0
        | (s, .ok ps) =>
          match badNode s obj count ps with
          | some n => refuseReplay s k x ptr n
          | none =>
            let start (n : Nat) : NodeState :=
              { count := nodePreds s obj n, run := nodePreds s obj n == 0, started := nodePreds s obj n == 0 }
            let r : Replay :=
              { id := g, graph := g, owner := x.owner, obj := obj, cnt := 64 * graphWord s g 4, done := BitVec.ofNat 64 ptr, part := x.part
                nodes := (List.range count).map start, patches := ps, pins := x.pins, cadgen := x.cadgen, checked := x.done.isSome }
            let s := unitGo (dropKick s k) (.replay g)
            .next (putReplay (withDisp s fun d => { d with replays := d.replays ++ [r] }) r)

/-! ### Finishing nodes (R354, R355, R357) -/

/-- The successor function of a replay's object. -/
def replaySuccs (s : State) (r : Replay) (n : Nat) : List Nat := succList s r.obj n

/-- A node finishes by running, with given marks; a stopped replay starts nothing more (R357). -/
def finishRun (s : State) (r : Replay) (n : Nat) (marks : List (Nat × Bool)) : Out :=
  let ns := if r.stopped.isSome then setNode r.nodes n fun x => { x with finished := true } else finishNode (replaySuccs s r) (r.wave + 1) r.nodes n marks
  .next (putReplay (unitGo s (.node r.id n)) { r with nodes := ns, wave := r.wave + 1 })

/-- A node that finishes by running marks every successor run. -/
def finishAll (s : State) (r : Replay) (n : Nat) : Out := finishRun s r n ((replaySuccs s r n).map fun m => (m, true))

/-- A node ends its replay (R357). -/
def stopReplay (s : State) (r : Replay) (n status code : Nat) : Out :=
  .next (putReplay (unitGo s (.node r.id n))
    { r with stopped := some (r.stopped.getD (status, code, n, none)), nodes := setNode r.nodes n fun x => { x with finished := true } })

/-- A node's access of a word at home. -/
def nodeAccess (s : State) (r : Replay) (n ptr size right : Nat) (k : Target → Out) : Out :=
  match unitCheck s (.node r.id n) r.owner 0 ptr size (if size == 4 then 4 else 1) right with
  | .ok t => k t
  | .park p => unitWait s (.node r.id n) p
  | .fault c => stopReplay s r n 1 c.num
  | .miss _ => stuck

/-- A node reads a condition word. -/
def nodeRead (s : State) (r : Replay) (n ptr : Nat) (k : Nat → Out) : Out :=
  nodeAccess s r n ptr 4 rightR fun t =>
    let (bs, bad) := readTarget s t 0 4
    if bad then stopReplay (foundAt s t 4) r n 1 FaultCode.poison.num else k (wordOfBytes bs)

/-- The pieces of a copy of bytes, none of which crosses a line of its source or its destination: offset and length. -/
def copyPieces (src dst : Nat) : Nat → Nat → Nat → List (Nat × Nat)
  | 0, _, _ => []
  | fuel + 1, o, n =>
    if n ≤ o then []
    else
      let k := min (n - o) (min (64 - (src + o) % 64) (64 - (dst + o) % 64))
      (o, k) :: copyPieces src dst fuel (o + k) n

/-- The targets of a COPY node's pieces, or what stops them. -/
def copyTargets (s : State) (r : Replay) (n src dst : Nat) : List (Nat × Nat) → List (Target × Target × Nat) → Except Check (List (Target × Target × Nat))
  | [], acc => .ok acc.reverse
  | (o, k) :: rest, acc =>
    match unitCheck s (.node r.id n) r.owner 0 (src + o) k 1 rightR, unitCheck s (.node r.id n) r.owner 0 (dst + o) k 1 rightW with
    | .ok a, .ok b => copyTargets s r n src dst rest ((a, b, k) :: acc)
    | .ok _, c => .error c
    | c, _ => .error c

/-- A COPY node moves its bytes. -/
def nodeCopy (s : State) (r : Replay) (n src dst bytes : Nat) : Out :=
  match copyTargets s r n src dst (copyPieces src dst (bytes + 1) 0 bytes) [] with
  | .error (.park p) => unitWait s (.node r.id n) p
  | .error (.fault c) => stopReplay s r n 1 c.num
  | .error _ => stuck
  | .ok ts =>
    if ts.any fun x => (readTarget s x.1 0 x.2.2).2 then
      stopReplay (ts.foldl (fun s x => foundAt s x.1 x.2.2) s) r n 1 FaultCode.poison.num
    else
      let data := ts.map fun x => (x.2.1, at_ x.2.1.phys (readTarget s x.1 0 x.2.2).1)
      finishAll (data.foldl (fun s x => writeTarget s x.1 x.2) s) r n

/-- A WHILE node that ran: another iteration, or its finish (R355). -/
def nodeWhile (s : State) (r : Replay) (n w bound first : Nat) : Out :=
  let me := r.nodes.getD n {}
  if w != 0 && decide (me.iter < bound) && r.stopped.isNone then
    let ns := (setNode r.nodes n fun x => { x with iter := x.iter + 1 }).mapIdx fun i x =>
      if first ≤ i ∧ i ≤ n then
        { x with count := nodePreds s r.obj i, run := i == first, skip := false, started := i == first, finished := false, grid := 0
                 wave := r.wave + 1 }
      else x
    .next (putReplay (unitGo s (.node r.id n)) { r with nodes := ns, wave := r.wave + 1 })
  else finishAll s r n

/-- Another GRID node that started before a node has its grid still to launch: grids of nodes that start together enter in ascending
index (R353, R354). -/
def launchBehind (s : State) (r : Replay) (n : Nat) : Bool :=
  let wave (i : Nat) : Nat := (r.nodes.getD i {}).wave
  r.nodes.zipIdx.any fun (x, i) => x.started && !x.finished && x.grid == 0 && nodeKind s r.obj i == 0 && lexLess [wave i, i] [wave n, n]

/-- A refused packet's own record, at a DONE pointer that passes its checks (R344). -/
def nodeRecord (s : State) (r : Replay) (n : Nat) (ws : List Word) (code : Nat) : Except PageKey State :=
  if pktDoneOk s r.owner 0 ws then writeRecord s (.node r.id n) r.owner (pq ws 12) (doneWords 2 code 0 0 none) else .ok s

/-- A GRID node: it launches its grid, and finishes when the grid is complete. A refused packet ends its replay, and has its record. -/
def nodeGrid (s : State) (r : Replay) (n : Nat) (ws : List Word) : Out :=
  let me := r.nodes.getD n {}
  if me.grid != 0 then whenOk (getGrid s me.grid).isNone (finishAll s r n)
  else if r.stopped.isSome then finishAll s r n
  else match gridCode s r.owner r.part ws r.pins with
    | some code => (match nodeRecord s r n ws code with
      | .ok s1 => stopReplay s1 r n 2 code
      | .error p => unitWait s (.node r.id n) p)
    | none =>
      let id := s.disp.nextGrid
      let g := gridOf s id r.owner r.part ws (.node r.id n) r.pins r.cadgen
      let g := { g with codeLen := codeLength (probed s g) r.owner 0 (pq ws 1) }
      let best := (partLayers s r.part).filter fun l => layersGood s g [l]
      let layers := if best.isEmpty then partLayers s r.part else best
      whenOk (gridFree s && !layers.isEmpty && !launchBehind s r n) <|
        .next (askClass (enterGrid (putReplay s { r with nodes := setNode r.nodes n fun x => { x with grid := id } }) g layers) id g.cls)

/-- A started node's work (R352, R354). -/
def nodeWork (s : State) (r : Replay) (n : Nat) : Out :=
  let b := bodyWords s r.obj r.patches n
  match nodeKind s r.obj n with
  | 0 => nodeGrid s r n b
  | 1 => nodeCopy s r n (pq b 0) (pq b 2) (pw b 4)
  | 2 => nodeRead s r n (pq b 0) fun w => finishRun s r n
      [(nodeSucc s r.obj n 0, w != 0), (nodeSucc s r.obj n 1, w == 0)]
  | 3 => nodeRead s r n (pq b 0) fun w => nodeWhile s r n w (pw b 2) (pw b 3 % 2 ^ 16)
  | 4 => finishAll s r n
  | _ => nodeAccess s r n (pq b 0) 4 rightW fun t => finishAll (writeTarget s t (at_ t.phys (bytesOfWord 4 (pw b 2)))) r n

/-- A replay has nothing more to do (R357). -/
def replayOver (r : Replay) : Bool :=
  if r.stopped.isSome then r.nodes.all fun x => !x.started || x.finished else r.nodes.all (·.finished)

/-- A replay completed: its record, and its pins (R328, R357). -/
def endReplay (s : State) (r : Replay) : Out :=
  let (status, code, node, first) := r.stopped.getD (0, 0, 0, none)
  match writeRecord s (.replay r.id) r.owner r.done.toNat (doneWords status code 0 node first) r.checked with
  | .ok s1 =>
    .next (unitGo (withDisp (r.pins.foldl unpin s1) fun d => { d with replays := dropIf (fun x => x.id == r.id) d.replays }) (.replay r.id))
  | .error p => unitWait s (.replay r.id) p

/-- GRAPH_NODE_FINISH: A started node does its work and finishes, marking its successors; once none is left, the replay completes. (R354,
R357) -/
def execGraphNodeFinish (r : Nat) (n : Nat) (s : State) : Out :=
  need (s.disp.replays.find? fun x => x.id == r) fun x =>
    if replayOver x then endReplay s x
    else need x.nodes[n]? fun me => whenOk (me.started && !me.finished) (nodeWork s x n)

end Sys2Proof.Machine
end

