-- ==== Sys2Proof/Machine/ManageEvents.lean ====
section
/-! DEFINITION. The table unit's management commands (R314, R315): invalidations (R318, R320), owner records (R313), queues (R332), caddies
(R307, R330) and the function mode table (R337, R338). -/

namespace Sys2Proof.Machine

/-! ### Commands (R314) -/

/-- Word i of a command. -/
def cw (ws : List Word) (i : Nat) : Nat := (ws.getD i 0).toNat
/-- CMD. -/
def cmdOf (ws : List Word) : Nat := cw ws 0 % 2 ^ 8
/-- OWNER, the owner acted upon. -/
def cmdOwner (ws : List Word) : Nat := cw ws 1 % 2 ^ 12
/-- Argument i. -/
def cmdArg (ws : List Word) (i : Nat) : Nat := cw ws (2 + i)

/-- The command of a management queue that the table unit performs: the one that it has taken, or the head. -/
def headCommand (s : State) (q : Nat) : Option (HwQueue × List Word) :=
  (queueFor s q).bind fun x => match x.mark with
    | some (_, ws) => some (x, ws)
    | none => if x.kind == 2 && x.stopped.isNone && !ringHeld s q then x.fifo.head?.map fun e => (x, e.words) else none

/-- A queue's command taken, with the order number at which it has dropped translations, or none. -/
def setMark (s : State) (q : Nat) (m : Option (Nat × List Word)) : State :=
  withDisp s fun d => { d with queues := mapIf (fun x => x.q == q) (fun x => { x with mark := m }) d.queues }

/-- A command's outcome: STATUS, DETAIL and the state with its effect. -/
structure CmdDone where
  status : Nat
  detail : Nat
  s : State

/-- A command refused with a DETAIL. -/
def refused (s : State) (d : Nat) : CmdDone := { status := 1, detail := d, s := s }
/-- A command done. -/
def cmdDone (s : State) : CmdDone := { status := 0, detail := 0, s := s }

/-- The end of a command: its record, its effect, and it leaves its queue, unless it was taken before (R315). -/
def endCommand (s0 : State) (x : HwQueue) (ws : List Word) (d : CmdDone) : Out :=
  match writeRecord d.s (.command x.q) x.owner (natOfWords (ws.drop 6)) [word d.status, word d.detail, 0, 0] with
  | .error p => unitWait s0 (.command x.q) p
  | .ok s1 =>
    if x.mark.isSome then .next (setMark s1 x.q none)
    else match popOne s1 x.q with
    | .done s2 _ => .next s2
    | .page p => unitWait s0 (.ring x.q) p
    | _ => .next s1

/-- What a command does in a step: it ends, it is taken and goes on, or it waits. -/
inductive CmdStep where
  | done (d : CmdDone)
  | go (s : State)
  | wait

/-- A command taken from its queue, which goes on in later steps (R315, R342). -/
def takeCommand (s0 s1 : State) (x : HwQueue) (ws : List Word) : Out :=
  match popOne s1 x.q with
  | .done s2 _ => .next (setMark s2 x.q (some (s2.mem.seq, ws)))
  | .page p => unitWait s0 (.ring x.q) p
  | _ => stuck

/-- A command under its completion pointer, which is checked first and then translated, before the command is taken; one that fails is
refused without a record (R314). -/
def withCmdPtr (s : State) (q : Nat) (x : HwQueue) (ws : List Word) (k : Out) : Out :=
  let p := natOfWords (ws.drop 6)
  if p == 0 || x.mark.isSome then k
  else match unitCheck s (.command q) x.owner 0 p 16 16 rightW with
    | .ok _ => k
    | .park g => unitWait s (.command q) g
    | _ => match popOne s q with
      | .done s1 _ => .next (addDrop (unitGo s1 (.command q)) q)
      | .page g => unitWait s (.ring q) g
      | _ => stuck

/-- A command performed: its completion pointer, then OWNER and issuer (DETAIL 1), then reserved bits and arguments (DETAIL 3), then the
command's own rules. -/
def command (s : State) (q cmd : Nat) (issuer : HwQueue → List Word → Bool) (args : List Word → Bool)
    (act : State → HwQueue → List Word → CmdStep) : Out :=
  need (headCommand s q) fun (x, ws) =>
    whenOk (cmdOf ws == cmd) <| withCmdPtr s q x ws <|
      if (x.owner != 0 && cmdOwner ws != x.owner) || !issuer x ws then endCommand s x ws (refused s 1)
      else if 2 ^ 8 ≤ cw ws 0 || 2 ^ 12 ≤ cw ws 1 || !args ws then endCommand s x ws (refused s 3)
      else match act s x ws with
        | .done d => endCommand s x ws d
        | .go s1 => takeCommand s s1 x ws
        | .wait => stuck

/-- Any queue may issue the command. -/
def anyIssuer (_ : HwQueue) (_ : List Word) : Bool := true
/-- Owner 0 alone may issue the command. -/
def rootIssuer (x : HwQueue) (_ : List Word) : Bool := x.owner == 0

/-! ### Invalidations (R318, R320) -/

/-- Cached buffer entries of an owner in a range dropped from every core. -/
def dropBufs (s : State) (owner lo n : Nat) : State :=
  withMem s fun m => { m with bufc := dropIf (fun b => b.owner == owner && decide (lo ≤ b.idx ∧ b.idx < lo + n)) m.bufc }

/-- BUFINV: Management command dropping cached buffer entries of an owner. (R318) -/
def execBufinv (q : Nat) (s : State) : Out :=
  command s q 0x01 anyIssuer (fun ws => decide (1 ≤ cmdArg ws 1 ∧ cmdArg ws 1 ≤ 65536 ∧ cmdArg ws 0 < 65536)) fun s _ ws =>
    .done (cmdDone (dropBufs s (cmdOwner ws) (cmdArg ws 0) (cmdArg ws 1)))

/-- A page that meets a range of an owner's addresses; n of 0 is all of them. -/
def pageIn (owner va n : Nat) (p : PageKey) : Bool :=
  p.owner == owner && (n == 0 || decide (p.va < va + n ∧ va < p.va + pageBytes p.psz))

/-- Translations and misses of an owner in a range dropped. -/
def dropPages (s : State) (owner va n : Nat) : State :=
  withMem s fun m =>
    { m with tlb := dropIf (fun e => pageIn owner va n e.page) m.tlb, tlb2 := dropIf (fun e => pageIn owner va n e.page) m.tlb2
             miss := dropIf (fun x => pageIn owner va n x.2) m.miss }

/-- Every access of an owner that was issued before an order number has been performed. -/
def ownerQuiet (s : State) (owner mark : Nat) : Bool :=
  s.mem.ops.all (fun q => q.tgt.tag != owner || decide (mark ≤ q.seq)) && s.mem.reqs.all (fun r => r.scratch || r.tgt.tag != owner || decide (mark ≤ r.id)) &&
    s.eng.nm.all fun c => c.owner != owner || decide (mark ≤ c.after)

/-- A command that drops translations: they are dropped in a first step; it is done once every access that used them is (R320). -/
def dropStep (s : State) (x : HwQueue) (ws : List Word) (drop : State → State) : CmdStep :=
  match x.mark with
  | none => .go (drop s)
  | some m => if ownerQuiet s (cmdOwner ws) m.1 then .done (cmdDone s) else .wait

/-- XLATINV: Management command dropping translations of an owner's range. (R320) -/
def execXlatinv (q : Nat) (s : State) : Out :=
  command s q 0x02 anyIssuer (fun ws => decide (cmdArg ws 0 % 2 ^ 16 = 0 ∧ cmdArg ws 1 < 2 ^ 16)) fun s x ws =>
    dropStep s x ws fun s => dropPages s (cmdOwner ws) (cmdArg ws 0 + 2 ^ 32 * cmdArg ws 1) (cmdArg ws 2 * 2 ^ 16)

/-! ### Owner records (R313, R303, R417) -/

/-- An owner's record as it stands in the table region, loaded. -/
def loadOwner (s : State) (o : Nat) : State := withDisp s fun d => { d with owners := assocSet d.owners o (ownerWords s o) }

/-- An owner that is no more: its key is erased, which is reported, and its grids are contained (R303, R417 Table 5). -/
def destroyOwner (s : State) (o : Nat) : State :=
  let s := withMem s fun m => { m with keys := if m.keys.contains o then m.keys else m.keys ++ [o] }
  let s := report s 8 [o, 0] 0
  (s.disp.grids.filter fun g => g.owner == o).foldl (fun s g => match getGrid s g.id with
    | some g => containGrid s g 5 0xFF
    | none => s) s

/-- An owner has left something of its own: a record that was loaded, grids, or atoms of its tag. -/
def ownerLived (s : State) (o : Nat) : Bool :=
  ((assoc s.disp.owners o).any fun ws => bitOf (cw ws 0) 31) || s.disp.grids.any (fun g => g.owner == o) || s.mem.atoms.any fun a => a.2.tag == some o

/-- An owner record reloaded: VALID clear destroys an owner that was. -/
def reloadOwner (s : State) (o : Nat) : State :=
  let lived := ownerLived s o
  let s := dropPages (dropBufs (loadOwner s o) o 0 65536) o 0 0
  if lived && !bitOf (cw (ownerLoaded s o) 0) 31 then destroyOwner s o else s

/-- A record that gives an owner's tag out while its key is erased and no pass of the scrubber has released the tag (R303). -/
def tagHeld (s : State) (o : Nat) : Bool := s.mem.keys.contains o && bitOf (cw (ownerWords s o) 0) 31

/-- OWNREC: Management command reloading an owner record; it implies BUFINV and XLATINV of all of the owner. (R314) -/
def execOwnrec (q : Nat) (s : State) : Out :=
  command s q 0x03 rootIssuer (fun _ => true) fun s x ws =>
    if x.mark.isNone && tagHeld s (cmdOwner ws) then .done (refused s 4) else dropStep s x ws fun s => reloadOwner s (cmdOwner ws)

/-! ### Queues (R331, R332) -/

/-- The words of a queue descriptor. -/
def qdescWords (s : State) (n : Nat) : List Word := wordsOf (memRead s.mem.tbl (0x40000 + 32 * n) 32)

/-- A descriptor within R331 Table 13: reserved bits, capacity, ring. -/
def qdescOk (s : State) (ws : List Word) : Bool :=
  let w0 := cw ws 0
  let ring := natOfWords ((ws.drop 2).take 2)
  let cap := bitsOf w0 4 0
  !bitOf w0 28 && bitsOf w0 15 5 == 0 && cw ws 1 == 0 && decide (5 ≤ cap ∧ cap ≤ 24) && decide (cw ws 6 < 2 ^ 6) && cw ws 7 == 0 && ptrOff ring % 32 == 0 &&
    (match unitAccess s (bitsOf w0 27 16) 0 ring (32 * 2 ^ cap) 32 rightW with | .fault c => c == .pageDenied | _ => true) &&
    (match unitAccess s (bitsOf w0 27 16) 0 ring (32 * 2 ^ cap) 32 rightR with | .fault c => c == .pageDenied | _ => true)

/-- A queue's HEAD, TAIL and FILL written in its descriptor. -/
def writeQdesc (s : State) (x : HwQueue) : State :=
  withMem s fun m => { m with tbl := memWrite m.tbl (0x40000 + 32 * x.q + 16) (bytesOf [word x.head, word x.tail, word x.fifo.length]) }

/-- A queue enabled. -/
def enableQueue (s : State) (n : Nat) (ws : List Word) : State :=
  let w0 := cw ws 0
  let x : HwQueue :=
    { q := n, en := true, kind := bitsOf w0 30 29, owner := bitsOf w0 27 16, logcap := bitsOf w0 4 0, ring := BitVec.ofNat 64 (natOfWords ((ws.drop 2).take 2)) }
  writeQdesc (putQueue s x) x

/-- A thread BLOCKED at a queue raises QUEUE there; a record that waits there is dropped and counted. -/
def failQueueOp (s : State) (o : QOp) : State :=
  let s := countLost (withDisp s fun d => { d with qops := dropIf (· == o) d.qops }) o
  match getThread s o.thread with
  | some t => putThread s (faulted { t with blen := 0 } { code := .queue, tpc := t.pc })
  | none => s

/-- A queue disabled: its blocked operations raise QUEUE, its state is written back, and entries on chip are lost (R332). -/
def disableQueue (s : State) (x : HwQueue) : State :=
  let s := (s.disp.qops.filter fun o => o.q == x.q).foldl failQueueOp s
  let s := writeQdesc s x
  putQueue (unitGo s (.ring x.q)) { x with en := false, fifo := [], pushers := [], stopped := none }

/-- Operations of a queue are in progress: those that are not BLOCKED on a full or empty queue, nor behind one of their fused set that is,
and a command that has been taken. -/
def queueBusy (s : State) (n : Nat) : Bool :=
  let waits (o : QOp) : Bool := o.blocked || s.disp.qops.any fun x => x.q == n && x.fset == o.fset && x.blocked
  s.disp.qops.any (fun o => o.q == n && !waits o) || s.disp.queues.any fun x => x.q == n && x.mark.isSome

/-- The fields of an enabled queue, but EN, are as a descriptor gives them. -/
def sameQueue (x : HwQueue) (ws : List Word) : Bool :=
  let w0 := cw ws 0
  x.kind == bitsOf w0 30 29 && x.owner == bitsOf w0 27 16 && x.logcap == bitsOf w0 4 0 && x.ring.toNat == natOfWords ((ws.drop 2).take 2)

/-- QDESC: Management command enabling or disabling a hardware queue. (R332) -/
def execQdesc (q : Nat) (s : State) : Out :=
  command s q 0x04 anyIssuer (fun ws => decide (cmdArg ws 0 < 256)) fun s _ ws =>
    let n := cmdArg ws 0
    let d := qdescWords s n
    if !qdescOk s d then .done (refused s 3)
    else match queueFor s n with
    | none => .done (cmdDone (if bitOf (cw d 0) 31 then enableQueue s n d else s))
    | some x =>
      if !sameQueue x d then .done (refused s 4)
      else if bitOf (cw d 0) 31 then .done (cmdDone s)
      else if queueBusy s n then .wait
      else .done (cmdDone (disableQueue s x))

/-! ### Caddies (R307, R330) -/

/-- The arguments of a caddy command are in range. -/
def caddyArgs (ws : List Word) : Bool := decide (cmdArg ws 0 < 256 ∧ cmdArg ws 1 < 2)

/-- The issuer of a caddy command acts for the slot's ADMIN. -/
def caddyIssuer (s : State) (_ : HwQueue) (ws : List Word) : Bool := decide (256 ≤ cmdArg ws 0) || caddyAdmin s (cmdArg ws 0) == cmdOwner ws

/-- A command on an enabled slot's generation. -/
def caddyStep (s : State) (ws : List Word) (k : Caddy → Nat → CmdDone) : CmdStep :=
  .done (if caddyEn s (cmdArg ws 0) then k (caddyOf s (cmdArg ws 0)) (cmdArg ws 1) else refused s 4)

/-- The state of a generation set. -/
def Caddy.setState (c : Caddy) (g st : Nat) : Caddy := { c with state := putAt 0 c.state g st }

/-- The progress of a generation's shards forgotten. -/
def Caddy.forget (c : Caddy) (g : Nat) : Caddy :=
  { c with sus := putAt false c.sus g false, shard := dropIf (fun x => x.1 / 2 ^ 32 == g) c.shard
           badShards := dropIf (fun x => x.1 == g) c.badShards, goodShards := dropIf (fun x => x.1 == g) c.goodShards
           data := dropIf (fun x => x.1 / 2 ^ 32 == g) c.data }

/-- CADLOAD: Management command moving a caddy generation from EMPTY to LOADING. (R307) -/
def execCadload (q : Nat) (s : State) : Out :=
  command s q 0x05 (caddyIssuer s) caddyArgs fun s _ ws => caddyStep s ws fun c g =>
    if c.state.getD g 0 != 0 then refused s 4 else cmdDone (putCaddy s ((c.forget g).setState g 1))

/-- CADDROP: Management command releasing a LOADING or READY caddy generation. (R307) -/
def execCaddrop (q : Nat) (s : State) : Out :=
  command s q 0x07 (caddyIssuer s) caddyArgs fun s _ ws => caddyStep s ws fun c g =>
    let st := c.state.getD g 0
    if st != 1 && st != 2 then refused s 4 else cmdDone (putCaddy s ((c.forget g).setState g 0))

/-- A switch to a generation (R307, R330): the other one becomes OLD if it was CURRENT, and EMPTY at once when nothing pins it. -/
def switchCaddy (s : State) (c : Caddy) (g : Nat) : State :=
  let o := 1 - g
  let c1 := c.setState g 3
  let c2 := if c.state.getD o 0 == 3 then c1.setState o (if c.pin.getD o 0 == 0 then 0 else 4) else c1
  withDisp (putCaddy s c2) fun d => { d with cadCount := d.cadCount + 1 }

/-- A generation to which a switch is allowed (R307, R330). -/
def switchOk (c : Caddy) (g : Nat) : Bool := c.state.getD g 0 == 2 && !c.sus.getD g false

/-- CADSWITCH: Management command making a READY caddy generation CURRENT, once function 4 has it switch. (R330) -/
def execCadswitch (q : Nat) (s : State) : Out :=
  let run (s : State) (d : Nat) : Out :=
    command s q 0x06 (caddyIssuer s) caddyArgs fun s _ ws => caddyStep s ws fun c g =>
      if switchOk c g && d == 1 then cmdDone (switchCaddy s c g) else refused s 4
  need (headCommand s q) fun (x, ws) =>
    let slot := cmdArg ws 0
    let asks := (x.owner == 0 || cmdOwner ws == x.owner) && decide (cw ws 0 < 2 ^ 8 ∧ cw ws 1 < 2 ^ 12) && caddyArgs ws && caddyIssuer s x ws &&
      caddyEn s slot && switchOk (caddyOf s slot) (cmdArg ws 1)
    whenOk (cmdOf ws == 0x06) <| withCmdPtr s q x ws <|
      if asks then decided s (.cadswitch q slot (cmdArg ws 1)) 4 [slot, cmdArg ws 1, caddyAdmin s slot] 1 run else run s 1

/-! ### The function mode table (R336 to R338) -/

/-- An entry of the function mode table as loaded: one with a reserved bit set is taken as MODE 0. -/
def loadFn (s : State) (i : Nat) : FnMode :=
  let ws := wordsOf (memRead s.mem.tbl (0x4C000 + 16 * i) 16)
  let ok := decide (cw ws 0 < 2 ∧ cw ws 1 < 2 ^ 8 ∧ cw ws 2 ≤ 1000000) && cw ws 3 == 0
  { host := ok && bitOf (cw ws 0) 0, evq := cw ws 1 % 2 ^ 8, tmo := cw ws 2 % 2 ^ 20, raw := ws }

/-- FMRELOAD: Management command reloading the function mode table. (R337) -/
def execFmreload (q : Nat) (s : State) : Out :=
  command s q 0x08 rootIssuer (fun _ => true) fun s _ _ =>
    .done (cmdDone (withDisp s fun d => { d with fnModes := (List.range 9).map (loadFn s) }))

/-- A decision that its function allows (R338). -/
def decisionOk (s : State) (what : Question) (d : Nat) : Bool :=
  match what with
  | .placement g _ => ((getGrid s g).map fun g => layerOk s g.part (d % 16) && decide (d < 2 ^ 16)).getD false
  | .pageRot _ => decide (d < 8)
  | .classify _ => decide (d < 3)
  | .scrub => true
  | _ => decide (d < 2)

/-- FMREPLY: Management command answering an open HOST-mode question. (R338) -/
def execFmreply (q : Nat) (s : State) : Out :=
  command s q 0x09 rootIssuer (fun ws => decide (cmdArg ws 0 < 9)) fun s _ ws =>
    match (pendingQ s (cmdArg ws 0) (cmdArg ws 1)).filter fun o => decide (s.clock ≤ o.deadline) with
    | none => .done { status := 2, detail := 0, s := s }
    | some o =>
      if decisionOk s o.what (cmdArg ws 2) then .done (cmdDone (answerQ s o.fn o.seqNo (cmdArg ws 2)))
      else .done { status := 1, detail := 3, s := answerQ s o.fn o.seqNo o.hw }

/-- MANAGE_UNKNOWN: A management command with an unknown CMD is refused with DETAIL 2. (R314) -/
def execManageUnknown (q : Nat) (s : State) : Out :=
  need (headCommand s q) fun (x, ws) =>
    whenOk (cmdOf ws == 0 || decide (9 < cmdOf ws)) <| withCmdPtr s q x ws <|
      endCommand s x ws (refused s (if x.owner != 0 && cmdOwner ws != x.owner then 1 else 2))

end Sys2Proof.Machine
end

