-- ==== Sys2Proof/Machine/Matrix.lean ====
section
/-! DEFINITION. Class 2 but for the drains (R222 to R238), and the step in which the matrix engine performs one operation. -/

namespace Sys2Proof.Machine

noncomputable section

/-- MMA.E4E4: Gang MMA with E4M3 A and E4M3 B into an accumulator tile. (R228) -/
def execMmaE4e4 (g : Guard) (x1 : Reg) (x2 : Reg) (x3 : Reg) (tile : BitVec 2) (sb : BitVec 2) (keep : Bool) (la : BitVec 4) (s : State) : Out :=
  gangOp (.mmaE4e4 g x1 x2 x3 tile sb keep la) s la x1 x3 (mmaArr 0 tile x2 keep 0 sb.toNat)

/-- MMA.E4E5: Gang MMA with E4M3 A and E5M2 B. (R228) -/
def execMmaE4e5 (g : Guard) (x1 : Reg) (x2 : Reg) (x3 : Reg) (tile : BitVec 2) (sb : BitVec 2) (keep : Bool) (la : BitVec 4) (s : State) : Out :=
  gangOp (.mmaE4e5 g x1 x2 x3 tile sb keep la) s la x1 x3 (mmaArr 1 tile x2 keep 0 sb.toNat)

/-- MMA.E5E4: Gang MMA with E5M2 A and E4M3 B. (R228) -/
def execMmaE5e4 (g : Guard) (x1 : Reg) (x2 : Reg) (x3 : Reg) (tile : BitVec 2) (sb : BitVec 2) (keep : Bool) (la : BitVec 4) (s : State) : Out :=
  gangOp (.mmaE5e4 g x1 x2 x3 tile sb keep la) s la x1 x3 (mmaArr 2 tile x2 keep 0 sb.toNat)

/-- MMA.E5E5: Gang MMA with E5M2 A and E5M2 B. (R228) -/
def execMmaE5e5 (g : Guard) (x1 : Reg) (x2 : Reg) (x3 : Reg) (tile : BitVec 2) (sb : BitVec 2) (keep : Bool) (la : BitVec 4) (s : State) : Out :=
  gangOp (.mmaE5e5 g x1 x2 x3 tile sb keep la) s la x1 x3 (mmaArr 3 tile x2 keep 0 sb.toNat)

/-- MMA.CB4: Gang MMA with CB4 codes through a codebook slot. (R228) -/
def execMmaCb4 (g : Guard) (x1 : Reg) (x2 : Reg) (x3 : Reg) (tile : BitVec 2) (sb : BitVec 2) (keep : Bool) (k : BitVec 3) (la : BitVec 4) (s : State) : Out :=
  gangOp (.mmaCb4 g x1 x2 x3 tile sb keep k la) s la x1 x3 (mmaArr 4 tile x2 keep k.toNat sb.toNat)

/-- MMA.BF16: Gang MMA with BF16 operands. (R228) -/
def execMmaBf16 (g : Guard) (x1 : Reg) (x2 : Reg) (tile : BitVec 2) (keep : Bool) (la : BitVec 4) (s : State) : Out :=
  gangOp (.mmaBf16 g x1 x2 tile keep la) s la x1 0 (mmaArr 5 tile x2 keep 0 0)

/-- MMA.F16: Gang MMA with F16 operands. (R228) -/
def execMmaF16 (g : Guard) (x1 : Reg) (x2 : Reg) (tile : BitVec 2) (keep : Bool) (la : BitVec 4) (s : State) : Out :=
  gangOp (.mmaF16 g x1 x2 tile keep la) s la x1 0 (mmaArr 6 tile x2 keep 0 0)

/-- MMA.I8: Gang MMA with I8 operands into an I32 tile. (R228) -/
def execMmaI8 (g : Guard) (x1 : Reg) (x2 : Reg) (tile : BitVec 2) (keep : Bool) (la : BitVec 4) (s : State) : Out :=
  gangOp (.mmaI8 g x1 x2 tile keep la) s la x1 0 (mmaArr 7 tile x2 keep 0 0)

/-- MZERO: Writes +0 to every word of a tile. (R237) -/
def execMzero (g : Guard) (tile : BitVec 2) (s : State) : Out :=
  issue (.mzero g tile) s fun s t => acceptMat (.mzero g tile) s t (.mzero t.key tile.toNat)

/-- MLOAD: Gang instruction that latches A rows and row scales without a product. (R231) -/
def execMload (g : Guard) (afmt : AFmt) (x1 : Reg) (x3 : Reg) (sb : BitVec 2) (k : BitVec 3) (la : BitVec 4) (s : State) : Out :=
  gangOp (.mload g afmt x1 x3 sb k la) s la x1 x3 (mloadArr (afmtCode afmt) k.toNat sb.toNat)

/-- MGANG: Sets the thread's gang of rowsets. (R223) -/
def execMgang (g : Guard) (x2 : Reg) (s : State) : Out :=
  mgangOp (.mgang g x2) s x2

/-- MOPF: Marks the point whose register and scratchpad values later engine reads use. (R234) -/
def execMopf (g : Guard) (s : State) : Out :=
  mopfOp (.mopf g) s

/-- MWAIT: Blocks until earlier matrix operations reach their completion points. (R235) -/
def execMwait (g : Guard) (s : State) : Out :=
  poll (.mwait g) s fun s t => if t.outMatrix.count == 0 then .next (retire (.mwait g) s t) else pollBlock (.mwait g) s t

/-- MREL: Releases the A operand latch held by the gang. (R232) -/
def execMrel (g : Guard) (s : State) : Out :=
  mrelOp (.mrel g) s

/-- MCB: Loads a codebook slot from 32 bytes of scratchpad. (R238) -/
def execMcb (g : Guard) (x2 : Reg) (k : BitVec 3) (s : State) : Out :=
  mcbOp (.mcb g x2 k) s x2 k

/-- MATRIX.ENGINE.OPERATION: The matrix engine performs its next accepted operation, reading operands and writing a tile or slot. (R236) -/
def execMatrixEngineOperation (core : Nat) (old : List OperandChoice) (s : State) : Out :=
  matrixEngine s core old

end

end Sys2Proof.Machine
end

