-- ==== Sys2Proof/Machine/Mem.lean ====
section
/-! DEFINITION. Class 1, the memory instructions (07_memory_ops, R152 to R187): loads, stores, ordering forms, convoy stream loads,
scratchpad accesses, atomics, reductions, and the buffer slots. -/

namespace Sys2Proof.Machine

noncomputable section

/-- LD.N8: Loads a byte from a buffer, zero-extended. (R167) -/
def execLdN8 (g : Guard) (u : Bool) (d : Reg) (a : Reg) (la : BitVec 4) (bs : BitVec 3) (off : Option Word) (s : State) : Out :=
  loadOp (.ldN8 g u d a la bs off) s d a la bs (litOff off) 1 1 (.zext 8) plainReq

/-- LD.I8: Loads a byte from a buffer, sign-extended. (R167) -/
def execLdI8 (g : Guard) (u : Bool) (d : Reg) (a : Reg) (la : BitVec 4) (bs : BitVec 3) (off : Option Word) (s : State) : Out :=
  loadOp (.ldI8 g u d a la bs off) s d a la bs (litOff off) 1 1 (.sext 8) plainReq

/-- LD.N16: Loads a half-word from a buffer, zero-extended. (R167) -/
def execLdN16 (g : Guard) (u : Bool) (d : Reg) (a : Reg) (la : BitVec 4) (bs : BitVec 3) (off : Option Word) (s : State) : Out :=
  loadOp (.ldN16 g u d a la bs off) s d a la bs (litOff off) 2 1 (.zext 16) plainReq

/-- LD.I16: Loads a half-word from a buffer, sign-extended. (R167) -/
def execLdI16 (g : Guard) (u : Bool) (d : Reg) (a : Reg) (la : BitVec 4) (bs : BitVec 3) (off : Option Word) (s : State) : Out :=
  loadOp (.ldI16 g u d a la bs off) s d a la bs (litOff off) 2 1 (.sext 16) plainReq

/-- LD.W: Loads a word from a buffer. (R167) -/
def execLdW (g : Guard) (u : Bool) (d : Reg) (a : Reg) (la : BitVec 4) (bs : BitVec 3) (off : Option Word) (s : State) : Out :=
  loadOp (.ldW g u d a la bs off) s d a la bs (litOff off) 4 1 (.words 1) plainReq

/-- LD.D: Loads two words from a buffer. (R167) -/
def execLdD (g : Guard) (u : Bool) (d : Reg) (a : Reg) (la : BitVec 4) (bs : BitVec 3) (off : Option Word) (s : State) : Out :=
  loadOp (.ldD g u d a la bs off) s d a la bs (litOff off) 8 2 (.words 2) plainReq

/-- LD.Q: Loads four words from a buffer. (R167) -/
def execLdQ (g : Guard) (u : Bool) (d : Reg) (a : Reg) (la : BitVec 4) (bs : BitVec 3) (off : Option Word) (s : State) : Out :=
  loadOp (.ldQ g u d a la bs off) s d a la bs (litOff off) 16 4 (.words 4) plainReq

/-- LD.O: Loads eight words from a buffer. (R167) -/
def execLdO (g : Guard) (u : Bool) (d : Reg) (a : Reg) (la : BitVec 4) (bs : BitVec 3) (off : Option Word) (s : State) : Out :=
  loadOp (.ldO g u d a la bs off) s d a la bs (litOff off) 32 8 (.words 8) plainReq

/-- ST.B: Stores the low byte of D into a buffer. (R168) -/
def execStB (g : Guard) (d : Reg) (a : Reg) (la : BitVec 4) (bs : BitVec 3) (off : Option Word) (s : State) : Out :=
  storeOp (.stB g d a la bs off) s a bs (litOff off) 1 (lowBytes d 1) (fun _ => .plain)

/-- ST.H: Stores the low half-word of D into a buffer. (R168) -/
def execStH (g : Guard) (d : Reg) (a : Reg) (la : BitVec 4) (bs : BitVec 3) (off : Option Word) (s : State) : Out :=
  storeOp (.stH g d a la bs off) s a bs (litOff off) 2 (lowBytes d 2) (fun _ => .plain)

/-- ST.W: Stores a word into a buffer. (R168) -/
def execStW (g : Guard) (d : Reg) (a : Reg) (la : BitVec 4) (bs : BitVec 3) (off : Option Word) (s : State) : Out :=
  storeOp (.stW g d a la bs off) s a bs (litOff off) 4 (regBytes d 1) (fun _ => .plain)

/-- ST.D: Stores two words into a buffer. (R168) -/
def execStD (g : Guard) (d : Reg) (a : Reg) (la : BitVec 4) (bs : BitVec 3) (off : Option Word) (s : State) : Out :=
  storeOp (.stD g d a la bs off) s a bs (litOff off) 8 (regBytes d 2) (fun _ => .plain)

/-- ST.Q: Stores four words into a buffer. (R168) -/
def execStQ (g : Guard) (d : Reg) (a : Reg) (la : BitVec 4) (bs : BitVec 3) (off : Option Word) (s : State) : Out :=
  storeOp (.stQ g d a la bs off) s a bs (litOff off) 16 (regBytes d 4) (fun _ => .plain)

/-- ST.O: Stores eight words into a buffer. (R168) -/
def execStO (g : Guard) (d : Reg) (a : Reg) (la : BitVec 4) (bs : BitVec 3) (off : Option Word) (s : State) : Out :=
  storeOp (.stO g d a la bs off) s a bs (litOff off) 32 (regBytes d 8) (fun _ => .plain)

/-- LDA.W: Loads a word as an acquire at scope S. (R170) -/
def execLdaW (g : Guard) (u : Bool) (d : Reg) (a : Reg) (la : BitVec 4) (bs : BitVec 3) (o : OrdLit) (s : State) : Out :=
  acquireOp (.ldaW g u d a la bs o) s d a la bs o 4 1 acquireReq

/-- LDA.D: Loads two words as an acquire at scope S. (R170) -/
def execLdaD (g : Guard) (u : Bool) (d : Reg) (a : Reg) (la : BitVec 4) (bs : BitVec 3) (o : OrdLit) (s : State) : Out :=
  acquireOp (.ldaD g u d a la bs o) s d a la bs o 8 2 acquireReq

/-- LDAP.W: Promotes releases of cores within scope S to PKG and then loads as an acquire. (R172) -/
def execLdapW (g : Guard) (u : Bool) (d : Reg) (a : Reg) (la : BitVec 4) (bs : BitVec 3) (o : OrdLit) (s : State) : Out :=
  acquireOp (.ldapW g u d a la bs o) s d a la bs o 4 1 promoteReq

/-- STL.W: Stores a word as a release at scope S. (R171) -/
def execStlW (g : Guard) (d : Reg) (a : Reg) (la : BitVec 4) (bs : BitVec 3) (o : OrdLit) (s : State) : Out :=
  releaseOp (.stlW g d a la bs o) s a bs o 4 (regBytes d 1)

/-- STL.D: Stores two words as a release at scope S. (R171) -/
def execStlD (g : Guard) (d : Reg) (a : Reg) (la : BitVec 4) (bs : BitVec 3) (o : OrdLit) (s : State) : Out :=
  releaseOp (.stlD g d a la bs o) s a bs o 8 (regBytes d 2)

/-- LDC.W: Loads a word from store queue or home and taints the destination. (R173) -/
def execLdcW (g : Guard) (u : Bool) (d : Reg) (a : Reg) (la : BitVec 4) (bs : BitVec 3) (off : Option Word) (s : State) : Out :=
  loadOp (.ldcW g u d a la bs off) s d a la bs (litOff off) 4 1 (.words 1) consumeReq

/-- LDC.D: Loads two words from store queue or home and taints the destinations. (R173) -/
def execLdcD (g : Guard) (u : Bool) (d : Reg) (a : Reg) (la : BitVec 4) (bs : BitVec 3) (off : Option Word) (s : State) : Out :=
  loadOp (.ldcD g u d a la bs off) s d a la bs (litOff off) 8 2 (.words 2) consumeReq

/-- LDV.W: Loads a word as one convoy step, holding the member at its slip limit. (R175) -/
def execLdvW (g : Guard) (u : Bool) (d : Reg) (a : Reg) (la : BitVec 4) (bs : BitVec 3) (off : Option Word) (s : State) : Out :=
  streamOp (.ldvW g u d a la bs off) s d a la bs (litOff off) 4 1

/-- LDV.D: Loads two words as one convoy step. (R175) -/
def execLdvD (g : Guard) (u : Bool) (d : Reg) (a : Reg) (la : BitVec 4) (bs : BitVec 3) (off : Option Word) (s : State) : Out :=
  streamOp (.ldvD g u d a la bs off) s d a la bs (litOff off) 8 2

/-- LDV.Q: Loads four words as one convoy step. (R175) -/
def execLdvQ (g : Guard) (u : Bool) (d : Reg) (a : Reg) (la : BitVec 4) (bs : BitVec 3) (off : Option Word) (s : State) : Out :=
  streamOp (.ldvQ g u d a la bs off) s d a la bs (litOff off) 16 4

/-- LDV.O: Loads eight words as one convoy step. (R175) -/
def execLdvO (g : Guard) (u : Bool) (d : Reg) (a : Reg) (la : BitVec 4) (bs : BitVec 3) (off : Option Word) (s : State) : Out :=
  streamOp (.ldvO g u d a la bs off) s d a la bs (litOff off) 32 8

/-- LDS.W: Loads a word from scratchpad. (R177) -/
def execLdsW (g : Guard) (u : Bool) (d : Reg) (a : Reg) (la : BitVec 4) (off : Option Word) (s : State) : Out :=
  ldsOp (.ldsW g u d a la off) s d a la off 1

/-- LDS.D: Loads two words from scratchpad. (R177) -/
def execLdsD (g : Guard) (u : Bool) (d : Reg) (a : Reg) (la : BitVec 4) (off : Option Word) (s : State) : Out :=
  ldsOp (.ldsD g u d a la off) s d a la off 2

/-- LDS.Q: Loads four words from scratchpad. (R177) -/
def execLdsQ (g : Guard) (u : Bool) (d : Reg) (a : Reg) (la : BitVec 4) (off : Option Word) (s : State) : Out :=
  ldsOp (.ldsQ g u d a la off) s d a la off 4

/-- LDS.O: Loads eight words from scratchpad. (R177) -/
def execLdsO (g : Guard) (u : Bool) (d : Reg) (a : Reg) (la : BitVec 4) (off : Option Word) (s : State) : Out :=
  ldsOp (.ldsO g u d a la off) s d a la off 8

/-- STS.W: Stores a word to scratchpad. (R177) -/
def execStsW (g : Guard) (d : Reg) (a : Reg) (la : BitVec 4) (off : Option Word) (s : State) : Out :=
  stsOp (.stsW g d a la off) s d a off 1

/-- STS.D: Stores two words to scratchpad. (R177) -/
def execStsD (g : Guard) (d : Reg) (a : Reg) (la : BitVec 4) (off : Option Word) (s : State) : Out :=
  stsOp (.stsD g d a la off) s d a off 2

/-- STS.Q: Stores four words to scratchpad. (R177) -/
def execStsQ (g : Guard) (d : Reg) (a : Reg) (la : BitVec 4) (off : Option Word) (s : State) : Out :=
  stsOp (.stsQ g d a la off) s d a off 4

/-- STS.O: Stores eight words to scratchpad. (R177) -/
def execStsO (g : Guard) (d : Reg) (a : Reg) (la : BitVec 4) (off : Option Word) (s : State) : Out :=
  stsOp (.stsO g d a la off) s d a off 8

/-- LDFRAG.N: Loads a 32-byte row fragment from a scratchpad tile. (R178) -/
def execLdfragN (g : Guard) (u : Bool) (d : Reg) (a : Reg) (la : BitVec 4) (off : Option Word) (s : State) : Out :=
  ldsOp (.ldfragN g u d a la off) s d a la off 8

/-- LDFRAG.T8: Loads one byte column of a 1 KiB scratchpad tile. (R178) -/
def execLdfragT8 (g : Guard) (u : Bool) (d : Reg) (a : Reg) (la : BitVec 4) (off : Option Word) (s : State) : Out :=
  fragOp (.ldfragT8 g u d a la off) s d a la off (fun o => bitsOf o 9 5 == 0) .t8

/-- LDFRAG.T16: Loads one half-word column of a 1 KiB scratchpad tile. (R178) -/
def execLdfragT16 (g : Guard) (u : Bool) (d : Reg) (a : Reg) (la : BitVec 4) (off : Option Word) (s : State) : Out :=
  fragOp (.ldfragT16 g u d a la off) s d a la off (fun o => bitsOf o 9 6 == 0 && !bitOf o 0) .t16

/-- ATOM.ADD: Atomically adds at home and returns the old word. (R181) -/
def execAtomAdd (g : Guard) (d : Reg) (a : Reg) (la : BitVec 4) (bs : BitVec 3) (off : Option Word) (s : State) : Out :=
  atomicOp (.atomAdd g d a la bs off) s d a la bs (litOff off) .add 4 4 1 1

/-- ATOM.MIN.I32: Atomic signed minimum at home, returning the old word. (R181) -/
def execAtomMinI32 (g : Guard) (d : Reg) (a : Reg) (la : BitVec 4) (bs : BitVec 3) (off : Option Word) (s : State) : Out :=
  atomicOp (.atomMinI32 g d a la bs off) s d a la bs (litOff off) .minI32 4 4 1 1

/-- ATOM.MAX.I32: Atomic signed maximum at home, returning the old word. (R181) -/
def execAtomMaxI32 (g : Guard) (d : Reg) (a : Reg) (la : BitVec 4) (bs : BitVec 3) (off : Option Word) (s : State) : Out :=
  atomicOp (.atomMaxI32 g d a la bs off) s d a la bs (litOff off) .maxI32 4 4 1 1

/-- ATOM.MIN.N32: Atomic unsigned minimum at home, returning the old word. (R181) -/
def execAtomMinN32 (g : Guard) (d : Reg) (a : Reg) (la : BitVec 4) (bs : BitVec 3) (off : Option Word) (s : State) : Out :=
  atomicOp (.atomMinN32 g d a la bs off) s d a la bs (litOff off) .minN32 4 4 1 1

/-- ATOM.MAX.N32: Atomic unsigned maximum at home, returning the old word. (R181) -/
def execAtomMaxN32 (g : Guard) (d : Reg) (a : Reg) (la : BitVec 4) (bs : BitVec 3) (off : Option Word) (s : State) : Out :=
  atomicOp (.atomMaxN32 g d a la bs off) s d a la bs (litOff off) .maxN32 4 4 1 1

/-- ATOM.AND: Atomic bitwise AND at home, returning the old word. (R181) -/
def execAtomAnd (g : Guard) (d : Reg) (a : Reg) (la : BitVec 4) (bs : BitVec 3) (off : Option Word) (s : State) : Out :=
  atomicOp (.atomAnd g d a la bs off) s d a la bs (litOff off) .and 4 4 1 1

/-- ATOM.OR: Atomic bitwise OR at home, returning the old word. (R181) -/
def execAtomOr (g : Guard) (d : Reg) (a : Reg) (la : BitVec 4) (bs : BitVec 3) (off : Option Word) (s : State) : Out :=
  atomicOp (.atomOr g d a la bs off) s d a la bs (litOff off) .or 4 4 1 1

/-- ATOM.XOR: Atomic bitwise XOR at home, returning the old word. (R181) -/
def execAtomXor (g : Guard) (d : Reg) (a : Reg) (la : BitVec 4) (bs : BitVec 3) (off : Option Word) (s : State) : Out :=
  atomicOp (.atomXor g d a la bs off) s d a la bs (litOff off) .xor 4 4 1 1

/-- ATOM.XCHG: Atomically exchanges the word at home. (R181) -/
def execAtomXchg (g : Guard) (d : Reg) (a : Reg) (la : BitVec 4) (bs : BitVec 3) (off : Option Word) (s : State) : Out :=
  atomicOp (.atomXchg g d a la bs off) s d a la bs (litOff off) .xchg 4 4 1 1

/-- ATOM.CAS: Atomic 32-bit compare-and-swap at home. (R181) -/
def execAtomCas (g : Guard) (d : Reg) (a : Reg) (la : BitVec 4) (bs : BitVec 3) (off : Option Word) (s : State) : Out :=
  atomicOp (.atomCas g d a la bs off) s d a la bs (litOff off) .cas 4 4 2 1

/-- ATOM.INCW: Atomic wrapping increment at home. (R181) -/
def execAtomIncw (g : Guard) (d : Reg) (a : Reg) (la : BitVec 4) (bs : BitVec 3) (off : Option Word) (s : State) : Out :=
  atomicOp (.atomIncw g d a la bs off) s d a la bs (litOff off) .incw 4 4 1 1

/-- ATOM.ADD64: Atomic 64-bit add at home. (R181) -/
def execAtomAdd64 (g : Guard) (d : Reg) (a : Reg) (la : BitVec 4) (bs : BitVec 3) (off : Option Word) (s : State) : Out :=
  atomicOp (.atomAdd64 g d a la bs off) s d a la bs (litOff off) .add64 8 8 2 2

/-- ATOM.CAS64: Atomic 64-bit compare-and-swap at home. (R181) -/
def execAtomCas64 (g : Guard) (d : Reg) (a : Reg) (la : BitVec 4) (bs : BitVec 3) (off : Option Word) (s : State) : Out :=
  atomicOp (.atomCas64 g d a la bs off) s d a la bs (litOff off) .cas64 8 8 4 2

/-- ATOM.FADD: Atomic rounded F32 add at home. (R181) -/
def execAtomFadd (g : Guard) (d : Reg) (a : Reg) (la : BitVec 4) (bs : BitVec 3) (off : Option Word) (s : State) : Out :=
  atomicOp (.atomFadd g d a la bs off) s d a la bs (litOff off) .fadd 4 4 1 1

/-- ATOM.WRD: Atomically merges a wide value into a wide cell and returns the old cell. (R181) -/
def execAtomWrd (g : Guard) (d : Reg) (a : Reg) (la : BitVec 4) (bs : BitVec 3) (off : Option Word) (s : State) : Out :=
  atomicOp (.atomWrd g d a la bs off) s d a la bs (litOff off) .wadd 48 64 11 11

/-- RED.ADD: Reduction add at home with no return. (R181) -/
def execRedAdd (g : Guard) (d : Reg) (a : Reg) (la : BitVec 4) (bs : BitVec 3) (off : Option Word) (s : State) : Out :=
  atomicOp (.redAdd g d a la bs off) s d a la bs (litOff off) .add 4 4 1 0

/-- RED.FADD: Reduction rounded F32 add at home. (R181) -/
def execRedFadd (g : Guard) (d : Reg) (a : Reg) (la : BitVec 4) (bs : BitVec 3) (off : Option Word) (s : State) : Out :=
  atomicOp (.redFadd g d a la bs off) s d a la bs (litOff off) .fadd 4 4 1 0

/-- RED.WADD: Reduction exact wide add into a wide cell. (R181) -/
def execRedWadd (g : Guard) (d : Reg) (a : Reg) (la : BitVec 4) (bs : BitVec 3) (off : Option Word) (s : State) : Out :=
  atomicOp (.redWadd g d a la bs off) s d a la bs (litOff off) .wadd 48 64 11 0

/-- RED.MAX.I32: Reduction signed maximum at home. (R181) -/
def execRedMaxI32 (g : Guard) (d : Reg) (a : Reg) (la : BitVec 4) (bs : BitVec 3) (off : Option Word) (s : State) : Out :=
  atomicOp (.redMaxI32 g d a la bs off) s d a la bs (litOff off) .maxI32 4 4 1 0

/-- ATOMS.ADD: Scratchpad atomic add at the bank. (R183) -/
def execAtomsAdd (g : Guard) (d : Reg) (a : Reg) (la : BitVec 4) (off : Option Word) (s : State) : Out :=
  atomsOp (.atomsAdd g d a la off) s d a la off .add 1

/-- ATOMS.CAS: Scratchpad atomic compare-and-swap. (R183) -/
def execAtomsCas (g : Guard) (d : Reg) (a : Reg) (la : BitVec 4) (off : Option Word) (s : State) : Out :=
  atomsOp (.atomsCas g d a la off) s d a la off .cas 2

/-- ATOMS.MAX.N32: Scratchpad atomic unsigned maximum. (R183) -/
def execAtomsMaxN32 (g : Guard) (d : Reg) (a : Reg) (la : BitVec 4) (off : Option Word) (s : State) : Out :=
  atomsOp (.atomsMaxN32 g d a la off) s d a la off .maxN32 1

/-- ATOMS.XCHG: Scratchpad atomic exchange. (R183) -/
def execAtomsXchg (g : Guard) (d : Reg) (a : Reg) (la : BitVec 4) (off : Option Word) (s : State) : Out :=
  atomsOp (.atomsXchg g d a la off) s d a la off .xchg 1

/-- SETB: Sets a buffer slot from a register pair with its taint. (R184) -/
def execSetb (g : Guard) (a : Reg) (la : BitVec 4) (bs : BitVec 3) (s : State) : Out :=
  simple (.setb g a la bs) s fun t =>
    { t with b := putAt 0 t.b bs.toNat (BitVec.ofNat 64 (rdPair t a.toNat)), bt := putAt false t.bt bs.toNat (taintMany t a.toNat 2) }

/-- GETB: Copies a buffer slot into a register pair with its taint. (R184) -/
def execGetb (g : Guard) (d : Reg) (la : BitVec 4) (bs : BitVec 3) (s : State) : Out :=
  simple (.getb g d la bs) s fun t => wrPair t d.toNat (rdB t bs.toNat).toNat (rdBTaint t bs.toNat)

end

end Sys2Proof.Machine
end

