-- ==== Sys2Proof/Machine/NearMem.lean ====
section
/-! DEFINITION. Near-memory commands (R258 to R263) and the steps of the near-memory engine. -/

namespace Sys2Proof.Machine

noncomputable section

/-- NMC: Checks and sends a near-memory command to a stack's engine. (R259) -/
def execNmc (g : Guard) (bs : BitVec 3) (x1 : Reg) (x2 : Reg) (la : BitVec 4) (s : State) : Out :=
  nmcOp (.nmc g bs x1 x2 la) s bs x1 x2

/-- NMWAIT: Blocks until all the thread's near-memory commands have written their records. (R263) -/
def execNmwait (g : Guard) (s : State) : Out :=
  nmwaitOp (.nmwait g) s

/-- NMC.SEND: A near-memory command is sent once earlier stores are acknowledged. (R259) -/
def execNmcSend (n : Nat) (s : State) : Out :=
  nmSend s n

/-- NM.STEP: The near-memory engine processes one 64-byte step of a command. (R260) -/
def execNmStep (n : Nat) (s : State) : Out :=
  nmStepOp s n

end

end Sys2Proof.Machine
end

