-- ==== Sys2Proof/Machine/Queues.lean ====
section
/-! DEFINITION. The queue instructions (R214 to R216) and the step in which the queue unit performs one operation (R340, R341). -/

namespace Sys2Proof.Machine

/-- The tests of R214 for an operation of a grid: none when it may go on, or the ring address that QUEUE names, else 0. -/
def queueTest (s : State) (grid q : Nat) (k : QOpKind) : Option Nat :=
  match queueFor s q with
  | none => some 0
  | some h =>
    if h.owner != ownerOf s grid then some 0
    else if h.kind == 1 && k != .pushD then some 0
    else h.stopped

/-- A push or pop issued (R215): the thread waits for the queue unit to perform it. -/
def queueOp (i : Instr) (s : State) (q : Nat) (k : QOpKind) (d : Nat) (words : Thread → List Word) : Out :=
  issue i s fun s t =>
    match queueTest s t.grid q k with
    | some adr => raise s (unissued s t) .queue 0 adr
    | none =>
      let o : QOp :=
        { q := q, thread := t.key, kind := k, d := d, words := words t, after := s.mem.seq, fset := s.mem.uid, left := s.clock
          slack := slackOf s t.core }
      .next (withDisp (putThread s (blockOn i t .queueOp)) fun x => { x with qops := x.qops ++ [o] })

/-- The operation of a thread on a queue. -/
def qopOf (s : State) (q t : Nat) : Option QOp := s.disp.qops.find? fun o => o.q == q && o.thread == t

/-- An operation taken out; the rest of its fused set is then performed before any other operation of the queue (R216). -/
def dropQop (s : State) (o : QOp) : State :=
  withDisp s fun d =>
    { d with qops := (dropIf (· == o) d.qops).map fun x =>
        if x.q == o.q && x.fset == o.fset && !unitPusher x.thread then { x with started := true } else x }

/-- A push that is given up, and counted. -/
def lostQop (s : State) (o : QOp) : State := countLost (dropQop s o) o

/-- The entries of a push; those of a GRID packet keep the grid of the thread that pushes it (R346). -/
def qopEntries (s : State) (o : QOp) : List QEntry :=
  let pusher := if ((o.words.getD 0 0).toNat % 2 ^ 8 == 1) then (getThread s o.thread).map (·.grid) else none
  if o.words.length ≤ 8 then [{ words := o.words, pusher := pusher }]
  else [{ words := o.words.take 8, pusher := pusher }, { words := o.words.drop 8, pusher := pusher }]

/-- A push or pop tried on its queue (R340). -/
def tryQop (s : State) (o : QOp) : QRes := if o.kind.isPush then pushAll s o.q (qopEntries s o) else popOne s o.q

/-- Whether an operation that is BLOCKED would be performed now. -/
def qopFits (s : State) (o : QOp) : Bool :=
  match tryQop s o with
  | .cannot => false
  | _ => true

/-- Whether an operation never is BLOCKED: a non-blocking form, or a push of a unit. -/
def QOp.never (o : QOp) : Bool := o.kind.pred.isSome || unitPusher o.thread

/-- The other operations of an operation's queue. -/
def otherQops (s : State) (o : QOp) : List QOp := s.disp.qops.filter fun x => x.q == o.q && x != o

/-- Those that stand before it. -/
def earlierQops (s : State) (o : QOp) : List QOp := (s.disp.qops.takeWhile (· != o)).filter fun x => x.q == o.q

/-- The BLOCKED operations of an operation's direction that it stands behind: those BLOCKED before it, or, where it is not BLOCKED, all of
them, unless it is of a fused set that is being performed (R216, R341). -/
def blockedAhead (s : State) (o : QOp) : List QOp :=
  if o.started then []
  else (if o.blocked then earlierQops s o else otherQops s o).filter fun x => x.blocked && x.kind.isPush == o.kind.isPush

/-- The release of a push is complete (R216). -/
def qopReleased (s : State) (o : QOp) : Bool :=
  !o.kind.isPush || unitPusher o.thread || (loadsDone s o.thread o.after && storesAcked s o.thread o.after 5)

/-- The queue unit is at other operations of the queue: it waits for a ring page, or another fused set is being performed (R216, R341). -/
def qopBusy (s : State) (o : QOp) : Bool :=
  ringWaits s o.q || (otherQops s o).any fun x => x.started && !x.blocked && x.fset != o.fset && frontQop s x

/-- The BLOCKED rest of another fused set of the operation's direction, some of which has been performed: nothing of that direction comes
between (R216). -/
def halfDone (s : State) (o : QOp) : List QOp :=
  (otherQops s o).filter fun x => x.started && x.blocked && x.fset != o.fset && x.kind.isPush == o.kind.isPush && frontQop s x

/-- The place of an operation in the grants of the queue unit's input (R361). -/
def qopKey (s : State) (o : QOp) : List Nat := grantKey s.clock o.left o.slack o.after

/-- Another operation that waits at the queue unit's input is granted first (R361). -/
def inputBehind (s : State) (o : QOp) : Bool :=
  !o.blocked && !o.started && (otherQops s o).any fun x =>
    x.arrived && !x.blocked && !x.started && x.fset != o.fset && frontQop s x && qopReleased s x && lexLess (qopKey s x) (qopKey s o)

/-- The first BLOCKED operation that the queue unit would serve before one (R216). -/
def servedFirst (s : State) (o : QOp) : Option QOp := (halfDone s o ++ blockedAhead s o).head?

/-- Whether the queue unit may take an operation now (R216, R341, R361): a push after its release; a fused set in lane order; a BLOCKED
operation behind those that BLOCKED before it, and a form that never is BLOCKED behind the one that could be performed. -/
def qopReady (s : State) (o : QOp) : Bool :=
  qopReleased s o && frontQop s o && !qopBusy s o && !inputBehind s o &&
    (if o.never then !(servedFirst s o).any (qopFits s) else !o.blocked || (blockedAhead s o ++ halfDone s o).isEmpty)

/-- An operation that cannot be performed yet becomes BLOCKED, behind those that blocked before it, with its fused set behind it. -/
def blockQop (s : State) (o : QOp) : Out :=
  let mine (x : QOp) : Bool := x.q == o.q && x.fset == o.fset
  if o.blocked then stuck
  else .next (withDisp s fun d =>
    { d with qops := dropIf mine d.qops ++ (d.qops.filter mine).map fun x => if x == o then { x with blocked := true } else x })

/-- A thread whose operation raises QUEUE, with the ring address (R214). -/
def failQop (s : State) (o : QOp) (adr : Nat) : State :=
  let s := lostQop s o
  match getThread s o.thread with
  | none => s
  | some t => putThread s (faulted { t with blen := 0 } { code := .queue, tpc := t.pc, addr := adr })

/-- A thread whose operation is done goes on, with success or not in its predicate. -/
def doneQop (s : State) (o : QOp) (ok : Bool) (f : Thread → Thread) : State :=
  let s := dropQop s o
  match getThread s o.thread with
  | none => s
  | some t => putThread s (unblock s (f (match o.kind.pred with
      | some p => wrP t p ok
      | none => t)))

/-- The tests of an operation when it is performed: those of R214 for a thread's, of R342 for a host window's, of R337 for a record or
event. -/
def performTest (s : State) (grid q t : Nat) (k : QOpKind) : Option Nat :=
  if t == devicePusher then (if (eventQueue s q).isSome then none else some 0)
  else if t == hostPusher then (match queueFor s q with
    | some x => x.stopped
    | none => some 0)
  else queueTest s grid q k

/-- An operation that is not performed now: a form that never is BLOCKED is over, and another one is BLOCKED (R340). -/
def cannotQop (s : State) (o : QOp) : Out :=
  if o.kind.pred.isSome then .next (doneQop s o false id)
  else if unitPusher o.thread then .next (lostQop s o)
  else blockQop s o

/-- An operation that has reached the queue unit and is not taken at once waits at its input (R361). -/
def awaitQop (s : State) (o : QOp) : Out :=
  whenOk (qopReleased s o && frontQop s o && !o.arrived && !o.blocked && !o.started && (qopBusy s o || inputBehind s o)) <|
    .next (withDisp s fun d => { d with qops := mapIf (· == o) (fun x => { x with arrived := true }) d.qops })

/-- QUEUE_PERFORM's effect. -/
def performQueue (s : State) (q t : Nat) : Out :=
  need (qopOf s q t) fun o =>
    if !qopReady s o then awaitQop s o
    else
      let grid := ((getThread s t).map (·.grid)).getD 0
      match performTest s grid q t o.kind with
      | some adr => .next (failQop s o adr)
      | none =>
        if o.never && !(halfDone s o).isEmpty then cannotQop s o
        else if !o.never && !(blockedAhead s o).isEmpty then blockQop s o
        else match tryQop s o with
        | .page p =>
          .next (unitPark (withDisp s fun d => { d with qops := mapIf (· == o) (fun x => { x with started := true }) d.qops }) (.ring q) p)
        | .fault s' => .next (failQop s' o (((queueFor s' q).bind (·.stopped)).getD 0))
        | .cannot => cannotQop s o
        | .done s' es =>
          let got := (es.head?.map (·.words)).getD []
          let s'' := doneQop s' o true fun u => if o.kind.isPush then u else wrMany u o.d false got
          .next (if o.kind.isPush then s'' else match getThread s'' t with
            | some u => acquireAt s'' u.core 5
            | none => s'')

/-- QPUSH: Pushes one 32-byte entry to a hardware queue as a PKG release. (R215) -/
def execQpush (g : Guard) (d : Reg) (q : BitVec 8) (s : State) : Out :=
  queueOp (.qpush g d q) s q.toNat .push d.toNat fun t => rdMany t d.toNat 8

/-- QPUSH.D: Pushes two adjacent entries to a hardware queue. (R215) -/
def execQpushD (g : Guard) (d : Reg) (q : BitVec 8) (s : State) : Out :=
  queueOp (.qpushD g d q) s q.toNat .pushD d.toNat fun t => rdMany t d.toNat 16

/-- QPOP: Pops the oldest entry of a queue as a PKG acquire. (R215) -/
def execQpop (g : Guard) (d : Reg) (q : BitVec 8) (s : State) : Out :=
  queueOp (.qpop g d q) s q.toNat .pop d.toNat fun _ => []

/-- QLEN: Reads the number of entries of a queue. (R215) -/
def execQlen (g : Guard) (d : Reg) (q : BitVec 8) (s : State) : Out :=
  issue (.qlen g d q) s fun s t =>
    match queueTest s t.grid q.toNat .pop with
    | some adr => raise s (unissued s t) .queue 0 adr
    | none => .next (retire (.qlen g d q) s (wrV t d.toNat (word (((queueFor s q.toNat).map (·.count)).getD 0)) false))

/-- QPUSH.NB: Pushes an entry if it fits, reporting success in a predicate. (R215) -/
def execQpushNb (g : Guard) (d : Reg) (q : BitVec 8) (p : Reg) (s : State) : Out :=
  queueOp (.qpushNb g d q p) s q.toNat (.pushNb p.toNat) d.toNat fun t => rdMany t d.toNat 8

/-- QPOP.NB: Pops an entry if present, reporting success in a predicate. (R215) -/
def execQpopNb (g : Guard) (d : Reg) (q : BitVec 8) (p : Reg) (s : State) : Out :=
  queueOp (.qpopNb g d q p) s q.toNat (.popNb p.toNat) d.toNat fun _ => []

/-- QUEUE.PERFORM: The queue unit performs a push or pop on a hardware queue. (R340) -/
def execQueuePerform (q : Nat) (t : Nat) (s : State) : Out :=
  performQueue s q t

end Sys2Proof.Machine
end

