-- ==== Sys2Proof/Machine/Rendezvous.lean ====
section
/-! DEFINITION. The rendezvous instructions (R195 to R200) and the barrier instructions (R201 to R207). -/

namespace Sys2Proof.Machine

/-- A shuffle's n: the immediate, or bits [4:0] of its register in the arriving lane (R199). -/
def laneArg (n : LaneSrc) (t : Thread) : Nat :=
  match n with
  | .imm x => x.toNat
  | .reg r => (rdV t r.toNat).toNat % 32

/-- A rendezvous instruction: it arrives with its operands whether or not its guard passes, and writes when it does (R189). -/
def rdvOp (i : Instr) (s : State) (g : Guard) (m : Reg) (op : RdvOp) (val : Thread → Word) (taint : Thread → Bool)
    (n : Thread → Nat) (d : Nat) : Out :=
  issue i s fun s t =>
    arriveRdv i s (unissued s t) t op (rdV t m.toNat).toNat
      { thread := t.key, lane := laneOf t, val := val t, taint := taint t, n := n t, writes := guardPasses t g, d := d }

/-- RDV: Arrives at a plain rendezvous of the masked lanes. (R199) -/
def execRdv (g : Guard) (m : Reg) (s : State) : Out :=
  rdvOp (.rdv g m) s g m .rdv (fun _ => 0) (fun _ => false) (fun _ => 0) 0

/-- SHFL.IDX: Rendezvous exchange taking the operand of an indexed lane. (R199) -/
def execShflIdx (g : Guard) (d : Reg) (a : Reg) (m : Reg) (n : LaneSrc) (s : State) : Out :=
  rdvOp (.shflIdx g d a m n) s g m .shflIdx (fun t => rdV t a.toNat) (fun t => rdTaint t a.toNat) (laneArg n) d.toNat

/-- SHFL.XOR: Rendezvous exchange taking the operand of lane XOR n. (R199) -/
def execShflXor (g : Guard) (d : Reg) (a : Reg) (m : Reg) (n : LaneSrc) (s : State) : Out :=
  rdvOp (.shflXor g d a m n) s g m .shflXor (fun t => rdV t a.toNat) (fun t => rdTaint t a.toNat) (laneArg n) d.toNat

/-- SHFL.UP: Rendezvous exchange taking the operand of lane minus n. (R199) -/
def execShflUp (g : Guard) (d : Reg) (a : Reg) (m : Reg) (n : LaneSrc) (s : State) : Out :=
  rdvOp (.shflUp g d a m n) s g m .shflUp (fun t => rdV t a.toNat) (fun t => rdTaint t a.toNat) (laneArg n) d.toNat

/-- SHFL.DN: Rendezvous exchange taking the operand of lane plus n. (R199) -/
def execShflDn (g : Guard) (d : Reg) (a : Reg) (m : Reg) (n : LaneSrc) (s : State) : Out :=
  rdvOp (.shflDn g d a m n) s g m .shflDn (fun t => rdV t a.toNat) (fun t => rdTaint t a.toNat) (laneArg n) d.toNat

/-- VOTE.ALL: Rendezvous AND of a predicate over the arrivals. (R199) -/
def execVoteAll (g : Guard) (d : Reg) (a : Reg) (m : Reg) (s : State) : Out :=
  rdvOp (.voteAll g d a m) s g m .voteAll (fun t => if rdP t a.toNat then 1 else 0) (fun _ => false) (fun _ => 0) d.toNat

/-- VOTE.ANY: Rendezvous OR of a predicate over the arrivals. (R199) -/
def execVoteAny (g : Guard) (d : Reg) (a : Reg) (m : Reg) (s : State) : Out :=
  rdvOp (.voteAny g d a m) s g m .voteAny (fun t => if rdP t a.toNat then 1 else 0) (fun _ => false) (fun _ => 0) d.toNat

/-- VOTE.BAL: Rendezvous ballot of a predicate into a lane mask. (R199) -/
def execVoteBal (g : Guard) (d : Reg) (a : Reg) (m : Reg) (s : State) : Out :=
  rdvOp (.voteBal g d a m) s g m .voteBal (fun t => if rdP t a.toNat then 1 else 0) (fun _ => false) (fun _ => 0) d.toNat

/-- MATCH.ANY: Rendezvous mask of lanes whose operand equals this lane's. (R199) -/
def execMatchAny (g : Guard) (d : Reg) (a : Reg) (m : Reg) (s : State) : Out :=
  rdvOp (.matchAny g d a m) s g m .matchAny (fun t => rdV t a.toNat) (fun t => rdTaint t a.toNat) (fun _ => 0) d.toNat

/-- MATCH.ALL: Rendezvous mask of all arrivals when every operand is equal, else 0. (R199) -/
def execMatchAll (g : Guard) (d : Reg) (a : Reg) (m : Reg) (s : State) : Out :=
  rdvOp (.matchAll g d a m) s g m .matchAll (fun t => rdV t a.toNat) (fun t => rdTaint t a.toNat) (fun _ => 0) d.toNat

/-- REDX.ADD.I32: Rendezvous sum modulo 2^32. (R200) -/
def execRedxAddI32 (g : Guard) (d : Reg) (a : Reg) (m : Reg) (s : State) : Out :=
  rdvOp (.redxAddI32 g d a m) s g m .addI32 (fun t => rdV t a.toNat) (fun t => rdTaint t a.toNat) (fun _ => 0) d.toNat

/-- REDX.MIN.I32: Rendezvous signed minimum. (R200) -/
def execRedxMinI32 (g : Guard) (d : Reg) (a : Reg) (m : Reg) (s : State) : Out :=
  rdvOp (.redxMinI32 g d a m) s g m .minI32 (fun t => rdV t a.toNat) (fun t => rdTaint t a.toNat) (fun _ => 0) d.toNat

/-- REDX.MAX.I32: Rendezvous signed maximum. (R200) -/
def execRedxMaxI32 (g : Guard) (d : Reg) (a : Reg) (m : Reg) (s : State) : Out :=
  rdvOp (.redxMaxI32 g d a m) s g m .maxI32 (fun t => rdV t a.toNat) (fun t => rdTaint t a.toNat) (fun _ => 0) d.toNat

/-- REDX.MIN.N32: Rendezvous unsigned minimum. (R200) -/
def execRedxMinN32 (g : Guard) (d : Reg) (a : Reg) (m : Reg) (s : State) : Out :=
  rdvOp (.redxMinN32 g d a m) s g m .minN32 (fun t => rdV t a.toNat) (fun t => rdTaint t a.toNat) (fun _ => 0) d.toNat

/-- REDX.MAX.N32: Rendezvous unsigned maximum. (R200) -/
def execRedxMaxN32 (g : Guard) (d : Reg) (a : Reg) (m : Reg) (s : State) : Out :=
  rdvOp (.redxMaxN32 g d a m) s g m .maxN32 (fun t => rdV t a.toNat) (fun t => rdTaint t a.toNat) (fun _ => 0) d.toNat

/-- REDX.AND: Rendezvous bitwise AND. (R200) -/
def execRedxAnd (g : Guard) (d : Reg) (a : Reg) (m : Reg) (s : State) : Out :=
  rdvOp (.redxAnd g d a m) s g m .and (fun t => rdV t a.toNat) (fun t => rdTaint t a.toNat) (fun _ => 0) d.toNat

/-- REDX.OR: Rendezvous bitwise OR. (R200) -/
def execRedxOr (g : Guard) (d : Reg) (a : Reg) (m : Reg) (s : State) : Out :=
  rdvOp (.redxOr g d a m) s g m .or (fun t => rdV t a.toNat) (fun t => rdTaint t a.toNat) (fun _ => 0) d.toNat

/-- REDX.XOR: Rendezvous bitwise XOR. (R200) -/
def execRedxXor (g : Guard) (d : Reg) (a : Reg) (m : Reg) (s : State) : Out :=
  rdvOp (.redxXor g d a m) s g m .xor (fun t => rdV t a.toNat) (fun t => rdTaint t a.toNat) (fun _ => 0) d.toNat

/-- REDX.FADD: Rendezvous exact wide F32 sum, rounded once. (R200) -/
def execRedxFadd (g : Guard) (d : Reg) (a : Reg) (m : Reg) (s : State) : Out :=
  rdvOp (.redxFadd g d a m) s g m .fadd (fun t => rdV t a.toNat) (fun t => rdTaint t a.toNat) (fun _ => 0) d.toNat

/-- REDX.FMIN: Rendezvous F32 minimumNumber. (R200) -/
def execRedxFmin (g : Guard) (d : Reg) (a : Reg) (m : Reg) (s : State) : Out :=
  rdvOp (.redxFmin g d a m) s g m .fmin (fun t => rdV t a.toNat) (fun t => rdTaint t a.toNat) (fun _ => 0) d.toNat

/-- REDX.FMAX: Rendezvous F32 maximumNumber. (R200) -/
def execRedxFmax (g : Guard) (d : Reg) (a : Reg) (m : Reg) (s : State) : Out :=
  rdvOp (.redxFmax g d a m) s g m .fmax (fun t => rdV t a.toNat) (fun t => rdTaint t a.toNat) (fun _ => 0) d.toNat

/-- SCANX.ADD.I32: Rendezvous inclusive scan of sums modulo 2^32. (R200) -/
def execScanxAddI32 (g : Guard) (d : Reg) (a : Reg) (m : Reg) (s : State) : Out :=
  rdvOp (.scanxAddI32 g d a m) s g m .scanAdd (fun t => rdV t a.toNat) (fun t => rdTaint t a.toNat) (fun _ => 0) d.toNat

/-- SCANX.FADD: Rendezvous inclusive scan of exact wide F32 sums. (R200) -/
def execScanxFadd (g : Guard) (d : Reg) (a : Reg) (m : Reg) (s : State) : Out :=
  rdvOp (.scanxFadd g d a m) s g m .scanFadd (fun t => rdV t a.toNat) (fun t => rdTaint t a.toNat) (fun _ => 0) d.toNat

/-- TBAR.SYNC: Arrives at a team barrier and waits for the phase to complete. (R202) -/
def execTbarSync (g : Guard) (bar : BitVec 4) (s : State) : Out :=
  barInstr (.tbarSync g bar) s false bar.toNat none (fun _ => (0, false)) fun t => blockOn (.tbarSync g bar) t (.tbar bar.toNat false 0 false)

/-- TBAR.ARV: Arrives at a team barrier without waiting. (R202) -/
def execTbarArv (g : Guard) (bar : BitVec 4) (s : State) : Out :=
  barInstr (.tbarArv g bar) s false bar.toNat none (fun _ => (0, false)) fun t => advance t (lengthOf (.tbarArv g bar))

/-- TBAR.WAIT: Waits for the phase of an earlier team barrier arrival. (R202) -/
def execTbarWait (g : Guard) (bar : BitVec 4) (s : State) : Out :=
  barWait (.tbarWait g bar) s false bar.toNat

/-- TBAR.RED: Arrives at a team barrier with an operand and receives the reduction. (R205) -/
def execTbarRed (g : Guard) (d : Reg) (a : Reg) (sub : BitVec 3) (bar : BitVec 4) (hi : Option Bool) (s : State) : Out :=
  barInstr (.tbarRed g d a sub bar hi) s false bar.toNat (some (redCode sub hi)) (fun t => (rdV t a.toNat, rdTaint t a.toNat)) fun t =>
    blockOn (.tbarRed g d a sub bar hi) t (.tbar bar.toNat true d.toNat (guardPasses t g))

/-- GBAR.SYNC: Arrives at a grid barrier and waits. (R202) -/
def execGbarSync (g : Guard) (bar : BitVec 4) (s : State) : Out :=
  barInstr (.gbarSync g bar) s true bar.toNat none (fun _ => (0, false)) fun t => blockOn (.gbarSync g bar) t (.gbar bar.toNat false 0 false)

/-- GBAR.ARV: Arrives at a grid barrier without waiting. (R202) -/
def execGbarArv (g : Guard) (bar : BitVec 4) (s : State) : Out :=
  barInstr (.gbarArv g bar) s true bar.toNat none (fun _ => (0, false)) fun t => advance t (lengthOf (.gbarArv g bar))

/-- GBAR.WAIT: Waits for the phase of an earlier grid barrier arrival. (R202) -/
def execGbarWait (g : Guard) (bar : BitVec 4) (s : State) : Out :=
  barWait (.gbarWait g bar) s true bar.toNat

/-- GBAR.RED: Arrives at a grid barrier with an operand and receives the reduction. (R205) -/
def execGbarRed (g : Guard) (d : Reg) (a : Reg) (sub : BitVec 3) (bar : BitVec 4) (hi : Option Bool) (s : State) : Out :=
  barInstr (.gbarRed g d a sub bar hi) s true bar.toNat (some (redCode sub hi)) (fun t => (rdV t a.toNat, rdTaint t a.toNat)) fun t =>
    blockOn (.gbarRed g d a sub bar hi) t (.gbar bar.toNat true d.toNat (guardPasses t g))

end Sys2Proof.Machine
end

