-- ==== Sys2Proof/Machine/SchedEvents.lean ====
section
/-! DEFINITION. The device steps of issue: hold bounds (R34), the starvation override (R26), expiring yields (R193), breakpoints (R386),
convoy lapses (R372), counted barrier arrivals (R202, R206), and the slew limiter (R364). -/

namespace Sys2Proof.Machine

/-- MEET_HOLD_TIMEOUT: A hold at MEET ends when MHB lane-group clocks have passed. (R34) -/
def execMeetHoldTimeout (t : Nat) (s : State) : Out :=
  need (getThread s t) fun u =>
    match u.st with
    | .heldMeet since bound => whenOk (decide (since + bound ≤ mainClocks s u.core)) (.next (releaseMeet s u u.meet))
    | _ => stuck

/-- STARVATION_OVERRIDE: The issue picker chooses a thread that has been READY for 256 clocks, among the READY threads that the step has
found (R26). -/
def execStarvationOverride (core : Nat) (lg : Nat) (s : State) : Out :=
  let ready := (laneGroup s core lg).filter fun t => s.ready.contains t.key && readyState s t
  whenOk (turnOk s (core, lg) && s.fused.isEmpty && ready.any (starved s)) (.next (takePick s core lg ready))

/-- YIELD_EXPIRY: A YIELDED thread becomes READY when its count expires. (R193) -/
def execYieldExpiry (t : Nat) (s : State) : Out :=
  need (getThread s t) fun u =>
    match u.st with
    | .yielded e => whenOk (decide (e ≤ mainClocks s u.core)) (.next (putThread s (unblock s u)))
    | _ => stuck

/-- BREAKPOINT_HIT: A thread about to issue at a breakpoint in a clause stops, and a STOP record is written; so does each member of a fused set that
hits, though another one's hit already stops them all. (R386, R387) -/
def execBreakpointHit (t : Nat) (s : State) : Out :=
  need (getThread s t) fun u =>
    whenOk (readyState s u || (u.st == .ready && s.cur == t)) <|
      need (breakpointAt s u) fun i =>
        let u' := { u with skipBrk := true, stepping := 0 }
        .next (stopBy (putThread s u') u' { cause := 0x16, mode := (debugOf s (partOf s u.grid)).bmode.getD i 0, pc := u.pc })

/-- CONVOY_LAPSE: The lapse-time rule moves every member at the tail to lapsed. (R372) -/
def execConvoyLapse (c : Nat) (s : State) : Out := whenOk (lapseDue s c) (.next (applyLapse s c))

/-- BARRIER_ARRIVAL_COUNTED: An issued barrier arrival is counted once its earlier accesses are acknowledged. (R206) -/
def execBarrierArrivalCounted (t : Nat) (bar : Nat) (grid : Bool) (s : State) : Out :=
  need (getThread s t) fun u =>
    need (getBar s u.team u.grid grid bar) fun b =>
      need (b.arrs.find? fun a => a.thread == t && !a.counted) fun a =>
        whenOk (loadsDone s t a.seq && storesAcked s t a.seq (barScope s u grid)) <|
          let b' := { b with arrs := mapIf (fun x => x.thread == t) (fun x => { x with counted := true }) b.arrs }
          .next (checkBarrier (putBar s u.team u.grid grid bar b') u.team u.grid grid bar)

/-- SLEW_RESUME: The next cores of a grid barrier's release resume, at most 24 in a clock of a limited release. (R364) -/
def execSlewResume (gr : Nat) (bar : Nat) (s : State) : Out :=
  need (s.disp.slew.find? fun x => x.grid == gr && x.bar == bar) fun x =>
    whenOk (decide (x.clock < s.clock)) <|
      let now := x.cores.take 24
      let rest := x.cores.drop 24
      let s := withDisp s fun d =>
        { d with slew := if rest.isEmpty then dropIf (· == x) d.slew else mapIf (· == x) (fun y => { y with cores := rest, clock := s.clock }) d.slew }
      let go := s.threads.filter fun t =>
        t.grid == gr && now.contains t.core && (waitsIn true bar t).isSome && !arrivedAt true bar t
      .next (go.foldl (fun s t => endWait s t true bar) s)

end Sys2Proof.Machine
end

