-- ==== Sys2Proof/Machine/Func.lean ====
section
/-! DEFINITION. The special functions (R64, R149), correctly rounded to F32 with RNE. Quotients and roots are exact integer
arithmetic. EXP2, LOG2, SINT, COST, TANH and SIGM are enclosed between two fixed-point bounds, and the enclosure is narrowed
until both ends round alike. -/

namespace Sys2Proof.Machine

/-- The integer square root, bit by bit from 2^i downward. -/
def isqrtFrom (n : Nat) : Nat → Nat → Nat
  | 0, r => if (r + 1) * (r + 1) ≤ n then r + 1 else r
  | i + 1, r =>
    let t := r + 2 ^ (i + 1)
    isqrtFrom n i (if t * t ≤ n then t else r)

/-- The integer square root. -/
def isqrt (n : Nat) : Nat := isqrtFrom n (Nat.log2 n / 2 + 1) 0

/-- A canonical NaN result of a NaN input (R149). -/
def fnNan (sig : Bool) : Nat × Nat := (Fmt.f32.canonNan, flagIf sig fINVL)

/-- A signed infinity. -/
def infOf (neg : Bool) : Nat := signBits .f32 neg + Fmt.f32.infBits

/-- RCP.F32. -/
def fnRcp (a : Nat) : Nat × Nat :=
  match unpack .f32 a with
  | .nan s => fnNan s
  | .inf n => (signBits .f32 n, 0)
  | .fin n m e =>
    if m == 0 then (infOf n, fDIVZ)
    else deliverRne .f32 n (2 ^ 60 / m) (-60 - e) (2 ^ 60 % m != 0)

/-- DIV.F32, R149 and Table 3. -/
def fnDiv (a b : Nat) : Nat × Nat :=
  match unpack .f32 a, unpack .f32 b with
  | .nan s, y => fnNan (s || y.isSnan)
  | x, .nan s => fnNan (s || x.isSnan)
  | .inf _, .inf _ => (Fmt.f32.canonNan, fINVL)
  | .inf s, .fin t _ _ => (infOf (s != t), 0)
  | .fin s _ _, .inf t => (signBits .f32 (s != t), 0)
  | .fin s m e, .fin t n d =>
    if n == 0 then (if m == 0 then (Fmt.f32.canonNan, fINVL) else (infOf (s != t), fDIVZ))
    else deliverRne .f32 (s != t) (m * 2 ^ 60 / n) (e - d - 60) (m * 2 ^ 60 % n != 0)

/-- A magnitude m × 2^e with an even exponent. -/
def evenExp (m : Nat) (e : Int) : Nat × Int := if e % 2 == 0 then (m, e) else (m * 2, e - 1)

/-- SQRT.F32. -/
def fnSqrt (a : Nat) : Nat × Nat :=
  match unpack .f32 a with
  | .nan s => fnNan s
  | .inf n => if n then (Fmt.f32.canonNan, fINVL) else (a, 0)
  | .fin n m e =>
    if m == 0 then (a, 0)
    else if n then (Fmt.f32.canonNan, fINVL)
    else
      let (m', e') := evenExp m e
      let x := m' * 2 ^ 64
      let r := isqrt x
      deliverRne .f32 false r (e' / 2 - 32) (r * r != x)

/-- RSQ.F32. -/
def fnRsq (a : Nat) : Nat × Nat :=
  match unpack .f32 a with
  | .nan s => fnNan s
  | .inf n => if n then (Fmt.f32.canonNan, fINVL) else (0, 0)
  | .fin n m e =>
    if m == 0 then (infOf n, fDIVZ)
    else if n then (Fmt.f32.canonNan, fINVL)
    else
      let (m', e') := evenExp m e
      let r := isqrt (2 ^ 120 / m')
      deliverRne .f32 false r (-60 - e' / 2) (r * r * m' != 2 ^ 120)

/-! ### Enclosures: a pair (lo, w) says that the value times 2^P lies from lo up to, not including, lo + w. -/

/-- Floor of a × b / 2^p. -/
def fmul (p a b : Nat) : Nat := a * b / 2 ^ p

/-- Σ of z^(2k+1) / (2k+1) with alternating signs or not, for a reciprocal integer argument 1/c: n terms, scaled by 2^p.
`pw` is 2^p / c^(2k+1). Every division rounds down, so each term is off by less than 2. -/
def recipSeries (alt : Bool) (c2 : Nat) : Nat → Nat → Nat → Int
  | 0, _, _ => 0
  | n + 1, k, pw =>
    let t : Int := (pw / (2 * k + 1) : Nat)
    (if alt && k % 2 == 1 then -t else t) + recipSeries alt c2 n (k + 1) (pw / c2)

/-- ln 2 × 2^p from 2 × atanh(1/3), p terms: a lower bound; the value is below it plus 4p + 8. -/
def ln2Fix (p : Nat) : Nat := (2 * recipSeries false 9 p 0 (2 ^ p / 3)).toNat

/-- π × 2^p by 16 × atan(1/5) − 4 × atan(1/239): within 40p + 40 of the value, on either side. -/
def piFix (p : Nat) : Nat :=
  (16 * recipSeries true 25 p 0 (2 ^ p / 5) - 4 * recipSeries true 57121 p 0 (2 ^ p / 239)).toNat

/-- Σ over k < n of y^k / k! from the term t = y^k/k! on, in 2^p fixed point with every step rounded down. -/
def expSeries (p y : Nat) : Nat → Nat → Nat → Nat
  | 0, _, _ => 0
  | n + 1, k, t => t + expSeries p y n (k + 1) (fmul p t y / (k + 1))

/-- exp(y) for 0 ≤ y ≤ 1 in 2^p fixed point, from an enclosure (y, wy) of y: lower bound and width. -/
def expEncl (p : Nat) (y wy : Nat) : Nat × Nat :=
  let n := p
  let lo := expSeries p y n 0 (2 ^ p)
  (lo, 4 * n + 8 + 4 * wy)

/-- Squares an enclosure k times. -/
def squareEncl (p : Nat) : Nat → Nat × Nat → Nat × Nat
  | 0, x => x
  | k + 1, (lo, w) =>
    let l2 := fmul p lo lo
    let h2 := fmul p (lo + w) (lo + w) + 1
    squareEncl p k (l2, h2 - l2)

/-- exp(m × 2^e) for 0 ≤ m × 2^e ≤ 128, by the argument over 128 and seven squarings. -/
def expBig (p : Nat) (m : Nat) (e : Int) : Nat × Nat :=
  let s := (p : Int) + e - 7
  let y := if 0 ≤ s then m * 2 ^ s.toNat else m / 2 ^ (-s).toNat
  squareEncl p 7 (expEncl p y (if 0 ≤ s then 0 else 1))

/-- Σ of z^(2k+1)/(2k+1), n terms: atanh in 2^p fixed point, rounded down. `pw` is z^(2k+1). -/
def atanhSeries (p z2 : Nat) : Nat → Nat → Nat → Nat
  | 0, _, _ => 0
  | n + 1, k, pw => pw / (2 * k + 1) + atanhSeries p z2 n (k + 1) (fmul p pw z2)

/-- sin (odd) or cos (even) series: Σ (−1)^j y^(2j+o)/(2j+o)!, from the term t with k = 2j + o. -/
def trigSeries (p y2 : Nat) : Nat → Nat → Nat → Bool → Int
  | 0, _, _, _ => 0
  | n + 1, k, t, neg =>
    (if neg then -(t : Int) else t) + trigSeries p y2 n (k + 2) (fmul p t y2 / ((k + 1) * (k + 2))) (!neg)

/-- Rounds an enclosure whose value is no F32 value: the common result of both ends, if they agree. -/
def settle (neg : Bool) (p : Nat) (lo w : Nat) : Option (Nat × Nat) :=
  let a := deliverRne .f32 neg lo (-(p : Int)) true
  let b := deliverRne .f32 neg (lo + w - 1) (-(p : Int)) true
  if lo != 0 && a == b then some a else none

/-- The first enclosure that settles, over growing precisions; after the last, the lower end of the last one. -/
def refine (neg : Bool) (f : Nat → Nat × Nat) : List Nat → Nat × Nat
  | [] => let (lo, _) := f 2400; deliverRne .f32 neg lo (-2400) true
  | p :: ps =>
    let (lo, w) := f p
    match settle neg p lo w with
    | some r => r
    | none => refine neg f ps

/-- The precisions tried. -/
def precisions : List Nat := [260, 420, 800, 1600]

/-- The magnitude just above zero, for results that only their rounding decides. -/
def tinyResult (neg : Bool) : Nat × Nat := deliverRne .f32 neg 1 (-200) true

/-- The magnitude just below 1. -/
def nearOne (neg : Bool) : Nat × Nat := deliverRne .f32 neg (2 ^ 60 - 1) (-60) true

/-- The floor and the fraction of m × 2^e with a sign, as an integer and a pair (numerator, bits of denominator). -/
def floorFrac (neg : Bool) (m : Nat) (e : Int) : Int × Nat × Nat :=
  if 0 ≤ e then
    let n : Int := (m * 2 ^ e.toNat : Nat)
    (if neg then -n else n, 0, 0)
  else
    let k := (-e).toNat
    let x : Int := if neg then -(m : Int) else m
    (x / (2 ^ k : Nat), (x % (2 ^ k : Nat)).toNat, k)

/-- EXP2.F32. -/
def fnExp2 (a : Nat) : Nat × Nat :=
  match unpack .f32 a with
  | .nan s => fnNan s
  | .inf n => (if n then 0 else a, 0)
  | .fin n m e =>
    if m == 0 then (0x3F800000, 0)
    else if 10 < (Nat.log2 m : Int) + e then (if n then tinyResult false else deliverRne .f32 false 1 128)
    else
      let (i, fr, k) := floorFrac n m e
      if fr == 0 then deliverRne .f32 false 1 i
      else if 128 ≤ i then deliverRne .f32 false 1 128 true
      else if i < -160 then tinyResult false
      else
        let encl (p : Nat) : Nat × Nat :=
          let y := fr * ln2Fix p / 2 ^ k
          expEncl p y (4 * p + 10)
        let rec go : List Nat → Nat × Nat
          | [] => let (lo, _) := encl 2400; deliverRne .f32 false lo (i - 2400) true
          | p :: ps =>
            let (lo, w) := encl p
            let x := deliverRne .f32 false lo (i - p) true
            let y := deliverRne .f32 false (lo + w - 1) (i - p) true
            if x == y then x else go ps
        go precisions

/-- LOG2.F32. -/
def fnLog2 (a : Nat) : Nat × Nat :=
  match unpack .f32 a with
  | .nan s => fnNan s
  | .inf n => if n then (Fmt.f32.canonNan, fINVL) else (a, 0)
  | .fin n m e =>
    if m == 0 then (infOf true, fDIVZ)
    else if n then (Fmt.f32.canonNan, fINVL)
    else
      let k := Nat.log2 m
      let x : Int := (k : Int) + e
      if m == 2 ^ k then deliverRne .f32 (decide (x < 0)) x.natAbs 0
      else
        -- log2 z of z = m / 2^k, in 2^p fixed point, between lo and lo + w
        let encl (p : Nat) : Nat × Nat :=
          let z := (m - 2 ^ k) * 2 ^ p / (m + 2 ^ k)
          let s := atanhSeries p (fmul p z z) p 0 z
          let l := ln2Fix p
          (2 * s * 2 ^ p / (l + 4 * p + 8), 40 * p + 40)
        -- the magnitude of x + log2 z
        let whole (p : Nat) : Nat × Nat :=
          let (lo, w) := encl p
          if 0 ≤ x then (x.toNat * 2 ^ p + lo, w)
          else (x.natAbs * 2 ^ p - lo - w, w + 1)
        refine (decide (x < 0)) whole precisions

/-- The quadrant of x turns, and the rest g with 0 ≤ g < 1/4 as a numerator over 2^k. -/
def quadrant (neg : Bool) (m : Nat) (e : Int) : Nat × Nat × Nat :=
  let (_, fr, k) := floorFrac neg m e
  let q := 4 * fr / 2 ^ k
  (q, 4 * fr % 2 ^ k, k + 2)

/-- An enclosure of sin(2π g) or cos(2π g) for g = num / 2^k below 1/4. -/
def trigEncl (cosine : Bool) (num k p : Nat) : Nat × Nat :=
  let y := 2 * num * piFix p / 2 ^ k
  let y2 := fmul p y y
  let s := if cosine then trigSeries p y2 p 0 (2 ^ p) false else trigSeries p y2 p 1 y false
  let slack := 100 * p + 200
  (s.toNat - slack, 2 * slack)

/-- sin(2π x) with exact quarter turns; `shift` is 1 for the cosine, sin(2π(x + 1/4)). -/
def fnTurns (shift : Nat) (zeroNeg : Bool) (neg : Bool) (m : Nat) (e : Int) : Nat × Nat :=
  let (q0, num, k) := quadrant neg m e
  let q := (q0 + shift) % 4
  if num == 0 then
    match q with
    | 0 => (signBits .f32 zeroNeg, 0)
    | 1 => (0x3F800000, 0)
    | 2 => (signBits .f32 zeroNeg, 0)
    | _ => (0xBF800000, 0)
  else
    let resNeg := decide (2 ≤ q)
    refine resNeg (trigEncl (q % 2 == 1) num k) precisions

/-- SINT.F32, the sine of 2πx (R64, R149). -/
def fnSint (a : Nat) : Nat × Nat :=
  match unpack .f32 a with
  | .nan s => fnNan s
  | .inf _ => (Fmt.f32.canonNan, fINVL)
  | .fin n m e => fnTurns 0 n n m e

/-- COST.F32, the cosine of 2πx (R64, R149). -/
def fnCost (a : Nat) : Nat × Nat :=
  match unpack .f32 a with
  | .nan s => fnNan s
  | .inf _ => (Fmt.f32.canonNan, fINVL)
  | .fin n m e => fnTurns 1 false n m e

/-- An enclosure of tanh(y) for 0 < y ≤ 1/4: sinh and cosh series, then their quotient. -/
def tanhSmall (m : Nat) (e : Int) (p : Nat) : Nat × Nat :=
  let s := (p : Int) + e
  let y := if 0 ≤ s then m * 2 ^ s.toNat else m / 2 ^ (-s).toNat
  let y2 := fmul p y y
  let rec ser : Nat → Nat → Nat → Nat
    | 0, _, _ => 0
    | n + 1, k, t => t + ser n (k + 2) (fmul p t y2 / ((k + 1) * (k + 2)))
  let sh := ser p 1 y
  let ch := ser p 0 (2 ^ p)
  let slack := 8 * p + 16
  (sh * 2 ^ p / (ch + slack), 4 * slack)

/-- TANH.F32. -/
def fnTanh (a : Nat) : Nat × Nat :=
  match unpack .f32 a with
  | .nan s => fnNan s
  | .inf n => (signBits .f32 n + 0x3F800000, 0)
  | .fin n m e =>
    if m == 0 then (a, 0)
    else
      let x : Int := (Nat.log2 m : Int) + e
      if 4 ≤ x then nearOne n
      else if x < -2 then refine n (tanhSmall m e) precisions
      else
        -- 1 − 2 / (exp(2y) + 1)
        let encl (p : Nat) : Nat × Nat :=
          let (lo, w) := expBig p m (e + 1)
          let big := 2 * 2 ^ p * 2 ^ p / (lo + 2 ^ p) + 1
          let small := 2 * 2 ^ p * 2 ^ p / (lo + w + 2 ^ p)
          (2 ^ p - big, big - small + 1)
        refine n encl precisions

/-- SIGM.F32, 1 ÷ (1 + e^−x). -/
def fnSigm (a : Nat) : Nat × Nat :=
  match unpack .f32 a with
  | .nan s => fnNan s
  | .inf n => (if n then 0 else 0x3F800000, 0)
  | .fin n m e =>
    if m == 0 then (0x3F000000, 0)
    else
      let x : Int := (Nat.log2 m : Int) + e
      if 7 ≤ x then (if n then tinyResult false else nearOne false)
      else
        let encl (p : Nat) : Nat × Nat :=
          let (lo, w) := expBig p m e
          if n then
            -- 1 / (1 + exp(y))
            let small := 2 ^ p * 2 ^ p / (lo + w + 2 ^ p)
            let big := 2 ^ p * 2 ^ p / (lo + 2 ^ p) + 1
            (small, big - small)
          else
            -- exp(y) / (1 + exp(y)) = 1 − 1 / (1 + exp(y))
            let small := 2 ^ p * 2 ^ p / (lo + w + 2 ^ p)
            let big := 2 ^ p * 2 ^ p / (lo + 2 ^ p) + 1
            (2 ^ p - big, big - small)
        refine false encl precisions

end Sys2Proof.Machine
end

