-- ==== Sys2Proof/Machine/Sfu.lean ====
section
/-! DEFINITION. Class 5, the conversion and special-function instructions (06_sfu, R136 to R151), and the step that writes their
results. Sources and RMODE are read at issue; the result, its taint and its flags are written together by SFU_RESULT (R138). -/

namespace Sys2Proof.Machine

/-! ### Values -/

/-- A result of one word as a list, with its flags. -/
def sfu1 (r : Nat × Nat) : List Word × Nat := ([word r.1], r.2)

/-- An I32 value as an exact value. -/
def intVal (i : Int) : Val := .fin (decide (i < 0)) i.natAbs 0

/-- CVT.F32.I32 and CVT.F32.N32 (R143, R62). -/
def cvtFromInt (i : Int) (rmode : Nat) : Nat × Nat := convertFp .f32 rmode (intVal i)

/-- CVT to an integer format of n bits (R143, R62). -/
def cvtToInt (lo hi : Int) (n : Nat) (a rmode : Nat) : Nat × Nat :=
  (intBits (convertInt lo hi rmode (unpack .f32 a)).1 n, (convertInt lo hi rmode (unpack .f32 a)).2)

/-- CVT to a narrow floating-point format (R143, R61). -/
def cvtNarrow (f : Fmt) (a rmode : Nat) : Nat × Nat := convertFp f rmode (unpack .f32 a)

/-- Element i of n bits of a word (R48). -/
def partBits (a n i : Nat) : Nat := a / 2 ^ (n * i) % 2 ^ n

/-- CVT.F32.I8 (R143): the exact F32 value of a signed byte. -/
def cvtI8 (b : Nat) : Nat × Nat := ((convertFp .f32 0 (intVal (sextInt b 8))).1, 0)

/-- PK4 and PK2 (R144): the elements of n bits packed, the flags ORed. -/
def packElems (f : Fmt) (n rmode : Nat) : List Word → Nat × Nat
  | [] => (0, 0)
  | a :: as =>
    ((cvtNarrow f a.toNat rmode).1 + 2 ^ n * (packElems f n rmode as).1, (cvtNarrow f a.toNat rmode).2 ||| (packElems f n rmode as).2)

/-- UNPK4 (R145): the four bytes widened, and the flags of a signalling NaN ORed. -/
def unpack4 (f : Fmt) (a : Nat) : List Word × Nat :=
  ((List.range 4).map fun i => word (widen f (partBits a 8 i)).1,
    (List.range 4).foldl (fun fl i => fl ||| (widen f (partBits a 8 i)).2) 0)

/-- Entry c of a codebook slot of 32 bytes (R57). -/
def slotEntry (slot : List Byte) (c : Nat) : Nat := wordOfBytes ((slot.drop (2 * c)).take 2)

/-- UNPK8.CB4 (R146). -/
def unpackCb (slot : List Byte) (a : Nat) : List Word :=
  (List.range 4).map fun i => word (slotEntry slot (partBits a 4 (2 * i)) + 2 ^ 16 * slotEntry slot (partBits a 4 (2 * i + 1)))

/-- QNT.CB4 (R147): the codes of the registers, the first lowest, and the flags ORed. -/
def quantCb (slot : List Byte) : List Word → Nat × Nat
  | [] => (0, 0)
  | a :: as =>
    let r := cbNearest ((List.range 16).map (slotEntry slot)) a.toNat
    (r.1 + 16 * (quantCb slot as).1, r.2 ||| (quantCb slot as).2)

/-- WADD (R151): INVL only for a signalling NaN. -/
def waddWords (w : List Word) (a : Nat) : List Word × Nat :=
  (wideWords (wideAdd (wideOfWords w) a), flagIf (unpack .f32 a).isSnan fINVL)

/-! ### Issue and result (R138) -/

/-- The issue of an SFU instruction: n destinations from D pending, the result computed from the registers at issue. -/
def sfuIssue (i : Instr) (s : State) (d n : Nat) (la : BitVec 4) (f : Thread → List Word × Nat) (taint : Thread → Bool)
    (slot : Thread → Option (Nat × List Word) := fun _ => none) : Out :=
  issue i s fun s t =>
    let id := s.mem.seq
    let p : SfuPend :=
      { thread := t.key, d := d, vals := (f t).1, taint := taint t, flags := (f t).2, window := id, slot := slot t }
    let t' := { openWindow t id la.toNat ((List.range n).map (d + ·)) [] with outSfu := { count := t.outSfu.count + 1, pc := t.pc } }
    .next (retire i (withEng (bump s) fun e => { e with sfu := e.sfu ++ [p] }) t')

/-- A result of one register computed from one register under RMODE. -/
def sfuUnary (i : Instr) (s : State) (d a : Reg) (la : BitVec 4) (f : Nat → Nat → Nat × Nat) : Out :=
  sfuIssue i s d.toNat 1 la (fun t => sfu1 (f (rdV t a.toNat).toNat t.rmode)) (fun t => rdTaint t a.toNat)

/-- The codebook slot of a core, read as zeros until it is written (R221). -/
def slotBytes (s : State) (core k : Nat) : List Byte :=
  ((s.eng.slots.find? fun x => x.1 == core && x.2.1 == k).map (·.2.2)).getD (List.replicate 32 0)

/-- The values and flags of a pending result; the codebook forms read their slot now (R148). -/
def sfuValue (s : State) (t : Thread) (p : SfuPend) : List Word × Nat :=
  match p.slot with
  | none => (p.vals, p.flags)
  | some (k, [a]) => (unpackCb (slotBytes s t.core k) a.toNat, 0)
  | some (k, as) => sfu1 (quantCb (slotBytes s t.core k) as)

/-- SFU_RESULT: the result, its taint and its flags are written in one clock, and its destinations are no longer pending (R138); within its
window a MOVS does not see the flags (R135). -/
def execSfuResult (w : Nat) (s : State) : Out :=
  need (s.eng.sfu.find? fun p => p.window == w) fun p =>
    need (getThread s p.thread) fun t =>
      let r := sfuValue s t p
      let t' := closeWindow (lateFlags (wrMany t p.d p.taint r.1) w r.2) w
      .next (putThread (withEng s fun e => { e with sfu := dropIf (fun x => x.window == w) e.sfu })
        { t' with outSfu := { t'.outSfu with count := t'.outSfu.count - 1 } })

/-! ### The instructions -/

/-- CVT.F32.I32: Converts an I32 to F32 under RMODE. (R143) -/
def execCvtF32I32 (g : Guard) (u : Bool) (d : Reg) (a : Reg) (la : BitVec 4) (s : State) : Out :=
  sfuUnary (.cvtF32I32 g u d a la) s d a la (fun a m => cvtFromInt (sextInt a 32) m)

/-- CVT.F32.N32: Converts an N32 to F32 under RMODE. (R143) -/
def execCvtF32N32 (g : Guard) (u : Bool) (d : Reg) (a : Reg) (la : BitVec 4) (s : State) : Out :=
  sfuUnary (.cvtF32N32 g u d a la) s d a la (fun a m => cvtFromInt (a : Int) m)

/-- CVT.I32.F32: Converts an F32 to I32 under RMODE. (R143) -/
def execCvtI32F32 (g : Guard) (u : Bool) (d : Reg) (a : Reg) (la : BitVec 4) (s : State) : Out :=
  sfuUnary (.cvtI32F32 g u d a la) s d a la (fun a m => cvtToInt (-(2 ^ 31)) (2 ^ 31 - 1) 32 a m)

/-- CVT.N32.F32: Converts an F32 to N32 under RMODE. (R143) -/
def execCvtN32F32 (g : Guard) (u : Bool) (d : Reg) (a : Reg) (la : BitVec 4) (s : State) : Out :=
  sfuUnary (.cvtN32F32 g u d a la) s d a la (fun a m => cvtToInt 0 (2 ^ 32 - 1) 32 a m)

/-- CVT.F16.F32: Converts an F32 to F16 under RMODE. (R143) -/
def execCvtF16F32 (g : Guard) (u : Bool) (d : Reg) (a : Reg) (la : BitVec 4) (s : State) : Out :=
  sfuUnary (.cvtF16F32 g u d a la) s d a la (cvtNarrow .f16)

/-- CVT.BF16.F32: Converts an F32 to BF16 under RMODE. (R143) -/
def execCvtBf16F32 (g : Guard) (u : Bool) (d : Reg) (a : Reg) (la : BitVec 4) (s : State) : Out :=
  sfuUnary (.cvtBf16F32 g u d a la) s d a la (cvtNarrow .bf16)

/-- CVT.E4M3.F32: Converts an F32 to E4M3 under RMODE. (R143) -/
def execCvtE4m3F32 (g : Guard) (u : Bool) (d : Reg) (a : Reg) (la : BitVec 4) (s : State) : Out :=
  sfuUnary (.cvtE4m3F32 g u d a la) s d a la (cvtNarrow .e4m3)

/-- CVT.E5M2.F32: Converts an F32 to E5M2 under RMODE. (R143) -/
def execCvtE5m2F32 (g : Guard) (u : Bool) (d : Reg) (a : Reg) (la : BitVec 4) (s : State) : Out :=
  sfuUnary (.cvtE5m2F32 g u d a la) s d a la (cvtNarrow .e5m2)

/-- CVT.F32.F16: Widens a selected F16 element to F32 exactly. (R143) -/
def execCvtF32F16 (g : Guard) (u : Bool) (d : Reg) (a : Reg) (la : BitVec 4) (sel : BitVec 1) (s : State) : Out :=
  sfuUnary (.cvtF32F16 g u d a la sel) s d a la (fun a _ => widen .f16 (partBits a 16 sel.toNat))

/-- CVT.F32.BF16: Widens a selected BF16 element to F32 exactly. (R143) -/
def execCvtF32Bf16 (g : Guard) (u : Bool) (d : Reg) (a : Reg) (la : BitVec 4) (sel : BitVec 1) (s : State) : Out :=
  sfuUnary (.cvtF32Bf16 g u d a la sel) s d a la (fun a _ => widen .bf16 (partBits a 16 sel.toNat))

/-- CVT.F32.E4M3: Widens a selected E4M3 byte to F32 exactly. (R143) -/
def execCvtF32E4m3 (g : Guard) (u : Bool) (d : Reg) (a : Reg) (la : BitVec 4) (sel : BitVec 2) (s : State) : Out :=
  sfuUnary (.cvtF32E4m3 g u d a la sel) s d a la (fun a _ => widen .e4m3 (partBits a 8 sel.toNat))

/-- CVT.F32.E5M2: Widens a selected E5M2 byte to F32 exactly. (R143) -/
def execCvtF32E5m2 (g : Guard) (u : Bool) (d : Reg) (a : Reg) (la : BitVec 4) (sel : BitVec 2) (s : State) : Out :=
  sfuUnary (.cvtF32E5m2 g u d a la sel) s d a la (fun a _ => widen .e5m2 (partBits a 8 sel.toNat))

/-- UNPK8.CB4: Expands eight CB4 codes into BF16 entries of a codebook slot. (R146) -/
def execUnpk8Cb4 (g : Guard) (u : Bool) (d : Reg) (a : Reg) (la : BitVec 4) (sel : BitVec 3) (s : State) : Out :=
  sfuIssue (.unpk8Cb4 g u d a la sel) s d.toNat 4 la (fun _ => ([], 0)) (fun t => rdTaint t a.toNat)
    (fun t => some (sel.toNat, [rdV t a.toNat]))

/-- QNT.CB4: Quantises eight F32 registers to nearest-entry CB4 codes of a slot. (R147) -/
def execQntCb4 (g : Guard) (u : Bool) (d : Reg) (a : Reg) (la : BitVec 4) (sel : BitVec 3) (s : State) : Out :=
  sfuIssue (.qntCb4 g u d a la sel) s d.toNat 1 la (fun _ => ([], 0)) (fun t => taintMany t a.toNat 8)
    (fun t => some (sel.toNat, rdMany t a.toNat 8))

/-- PK4.E4M3: Converts four F32 registers to E4M3 and packs them. (R144) -/
def execPk4E4m3 (g : Guard) (u : Bool) (d : Reg) (a : Reg) (la : BitVec 4) (s : State) : Out :=
  sfuIssue (.pk4E4m3 g u d a la) s d.toNat 1 la (fun t => sfu1 (packElems .e4m3 8 t.rmode (rdMany t a.toNat 4))) (fun t => taintMany t a.toNat 4)

/-- PK4.E5M2: Converts four F32 registers to E5M2 and packs them. (R144) -/
def execPk4E5m2 (g : Guard) (u : Bool) (d : Reg) (a : Reg) (la : BitVec 4) (s : State) : Out :=
  sfuIssue (.pk4E5m2 g u d a la) s d.toNat 1 la (fun t => sfu1 (packElems .e5m2 8 t.rmode (rdMany t a.toNat 4))) (fun t => taintMany t a.toNat 4)

/-- UNPK4.E4M3: Widens four packed E4M3 bytes into four F32 registers. (R145) -/
def execUnpk4E4m3 (g : Guard) (u : Bool) (d : Reg) (a : Reg) (la : BitVec 4) (s : State) : Out :=
  sfuIssue (.unpk4E4m3 g u d a la) s d.toNat 4 la (fun t => unpack4 .e4m3 (rdV t a.toNat).toNat) (fun t => rdTaint t a.toNat)

/-- UNPK4.E5M2: Widens four packed E5M2 bytes into four F32 registers. (R145) -/
def execUnpk4E5m2 (g : Guard) (u : Bool) (d : Reg) (a : Reg) (la : BitVec 4) (s : State) : Out :=
  sfuIssue (.unpk4E5m2 g u d a la) s d.toNat 4 la (fun t => unpack4 .e5m2 (rdV t a.toNat).toNat) (fun t => rdTaint t a.toNat)

/-- PK2.BF16: Converts two F32 registers to BF16 and packs them. (R144) -/
def execPk2Bf16 (g : Guard) (u : Bool) (d : Reg) (a : Reg) (la : BitVec 4) (s : State) : Out :=
  sfuIssue (.pk2Bf16 g u d a la) s d.toNat 1 la (fun t => sfu1 (packElems .bf16 16 t.rmode (rdMany t a.toNat 2))) (fun t => taintMany t a.toNat 2)

/-- PK2.F16: Converts two F32 registers to F16 and packs them. (R144) -/
def execPk2F16 (g : Guard) (u : Bool) (d : Reg) (a : Reg) (la : BitVec 4) (s : State) : Out :=
  sfuIssue (.pk2F16 g u d a la) s d.toNat 1 la (fun t => sfu1 (packElems .f16 16 t.rmode (rdMany t a.toNat 2))) (fun t => taintMany t a.toNat 2)

/-- RCP.F32: Computes the correctly rounded reciprocal. (R149) -/
def execRcpF32 (g : Guard) (u : Bool) (d : Reg) (a : Reg) (la : BitVec 4) (s : State) : Out :=
  sfuUnary (.rcpF32 g u d a la) s d a la (fun a _ => fnRcp a)

/-- RSQ.F32: Computes the correctly rounded reciprocal square root. (R149) -/
def execRsqF32 (g : Guard) (u : Bool) (d : Reg) (a : Reg) (la : BitVec 4) (s : State) : Out :=
  sfuUnary (.rsqF32 g u d a la) s d a la (fun a _ => fnRsq a)

/-- SQRT.F32: Computes the correctly rounded square root. (R149) -/
def execSqrtF32 (g : Guard) (u : Bool) (d : Reg) (a : Reg) (la : BitVec 4) (s : State) : Out :=
  sfuUnary (.sqrtF32 g u d a la) s d a la (fun a _ => fnSqrt a)

/-- DIV.F32: Divides register A by register A+1, correctly rounded. (R149) -/
def execDivF32 (g : Guard) (u : Bool) (d : Reg) (a : Reg) (la : BitVec 4) (s : State) : Out :=
  sfuIssue (.divF32 g u d a la) s d.toNat 1 la (fun t => sfu1 (fnDiv (rdV t a.toNat).toNat (rdV t (a.toNat + 1)).toNat)) (fun t => taintMany t a.toNat 2)

/-- EXP2.F32: Computes the correctly rounded base-2 exponential. (R149) -/
def execExp2F32 (g : Guard) (u : Bool) (d : Reg) (a : Reg) (la : BitVec 4) (s : State) : Out :=
  sfuUnary (.exp2F32 g u d a la) s d a la (fun a _ => fnExp2 a)

/-- LOG2.F32: Computes the correctly rounded base-2 logarithm. (R149) -/
def execLog2F32 (g : Guard) (u : Bool) (d : Reg) (a : Reg) (la : BitVec 4) (s : State) : Out :=
  sfuUnary (.log2F32 g u d a la) s d a la (fun a _ => fnLog2 a)

/-- SINT.F32: Computes the correctly rounded sine of 2 pi x. (R149) -/
def execSintF32 (g : Guard) (u : Bool) (d : Reg) (a : Reg) (la : BitVec 4) (s : State) : Out :=
  sfuUnary (.sintF32 g u d a la) s d a la (fun a _ => fnSint a)

/-- COST.F32: Computes the correctly rounded cosine of 2 pi x. (R149) -/
def execCostF32 (g : Guard) (u : Bool) (d : Reg) (a : Reg) (la : BitVec 4) (s : State) : Out :=
  sfuUnary (.costF32 g u d a la) s d a la (fun a _ => fnCost a)

/-- TANH.F32: Computes the correctly rounded hyperbolic tangent. (R149) -/
def execTanhF32 (g : Guard) (u : Bool) (d : Reg) (a : Reg) (la : BitVec 4) (s : State) : Out :=
  sfuUnary (.tanhF32 g u d a la) s d a la (fun a _ => fnTanh a)

/-- SIGM.F32: Computes the correctly rounded logistic sigmoid. (R149) -/
def execSigmF32 (g : Guard) (u : Bool) (d : Reg) (a : Reg) (la : BitVec 4) (s : State) : Out :=
  sfuUnary (.sigmF32 g u d a la) s d a la (fun a _ => fnSigm a)

/-- FLOOR.F32: Rounds toward minus infinity to an integral F32. (R150) -/
def execFloorF32 (g : Guard) (u : Bool) (d : Reg) (a : Reg) (la : BitVec 4) (s : State) : Out :=
  sfuUnary (.floorF32 g u d a la) s d a la (fun a _ => fpIntegral .rdn a)

/-- CEIL.F32: Rounds toward plus infinity to an integral F32. (R150) -/
def execCeilF32 (g : Guard) (u : Bool) (d : Reg) (a : Reg) (la : BitVec 4) (s : State) : Out :=
  sfuUnary (.ceilF32 g u d a la) s d a la (fun a _ => fpIntegral .rup a)

/-- TRUNC.F32: Rounds toward zero to an integral F32. (R150) -/
def execTruncF32 (g : Guard) (u : Bool) (d : Reg) (a : Reg) (la : BitVec 4) (s : State) : Out :=
  sfuUnary (.truncF32 g u d a la) s d a la (fun a _ => fpIntegral .rtz a)

/-- RINT.F32: Rounds to nearest even integral F32. (R150) -/
def execRintF32 (g : Guard) (u : Bool) (d : Reg) (a : Reg) (la : BitVec 4) (s : State) : Out :=
  sfuUnary (.rintF32 g u d a la) s d a la (fun a _ => fpIntegral .rne a)

/-- CLASS.F32: Writes a one-hot class word of the F32 input. (R150) -/
def execClassF32 (g : Guard) (u : Bool) (d : Reg) (a : Reg) (la : BitVec 4) (s : State) : Out :=
  sfuUnary (.classF32 g u d a la) s d a la (fun a _ => (fpClass a, 0))

/-- WADD: Adds an F32 value exactly into a wide value held in 11 registers. (R151) -/
def execWadd (g : Guard) (u : Bool) (d : Reg) (a : Reg) (la : BitVec 4) (s : State) : Out :=
  sfuIssue (.wadd g u d a la) s d.toNat 11 la (fun t => waddWords (rdMany t d.toNat 11) (rdV t a.toNat).toNat)
    (fun t => rdTaint t a.toNat || taintMany t d.toNat 11)

/-- WRND: Rounds a wide value in 11 registers to F32. (R151) -/
def execWrnd (g : Guard) (u : Bool) (d : Reg) (a : Reg) (la : BitVec 4) (s : State) : Out :=
  sfuIssue (.wrnd g u d a la) s d.toNat 1 la (fun t => sfu1 (wideRound (wideOfWords (rdMany t a.toNat 11)))) (fun t => taintMany t a.toNat 11)

/-- WCLR: Clears a wide value in 11 registers. (R151) -/
def execWclr (g : Guard) (u : Bool) (d : Reg) (la : BitVec 4) (s : State) : Out :=
  sfuIssue (.wclr g u d la) s d.toNat 11 la (fun _ => (List.replicate 11 0, 0)) (fun _ => false)

/-- CVT.F32.I8: Widens a selected I8 byte to F32 exactly. (R143) -/
def execCvtF32I8 (g : Guard) (u : Bool) (d : Reg) (a : Reg) (la : BitVec 4) (sel : BitVec 2) (s : State) : Out :=
  sfuUnary (.cvtF32I8 g u d a la sel) s d a la (fun a _ => cvtI8 (partBits a 8 sel.toNat))

/-- CVT.I8.F32: Converts an F32 to I8 under RMODE. (R143) -/
def execCvtI8F32 (g : Guard) (u : Bool) (d : Reg) (a : Reg) (la : BitVec 4) (s : State) : Out :=
  sfuUnary (.cvtI8F32 g u d a la) s d a la (fun a m => cvtToInt (-128) 127 8 a m)

end Sys2Proof.Machine
end

