-- ==== Sys2Proof/Machine/System.lean ====
section
/-! DEFINITION. Special registers (R133, R134, R272 to R276) and class 6, the system instructions (R266): traps, time, trace, flags
and the instruction cache. -/

namespace Sys2Proof.Machine

/-- The convoy entry that a thread's registers read: as the last clock left it (R274, R367). -/
def ownConvoy (s : State) (t : Thread) : Option (Convoy × Nat) := t.cv.map fun (c, i) => (convoySeen s c, i)

/-- The value of a special register at the clock of the MOVS (R272, R274 to R276). -/
def specialValue (s : State) (t : Thread) (n : Nat) : Word :=
  let g := getGrid s t.grid
  let ofGrid (f : Grid → Nat) : Word := word ((g.map f).getD 0)
  let ofConvoy (f : Convoy → Nat → Nat) : Word := word (((ownConvoy s t).map fun x => f x.1 x.2).getD 0 % 2 ^ 32)
  match n with
  | 0x000 => word t.pc
  | 0x001 => word t.tid
  | 0x002 => word (laneOf t)
  | 0x003 => word t.grp
  | 0x004 => word (rsetOf t)
  | 0x005 => word t.role
  | 0x006 => word t.teamIdx
  | 0x007 => ofGrid (·.nteam)
  | 0x008 => ofGrid fun g => (g.roles.map fun r => r.groups * r.threads).sum
  | 0x009 => word t.grid
  | 0x00A => word t.tcore
  | 0x00B => word (((getTeam s t.team).map (·.cores.length)).getD 0)
  | 0x010 => word t.core
  | 0x011 => word (layerOfCore t.core)
  | 0x012 => word (chipOfCore t.core)
  | 0x013 => word (retiOfCore t.core)
  | 0x014 => word s.regs.pkg
  | 0x020 => t.meet
  | 0x021 => word t.mhb
  | 0x030 => word t.rmode
  | 0x031 => word t.flags
  | 0x040 => word t.mgang
  | 0x050 => (t.cv.map fun c => word c.1).getD 0xFFFFFFFF
  | 0x051 => (t.cv.map fun c => word c.2).getD 0xFFFFFFFF
  | 0x052 => ofConvoy fun v i => v.posOf i
  | 0x053 => ofConvoy fun v _ => v.tail
  | 0x054 => ofConvoy fun v _ => v.sl
  | 0x055 => ofConvoy fun v _ => v.lt
  | 0x056 => ofConvoy fun v _ => v.cvm.toNat
  | 0x057 => ofConvoy fun v _ => v.cvm.toNat / 2 ^ 32
  | 0x058 => ofConvoy fun v _ => v.cvl.toNat
  | 0x059 => ofConvoy fun v _ => v.cvl.toNat / 2 ^ 32
  | 0x05A => word t.cvmrg
  | 0x05B => word t.cvsolo
  | 0x060 => t.tcause
  | 0x061 => t.tpc
  | 0x062 => t.taddrl
  | 0x063 => t.taddrh
  | 0x064 => t.tmask
  | 0x065 => word t.tvec
  | 0x070 => word (min 255 ((assoc s.slacks t.core).getD 0))
  | 0x080 => word (s.disp.cadCount % 2 ^ 16 + ((g.map (·.cadgen)).getD 0) % 2 ^ 16 * 2 ^ 16)
  | _ => 0

/-- MOVSW (R134 Table 3): a value outside the register's limits raises ILLEGAL_OPERAND and changes nothing. -/
def movswOp (i : Instr) (s : State) (d : Reg) (n : Nat) : Out :=
  issue i s fun s t =>
    let x := rdV t d.toNat
    let bad : Out := raise s (unissued s t) .illegalOperand
    match n with
    | 0x020 => if meetOk x then .next (writeMeet i s t x) else bad
    | 0x021 => if x.toNat < 65536 then .next (retire i s { t with mhb := x.toNat }) else bad
    | 0x030 => if rmodeOk x.toNat then .next (retire i s { t with rmode := x.toNat }) else bad
    | 0x031 => if flagsOk x.toNat then .next (retire i s { t with flags := x.toNat }) else bad
    | _ => bad

/-- BKPT (R266, R410): with a debugger attached to its grid the thread stops at it, and goes past it when it resumes; else the
fault BKPT is delivered. -/
def bkptOp (i : Instr) (s : State) (code : Nat) : Out :=
  issue i s fun s t =>
    let t0 := unissued s t
    if targeted s t.grid then
      if t0.skipBrk then .next (retire i s t)
      else
        let mode := (debugOf s (partOf s t.grid)).smode
        .next (stopBy (putThread s { t0 with skipBrk := true }) t0 { cause := 0x16, mode := mode, pc := t.pc })
    else raise s t0 .bkpt code

/-- The clause and offset at which TRET.RETRY goes on (R266). -/
def retryAt (s : State) (t : Thread) (g : Grid) : Nat × Option ClauseCtx := (t.tpc.toNat, clauseHolding s t.core g t.tpc.toNat)

/-- The clause and offset at which TRET.SKIP goes on: after the instruction at TPC and its literal, or at the next header. -/
def skipAt (s : State) (t : Thread) (g : Grid) : Nat × Option ClauseCtx :=
  let p := t.tpc.toNat
  match clauseHolding s t.core g p with
  | none => (((codeValue s t.core g p).map fun w => p + 4 * ((decodeHeader w).n + 1)).getD g.codeLen, none)
  | some c =>
    let marked := match codeValue s t.core g c.hdr with
      | some w => bitOf (decodeHeader w).lmap ((p - c.hdr) / 4 - 1)
      | none => false
    let q := p + (if marked then 8 else 4)
    (q, if c.stop ≤ q then none else some c)

/-- The header whose reading stops a return to TPC, if any: one on the way to TPC, or the one that TPC names, when it is to be passed
over. -/
def tretStop (s : State) (t : Thread) (g : Grid) (skip : Bool) : Chained :=
  match chainAt s t.core g t.tpc.toNat with
  | .hdr h =>
    if h == t.tpc.toNat && !skip then .none
    else match codeWord s t.core g h with
      | some (.park p) => .park p h
      | some (.fault c) => .fault c h
      | _ => .none
  | x => x

/-- TRET (R266, R412): outside a handler, or for a trap whose TPC names neither an instruction nor a header, ILLEGAL_OPERAND. -/
def tretOp (i : Instr) (s : State) (skip : Bool) : Out :=
  issue i s fun s t =>
    if !t.inHandler || t.nowhere then raise s (unissued s t) .illegalOperand
    else need (getGrid s t.grid) fun g =>
      match tretStop s t g skip with
      | .park p o => .next (parkOn s (unissued s t) p (codeAddr g o))
      | .fault c o => fetchFault s (unissued s t) g c o
      | _ =>
        let r := if skip then skipAt s t g else retryAt s t g
        .next (putThread s (trapReturn t r.1 r.2))

/-- The core's instruction cache without the lines of the thread's code buffer (R266). -/
def dropICode (s : State) (t : Thread) : State :=
  match getGrid s t.grid with
  | none => s
  | some g => withMem s fun m =>
      { m with icache := dropIf (fun l => l.core == t.core && l.owner == g.owner && l.code == g.code.toNat) m.icache }

noncomputable section

/-- MOVS: Reads the numbered special register into D. (R133) -/
def execMovs (g : Guard) (u : Bool) (d : Reg) (sr : BitVec 14) (s : State) : Out :=
  issue (.movs g u d sr) s fun s t => .next (retire (.movs g u d sr) s (wrV t d.toNat (specialValue s t sr.toNat) false))

/-- MOVSW: Writes register D to a writable special register (MEET, MHB, RMODE or FLAGS). (R134) -/
def execMovsw (g : Guard) (u : Bool) (d : Reg) (sr : BitVec 14) (s : State) : Out :=
  movswOp (.movsw g u d sr) s d sr.toNat

/-- TRAP: Raises the TRAP fault with a code. (R266) -/
def execTrap (g : Guard) (code : BitVec 7) (s : State) : Out :=
  issue (.trap g code) s fun s t => raise s (unissued s t) .trap code.toNat

/-- BKPT: Raises BKPT, taken as a debug stop when attached. (R266) -/
def execBkpt (g : Guard) (code : BitVec 7) (s : State) : Out :=
  bkptOp (.bkpt g code) s code.toNat

/-- TRET.RETRY: Leaves a trap handler and reissues the instruction at TPC. (R412) -/
def execTretRetry (g : Guard) (s : State) : Out :=
  tretOp (.tretRetry g) s false

/-- TRET.SKIP: Leaves a trap handler and continues after the instruction at TPC. (R412) -/
def execTretSkip (g : Guard) (s : State) : Out :=
  tretOp (.tretSkip g) s true

/-- CLOCK: Reads the core's main-clock count into a register pair. (R266) -/
def execClock (g : Guard) (d : Reg) (s : State) : Out :=
  issue (.clock g d) s fun s t => .next (retire (.clock g d) s (wrPair t d.toNat (mainClocks s t.core) false))

/-- GTIME: Reads pod time in nanoseconds into a register pair, which never goes back. (R266) -/
def execGtime (g : Guard) (d : Reg) (s : State) : Out :=
  issue (.gtime g d) s fun s t => .next (retire (.gtime g d) s (wrPair t d.toNat (min (Config.podTime s.clock) (2 ^ 64 - 1)) false))

/-- TRACE: Appends a trace record on an enabled channel. (R266) -/
def execTrace (g : Guard) (a : Reg) (ch : BitVec 7) (s : State) : Out :=
  issue (.trace g a ch) s fun s t =>
    let p := partOf s t.grid
    let s' := if (debugOf s p).trcen.getLsbD ch.toNat then observe s p 2 ch.toNat t.grid t.teamIdx t.tid t.pc 0 [rdV t a.toNat] else s
    .next (retire (.trace g a ch) s' t)

/-- FLAGS: Reads FLAGS and clears the flags named in the mask. (R266) -/
def execFlags (g : Guard) (d : Reg) (mask : BitVec 6) (s : State) : Out :=
  issue (.flags g d mask) s fun s t =>
    .next (retire (.flags g d mask) s { wrV t d.toNat (word t.flags) false with flags := clearFlags t.flags mask.toNat })

/-- ICINV: Invalidates the core's instruction cache lines of the grid's code after stores are acknowledged. (R266) -/
def execIcinv (g : Guard) (s : State) : Out :=
  poll (.icinv g) s fun s t =>
    if storesAcked s t.key s.mem.seq 5 then .next (retire (.icinv g) (dropICode s t) t) else pollBlock (.icinv g) s t

end

end Sys2Proof.Machine
end

