-- ==== Sys2Proof/Machine/Dispatch.lean ====
section
/-! DEFINITION. The meaning of every instruction and device step, one arm each. -/

namespace Sys2Proof.Machine

open Sys2Proof.Machine in noncomputable
def exec (i : Instr) (s : State) : Host.Outcome State Fault Refusal :=
  match i with
  | .add g u d a b => Sys2Proof.Machine.execAdd g u d a b s
  | .sub g u d a b => Sys2Proof.Machine.execSub g u d a b s
  | .mul g u d a b => Sys2Proof.Machine.execMul g u d a b s
  | .mulhI32 g u d a b => Sys2Proof.Machine.execMulhI32 g u d a b s
  | .mulhN32 g u d a b => Sys2Proof.Machine.execMulhN32 g u d a b s
  | .mad g u d a b => Sys2Proof.Machine.execMad g u d a b s
  | .madwI32 g u d a b => Sys2Proof.Machine.execMadwI32 g u d a b s
  | .madwN32 g u d a b => Sys2Proof.Machine.execMadwN32 g u d a b s
  | .add64 g u d a b => Sys2Proof.Machine.execAdd64 g u d a b s
  | .sub64 g u d a b => Sys2Proof.Machine.execSub64 g u d a b s
  | .addsI32 g u d a b => Sys2Proof.Machine.execAddsI32 g u d a b s
  | .subsI32 g u d a b => Sys2Proof.Machine.execSubsI32 g u d a b s
  | .minI32 g u d a b => Sys2Proof.Machine.execMinI32 g u d a b s
  | .maxI32 g u d a b => Sys2Proof.Machine.execMaxI32 g u d a b s
  | .minN32 g u d a b => Sys2Proof.Machine.execMinN32 g u d a b s
  | .maxN32 g u d a b => Sys2Proof.Machine.execMaxN32 g u d a b s
  | .and g u d a b => Sys2Proof.Machine.execAnd g u d a b s
  | .or g u d a b => Sys2Proof.Machine.execOr g u d a b s
  | .xor g u d a b => Sys2Proof.Machine.execXor g u d a b s
  | .andn g u d a b => Sys2Proof.Machine.execAndn g u d a b s
  | .shl g u d a b => Sys2Proof.Machine.execShl g u d a b s
  | .shr g u d a b => Sys2Proof.Machine.execShr g u d a b s
  | .sar g u d a b => Sys2Proof.Machine.execSar g u d a b s
  | .popc g u d a => Sys2Proof.Machine.execPopc g u d a s
  | .clz g u d a => Sys2Proof.Machine.execClz g u d a s
  | .brev g u d a => Sys2Proof.Machine.execBrev g u d a s
  | .bfeN32 g u d a b => Sys2Proof.Machine.execBfeN32 g u d a b s
  | .bfeI32 g u d a b => Sys2Proof.Machine.execBfeI32 g u d a b s
  | .bfi g u d a b => Sys2Proof.Machine.execBfi g u d a b s
  | .permb g u d a b => Sys2Proof.Machine.execPermb g u d a b s
  | .dot4I8 g u d a b => Sys2Proof.Machine.execDot4I8 g u d a b s
  | .dot4N8 g u d a b => Sys2Proof.Machine.execDot4N8 g u d a b s
  | .setpEq g u d a b => Sys2Proof.Machine.execSetpEq g u d a b s
  | .setpNe g u d a b => Sys2Proof.Machine.execSetpNe g u d a b s
  | .setpLtI32 g u d a b => Sys2Proof.Machine.execSetpLtI32 g u d a b s
  | .setpLeI32 g u d a b => Sys2Proof.Machine.execSetpLeI32 g u d a b s
  | .setpLtN32 g u d a b => Sys2Proof.Machine.execSetpLtN32 g u d a b s
  | .setpLeN32 g u d a b => Sys2Proof.Machine.execSetpLeN32 g u d a b s
  | .setpEqF32 g u d a b => Sys2Proof.Machine.execSetpEqF32 g u d a b s
  | .setpNeF32 g u d a b => Sys2Proof.Machine.execSetpNeF32 g u d a b s
  | .setpLtF32 g u d a b => Sys2Proof.Machine.execSetpLtF32 g u d a b s
  | .setpLeF32 g u d a b => Sys2Proof.Machine.execSetpLeF32 g u d a b s
  | .setpUnF32 g u d a b => Sys2Proof.Machine.execSetpUnF32 g u d a b s
  | .sel g u d a b => Sys2Proof.Machine.execSel g u d a b s
  | .pand g u d a b => Sys2Proof.Machine.execPand g u d a b s
  | .por g u d a b => Sys2Proof.Machine.execPor g u d a b s
  | .pxor g u d a b => Sys2Proof.Machine.execPxor g u d a b s
  | .pandn g u d a b => Sys2Proof.Machine.execPandn g u d a b s
  | .ppack g u d a => Sys2Proof.Machine.execPpack g u d a s
  | .punpack g u d a => Sys2Proof.Machine.execPunpack g u d a s
  | .mov g u d a => Sys2Proof.Machine.execMov g u d a s
  | .movi g u d imm => Sys2Proof.Machine.execMovi g u d imm s
  | .moviLiteral g u d w => Sys2Proof.Machine.execMoviLiteral g u d w s
  | .fadd g u d a b => Sys2Proof.Machine.execFadd g u d a b s
  | .fsub g u d a b => Sys2Proof.Machine.execFsub g u d a b s
  | .fmul g u d a b => Sys2Proof.Machine.execFmul g u d a b s
  | .ffma g u d a b => Sys2Proof.Machine.execFfma g u d a b s
  | .fmin g u d a b => Sys2Proof.Machine.execFmin g u d a b s
  | .fmax g u d a b => Sys2Proof.Machine.execFmax g u d a b s
  | .hfma2 g u d a b => Sys2Proof.Machine.execHfma2 g u d a b s
  | .hadd2 g u d a b => Sys2Proof.Machine.execHadd2 g u d a b s
  | .hmul2 g u d a b => Sys2Proof.Machine.execHmul2 g u d a b s
  | .bfma2 g u d a b => Sys2Proof.Machine.execBfma2 g u d a b s
  | .movs g u d sr => Sys2Proof.Machine.execMovs g u d sr s
  | .movsw g u d sr => Sys2Proof.Machine.execMovsw g u d sr s
  | .cvtF32I32 g u d a la => Sys2Proof.Machine.execCvtF32I32 g u d a la s
  | .cvtF32N32 g u d a la => Sys2Proof.Machine.execCvtF32N32 g u d a la s
  | .cvtI32F32 g u d a la => Sys2Proof.Machine.execCvtI32F32 g u d a la s
  | .cvtN32F32 g u d a la => Sys2Proof.Machine.execCvtN32F32 g u d a la s
  | .cvtF16F32 g u d a la => Sys2Proof.Machine.execCvtF16F32 g u d a la s
  | .cvtBf16F32 g u d a la => Sys2Proof.Machine.execCvtBf16F32 g u d a la s
  | .cvtE4m3F32 g u d a la => Sys2Proof.Machine.execCvtE4m3F32 g u d a la s
  | .cvtE5m2F32 g u d a la => Sys2Proof.Machine.execCvtE5m2F32 g u d a la s
  | .cvtF32F16 g u d a la sel => Sys2Proof.Machine.execCvtF32F16 g u d a la sel s
  | .cvtF32Bf16 g u d a la sel => Sys2Proof.Machine.execCvtF32Bf16 g u d a la sel s
  | .cvtF32E4m3 g u d a la sel => Sys2Proof.Machine.execCvtF32E4m3 g u d a la sel s
  | .cvtF32E5m2 g u d a la sel => Sys2Proof.Machine.execCvtF32E5m2 g u d a la sel s
  | .unpk8Cb4 g u d a la sel => Sys2Proof.Machine.execUnpk8Cb4 g u d a la sel s
  | .qntCb4 g u d a la sel => Sys2Proof.Machine.execQntCb4 g u d a la sel s
  | .pk4E4m3 g u d a la => Sys2Proof.Machine.execPk4E4m3 g u d a la s
  | .pk4E5m2 g u d a la => Sys2Proof.Machine.execPk4E5m2 g u d a la s
  | .unpk4E4m3 g u d a la => Sys2Proof.Machine.execUnpk4E4m3 g u d a la s
  | .unpk4E5m2 g u d a la => Sys2Proof.Machine.execUnpk4E5m2 g u d a la s
  | .pk2Bf16 g u d a la => Sys2Proof.Machine.execPk2Bf16 g u d a la s
  | .pk2F16 g u d a la => Sys2Proof.Machine.execPk2F16 g u d a la s
  | .rcpF32 g u d a la => Sys2Proof.Machine.execRcpF32 g u d a la s
  | .rsqF32 g u d a la => Sys2Proof.Machine.execRsqF32 g u d a la s
  | .sqrtF32 g u d a la => Sys2Proof.Machine.execSqrtF32 g u d a la s
  | .divF32 g u d a la => Sys2Proof.Machine.execDivF32 g u d a la s
  | .exp2F32 g u d a la => Sys2Proof.Machine.execExp2F32 g u d a la s
  | .log2F32 g u d a la => Sys2Proof.Machine.execLog2F32 g u d a la s
  | .sintF32 g u d a la => Sys2Proof.Machine.execSintF32 g u d a la s
  | .costF32 g u d a la => Sys2Proof.Machine.execCostF32 g u d a la s
  | .tanhF32 g u d a la => Sys2Proof.Machine.execTanhF32 g u d a la s
  | .sigmF32 g u d a la => Sys2Proof.Machine.execSigmF32 g u d a la s
  | .floorF32 g u d a la => Sys2Proof.Machine.execFloorF32 g u d a la s
  | .ceilF32 g u d a la => Sys2Proof.Machine.execCeilF32 g u d a la s
  | .truncF32 g u d a la => Sys2Proof.Machine.execTruncF32 g u d a la s
  | .rintF32 g u d a la => Sys2Proof.Machine.execRintF32 g u d a la s
  | .classF32 g u d a la => Sys2Proof.Machine.execClassF32 g u d a la s
  | .wadd g u d a la => Sys2Proof.Machine.execWadd g u d a la s
  | .wrnd g u d a la => Sys2Proof.Machine.execWrnd g u d a la s
  | .wclr g u d la => Sys2Proof.Machine.execWclr g u d la s
  | .cvtF32I8 g u d a la sel => Sys2Proof.Machine.execCvtF32I8 g u d a la sel s
  | .cvtI8F32 g u d a la => Sys2Proof.Machine.execCvtI8F32 g u d a la s
  | .ldN8 g u d a la bs off => Sys2Proof.Machine.execLdN8 g u d a la bs off s
  | .ldI8 g u d a la bs off => Sys2Proof.Machine.execLdI8 g u d a la bs off s
  | .ldN16 g u d a la bs off => Sys2Proof.Machine.execLdN16 g u d a la bs off s
  | .ldI16 g u d a la bs off => Sys2Proof.Machine.execLdI16 g u d a la bs off s
  | .ldW g u d a la bs off => Sys2Proof.Machine.execLdW g u d a la bs off s
  | .ldD g u d a la bs off => Sys2Proof.Machine.execLdD g u d a la bs off s
  | .ldQ g u d a la bs off => Sys2Proof.Machine.execLdQ g u d a la bs off s
  | .ldO g u d a la bs off => Sys2Proof.Machine.execLdO g u d a la bs off s
  | .stB g d a la bs off => Sys2Proof.Machine.execStB g d a la bs off s
  | .stH g d a la bs off => Sys2Proof.Machine.execStH g d a la bs off s
  | .stW g d a la bs off => Sys2Proof.Machine.execStW g d a la bs off s
  | .stD g d a la bs off => Sys2Proof.Machine.execStD g d a la bs off s
  | .stQ g d a la bs off => Sys2Proof.Machine.execStQ g d a la bs off s
  | .stO g d a la bs off => Sys2Proof.Machine.execStO g d a la bs off s
  | .ldaW g u d a la bs o => Sys2Proof.Machine.execLdaW g u d a la bs o s
  | .ldaD g u d a la bs o => Sys2Proof.Machine.execLdaD g u d a la bs o s
  | .ldapW g u d a la bs o => Sys2Proof.Machine.execLdapW g u d a la bs o s
  | .stlW g d a la bs o => Sys2Proof.Machine.execStlW g d a la bs o s
  | .stlD g d a la bs o => Sys2Proof.Machine.execStlD g d a la bs o s
  | .ldcW g u d a la bs off => Sys2Proof.Machine.execLdcW g u d a la bs off s
  | .ldcD g u d a la bs off => Sys2Proof.Machine.execLdcD g u d a la bs off s
  | .ldvW g u d a la bs off => Sys2Proof.Machine.execLdvW g u d a la bs off s
  | .ldvD g u d a la bs off => Sys2Proof.Machine.execLdvD g u d a la bs off s
  | .ldvQ g u d a la bs off => Sys2Proof.Machine.execLdvQ g u d a la bs off s
  | .ldvO g u d a la bs off => Sys2Proof.Machine.execLdvO g u d a la bs off s
  | .ldsW g u d a la off => Sys2Proof.Machine.execLdsW g u d a la off s
  | .ldsD g u d a la off => Sys2Proof.Machine.execLdsD g u d a la off s
  | .ldsQ g u d a la off => Sys2Proof.Machine.execLdsQ g u d a la off s
  | .ldsO g u d a la off => Sys2Proof.Machine.execLdsO g u d a la off s
  | .stsW g d a la off => Sys2Proof.Machine.execStsW g d a la off s
  | .stsD g d a la off => Sys2Proof.Machine.execStsD g d a la off s
  | .stsQ g d a la off => Sys2Proof.Machine.execStsQ g d a la off s
  | .stsO g d a la off => Sys2Proof.Machine.execStsO g d a la off s
  | .ldfragN g u d a la off => Sys2Proof.Machine.execLdfragN g u d a la off s
  | .ldfragT8 g u d a la off => Sys2Proof.Machine.execLdfragT8 g u d a la off s
  | .ldfragT16 g u d a la off => Sys2Proof.Machine.execLdfragT16 g u d a la off s
  | .atomAdd g d a la bs off => Sys2Proof.Machine.execAtomAdd g d a la bs off s
  | .atomMinI32 g d a la bs off => Sys2Proof.Machine.execAtomMinI32 g d a la bs off s
  | .atomMaxI32 g d a la bs off => Sys2Proof.Machine.execAtomMaxI32 g d a la bs off s
  | .atomMinN32 g d a la bs off => Sys2Proof.Machine.execAtomMinN32 g d a la bs off s
  | .atomMaxN32 g d a la bs off => Sys2Proof.Machine.execAtomMaxN32 g d a la bs off s
  | .atomAnd g d a la bs off => Sys2Proof.Machine.execAtomAnd g d a la bs off s
  | .atomOr g d a la bs off => Sys2Proof.Machine.execAtomOr g d a la bs off s
  | .atomXor g d a la bs off => Sys2Proof.Machine.execAtomXor g d a la bs off s
  | .atomXchg g d a la bs off => Sys2Proof.Machine.execAtomXchg g d a la bs off s
  | .atomCas g d a la bs off => Sys2Proof.Machine.execAtomCas g d a la bs off s
  | .atomIncw g d a la bs off => Sys2Proof.Machine.execAtomIncw g d a la bs off s
  | .atomAdd64 g d a la bs off => Sys2Proof.Machine.execAtomAdd64 g d a la bs off s
  | .atomCas64 g d a la bs off => Sys2Proof.Machine.execAtomCas64 g d a la bs off s
  | .atomFadd g d a la bs off => Sys2Proof.Machine.execAtomFadd g d a la bs off s
  | .atomWrd g d a la bs off => Sys2Proof.Machine.execAtomWrd g d a la bs off s
  | .redAdd g d a la bs off => Sys2Proof.Machine.execRedAdd g d a la bs off s
  | .redFadd g d a la bs off => Sys2Proof.Machine.execRedFadd g d a la bs off s
  | .redWadd g d a la bs off => Sys2Proof.Machine.execRedWadd g d a la bs off s
  | .redMaxI32 g d a la bs off => Sys2Proof.Machine.execRedMaxI32 g d a la bs off s
  | .atomsAdd g d a la off => Sys2Proof.Machine.execAtomsAdd g d a la off s
  | .atomsCas g d a la off => Sys2Proof.Machine.execAtomsCas g d a la off s
  | .atomsMaxN32 g d a la off => Sys2Proof.Machine.execAtomsMaxN32 g d a la off s
  | .atomsXchg g d a la off => Sys2Proof.Machine.execAtomsXchg g d a la off s
  | .setb g a la bs => Sys2Proof.Machine.execSetb g a la bs s
  | .getb g d la bs => Sys2Proof.Machine.execGetb g d la bs s
  | .bra g ofs => Sys2Proof.Machine.execBra g ofs s
  | .brx g a => Sys2Proof.Machine.execBrx g a s
  | .call g d ofs => Sys2Proof.Machine.execCall g d ofs s
  | .callx g d a => Sys2Proof.Machine.execCallx g d a s
  | .ret g a => Sys2Proof.Machine.execRet g a s
  | .exit g => Sys2Proof.Machine.execExit g s
  | .setm g ofs => Sys2Proof.Machine.execSetm g ofs s
  | .setmx g a => Sys2Proof.Machine.execSetmx g a s
  | .clrm g => Sys2Proof.Machine.execClrm g s
  | .yield g c => Sys2Proof.Machine.execYield g c s
  | .nap g c => Sys2Proof.Machine.execNap g c s
  | .wake g a => Sys2Proof.Machine.execWake g a s
  | .rdv g m => Sys2Proof.Machine.execRdv g m s
  | .shflIdx g d a m n => Sys2Proof.Machine.execShflIdx g d a m n s
  | .shflXor g d a m n => Sys2Proof.Machine.execShflXor g d a m n s
  | .shflUp g d a m n => Sys2Proof.Machine.execShflUp g d a m n s
  | .shflDn g d a m n => Sys2Proof.Machine.execShflDn g d a m n s
  | .voteAll g d a m => Sys2Proof.Machine.execVoteAll g d a m s
  | .voteAny g d a m => Sys2Proof.Machine.execVoteAny g d a m s
  | .voteBal g d a m => Sys2Proof.Machine.execVoteBal g d a m s
  | .matchAny g d a m => Sys2Proof.Machine.execMatchAny g d a m s
  | .matchAll g d a m => Sys2Proof.Machine.execMatchAll g d a m s
  | .redxAddI32 g d a m => Sys2Proof.Machine.execRedxAddI32 g d a m s
  | .redxMinI32 g d a m => Sys2Proof.Machine.execRedxMinI32 g d a m s
  | .redxMaxI32 g d a m => Sys2Proof.Machine.execRedxMaxI32 g d a m s
  | .redxMinN32 g d a m => Sys2Proof.Machine.execRedxMinN32 g d a m s
  | .redxMaxN32 g d a m => Sys2Proof.Machine.execRedxMaxN32 g d a m s
  | .redxAnd g d a m => Sys2Proof.Machine.execRedxAnd g d a m s
  | .redxOr g d a m => Sys2Proof.Machine.execRedxOr g d a m s
  | .redxXor g d a m => Sys2Proof.Machine.execRedxXor g d a m s
  | .redxFadd g d a m => Sys2Proof.Machine.execRedxFadd g d a m s
  | .redxFmin g d a m => Sys2Proof.Machine.execRedxFmin g d a m s
  | .redxFmax g d a m => Sys2Proof.Machine.execRedxFmax g d a m s
  | .scanxAddI32 g d a m => Sys2Proof.Machine.execScanxAddI32 g d a m s
  | .scanxFadd g d a m => Sys2Proof.Machine.execScanxFadd g d a m s
  | .tbarSync g bar => Sys2Proof.Machine.execTbarSync g bar s
  | .tbarArv g bar => Sys2Proof.Machine.execTbarArv g bar s
  | .tbarWait g bar => Sys2Proof.Machine.execTbarWait g bar s
  | .tbarRed g d a sub bar hi => Sys2Proof.Machine.execTbarRed g d a sub bar hi s
  | .gbarSync g bar => Sys2Proof.Machine.execGbarSync g bar s
  | .gbarArv g bar => Sys2Proof.Machine.execGbarArv g bar s
  | .gbarWait g bar => Sys2Proof.Machine.execGbarWait g bar s
  | .gbarRed g d a sub bar hi => Sys2Proof.Machine.execGbarRed g d a sub bar hi s
  | .fence g sc => Sys2Proof.Machine.execFence g sc s
  | .scopeof g d a kind => Sys2Proof.Machine.execScopeof g d a kind s
  | .hwaitF g h ph => Sys2Proof.Machine.execHwaitF g h ph s
  | .hwaitE g h => Sys2Proof.Machine.execHwaitE g h s
  | .hsetFill g h => Sys2Proof.Machine.execHsetFill g h s
  | .hsetFull g h => Sys2Proof.Machine.execHsetFull g h s
  | .hsetDrain g h => Sys2Proof.Machine.execHsetDrain g h s
  | .hsetFree g h => Sys2Proof.Machine.execHsetFree g h s
  | .harm g h c => Sys2Proof.Machine.execHarm g h c s
  | .cont g h w => Sys2Proof.Machine.execCont g h w s
  | .qpush g d q => Sys2Proof.Machine.execQpush g d q s
  | .qpushD g d q => Sys2Proof.Machine.execQpushD g d q s
  | .qpop g d q => Sys2Proof.Machine.execQpop g d q s
  | .qlen g d q => Sys2Proof.Machine.execQlen g d q s
  | .qpushNb g d q p => Sys2Proof.Machine.execQpushNb g d q p s
  | .qpopNb g d q p => Sys2Proof.Machine.execQpopNb g d q p s
  | .cvjoin g a b => Sys2Proof.Machine.execCvjoin g a b s
  | .cvleave g => Sys2Proof.Machine.execCvleave g s
  | .cvsetSl g a => Sys2Proof.Machine.execCvsetSl g a s
  | .cvsetLt g a => Sys2Proof.Machine.execCvsetLt g a s
  | .mmaE4e4 g x1 x2 x3 tile sb keep la => Sys2Proof.Machine.execMmaE4e4 g x1 x2 x3 tile sb keep la s
  | .mmaE4e5 g x1 x2 x3 tile sb keep la => Sys2Proof.Machine.execMmaE4e5 g x1 x2 x3 tile sb keep la s
  | .mmaE5e4 g x1 x2 x3 tile sb keep la => Sys2Proof.Machine.execMmaE5e4 g x1 x2 x3 tile sb keep la s
  | .mmaE5e5 g x1 x2 x3 tile sb keep la => Sys2Proof.Machine.execMmaE5e5 g x1 x2 x3 tile sb keep la s
  | .mmaCb4 g x1 x2 x3 tile sb keep k la => Sys2Proof.Machine.execMmaCb4 g x1 x2 x3 tile sb keep k la s
  | .mmaBf16 g x1 x2 tile keep la => Sys2Proof.Machine.execMmaBf16 g x1 x2 tile keep la s
  | .mmaF16 g x1 x2 tile keep la => Sys2Proof.Machine.execMmaF16 g x1 x2 tile keep la s
  | .mmaI8 g x1 x2 tile keep la => Sys2Proof.Machine.execMmaI8 g x1 x2 tile keep la s
  | .mzero g tile => Sys2Proof.Machine.execMzero g tile s
  | .mload g afmt x1 x3 sb k la => Sys2Proof.Machine.execMload g afmt x1 x3 sb k la s
  | .mdrain g cvt h tile bs x2 x3 la => Sys2Proof.Machine.execMdrain g cvt h tile bs x2 x3 la s
  | .mdraina g h tile bs x2 x3 la => Sys2Proof.Machine.execMdraina g h tile bs x2 x3 la s
  | .mdrains g cvt h tile x1 x3 la => Sys2Proof.Machine.execMdrains g cvt h tile x1 x3 la s
  | .mgang g x2 => Sys2Proof.Machine.execMgang g x2 s
  | .mopf g => Sys2Proof.Machine.execMopf g s
  | .mwait g => Sys2Proof.Machine.execMwait g s
  | .mrel g => Sys2Proof.Machine.execMrel g s
  | .mcb g x2 k => Sys2Proof.Machine.execMcb g x2 k s
  | .cpyG2s g h bs x1 x2 x3 la => Sys2Proof.Machine.execCpyG2s g h bs x1 x2 x3 la s
  | .cpyG2sT8 g h bs x1 x2 x3 la => Sys2Proof.Machine.execCpyG2sT8 g h bs x1 x2 x3 la s
  | .cpyG2sT16 g h bs x1 x2 x3 la => Sys2Proof.Machine.execCpyG2sT16 g h bs x1 x2 x3 la s
  | .cpyS2g g h bs x1 x2 x3 la => Sys2Proof.Machine.execCpyS2g g h bs x1 x2 x3 la s
  | .cpyS2ga g h bs x1 x2 x3 la => Sys2Proof.Machine.execCpyS2ga g h bs x1 x2 x3 la s
  | .cpyG2g g h bs x1 x2 x3 la => Sys2Proof.Machine.execCpyG2g g h bs x1 x2 x3 la s
  | .cpyMc g h bs x1 x2 x3 cmask la => Sys2Proof.Machine.execCpyMc g h bs x1 x2 x3 cmask la s
  | .cpyS2s g h x1 x2 x3 la => Sys2Proof.Machine.execCpyS2s g h x1 x2 x3 la s
  | .cpyV2s g h bs x1 x2 x3 la => Sys2Proof.Machine.execCpyV2s g h bs x1 x2 x3 la s
  | .gtrinv g bs x2 => Sys2Proof.Machine.execGtrinv g bs x2 s
  | .nmc g bs x1 x2 la => Sys2Proof.Machine.execNmc g bs x1 x2 la s
  | .nmwait g => Sys2Proof.Machine.execNmwait g s
  | .cpywait g => Sys2Proof.Machine.execCpywait g s
  | .pghint g bs x2 x3 => Sys2Proof.Machine.execPghint g bs x2 x3 s
  | .trap g code => Sys2Proof.Machine.execTrap g code s
  | .bkpt g code => Sys2Proof.Machine.execBkpt g code s
  | .tretRetry g => Sys2Proof.Machine.execTretRetry g s
  | .tretSkip g => Sys2Proof.Machine.execTretSkip g s
  | .clock g d => Sys2Proof.Machine.execClock g d s
  | .gtime g d => Sys2Proof.Machine.execGtime g d s
  | .trace g a ch => Sys2Proof.Machine.execTrace g a ch s
  | .flags g d mask => Sys2Proof.Machine.execFlags g d mask s
  | .icinv g => Sys2Proof.Machine.execIcinv g s
  | .meetHoldTimeout t => Sys2Proof.Machine.execMeetHoldTimeout t s
  | .starvationOverride core lg => Sys2Proof.Machine.execStarvationOverride core lg s
  | .yieldExpiry t => Sys2Proof.Machine.execYieldExpiry t s
  | .breakpointHit t => Sys2Proof.Machine.execBreakpointHit t s
  | .loadReturn r => Sys2Proof.Machine.execLoadReturn r s
  | .storeQueueDrain core lg => Sys2Proof.Machine.execStoreQueueDrain core lg s
  | .straitRead r => Sys2Proof.Machine.execStraitRead r s
  | .straitWrite q => Sys2Proof.Machine.execStraitWrite q s
  | .straitReply e => Sys2Proof.Machine.execStraitReply e s
  | .atomicService q => Sys2Proof.Machine.execAtomicService q s
  | .promote r core => Sys2Proof.Machine.execPromote r core s
  | .sfuResult w => Sys2Proof.Machine.execSfuResult w s
  | .barrierArrivalCounted t bar grid => Sys2Proof.Machine.execBarrierArrivalCounted t bar grid s
  | .slewResume gr bar => Sys2Proof.Machine.execSlewResume gr bar s
  | .matrixEngineOperation core old => Sys2Proof.Machine.execMatrixEngineOperation core old s
  | .copyAccept c => Sys2Proof.Machine.execCopyAccept c s
  | .copyPartWritten c dst lo hi => Sys2Proof.Machine.execCopyPartWritten c dst lo hi s
  | .copyFinish c => Sys2Proof.Machine.execCopyFinish c s
  | .contSpawn team k lg depth lane => Sys2Proof.Machine.execContSpawn team k lg depth lane s
  | .nmcSend n => Sys2Proof.Machine.execNmcSend n s
  | .nmStep n => Sys2Proof.Machine.execNmStep n s
  | .pageWalk core page => Sys2Proof.Machine.execPageWalk core page s
  | .pageServiced page adr rot => Sys2Proof.Machine.execPageServiced page adr rot s
  | .pageRefused page => Sys2Proof.Machine.execPageRefused page s
  | .pageMigration page rot => Sys2Proof.Machine.execPageMigration page rot s
  | .tierMigration page inward adr => Sys2Proof.Machine.execTierMigration page inward adr s
  | .queuePerform q t => Sys2Proof.Machine.execQueuePerform q t s
  | .trapEntry t => Sys2Proof.Machine.execTrapEntry t s
  | .teamComplete team => Sys2Proof.Machine.execTeamComplete team s
  | .gridComplete gr => Sys2Proof.Machine.execGridComplete gr s
  | .containment w => Sys2Proof.Machine.execContainment w s
  | .scrubPass w => Sys2Proof.Machine.execScrubPass w s
  | .gridPacket q layers => Sys2Proof.Machine.execGridPacket q layers s
  | .waitPacket q => Sys2Proof.Machine.execWaitPacket q s
  | .waitPoll q => Sys2Proof.Machine.execWaitPoll q s
  | .kickPacket q => Sys2Proof.Machine.execKickPacket q s
  | .teamAdmission gr team cores => Sys2Proof.Machine.execTeamAdmission gr team cores s
  | .reserving gr team layer => Sys2Proof.Machine.execReserving gr team layer s
  | .preemption gr team victim => Sys2Proof.Machine.execPreemption gr team victim s
  | .restore gr team cores => Sys2Proof.Machine.execRestore gr team cores s
  | .stealRequest part thief => Sys2Proof.Machine.execStealRequest part thief s
  | .classify gr => Sys2Proof.Machine.execClassify gr s
  | .thermalMove part team cores => Sys2Proof.Machine.execThermalMove part team cores s
  | .powerControl layer watts temp => Sys2Proof.Machine.execPowerControl layer watts temp s
  | .operatingPointChange reg => Sys2Proof.Machine.execOperatingPointChange reg s
  | .convoyLapse c => Sys2Proof.Machine.execConvoyLapse c s
  | .graphReplayStart k => Sys2Proof.Machine.execGraphReplayStart k s
  | .graphNodeFinish r n => Sys2Proof.Machine.execGraphNodeFinish r n s
  | .kick part val wide => Sys2Proof.Machine.execKick part val wide s
  | .kstatWrite part val => Sys2Proof.Machine.execKstatWrite part val s
  | .partWrite n val => Sys2Proof.Machine.execPartWrite n val s
  | .regselWrite val => Sys2Proof.Machine.execRegselWrite val s
  | .lbudgetWrite n val => Sys2Proof.Machine.execLbudgetWrite n val s
  | .deverrWrite val => Sys2Proof.Machine.execDeverrWrite val s
  | .registerWrite dvsec off val => Sys2Proof.Machine.execRegisterWrite dvsec off val s
  | .moduleReset => Sys2Proof.Machine.execModuleReset s
  | .go inp => Sys2Proof.Machine.execGo inp s
  | .attgo => Sys2Proof.Machine.execAttgo s
  | .attestationReportDone => Sys2Proof.Machine.execAttestationReportDone s
  | .hostQueuePush q line => Sys2Proof.Machine.execHostQueuePush q line s
  | .hostQueuePop q => Sys2Proof.Machine.execHostQueuePop q s
  | .hostQueueStatus q => Sys2Proof.Machine.execHostQueueStatus q s
  | .hostMemAccess acc => Sys2Proof.Machine.execHostMemAccess acc s
  | .bufinv q => Sys2Proof.Machine.execBufinv q s
  | .xlatinv q => Sys2Proof.Machine.execXlatinv q s
  | .ownrec q => Sys2Proof.Machine.execOwnrec q s
  | .qdesc q => Sys2Proof.Machine.execQdesc q s
  | .cadload q => Sys2Proof.Machine.execCadload q s
  | .cadswitch q => Sys2Proof.Machine.execCadswitch q s
  | .caddrop q => Sys2Proof.Machine.execCaddrop q s
  | .fmreload q => Sys2Proof.Machine.execFmreload q s
  | .fmreply q => Sys2Proof.Machine.execFmreply q s
  | .manageUnknown q => Sys2Proof.Machine.execManageUnknown q s
  | .fmTimeout fn seqNo => Sys2Proof.Machine.execFmTimeout fn seqNo s
  | .debugConfigWrite part line ws => Sys2Proof.Machine.execDebugConfigWrite part line ws s
  | .debugStop part name mode => Sys2Proof.Machine.execDebugStop part name mode s
  | .debugResume part => Sys2Proof.Machine.execDebugResume part s
  | .debugStep part name => Sys2Proof.Machine.execDebugStep part name s
  | .pcntClear part => Sys2Proof.Machine.execPcntClear part s
  | .sample part core => Sys2Proof.Machine.execSample part core s
  | .linkRequest rq => Sys2Proof.Machine.execLinkRequest rq s
  | .linkTimeout w => Sys2Proof.Machine.execLinkTimeout w s
  | .gateAcknowledgement q level => Sys2Proof.Machine.execGateAcknowledgement q level s

end Sys2Proof.Machine
end

