-- ==== Sys2Proof/Machine/Run.lean ====
section
/-! DEFINITION. What a step of the package does: the next thread of a fused set issues (R28, R32), the next entry of the schedule
happens, or, with an empty schedule, the first thing that can. -/

namespace Sys2Proof.Machine

noncomputable section

/-! ### The uniform bit (R31, R32) -/

/-- The buffer slot that a load with U reads. -/
def uSlot : Instr → Option (BitVec 3)
  | .ldN8 _ _ _ _ _ b _ => some b
  | .ldI8 _ _ _ _ _ b _ => some b
  | .ldN16 _ _ _ _ _ b _ => some b
  | .ldI16 _ _ _ _ _ b _ => some b
  | .ldW _ _ _ _ _ b _ => some b
  | .ldD _ _ _ _ _ b _ => some b
  | .ldQ _ _ _ _ _ b _ => some b
  | .ldO _ _ _ _ _ b _ => some b
  | .ldaW _ _ _ _ _ b _ => some b
  | .ldaD _ _ _ _ _ b _ => some b
  | .ldapW _ _ _ _ _ b _ => some b
  | .ldcW _ _ _ _ _ b _ => some b
  | .ldcD _ _ _ _ _ b _ => some b
  | .ldvW _ _ _ _ _ b _ => some b
  | .ldvD _ _ _ _ _ b _ => some b
  | .ldvQ _ _ _ _ _ b _ => some b
  | .ldvO _ _ _ _ _ b _ => some b
  | _ => none

/-- The special register that an instruction with U reads. -/
def uSpecial : Instr → Option (BitVec 14)
  | .movs _ _ _ n => some n
  | _ => none

/-- Whether an SFU instruction is governed by RMODE, by its opcode (R60, R140): conversions to F32 from integers, to integers and to
narrow formats, and the packing forms. -/
def rmodeGoverns (i : Instr) : Bool :=
  classOf i == some 5 && [0x00, 0x01, 0x02, 0x03, 0x04, 0x05, 0x06, 0x07, 0x0E, 0x0F, 0x12, 0x13, 0x27].contains (opOf i)

/-- The predicates that an instruction reads: its operands, and the selector of SEL (R89, R111). -/
def uPreds (t : Thread) (i : Instr) : List Nat :=
  ((uses i).preads.flatMap fun x => (List.range x.2).map fun j => boolNat (rdP t (x.1 + j))) ++
    (if classOf i == some 0 && opOf i == 0x2B then [boolNat (guardPasses t (guardOf i))] else [])

/-- The operands that R32 compares: source registers, predicates, buffer slot, special register, and RMODE where it governs. -/
def uOperands (s : State) (t : Thread) (i : Instr) : List Nat :=
  ((uses i).reads.flatMap fun x => (rdMany t x.first x.count).map (·.toNat)) ++ uPreds t i ++
    ((uSlot i).map fun b => (rdB t b.toNat).toNat).toList ++ ((uSpecial i).map fun n => (specialValue s t n.toNat).toNat).toList ++
    (if rmodeGoverns i then [t.rmode] else [])

/-- Whether a member takes part in a fused set under U: one that is not guarded off; SEL never is (R89). -/
def uTakesPart (t : Thread) (i : Instr) : Bool := guardPasses t (guardOf i) || actsUnguarded ((classOf i).getD 0) (opOf i)

/-- What U makes of a member: the leader notes its operands, a member that differs is split off and stays as it was, and every
other one goes on (R32). A guarded-off member takes no part. -/
def uniform (s0 s : State) (i : Instr) (go : State → Out) : Out :=
  match getThread s s.cur with
  | none => go s
  | some t =>
    if !uBit i || !uTakesPart t i || windowClosed t then go s
    else
      let mine := uOperands s t i
      match s.ulead with
      | none => go { s with ulead := some mine }
      | some l => if l == mine then go s else .next (countGrid s0 t.grid 2 1)

/-! ### Issue -/

/-- What is counted once a thread has issued in this clock: an instruction, the lane group's clock with the first of them (R391), and the classifier's measure (R360); a stepped
thread's instruction has begun (R388). -/
def countIssue (s r : State) (k : Nat) : State :=
  match getThread s k, getThread r k with
  | some t, some u =>
    if u.lastIssue == s.clock + 1 && t.lastIssue != s.clock + 1 then
      let first := !(s.threads.any fun x => x.core == t.core && x.lg == t.lg && x.lastIssue == s.clock + 1)
      let r := countGrid (if u.stepping == 1 then putThread r { u with stepping := 2 } else r) t.grid 1 (boolNat first)
      measure (countGrid r t.grid 0 1) t.grid t.team 0 1
    else r
  | _, _ => r

/-- A thread at a breakpoint hits it, but for one whose instruction, tried, waits: it is WAITING, and not about to issue (R386). -/
def hitUnlessWaits (s : State) (k : Nat) (tried : Option Out) : Out :=
  match tried with
  | some (.next r) => if r.stall then .next r else exec (.breakpointHit k) s
  | _ => exec (.breakpointHit k) s

/-- The instruction of one member of the fused set (R28). -/
def stepThread (s : State) (k : Nat) : Out :=
  match prepare s k with
  | .done o => o
  | .brk s' t i => hitUnlessWaits s' t (i.map fun i => exec i s')
  | .run s' i =>
    uniform s s' i fun s1 => match exec i s1 with
      | .next r => .next (countIssue s r k)
      | o => o

/-- Whether a thread is READY: its next instruction, tried, does not wait (R16). -/
def canIssue (s : State) (t : Thread) : Bool :=
  readyState s t && match stepThread { s with stall := false, ulead := none, ureq := none } t.key with
    | .next r => !r.stall
    | _ => true

/-- The READY threads of a lane group. -/
def readyIn (s : State) (core lg : Nat) : List Thread := (laneGroup s core lg).filter (canIssue s)

/-- The machine with the slack of a core in this clock, its number of READY threads when the first of its lane groups issues (R275). -/
def withSlack (s : State) (core : Nat) : State :=
  if (assoc s.slacks core).isSome then s
  else { s with slacks := s.slacks ++ [(core, ((s.threads.filter fun t => t.core == core).filter (canIssue s)).length)] }

/-- A lane group's pick (R26, R27). -/
def pickNow (s : State) (core lg : Nat) : State := takePick (withSlack s core) core lg (readyIn s core lg)

/-! ### Debug steps (R388) -/

/-- A stepped thread after a step of the machine: its instruction has issued; it has ended, and the thread stops again with a
record of that instruction's offset; or a fault has ended it. -/
def settleStepped (s : State) (t : Thread) : State :=
  let stopped (cause pc : Nat) : State := stopBy (putThread s { t with stepping := 0 }) t { cause := cause, mode := 0, pc := pc }
  match t.st with
  | .trapping f => stopped f.code.num f.tpc
  | .exited => putThread s { t with stepping := 0 }
  | .ended => putThread s { t with stepping := 0 }
  | .parked _ _ => putThread s { t with stepping := 1 }
  | .ready => if t.stepping == 2 && t.stopAsk.join.isNone then stopped 0 t.issuePc else s
  | _ => s

/-- The threads that a debugger steps, after a step of the machine. -/
def settleSteps (s : State) : State := (s.threads.filter fun t => t.stepping != 0).foldl settleStepped s

/-- What follows every step: the values that it has overwritten are noted for the matrix engines (R234), and stepped threads and stops
settle. -/
def settled (s : State) (o : Out) : Out :=
  match o with
  | .next r => .next (settleStops (settleSteps (noteWrites s r)))
  | o => o

/-! ### The schedule -/

/-- A BLOCKED thread looks again at what it waits for (R16), unless its team is being saved (R414). -/
def retryThread (s : State) (k : Nat) : Out :=
  need (getThread s k) fun t =>
    match t.st with
    | .blocked (.poll i) => whenOk (!isSaving s t) (exec i { s with cur := k })
    | _ => stuck

/-- One thread's part in its lane group's turn: it issues, or, BLOCKED, looks again. -/
def stepMember (s : State) (k : Nat) : Out :=
  match (getThread s k).map Thread.st with
  | some (.blocked (.poll _)) => retryThread s k
  | _ => stepThread s k

/-- A BLOCKED thread whose wait is over. -/
def waitOver (s : State) (t : Thread) : Bool :=
  match t.st with
  | .blocked (.poll _) => match retryThread s t.key with
    | .next r => (getThread r t.key).map (·.st) != some t.st
    | _ => false
  | _ => false

/-- The first lane group whose turn is to come in this clock and that holds a READY thread (R26). -/
def pendingPick (s : State) : Option (Nat × Nat) :=
  firstGroup ((laneGroups s).filter fun l => turnOk s l && !(readyIn s l.1 l.2).isEmpty)

/-! ### The order within a clock

A clock has phases: 0 writes that clear KSTAT, 1 kicks (R284), 2 the other device steps, parts written and finishes among them, 3
acceptances of copies (R323), timeouts (R338) and the delivery of faults, which a containment of the same clock comes before (R417), 4 the lane groups' turns by core and lane group (R292, R323), 5 what leaves the cores,
and accesses that reach a scratchpad bank (R292), 6 the end: lapses (R372), switches of caddies (R330) and samples (R385); and then the changes of the
convoys (R325). A step whose phase has passed waits for the next clock. -/

/-- The phase of a device step. -/
def phaseOf (s : State) : Instr → Nat
  | .kstatWrite _ _ => 0
  | .kick _ _ _ => 1
  | .registerWrite false off _ => if off < 0x10000 || 0x20000 ≤ off then 2 else if off % 0x1000 == 8 then 0 else if off % 0x1000 < 8 then 1 else 2
  | .copyAccept _ => 3
  | .fmTimeout _ _ => 3
  | .trapEntry _ => 3
  | .starvationOverride _ _ => 4
  | .loadReturn r => if (s.mem.reqs.find? fun x => x.id == r).any fun x => x.atBank.isSome then 5 else 2
  | .storeQueueDrain _ _ => 5
  | .convoyLapse _ => 6
  | .cadswitch _ => 6
  | .sample _ _ => 6
  | _ => 2

/-- The READY threads of a core. -/
def readyOfCore (s : State) (core : Nat) : List Nat := ((s.threads.filter fun t => t.core == core).filter (canIssue s)).map (·.key)

/-- The READY threads that a device step needs to know: those of the core that it samples (R385), or whose copy sends requests (R275). -/
def readyFor (s : State) : Instr → List Nat
  | .sample _ core => readyOfCore s core
  | .copyPartWritten id _ _ _ => ((s.eng.copies.find? fun c => c.id == id).map fun c => readyOfCore s c.core).getD []
  | _ => s.ready

/-- A device step tried in its phase. -/
def atPhase (s : State) (i : Instr) : Out :=
  whenOk (decide (s.phase ≤ phaseOf s i)) (exec i { s with phase := phaseOf s i, ready := readyFor s i })

/-- A device step that can happen now. -/
def canHappen (s : State) (i : Instr) : Bool :=
  match atPhase s i with
  | .next _ => true
  | _ => false

/-- A device step that this clock may not leave undone. -/
def pendingDue (s : State) : Option Instr := (dueSteps s).find? (canHappen s)

/-- A device step that this clock may not leave undone, and whose phase comes before one. -/
def dueBefore (s : State) (n : Nat) : Bool := (dueSteps s).any fun i => decide (phaseOf s i < n) && canHappen s i

/-- A phase may begin: what is due in earlier phases is done, and no turn of a lane group with READY threads is passed over (R26). -/
def phaseFree (s : State) (n : Nat) : Bool := !dueBefore s n && (decide (n ≤ 4) || (pendingPick s).isNone)

/-- A lane group's turn may be taken: it is still to come, and so is none of an earlier lane group with READY threads (R26, R29). -/
def turnFree (s : State) (l : Nat × Nat) : Bool := turnOk s l && phaseFree s 4 && (pendingPick s).all fun p => !pairLess p l

/-- A device step in its phase, once that may begin. -/
def stepDevice (s : State) (i : Instr) : Out := whenOk (phaseFree s (phaseOf s i)) (atPhase s i)

/-- A device step that can happen now, in a phase that may begin. -/
def mayStep (s : State) (i : Instr) : Bool := canHappen s i && phaseFree s (phaseOf s i)

/-- A clock passes once every lane group with a READY thread has issued and nothing is due (R26, R441). -/
def stepTick (s : State) : Out :=
  if (pendingPick s).isSome || (pendingDue s).isSome then stuck else .next (tickClock s)

/-- A device step that the schedule names; an override needs a starved thread that is READY (R26). A breakpoint is hit in a turn only. -/
def stepEvent (s : State) (i : Instr) : Out :=
  match i with
  | .starvationOverride core lg => whenOk (turnFree s (core, lg)) (exec i { withSlack s core with ready := (readyIn s core lg).map (·.key) })
  | .breakpointHit _ => stuck
  | i => if (classOf i).isNone then stepDevice s i else stuck

/-- One entry of the schedule. -/
def stepSched (s : State) : Sched → Out
  | .pick core lg => whenOk (turnFree s (core, lg)) (.next (pickNow s core lg))
  | .retry k => need (getThread s k) fun t => whenOk (turnOk s (t.core, t.lg)) (.next { s with looks := s.looks ++ [k] })
  | .tick => stepTick s
  | .event i => stepEvent s i
  | .boot => bootStep s
  | .readReg dvsec off => readRegister s dvsec off
  | .splitOp q n hi => .next (splitOp s q n hi)
  | .splitReq r n => .next (splitReq s r n)
  | e => .next (evict s e)

/-- With an empty schedule, the next turn: the BLOCKED threads of the lane group whose wait is over look again in it. -/
def autoTurn (s : State) : Option State :=
  let ended := s.threads.filter (waitOver s)
  let group := firstGroup ((laneGroups s).filter fun l =>
    turnOk s l && (!(readyIn s l.1 l.2).isEmpty || ended.any fun t => (t.core, t.lg) == l))
  group.map fun l => pickNow { s with looks := ended.map (·.key) } l.1 l.2

/-- A device step that may be taken early, a turn, a device step that may be taken late, or a clock: the first that there is. -/
def firstOf (s : State) (early : Option Instr) (turn : Option State) (late : Option Instr) : Out :=
  match early with
  | some i => stepDevice s i
  | none =>
    match turn with
    | some r => .next r
    | none =>
      match late with
      | some i => stepDevice s i
      | none => .next (tickClock s)

/-- The first device step of a list that may be taken and that meets a test. -/
def firstStep (s : State) (p : Nat → Bool) (steps : List Instr) : Option Instr := steps.find? fun i => p (phaseOf s i) && mayStep s i

/-- With an empty schedule: the next step of a bring-up under way (R422), the first device step that can happen before the lane groups'
turns, the next turn, the first device step that can happen after them, or a clock. -/
def stepAuto (s : State) : Out :=
  let steps := dueSteps s ++ candidates s
  if booting s && s.regs.bootIn.isSome then bootStep s
  else firstOf s (firstStep s (fun n => decide (n < 4)) steps) (autoTurn s) (firstStep s (fun _ => true) steps)

/-- A step that has no transition here is passed over: nothing happens. -/
def passOver (s : State) (o : Out) : Out :=
  match o with
  | .fault .notEnabled => .next s
  | o => o

/-- One step of the machine. -/
def runStep (s : State) : Out :=
  let s := { s with stall := false }
  settled s <|
    match s.fused with
    | k :: ks => passOver { s with fused := ks } (stepMember { s with fused := ks } k)
    | [] =>
      match s.sched with
      | [] => stepAuto s
      | a :: as => passOver { s with sched := as } (stepSched { s with sched := as } a)

/-- A word of the table of operations placed where the machine fetches next: as the only instruction of a clause of its class,
in a grid of one thread whose code is that clause. -/
def placeWord (s : State) (nbits w : Nat) : State :=
  let v := w % 2 ^ nbits
  let cls := (tableClass nbits w).getD 0
  placeCode s (kindFor cls) (clauseImage cls v)

end

end Sys2Proof.Machine
end

