-- ==== Sys2Proof/Machine/Step.lean ====
section
/-! DEFINITION. One step of the package, and the placing of an instruction where it fetches next. -/

namespace Sys2Proof.Machine

/-- One step of the machine: the next thread of a fused set issues; or the next entry of the schedule happens; or, with an empty
schedule, the first thing that can. -/
noncomputable def step (s : State) : Host.Outcome State Fault Refusal := runStep s

/-- The machine with an instruction of the table of operations where step fetches its next one. It stands for a launch
(notes/assumptions/3.md). -/
noncomputable def State.withFetchWord (s : State) (nbits w : Nat) : State := placeWord s nbits w

end Sys2Proof.Machine
end

