-- ==== Sys2Proof/Safety.lean ====
section
/-! DEFINITION. The words in which statements about the package are put: when an instruction issues, what it leaves as it was, and
the registers of a partition as the device keeps them. -/

namespace Sys2Proof.Safety

open Sys2Proof.Machine

/-! ### Issue -/

/-- The current thread is t, READY, and its instruction i passes the checks of R90 steps 1 to 6 and the waits of R100. -/
def Issues (i : Instr) (s : State) (t : Thread) : Prop :=
  getThread s s.cur = some t ∧ t.st = .ready ∧ issueCheck i t = .ok

/-- The outcome is a next state in which the thread k is u and P holds of the state. -/
def Next (o : Out) (k : Nat) (u : Thread) (P : State → Prop) : Prop := ∃ r, o = .next r ∧ getThread r k = some u ∧ P r

/-! ### What an instruction leaves as it was -/

/-- A byte of a team core's scratchpad at its physical offset; 0 where the team is not resident. -/
def scratchByte (s : State) (team tc a : Nat) : Byte :=
  match getTeam s team with
  | some tm => cellGet (tm.scratch.getD tc []) a
  | none => 0

/-- Every byte of memory reads as before: at home, in the table region, in other packages, at the host, in every scratchpad. -/
structure MemoryKept (s r : State) : Prop where
  home : ∀ a, cellGet r.mem.hbm a = cellGet s.mem.hbm a
  tables : ∀ a, cellGet r.mem.tbl a = cellGet s.mem.tbl a
  pods : ∀ p a, cellGet ((assoc r.mem.pods p).getD []) a = cellGet ((assoc s.mem.pods p).getD []) a
  host : ∀ a, cellGet r.mem.hostMem a = cellGet s.mem.hostMem a
  scratch : ∀ k tc a, scratchByte r k tc a = scratchByte s k tc a

/-- Every thread but the current one is as before. -/
def OthersKept (s r : State) : Prop := ∀ k, k ≠ s.cur → getThread r k = getThread s k

/-- Every general register and taint bit outside a list of spans is as before. -/
def GeneralKept (ws : List Span) (t u : Thread) : Prop :=
  ∀ n, (∀ w ∈ ws, n < w.first ∨ w.first + w.count ≤ n) → rdV u n = rdV t n ∧ rdTaint u n = rdTaint t n

/-- Every predicate outside a list of runs is as before. -/
def PredsKept (ps : List (Nat × Nat)) (t u : Thread) : Prop :=
  ∀ n, n < 128 → (∀ p ∈ ps, n < p.1 ∨ p.1 + p.2 ≤ n) → rdP u n = rdP t n

/-- The trap registers and the handler state are as before (R272). -/
def TrapKept (t u : Thread) : Prop :=
  u.tcause = t.tcause ∧ u.tpc = t.tpc ∧ u.taddrl = t.taddrl ∧ u.taddrh = t.taddrh ∧ u.tmask = t.tmask ∧ u.tvec = t.tvec ∧
    u.inHandler = t.inHandler

/-- The special registers that only MOVSW, SETM and their like write are as before. -/
def SpecialsKept (t u : Thread) : Prop :=
  u.meet = t.meet ∧ u.mhb = t.mhb ∧ u.rmode = t.rmode ∧ u.mgang = t.mgang ∧ u.gangCount = t.gangCount ∧ u.cv = t.cv ∧
    u.cvmrg = t.cvmrg ∧ u.cvsolo = t.cvsolo

/-- Every register of a thread is as before, but for its PC: general registers, taint, predicates, slots, FLAGS, special and trap
registers. Over an issued instruction t is `counted`: FLAGS then takes in the flags of SFU results whose windows have ended (R135). -/
structure RegistersKept (t u : Thread) : Prop where
  v : u.v = t.v
  vt : u.vt = t.vt
  p : u.p = t.p
  b : u.b = t.b
  bt : u.bt = t.bt
  flags : u.flags = t.flags
  special : SpecialsKept t u
  trap : TrapKept t u

/-! ### F32 patterns (R48, R52) -/

/-- The magnitude bits of a pattern. -/
def f32Mag (x : Word) : Nat := x.toNat % 2 ^ 31
/-- A NaN. -/
def f32Nan (x : Word) : Bool := decide (0x7F800000 < f32Mag x)
/-- A signalling NaN. -/
def f32Snan (x : Word) : Bool := f32Nan x && !x.getLsbD 22
/-- Neither a NaN nor an infinity. -/
def f32Finite (x : Word) : Bool := decide (f32Mag x < 0x7F800000)
/-- The value of a finite pattern. -/
def f32Value (x : Word) : ℚ :=
  let e : Nat := f32Mag x / 2 ^ 23
  let f : Nat := f32Mag x % 2 ^ 23
  let scale : Nat := if e = 0 then f else (2 ^ 23 + f) * 2 ^ (e - 1)
  (if x.msb then -1 else 1) * (scale : ℚ) / 2 ^ 149
/-- Patterns in the order of R53: −0 below +0. Only for patterns that are no NaN. -/
def f32Order (x : Word) : Int := if x.msb then -1 - (f32Mag x : Int) else (f32Mag x : Int)
/-- y is the F32 pattern that round to nearest, ties to even, gives an exact value z (R52): the nearest finite value, the even one of two
equally near; an infinity of z's sign from the midpoint beyond the largest value on. The sign of a zero is not said here. -/
def f32Rounds (z : ℚ) (y : Word) : Prop :=
  if |z| < 2 ^ 128 - 2 ^ 103 then
    f32Finite y = true ∧ (∀ w, f32Finite w = true → |f32Value y - z| ≤ |f32Value w - z|) ∧
      ∀ w, f32Finite w = true → f32Value w ≠ f32Value y → |f32Value w - z| = |f32Value y - z| → y.getLsbD 0 = false
  else y = if z < 0 then 0xFF800000 else 0x7F800000

/-- A zero, and an infinity. -/
def f32Zero (x : Word) : Bool := f32Mag x == 0

@[inherit_doc f32Zero] def f32Inf (x : Word) : Bool := f32Mag x == 0x7F800000

/-- An F32 pattern of a sign and a magnitude pattern. -/
def f32Signed (neg : Bool) (n : Nat) : Word := BitVec.ofNat 32 ((if neg then 2 ^ 31 else 0) + n)

/-- The flags of a result y that round to nearest gives an exact value z (R55): OVFL from the midpoint beyond the largest value on, INEX
where the result differs, UNDF where it does and z, rounded as if exponents had no bound, lies below the least normal value. -/
def f32Flags (z : ℚ) (y : Word) : Nat :=
  if 2 ^ 128 - 2 ^ 103 ≤ |z| then fINEX ||| fOVFL
  else if f32Value y = z then 0
  else if |z| < 1 / 2 ^ 126 - 1 / 2 ^ 151 then fINEX ||| fUNDF
  else fINEX

/-- y and fl are the value and flags of an exact value z rounded to nearest, where `neg` is its sign (R52, R55). -/
def f32Delivers (z : ℚ) (neg : Bool) (y : Word) (fl : Nat) : Prop := f32Rounds z y ∧ y.msb = neg ∧ fl = f32Flags z y

/-! ### Formats and RMODE (R47, R59 to R62) -/

/-- A floating-point format by its field widths, the pattern of its largest finite magnitude, its canonical NaN, and whether it has
infinities; the pattern after the largest is then infinity. -/
structure Layout where
  eb : Nat
  fb : Nat
  top : Nat
  nan : Nat
  hasInf : Bool

/-- The five formats of R47 Table 1. -/
def Layout.f32 : Layout := ⟨8, 23, 0x7F7FFFFF, 0x7FC00000, true⟩
@[inherit_doc Layout.f32] def Layout.f16 : Layout := ⟨5, 10, 0x7BFF, 0x7E00, true⟩
@[inherit_doc Layout.f32] def Layout.bf16 : Layout := ⟨8, 7, 0x7F7F, 0x7FC0, true⟩
@[inherit_doc Layout.f32] def Layout.e4m3 : Layout := ⟨4, 3, 0x7E, 0x7F, false⟩
@[inherit_doc Layout.f32] def Layout.e5m2 : Layout := ⟨5, 2, 0x7B, 0x7E, true⟩

/-- The value of a magnitude pattern n. Of the pattern after the largest it is the next value that an unbounded exponent would have. -/
def Layout.value (l : Layout) (n : Nat) : ℚ :=
  let e : Nat := n / 2 ^ l.fb
  let f : Nat := n % 2 ^ l.fb
  let units : Nat := if e = 0 then f else (2 ^ l.fb + f) * 2 ^ (e - 1)
  (units : ℚ) / 2 ^ (2 ^ (l.eb - 1) - 2 + l.fb)

/-- A pattern of a sign and a magnitude pattern. -/
def Layout.signed (l : Layout) (neg : Bool) (n : Nat) : Nat := (if neg then 2 ^ (l.eb + l.fb) else 0) + n

/-- Whether a mode of RMODE takes a magnitude of a sign away from zero (true) or toward it (false); none rounds to nearest (R59). -/
def awayMode (mode : Nat) (neg : Bool) : Option Bool :=
  match mode with
  | 1 => some false
  | 2 => some !neg
  | 3 => some neg
  | _ => none

/-- n is the pattern that a mode gives the magnitude z: one of the two that enclose it, the even one of two equally near unless the
mode takes ties away; the pattern after the largest stands for every magnitude that leaves the format. -/
def Layout.picks (l : Layout) (mode : Nat) (neg : Bool) (z : ℚ) (n : Nat) : Prop :=
  if l.value (l.top + 1) ≤ z then n = l.top + 1
  else ∃ lo, lo ≤ l.top ∧ l.value lo ≤ z ∧ z < l.value (lo + 1) ∧
    let mid := (l.value lo + l.value (lo + 1)) / 2
    if l.value lo = z then n = lo
    else match awayMode mode neg with
      | some up => n = if up then lo + 1 else lo
      | none => n = if mid < z ∨ (mid = z ∧ (mode = 4 ∨ lo % 2 = 1)) then lo + 1 else lo

/-- Whether a nonzero magnitude, rounded by a mode as if exponents had no bound, lies below the least normal value (R55). -/
def Layout.tiny (l : Layout) (mode : Nat) (neg : Bool) (z : ℚ) : Bool :=
  let least := l.value (2 ^ l.fb)
  let unit := l.value 1
  match awayMode mode neg with
  | some false => decide (z < least)
  | some true => decide (z ≤ least - unit / 2)
  | none => decide (z < least - unit / 4)

/-- r and fl are the pattern and the flags of a finite magnitude z of a sign under an RMODE value (R55, R61, R62): SAT clamps an overflow to
the largest value. -/
def Layout.rounds (l : Layout) (rmode : Nat) (neg : Bool) (z : ℚ) (r fl : Nat) : Prop :=
  ∃ n, l.picks (rmode % 8) neg z n ∧
    if n ≤ l.top then
      r = l.signed neg n ∧ fl = if l.value n = z then 0 else if l.tiny (rmode % 8) neg z then fINEX ||| fUNDF else fINEX
    else if rmode / 8 % 2 = 1 then r = l.signed neg l.top ∧ fl = fINEX ||| fSATD
    else fl = fINEX ||| fOVFL ∧
      r = if awayMode (rmode % 8) neg = some false then l.signed neg l.top else if l.hasInf then l.signed neg (l.top + 1) else l.nan

/-- r and fl are what an F32 pattern gives in a format under an RMODE value (R61). -/
def Layout.converts (l : Layout) (rmode : Nat) (x : Word) (r fl : Nat) : Prop :=
  if f32Nan x then r = l.nan ∧ fl = (if f32Snan x then fINVL else 0)
  else if f32Inf x then
    if rmode / 8 % 2 = 1 then r = l.signed x.msb l.top ∧ fl = fSATD
    else if l.hasInf then r = l.signed x.msb (l.top + 1) ∧ fl = 0
    else r = l.nan ∧ fl = fINVL
  else l.rounds rmode x.msb |f32Value x| r fl

/-- y and fl are the F32 pattern and the flags that a pattern n of a format gives: its value exactly (R60, R143). -/
def Layout.widens (l : Layout) (n : Nat) (y : Word) (fl : Nat) : Prop :=
  let mag := n % 2 ^ (l.eb + l.fb)
  let neg : Bool := decide (n / 2 ^ (l.eb + l.fb) % 2 = 1)
  if l.top + (if l.hasInf then 1 else 0) < mag then
    y = 0x7FC00000 ∧ fl = if l.hasInf = true ∧ mag / 2 ^ (l.fb - 1) % 2 = 0 then fINVL else 0
  else if mag = l.top + 1 then y = f32Signed neg 0x7F800000 ∧ fl = 0
  else f32Finite y = true ∧ y.msb = neg ∧ |f32Value y| = l.value mag ∧ fl = 0

/-- i is the integer that a mode of RMODE gives q (R59, R62). -/
def intRounds (mode : Nat) (q : ℚ) (i : ℤ) : Prop :=
  match awayMode mode (decide (q < 0)) with
  | some up => i = if up = decide (q < 0) then ⌊q⌋ else ⌈q⌉
  | none => |q - i| ≤ 1 / 2 ∧ (|q - i| = 1 / 2 → if mode = 4 then |q| < |(i : ℚ)| else i % 2 = 0)

/-- i and fl are what an F32 pattern gives in the integer range from lo to hi under an RMODE value (R62). -/
def intConverts (lo hi : ℤ) (rmode : Nat) (x : Word) (i : ℤ) (fl : Nat) : Prop :=
  if f32Nan x then i = 0 ∧ fl = fINVL
  else if f32Inf x then i = (if x.msb then lo else hi) ∧ fl = fINVL
  else ∃ n, intRounds (rmode % 8) (f32Value x) n ∧ i = max lo (min hi n) ∧
    fl = if n < lo ∨ hi < n then fINVL else if (n : ℚ) = f32Value x then 0 else fINEX

/-! ### Codebooks (R57, R58) -/

/-- c is the least code that a property holds of. -/
def LeastCode (p : Nat → Prop) (c : Nat) : Prop := c < 16 ∧ p c ∧ ∀ k, k < c → ¬ p k

/-- A pattern that is no NaN on the extended line, with its infinities beyond every finite value. -/
def f32Line (x : Word) : ℚ := if f32Finite x then f32Value x else if x.msb then -2 ^ 129 else 2 ^ 129

/-- c and fl are the code and the flags that the nearest-entry rule gives an F32 pattern x on sixteen entries, each the F32 pattern of a
BF16 one (R58). -/
def nearestCode (ent : Nat → Word) (x : Word) (c fl : Nat) : Prop :=
  let fin (k : Nat) : Prop := f32Finite (ent k) = true
  if f32Nan x || (List.range 16).all fun k => f32Nan (ent k) then c = 0 ∧ fl = fINVL
  else if f32Finite x then
    ((∃ k, k < 16 ∧ fin k) →
      LeastCode (fun k => fin k ∧ ∀ j, j < 16 → fin j → |f32Value (ent k) - f32Value x| ≤ |f32Value (ent j) - f32Value x|) c ∧
        fl = if f32Value (ent c) = f32Value x then 0 else fINEX) ∧
    ((∀ k, k < 16 → ¬ fin k) → fl = fINEX ∧
      ((∃ k, k < 16 ∧ ent k = f32Signed x.msb 0x7F800000) → LeastCode (fun k => ent k = f32Signed x.msb 0x7F800000) c) ∧
      ((∀ k, k < 16 → ent k ≠ f32Signed x.msb 0x7F800000) → LeastCode (fun k => ent k = f32Signed (!x.msb) 0x7F800000) c))
  else
    ((∃ k, k < 16 ∧ ent k = x) → LeastCode (fun k => ent k = x) c ∧ fl = 0) ∧
    ((∀ k, k < 16 → ent k ≠ x) → fl = fINEX ∧
      LeastCode (fun k => f32Nan (ent k) = false ∧ ∀ j, j < 16 → f32Nan (ent j) = false →
        if x.msb then f32Line (ent k) ≤ f32Line (ent j) else f32Line (ent j) ≤ f32Line (ent k)) c)

/-! ### Wide values (R68) -/

/-- V of ten words, a signed number of 320 bits. -/
def wideInt (ws : List Word) : ℤ :=
  let n := natOfWords (ws.take 10)
  if n < 2 ^ 319 then n else (n : ℤ) - 2 ^ 320

/-! ### Management commands (R314) -/

/-- The enabled MANAGE queue x holds the command e at its head, all its entries are on chip, and nothing holds the table unit back: no
command of it has been taken, no thread's operation on it is in progress and it waits for no ring page. -/
structure AtHead (s : State) (q : Nat) (x : HwQueue) (e : QEntry) (es : List QEntry) : Prop where
  found : queueFor s q = some x
  named : x.q = q
  kind : x.kind = 2
  running : x.stopped = none
  untaken : x.mark = none
  free : ringHeld s q = false
  noRing : x.tail = x.head ∧ x.head < 2 ^ 32
  first : x.fifo = e :: es
  size : e.words.length = 8

/-! ### Partitions (R279) -/

/-- The layers of a partition word. -/
def layersOf (w : Word) : Nat := bitsOf w.toNat 15 0

/-- A partition word as R279 admits it: no reserved bit is set, and an enabled one has a nonzero OWNER. -/
def partOk (w : Word) : Bool := bitsOf w.toNat 30 28 == 0 && (!bitOf w.toNat 31 || bitsOf w.toNat 27 16 != 0)

/-- Sixteen partition words, each admitted, no layer in two enabled ones. -/
def partsOk (ws : List Word) : Prop :=
  ws.length = 16 ∧ (∀ w ∈ ws, partOk w = true) ∧
    ∀ i j, i < 16 → j < 16 → i ≠ j → bitOf (ws.getD i 0).toNat 31 = true → bitOf (ws.getD j 0).toNat 31 = true →
      layersOf (ws.getD i 0) &&& layersOf (ws.getD j 0) = 0

end Sys2Proof.Safety
end

