-- ==== Sys2Proof/Certificates/Slice0/Obligations.lean ====
section
/-! DEFINITION. The statements about the package that the provers are asked to prove. -/

open Sys2Proof Sys2Proof.Machine Sys2Proof.Safety

/-- R115 Table 1: the ten 32-bit integer instructions, in both forms of B, give D the value of the table, with the taint of their
operands; they set no flag, and nothing else of the package changes.
R116: ADDS.I32 and SUBS.I32 give the exact sum or difference of I32 values clamped to the range of I32, and OR SATD into FLAGS
exactly when they clamp.
R117: ADD64, SUB64, MADW.I32 and MADW.N32 on pairs, modulo 2^64; both registers of the pair take the OR of the taint bits read. -/
def Obligations.IntegerResults : Prop :=
  (∀ (g : Guard) (u : Bool) (d a : Reg) (b : Src) (s : State) (t : Thread),
     (∀ c ∈ ([(.add g u d a b, fun x y => x + y), (.sub g u d a b, fun x y => x - y), (.mul g u d a b, fun x y => x * y),
           (.mulhI32 g u d a b, fun x y => (x.signExtend 64 * y.signExtend 64).extractLsb' 32 32),
           (.mulhN32 g u d a b, fun x y => (x.setWidth 64 * y.setWidth 64).extractLsb' 32 32),
           (.minI32 g u d a b, fun x y => if x.slt y then x else y), (.maxI32 g u d a b, fun x y => if x.slt y then y else x),
           (.minN32 g u d a b, fun x y => if x.ult y then x else y), (.maxN32 g u d a b, fun x y => if x.ult y then y else x)] :
           List (Instr × (Word → Word → Word))),
       Issues c.1 s t →
         exec c.1 s = .next (retire c.1 s (wrV (issued s t) d.toNat (c.2 (rdV t a.toNat) (rdSrc t b)) (rdTaint t a.toNat || taintSrc t b)))) ∧
     (Issues (.mad g u d a b) s t →
       exec (.mad g u d a b) s = .next (retire (.mad g u d a b) s
         (wrV (issued s t) d.toNat (rdV t d.toNat + rdV t a.toNat * rdSrc t b) (rdTaint t a.toNat || taintSrc t b || rdTaint t d.toNat))))) ∧
  (∀ (g : Guard) (u : Bool) (d a : Reg) (b : Src) (s : State) (t : Thread),
     ∀ c ∈ ([(.addsI32 g u d a b, (rdV t a.toNat).toInt + (rdSrc t b).toInt), (.subsI32 g u d a b, (rdV t a.toNat).toInt - (rdSrc t b).toInt)] :
         List (Instr × Int)),
       Issues c.1 s t →
         exec c.1 s = .next (retire c.1 s
           (orFlags (wrV (issued s t) d.toNat (BitVec.ofInt 32 (max (-(2 ^ 31)) (min (2 ^ 31 - 1) c.2))) (rdTaint t a.toNat || taintSrc t b))
             (if c.2 < -(2 ^ 31) ∨ 2 ^ 31 - 1 < c.2 then fSATD else 0)))) ∧
  (∀ (g : Guard) (u : Bool) (d a : Reg) (b : Src) (c : Reg) (s : State) (t : Thread),
     let pair : Nat → BitVec 64 := fun r => rdV t (r + 1) ++ rdV t r
     let put : BitVec 64 → Bool → Thread := fun x m => wrV (wrV (issued s t) d.toNat (x.extractLsb' 0 32) m) (d.toNat + 1) (x.extractLsb' 32 32) m
     let two : Nat → Bool := fun r => rdTaint t r || rdTaint t (r + 1)
     (∀ e ∈ ([(.add64 g u d a c, pair a.toNat + pair c.toNat), (.sub64 g u d a c, pair a.toNat - pair c.toNat)] : List (Instr × BitVec 64)),
       Issues e.1 s t → exec e.1 s = .next (retire e.1 s (put e.2 (two a.toNat || two c.toNat)))) ∧
     (∀ e ∈ ([(.madwI32 g u d a b, pair d.toNat + (rdV t a.toNat).signExtend 64 * (rdSrc t b).signExtend 64),
           (.madwN32 g u d a b, pair d.toNat + (rdV t a.toNat).setWidth 64 * (rdSrc t b).setWidth 64)] : List (Instr × BitVec 64)),
       Issues e.1 s t → exec e.1 s = .next (retire e.1 s (put e.2 (rdTaint t a.toNat || taintSrc t b || two d.toNat)))))

/-- R118: AND, OR, XOR, ANDN and the shifts; a shift by 32 or more gives 0, and copies of the sign for SAR.
R119: POPC counts the 1 bits, CLZ the 0 bits above the most significant 1 (32 for 0), and BREV reverses the bits.
R120, R121: BFE.N32, BFE.I32 and BFI, bit by bit, with pos = b[4:0], len = b[13:8] and w = min(len, 32 − pos).
R122, R123: PERMB takes each byte of D from a selected byte of A and the old D, or copies of its sign; DOT4.I8 and DOT4.N8 add
four byte products into D. -/
def Obligations.BitAndByteResults : Prop :=
  (∀ (g : Guard) (u : Bool) (d a : Reg) (b : Src) (s : State) (t : Thread),
     ∀ c ∈ ([(.and g u d a b, fun x y => x &&& y), (.or g u d a b, fun x y => x ||| y), (.xor g u d a b, fun x y => x ^^^ y),
           (.andn g u d a b, fun x y => x &&& ~~~y), (.shl g u d a b, fun x y => x <<< y.toNat), (.shr g u d a b, fun x y => x >>> y.toNat),
           (.sar g u d a b, fun x y => x.sshiftRight y.toNat)] : List (Instr × (Word → Word → Word))),
       Issues c.1 s t →
         exec c.1 s = .next (retire c.1 s (wrV (issued s t) d.toNat (c.2 (rdV t a.toNat) (rdSrc t b)) (rdTaint t a.toNat || taintSrc t b)))) ∧
  (∀ (g : Guard) (u : Bool) (d a : Reg) (s : State) (t : Thread),
     let x := rdV t a.toNat
     ∀ c ∈ ([(.popc g u d a, fun y => y.toNat = ((List.range 32).filter fun i => x.getLsbD i).length),
           (.clz g u d a, fun y => y.toNat ≤ 32 ∧ (∀ i, 32 ≤ i + y.toNat → x.getLsbD i = false) ∧
             (y.toNat < 32 → x.getLsbD (31 - y.toNat) = true)),
           (.brev g u d a, fun y => ∀ i, i < 32 → y.getLsbD i = x.getLsbD (31 - i))] : List (Instr × (Word → Prop))),
       Issues c.1 s t → ∃ y, c.2 y ∧ exec c.1 s = .next (retire c.1 s (wrV (issued s t) d.toNat y (rdTaint t a.toNat)))) ∧
  (∀ (g : Guard) (u : Bool) (d a : Reg) (b : Src) (s : State) (t : Thread),
     let x := rdV t a.toNat
     let y := rdSrc t b
     let o := rdV t d.toNat
     let pos := (y.extractLsb' 0 5).toNat
     let w := min (y.extractLsb' 8 6).toNat (32 - pos)
     (∀ c ∈ ([(.bfeN32 g u d a b, fun i => decide (i < w) && x.getLsbD (pos + i)),
           (.bfeI32 g u d a b, fun i => decide (0 < w) && x.getLsbD (pos + min i (w - 1)))] : List (Instr × (Nat → Bool))),
       Issues c.1 s t → ∃ z : Word, (∀ i, i < 32 → z.getLsbD i = c.2 i) ∧
         exec c.1 s = .next (retire c.1 s (wrV (issued s t) d.toNat z (rdTaint t a.toNat || taintSrc t b)))) ∧
     (Issues (.bfi g u d a b) s t → ∃ z : Word,
       (∀ i, i < 32 → z.getLsbD i = if pos ≤ i ∧ i < pos + w then x.getLsbD (i - pos) else o.getLsbD i) ∧
       exec (.bfi g u d a b) s = .next (retire (.bfi g u d a b) s
         (wrV (issued s t) d.toNat z (rdTaint t a.toNat || taintSrc t b || rdTaint t d.toNat))))) ∧
  (∀ (g : Guard) (u : Bool) (d a : Reg) (b : Src) (s : State) (t : Thread),
     let x := rdV t a.toNat
     let y := rdSrc t b
     let o := rdV t d.toNat
     let byte : Word → Nat → BitVec 8 := fun z i => z.extractLsb' (8 * i) 8
     let put : Instr → Word → Out := fun i z =>
       .next (retire i s (wrV (issued s t) d.toNat z (rdTaint t a.toNat || taintSrc t b || rdTaint t d.toNat)))
     (Issues (.permb g u d a b) s t → ∃ z : Word,
       (∀ i, i < 4 →
         let sel := (y.extractLsb' (4 * i) 4).toNat
         let src : BitVec 8 := (o ++ x).extractLsb' (8 * (sel % 8)) 8
         byte z i = if 8 ≤ sel then (if src.msb then 0xFF else 0x00) else src) ∧
       exec (.permb g u d a b) s = put (.permb g u d a b) z) ∧
     (Issues (.dot4I8 g u d a b) s t →
       exec (.dot4I8 g u d a b) s = put (.dot4I8 g u d a b) (o + ((byte x 0).signExtend 32 * (byte y 0).signExtend 32 +
         (byte x 1).signExtend 32 * (byte y 1).signExtend 32 + (byte x 2).signExtend 32 * (byte y 2).signExtend 32 +
         (byte x 3).signExtend 32 * (byte y 3).signExtend 32))) ∧
     (Issues (.dot4N8 g u d a b) s t →
       exec (.dot4N8 g u d a b) s = put (.dot4N8 g u d a b) (o + ((byte x 0).setWidth 32 * (byte y 0).setWidth 32 +
         (byte x 1).setWidth 32 * (byte y 1).setWidth 32 + (byte x 2).setWidth 32 * (byte y 2).setWidth 32 +
         (byte x 3).setWidth 32 * (byte y 3).setWidth 32))))

/-- R124 Table 2: every SETP sets predicate D to its condition; a write to p0 is discarded, no flag is set, and nothing else changes. The
conditions on F32 are said by what the two patterns are: NaN, or a sign and a magnitude.
R125, R126: the predicate logic, PPACK and PUNPACK. p0 reads 1, and a write to p0 is discarded.
R127 to R129: SEL writes A or B by its guard field, whether or not its guard passes; MOV copies a register and its taint; MOVI
writes the sign-extended immediate, or its literal, and clears the taint. -/
def Obligations.CompareSelectAndMoveResults : Prop :=
  (∀ (g : Guard) (u : Bool) (d a : Reg) (b : Src) (s : State) (t : Thread),
     let x := rdV t a.toNat
     let y := rdSrc t b
     let nan : Word → Bool := fun z => decide (0x7F800000 < z.toNat % 2 ^ 31)
     let un := nan x || nan y
     let key : Word → Int := fun z => if z.msb then -(z.toNat % 2 ^ 31 : Nat) else (z.toNat % 2 ^ 31 : Nat)
     ∀ c ∈ ([(.setpEq g u d a b, decide (x = y)), (.setpNe g u d a b, decide (x ≠ y)), (.setpLtI32 g u d a b, x.slt y),
           (.setpLeI32 g u d a b, x.sle y), (.setpLtN32 g u d a b, x.ult y), (.setpLeN32 g u d a b, x.ule y),
           (.setpEqF32 g u d a b, !un && decide (key x = key y)), (.setpNeF32 g u d a b, un || decide (key x ≠ key y)),
           (.setpLtF32 g u d a b, !un && decide (key x < key y)), (.setpLeF32 g u d a b, !un && decide (key x ≤ key y)),
           (.setpUnF32 g u d a b, un)] : List (Instr × Bool)),
       Issues c.1 s t → ∃ w : Thread, exec c.1 s = .next (retire c.1 s w) ∧ w = { issued s t with p := w.p } ∧
         ∀ i, i < 128 → rdP w i = if i = 0 then true else if i = d.toNat then c.2 else rdP t i) ∧
  (∀ (g : Guard) (u : Bool) (d a b : Reg) (s : State) (t : Thread),
     (∀ c ∈ ([(.pand g u d a b, rdP t a.toNat && rdP t b.toNat), (.por g u d a b, rdP t a.toNat || rdP t b.toNat),
           (.pxor g u d a b, Bool.xor (rdP t a.toNat) (rdP t b.toNat)), (.pandn g u d a b, rdP t a.toNat && !rdP t b.toNat)] :
           List (Instr × Bool)),
       Issues c.1 s t → ∃ w : Thread, exec c.1 s = .next (retire c.1 s w) ∧ w = { issued s t with p := w.p } ∧
         ∀ i, i < 128 → rdP w i = if i = 0 then true else if i = d.toNat then c.2 else rdP t i) ∧
     (Issues (.ppack g u d a) s t → ∃ y : Word, (∀ i, i < 32 → y.getLsbD i = rdP t (a.toNat + i)) ∧
       exec (.ppack g u d a) s = .next (retire (.ppack g u d a) s (wrV (issued s t) d.toNat y false))) ∧
     (Issues (.punpack g u d a) s t → ∃ w : Thread,
       exec (.punpack g u d a) s = .next (retire (.punpack g u d a) s w) ∧
       (∀ i, i < 128 → rdP w i = if i = 0 then true
         else if d.toNat ≤ i ∧ i < d.toNat + 32 then (rdV t a.toNat).getLsbD (i - d.toNat) else rdP t i) ∧
       w = { issued s t with p := w.p })) ∧
  (∀ (g : Guard) (u : Bool) (d a : Reg) (b : Src) (imm : BitVec 14) (w : Word) (s : State) (t : Thread),
     (Issues (.sel g u d a b) s t →
       let gw := (t.clause.map (·.gw)).getD 0
       let one : Bool := if g.k = 0 then true else Bool.xor g.n (rdP t (8 * gw + g.k.toNat))
       exec (.sel g u d a b) s = .next (retire (.sel g u d a b) s
         (wrV (issued s t) d.toNat (if one then rdV t a.toNat else rdSrc t b) (rdTaint t a.toNat || taintSrc t b)))) ∧
     (Issues (.mov g u d a) s t →
       exec (.mov g u d a) s = .next (retire (.mov g u d a) s (wrV (issued s t) d.toNat (rdV t a.toNat) (rdTaint t a.toNat)))) ∧
     (Issues (.movi g u d imm) s t →
       exec (.movi g u d imm) s = .next (retire (.movi g u d imm) s (wrV (issued s t) d.toNat (imm.signExtend 32) false))) ∧
     (Issues (.moviLiteral g u d w) s t →
       exec (.moviLiteral g u d w) s = .next (retire (.moviLiteral g u d w) s (wrV (issued s t) d.toNat w false))))

/-- R22, R48, R67: what an ALU instruction leaves as it was. Every instruction of class 0 but MOVSW, when it issues, goes on, and changes only its own
thread: there the registers and predicates that it names as its destinations, and FLAGS, which only ever gain bits: those of SFU results whose windows have
ended (R135), and those that ADDS, SUBS and the floating-point instructions set. Every byte of memory, every other thread, slot, special and trap register is as before. -/
def Obligations.AluInstructionsChangeOnlyTheirDestinations : Prop :=
  ∀ (i : Instr) (s : State) (t : Thread), classOf i = some 0 → (∀ g u d n, i ≠ .movsw g u d n) → Issues i s t →
    ∃ (r : State) (w : Thread), exec i s = .next r ∧ getThread r s.cur = some w ∧ MemoryKept s r ∧ OthersKept s r ∧
      r.disp = s.disp ∧ r.eng = s.eng ∧ r.mem = s.mem ∧ r.regs = s.regs ∧
      w.pc = t.pc + lengthOf i ∧ w.st = .ready ∧ GeneralKept (uses i).writes t w ∧ PredsKept (uses i).pwrites t w ∧
      w.b = t.b ∧ w.bt = t.bt ∧ SpecialsKept t w ∧ TrapKept t w ∧ t.flags &&& w.flags = t.flags ∧
      ((∀ g u d a b, i ≠ .addsI32 g u d a b ∧ i ≠ .subsI32 g u d a b ∧ i ≠ .fadd g u d a b ∧ i ≠ .fsub g u d a b ∧ i ≠ .fmul g u d a b ∧
          i ≠ .ffma g u d a b ∧ i ≠ .fmin g u d a b ∧ i ≠ .fmax g u d a b ∧ i ≠ .hfma2 g u d a b ∧ i ≠ .hadd2 g u d a b ∧
          i ≠ .hmul2 g u d a b ∧ i ≠ .bfma2 g u d a b) → w.flags = (counted t).flags)

/-- R130, R52, R55: on finite operands FADD, FSUB, FMUL and FFMA give D the F32 value nearest to the exact result, ties to even, rounding
once and whatever RMODE holds, with the sign of the exact result (+0 for a sum of zero unless both addends are −0) and with OVFL, UNDF and
INEX exactly where R55 sets them. Infinite operands give the infinity of the exact result without a flag, or, as ∞ − ∞ and 0 × ∞, the
canonical NaN with INVL; a NaN operand gives the canonical NaN, with INVL when one is signalling or the product is invalid. -/
def Obligations.FloatResultsAreNearest : Prop :=
  ∀ (g : Guard) (u : Bool) (d a : Reg) (b : Src) (s : State) (t : Thread),
    let x := rdV t a.toNat
    let y := rdSrc t b
    let o := rdV t d.toNat
    let m := rdTaint t a.toNat || taintSrc t b
    let xor := Bool.xor x.msb y.msb
    -- an invalid product, and an infinite one
    let badMul := (f32Zero x && f32Inf y) || (f32Inf x && f32Zero y)
    let infMul := f32Inf x || f32Inf y
    let canonical : Word := 0x7FC00000
    -- instruction, operands, taint; the exact result and the sign that a zero of it takes; invalid product, invalid operation, sign of an infinity
    ∀ c ∈ ([(.fadd g u d a b, [x, y], m, f32Value x + f32Value y, x.msb && y.msb, false,
            f32Inf x && f32Inf y && x.msb != y.msb, if f32Inf x then x.msb else y.msb),
          (.fsub g u d a b, [x, y], m, f32Value x - f32Value y, x.msb && !y.msb, false,
            f32Inf x && f32Inf y && x.msb == y.msb, if f32Inf x then x.msb else !y.msb),
          (.fmul g u d a b, [x, y], m, f32Value x * f32Value y, xor, badMul, badMul, xor),
          (.ffma g u d a b, [x, y, o], m || rdTaint t d.toNat, f32Value x * f32Value y + f32Value o, xor && o.msb, badMul,
            badMul || (infMul && f32Inf o && xor != o.msb), if infMul then xor else o.msb)] :
          List (Instr × List Word × Bool × ℚ × Bool × Bool × Bool × Bool)),
      let (i, ops, taint, q, zneg, badProduct, bad, ineg) := c
      Issues i s t → ∃ (z : Word) (fl : Nat),
        exec i s = .next (retire i s (orFlags (wrV (issued s t) d.toNat z taint) fl)) ∧
        (ops.all f32Finite = true → f32Delivers q (if q = 0 then zneg else decide (q < 0)) z fl) ∧
        (ops.any f32Nan = true → z = canonical ∧ fl = if ops.any f32Snan || badProduct then fINVL else 0) ∧
        (ops.any f32Nan = false → ops.any f32Inf = true →
          if bad then z = canonical ∧ fl = fINVL else z = f32Signed ineg 0x7F800000 ∧ fl = 0)

/-- R131, R53: FMIN and FMAX give the smaller or larger operand with −0 below +0, the other operand where one is a NaN, the canonical
NaN where both are, and set only INVL, exactly for a signalling NaN operand.
R132, R54: the packed instructions compute each 16-bit element by itself in its own format, and OR the flags of both. The functions
fpFma, fpAdd and fpMul of the model give one element's result. -/
def Obligations.FloatMinimumMaximumAndPackedResults : Prop :=
  (∀ (g : Guard) (u : Bool) (d a : Reg) (b : Src) (s : State) (t : Thread),
     let x := rdV t a.toNat
     let y := rdSrc t b
     let pick : (Int → Int → Bool) → Word := fun before =>
       if f32Nan x then (if f32Nan y then 0x7FC00000 else y) else if f32Nan y then x
       else if before (f32Order x) (f32Order y) then x else y
     ∀ c ∈ ([(.fmin g u d a b, pick fun i j => decide (i < j)), (.fmax g u d a b, pick fun i j => decide (j < i))] : List (Instr × Word)),
       Issues c.1 s t →
         exec c.1 s = .next (retire c.1 s (orFlags (wrV (issued s t) d.toNat c.2 (rdTaint t a.toNat || taintSrc t b))
           (if f32Snan x || f32Snan y then fINVL else 0)))) ∧
  (∀ (g : Guard) (u : Bool) (d a : Reg) (b : Src) (s : State) (t : Thread),
     let el : Word → Nat → Nat := fun z i => (z.extractLsb' (16 * i) 16).toNat
     let x := rdV t a.toNat
     let y := rdSrc t b
     let o := rdV t d.toNat
     let m := rdTaint t a.toNat || taintSrc t b
     ∀ c ∈ ([(.hfma2 g u d a b, m || rdTaint t d.toNat, fun i => fpFma .f16 (el x i) (el y i) (el o i)),
           (.bfma2 g u d a b, m || rdTaint t d.toNat, fun i => fpFma .bf16 (el x i) (el y i) (el o i)),
           (.hadd2 g u d a b, m, fun i => fpAdd .f16 (el x i) (el y i)), (.hmul2 g u d a b, m, fun i => fpMul .f16 (el x i) (el y i))] :
           List (Instr × Bool × (Nat → Nat × Nat))),
       Issues c.1 s t → ∃ z : Word, el z 0 = (c.2.2 0).1 ∧ el z 1 = (c.2.2 1).1 ∧
         exec c.1 s = .next (retire c.1 s (orFlags (wrV (issued s t) d.toNat z c.2.1) ((c.2.2 0).2 ||| (c.2.2 1).2))))

/-- R138, R142, R378, R379: each of the forty SFU instructions leaves at issue one pending result, for the registers that Table 1 gives D,
with the OR of the taint bits of those that it reads; its destinations are pending in a window of LA instructions; every register is
as before, and the thread goes on.
R138, R135, R146, R148: SFU_RESULT writes a pending result to its registers with its taint, in one step, and its flags into FLAGS, or, while its window
counts, into the window, which a MOVS inside it does not see; the destinations are no longer pending, one fewer operation is outstanding, and
nothing else changes. UNPK8.CB4 reads its codebook slot
in that step: element j of word i is entry 2i + j of the codes, copied bit for bit; QNT.CB4 gives each of its eight registers the code of
the nearest entry of its slot, by R58, and ORs the flags.
R143 to R145, R60 to R62: the conversions, PK and UNPK4 give each element its value under RMODE, with the flags of R55 and R61, ORed over
the elements.
R149, R64: RCP, DIV, SQRT and RSQ give the nearest value, ties to even, whatever RMODE holds, and Table 3's results on zeros, infinities,
negative operands and NaNs. EXP2, LOG2, SINT, COST, TANH and SIGM give Table 3's results on its inputs; on every other they give the value and flags of
the model's own functions of that one operand, a number of the function's sign with INEX and without INVL, DIVZ or SATD.
R151, R68 to R70: WADD adds an F32 value exactly into V modulo 2^320 and keeps the four flags of the wide value, WRND gives the nearest F32
value of V, and WCLR eleven zeros.
R150, R65: FLOOR, CEIL, TRUNC and RINT of a finite F32 value are integral, of the input's sign, and the floor, ceiling, integer part
and nearest even integer of it; infinities and zeros stay; a NaN gives the canonical one, and INVL only when signalling. CLASS.F32
has exactly the bit of its operand's class. -/
def Obligations.SfuResultsComeLateAndTogether : Prop :=
  (∀ (g : Guard) (u : Bool) (d a : Reg) (la : BitVec 4) (e1 : BitVec 1) (e2 : BitVec 2) (k : BitVec 3) (s : State) (t : Thread),
     let one := [a.toNat]
     let from_ : Nat → Nat → List Nat := fun r n => (List.range n).map (r + ·)
     ∀ c ∈ ([(.cvtF32I32 g u d a la, 1, one), (.cvtF32N32 g u d a la, 1, one), (.cvtI32F32 g u d a la, 1, one),
           (.cvtN32F32 g u d a la, 1, one), (.cvtF16F32 g u d a la, 1, one), (.cvtBf16F32 g u d a la, 1, one),
           (.cvtE4m3F32 g u d a la, 1, one), (.cvtE5m2F32 g u d a la, 1, one), (.cvtI8F32 g u d a la, 1, one),
           (.cvtF32F16 g u d a la e1, 1, one), (.cvtF32Bf16 g u d a la e1, 1, one), (.cvtF32E4m3 g u d a la e2, 1, one),
           (.cvtF32E5m2 g u d a la e2, 1, one), (.cvtF32I8 g u d a la e2, 1, one), (.pk4E4m3 g u d a la, 1, from_ a.toNat 4),
           (.pk4E5m2 g u d a la, 1, from_ a.toNat 4), (.pk2Bf16 g u d a la, 1, from_ a.toNat 2), (.pk2F16 g u d a la, 1, from_ a.toNat 2),
           (.unpk4E4m3 g u d a la, 4, one), (.unpk4E5m2 g u d a la, 4, one), (.unpk8Cb4 g u d a la k, 4, one),
           (.qntCb4 g u d a la k, 1, from_ a.toNat 8), (.divF32 g u d a la, 1, from_ a.toNat 2), (.rcpF32 g u d a la, 1, one),
           (.rsqF32 g u d a la, 1, one), (.sqrtF32 g u d a la, 1, one), (.exp2F32 g u d a la, 1, one), (.log2F32 g u d a la, 1, one),
           (.sintF32 g u d a la, 1, one), (.costF32 g u d a la, 1, one), (.tanhF32 g u d a la, 1, one), (.sigmF32 g u d a la, 1, one),
           (.floorF32 g u d a la, 1, one), (.ceilF32 g u d a la, 1, one), (.truncF32 g u d a la, 1, one), (.rintF32 g u d a la, 1, one),
           (.classF32 g u d a la, 1, one), (.wadd g u d a la, 11, one ++ from_ d.toNat 11), (.wrnd g u d a la, 1, from_ a.toNat 11),
           (.wclr g u d la, 11, [])] : List (Instr × Nat × List Nat)),
       Issues c.1 s t → ∃ (p : SfuPend) (w : Thread),
         exec c.1 s = .next (retire c.1 { s with mem := { s.mem with seq := s.mem.seq + 1 }, eng := { s.eng with sfu := s.eng.sfu ++ [p] } } w) ∧
         p.thread = t.key ∧ p.d = d.toNat ∧ p.window = s.mem.seq ∧ p.taint = c.2.2.any (rdTaint t) ∧
         (p.slot = none → p.vals.length = c.2.1) ∧ RegistersKept (counted t) w ∧
         w.outSfu = { count := t.outSfu.count + 1, pc := t.pc } ∧
         w.windows = tickWindows t.windows ++
           [{ id := s.mem.seq, pc := t.pc, remain := la.toNat, regs := from_ d.toNat c.2.1, dests := from_ d.toNat c.2.1 }]) ∧
  (∀ (n : Nat) (s : State) (p : SfuPend) (t : Thread),
     s.eng.sfu.find? (fun q => q.window == n) = some p → getThread s p.thread = some t →
       let v := sfuValue s t p
       let inside : Bool := t.windows.any fun x => x.id == n && decide (0 < x.remain)
       (∃ r : Thread, exec (.sfuResult n) s = .next (putThread { s with eng := { s.eng with sfu := s.eng.sfu.filter fun q => q.window != n } } r) ∧
         r = { t with v := r.v, vt := r.vt, flags := if inside then t.flags else t.flags ||| v.2, windows := r.windows,
                      outSfu := { t.outSfu with count := t.outSfu.count - 1 } } ∧
         r.windows = pruneWindows (t.windows.map fun x =>
           if x.id == n then { x with regs := [], reads := [], flags := if inside then x.flags ||| v.2 else x.flags } else x) ∧
         (∀ i, i < v.1.length → rdV r (p.d + i) = v.1.getD i 0 ∧ rdTaint r (p.d + i) = p.taint) ∧
         GeneralKept [⟨p.d, v.1.length, 1⟩] t r) ∧
       (p.slot = none → v = (p.vals, p.flags)) ∧
       (∀ k xs, p.slot = some (k, xs) → xs.length = 8 →
         let ent : Nat → Word := fun c => BitVec.ofNat 32 (2 ^ 16 * wordOfBytes (((slotBytes s t.core k).drop (2 * c)).take 2))
         ∃ (y : Word) (fs : List Nat), v = ([y], fs.foldl (· ||| ·) 0) ∧ fs.length = 8 ∧
           ∀ j, j < 8 → nearestCode ent (xs.getD j 0) (y.extractLsb' (4 * j) 4).toNat (fs.getD j 0)) ∧
       (∀ k x, p.slot = some (k, [x]) → v.2 = 0 ∧ ∀ i j, i < 4 → j < 2 →
         let code := (x.extractLsb' (4 * (2 * i + j)) 4).toNat
         ((v.1.getD i 0).extractLsb' (16 * j) 16).toNat = wordOfBytes (((slotBytes s t.core k).drop (2 * code)).take 2))) ∧
  (∀ (g : Guard) (u : Bool) (d a : Reg) (la : BitVec 4) (s : State) (t : Thread),
     let x := rdV t a.toNat
     let nearest : ℚ → ℤ → Prop := fun q n => |q - n| ≤ 1 / 2 ∧ (|q - n| = 1 / 2 → n % 2 = 0)
     (∀ c ∈ ([(.floorF32 g u d a la, fun q n => n = ⌊q⌋), (.ceilF32 g u d a la, fun q n => n = ⌈q⌉),
           (.truncF32 g u d a la, fun q n => n = if q < 0 then ⌈q⌉ else ⌊q⌋), (.rintF32 g u d a la, nearest)] :
           List (Instr × (ℚ → ℤ → Prop))),
       Issues c.1 s t → ∃ (p : SfuPend) (r : State) (y : Word),
         exec c.1 s = .next r ∧ p ∈ r.eng.sfu ∧ p.window = s.mem.seq ∧ p.slot = none ∧ p.vals = [y] ∧
         (f32Finite x = true → p.flags = 0 ∧ y.msb = x.msb ∧ ∃ n : ℤ, c.2 (f32Value x) n ∧ f32Finite y = true ∧ f32Value y = n) ∧
         (f32Nan x = true → y = 0x7FC00000 ∧ p.flags = if f32Snan x then fINVL else 0) ∧
         (f32Finite x = false → f32Nan x = false → y = x ∧ p.flags = 0)) ∧
     (Issues (.classF32 g u d a la) s t → ∃ (p : SfuPend) (r : State),
       exec (.classF32 g u d a la) s = .next r ∧ p ∈ r.eng.sfu ∧ p.window = s.mem.seq ∧ p.slot = none ∧ p.flags = 0 ∧
       p.vals = [if f32Nan x then (if f32Snan x then 0x001 else 0x002)
         else if x.msb then (if f32Mag x = 0 then 0x020 else if f32Mag x < 2 ^ 23 then 0x010 else if f32Mag x < 0x7F800000 then 0x008 else 0x004)
         else (if f32Mag x = 0 then 0x040 else if f32Mag x < 2 ^ 23 then 0x080 else if f32Mag x < 0x7F800000 then 0x100 else 0x200)])) ∧
  (∀ (g : Guard) (u : Bool) (d a : Reg) (la : BitVec 4) (e1 : BitVec 1) (e2 : BitVec 2) (s : State) (t : Thread),
     let x := rdV t a.toNat
     let m := t.rmode
     let word_ : Nat → Word := BitVec.ofNat 32
     let half : Nat := (x.extractLsb' (16 * e1.toNat) 16).toNat
     let byte : Nat → Nat := fun i => (x.extractLsb' (8 * i) 8).toNat
     -- the pending result of an instruction has these values and flags
     let gives : Instr → (List Word → Nat → Prop) → Prop := fun i P => Issues i s t → ∃ (p : SfuPend) (r : State),
       exec i s = .next r ∧ p ∈ r.eng.sfu ∧ p.window = s.mem.seq ∧ p.slot = none ∧ P p.vals p.flags
     let one : (Word → Nat → Prop) → List Word → Nat → Prop := fun P vs fl => ∃ y, vs = [y] ∧ P y fl
     -- elements of a format in one word, and words of one format's elements
     let packed : Layout → Nat → Nat → List Word → Nat → Prop := fun l n w vs fl => ∃ (y : Word) (fs : List Nat), vs = [y] ∧
       fs.length = n ∧ fl = fs.foldl (· ||| ·) 0 ∧
       ∀ i, i < n → l.converts m (rdV t (a.toNat + i)) (y.toNat / 2 ^ (w * i) % 2 ^ w) (fs.getD i 0)
     let unpacked : Layout → List Word → Nat → Prop := fun l vs fl => ∃ fs : List Nat, vs.length = 4 ∧ fs.length = 4 ∧
       fl = fs.foldl (· ||| ·) 0 ∧ ∀ i, i < 4 → l.widens (byte i) (vs.getD i 0) (fs.getD i 0)
     let toInt : Nat → ℤ → ℤ → List Word → Nat → Prop := fun n lo hi => one fun y fl => ∃ i : ℤ, intConverts lo hi m x i fl ∧
       y = word_ (i % 2 ^ n).toNat
     let narrow : Layout → List Word → Nat → Prop := fun l => one fun y fl => ∃ r, l.converts m x r fl ∧ y = word_ r
     (∀ c ∈ ([(.cvtF32I32 g u d a la, one fun y fl => ∃ r, Layout.f32.rounds m x.msb |(x.toInt : ℚ)| r fl ∧ y = word_ r),
           (.cvtF32N32 g u d a la, one fun y fl => ∃ r, Layout.f32.rounds m false (x.toNat : ℚ) r fl ∧ y = word_ r),
           (.cvtI32F32 g u d a la, toInt 32 (-(2 ^ 31)) (2 ^ 31 - 1)), (.cvtN32F32 g u d a la, toInt 32 0 (2 ^ 32 - 1)),
           (.cvtI8F32 g u d a la, toInt 8 (-128) 127), (.cvtF16F32 g u d a la, narrow .f16), (.cvtBf16F32 g u d a la, narrow .bf16),
           (.cvtE4m3F32 g u d a la, narrow .e4m3), (.cvtE5m2F32 g u d a la, narrow .e5m2),
           (.cvtF32F16 g u d a la e1, one (Layout.f16.widens half)), (.cvtF32Bf16 g u d a la e1, one (Layout.bf16.widens half)),
           (.cvtF32E4m3 g u d a la e2, one (Layout.e4m3.widens (byte e2.toNat))),
           (.cvtF32E5m2 g u d a la e2, one (Layout.e5m2.widens (byte e2.toNat))),
           (.cvtF32I8 g u d a la e2, one fun y fl => f32Finite y = true ∧ f32Value y = (x.extractLsb' (8 * e2.toNat) 8).toInt ∧
             (byte e2.toNat = 0 → y = 0) ∧ fl = 0),
           (.pk4E4m3 g u d a la, packed .e4m3 4 8), (.pk4E5m2 g u d a la, packed .e5m2 4 8), (.pk2Bf16 g u d a la, packed .bf16 2 16),
           (.pk2F16 g u d a la, packed .f16 2 16), (.unpk4E4m3 g u d a la, unpacked .e4m3), (.unpk4E5m2 g u d a la, unpacked .e5m2)] :
           List (Instr × (List Word → Nat → Prop))), gives c.1 c.2) ∧
     let z := rdV t (a.toNat + 1)
     let canonical : Word := 0x7FC00000
     let v : Word → ℚ := f32Value
     let next : Word → ℚ := fun y => Layout.f32.value (y.toNat + 1)
     let prev : Word → ℚ := fun y => Layout.f32.value (y.toNat - 1)
     let invalid : Word → Nat → Prop := fun y fl => y = canonical ∧ fl = fINVL
     (∀ c ∈ ([(.rcpF32 g u d a la, fun y fl => if f32Inf x then y = f32Signed x.msb 0 ∧ fl = 0
             else if f32Zero x then y = f32Signed x.msb 0x7F800000 ∧ fl = fDIVZ
             else f32Delivers (1 / v x) x.msb y fl),
           (.sqrtF32 g u d a la, fun y fl => if f32Zero x || (f32Inf x && !x.msb) then y = x ∧ fl = 0 else if x.msb then invalid y fl
             else y.msb = false ∧ f32Finite y = true ∧ 0 < y.toNat ∧ (v y + prev y) ^ 2 < 4 * v x ∧ 4 * v x < (v y + next y) ^ 2 ∧
               fl = if v y ^ 2 = v x then 0 else fINEX),
           (.rsqF32 g u d a la, fun y fl => if f32Zero x then y = f32Signed x.msb 0x7F800000 ∧ fl = fDIVZ else if x.msb then invalid y fl
             else if f32Inf x then y = 0 ∧ fl = 0
             else y.msb = false ∧ f32Finite y = true ∧ 0 < y.toNat ∧ (v y + prev y) ^ 2 * v x < 4 ∧ 4 < (v y + next y) ^ 2 * v x ∧
               fl = if v y ^ 2 * v x = 1 then 0 else fINEX)] :
           List (Instr × (Word → Nat → Prop))),
       gives c.1 (one fun y fl => if f32Nan x then y = canonical ∧ fl = (if f32Snan x then fINVL else 0) else c.2 y fl)) ∧
     gives (.divF32 g u d a la) (one fun y fl =>
       let neg := Bool.xor x.msb z.msb
       if f32Nan x || f32Nan z then y = canonical ∧ fl = (if f32Snan x || f32Snan z then fINVL else 0)
       else if (f32Inf x && f32Inf z) || (f32Zero x && f32Zero z) then invalid y fl
       else if f32Inf x then y = f32Signed neg 0x7F800000 ∧ fl = 0
       else if f32Inf z then y = f32Signed neg 0 ∧ fl = 0
       else if f32Zero z then y = f32Signed neg 0x7F800000 ∧ fl = fDIVZ
       else f32Delivers (v x / v z) neg y fl) ∧
     -- a function, its results on the inputs of Table 3, its sign on every other input, and an integer that it then gives exactly
     (let sure : Word → Nat → Option (Word × Nat) := fun y fl => some (y, fl)
      let q := v x
      let inf : Option (Word × Nat) → Option (Word × Nat) → Option (Word × Nat) → Option (Word × Nat) := fun neg pos o =>
        if f32Inf x then (if x.msb then neg else pos) else o
      let exp2 : Option (Word × Nat) :=
        if f32Zero x then sure 0x3F800000 0
        else if q = ⌊q⌋ ∧ -149 ≤ q ∧ q ≤ 127 then
          sure (if q < -126 then BitVec.ofNat 32 (2 ^ (⌊q⌋ + 149).toNat) else BitVec.ofNat 32 ((⌊q⌋ + 127).toNat * 2 ^ 23)) 0
        else if 128 ≤ q then sure 0x7F800000 (fINEX ||| fOVFL) else none
      let turns : Word → Bool → Option (Word × Nat) := fun zero cosine =>
        let f := q - ⌊q⌋ + if cosine then 1 / 4 else 0
        if f = 0 ∨ f = 1 / 2 ∨ f = 1 then sure zero 0 else if f = 1 / 4 ∨ f = 5 / 4 then sure 0x3F800000 0
        else if f = 3 / 4 then sure 0xBF800000 0 else none
      let power : Option ℤ :=
        let n := x.toNat
        if n < 2 ^ 23 then (if n = 2 ^ Nat.log2 n then some (Nat.log2 n - 149 : ℤ) else none)
        else if n % 2 ^ 23 = 0 then some ((n / 2 ^ 23 : Nat) - 127 : ℤ) else none
      ∀ c ∈ ([(.exp2F32 g u d a la, fnExp2, inf (sure 0 0) (sure 0x7F800000 0) exp2, false, none),
            (.log2F32 g u d a la, fnLog2, inf (sure canonical fINVL) (sure x 0) (if f32Zero x then sure 0xFF800000 fDIVZ
              else if x.msb then sure canonical fINVL else if x = 0x3F800000 then sure 0 0 else none), decide (q < 1), power),
            (.sintF32 g u d a la, fnSint, inf (sure canonical fINVL) (sure canonical fINVL) (turns (f32Signed x.msb 0) false),
              decide (1 / 2 < q - ⌊q⌋), none),
            (.costF32 g u d a la, fnCost, inf (sure canonical fINVL) (sure canonical fINVL) (turns 0 true),
              decide (1 / 4 < q - ⌊q⌋ ∧ q - ⌊q⌋ < 3 / 4), none),
            (.tanhF32 g u d a la, fnTanh, inf (sure 0xBF800000 0) (sure 0x3F800000 0) (if f32Zero x then sure x 0 else none), x.msb, none),
            (.sigmF32 g u d a la, fnSigm, inf (sure 0 0) (sure 0x3F800000 0) (if f32Zero x then sure 0x3F000000 0 else none), false, none)] :
            List (Instr × (Nat → Nat × Nat) × Option (Word × Nat) × Bool × Option ℤ)),
        let (i, f, special, neg, exact) := c
        gives i (one fun y fl => y = word_ (f x.toNat).1 ∧ fl = (f x.toNat).2 ∧
          if f32Nan x then y = canonical ∧ fl = (if f32Snan x then fINVL else 0)
          else match special, exact with
            | some r, _ => y = r.1 ∧ fl = r.2
            | none, some e => f32Finite y = true ∧ f32Value y = e ∧ fl = 0
            | none, none => f32Nan y = false ∧ y.msb = neg ∧ fl &&& fINEX = fINEX ∧ fl &&& (fINVL ||| fDIVZ ||| fSATD) = 0)) ∧
     (let ws := (List.range 11).map fun i => rdV t (d.toNat + i)
      let old := wideInt ws
      gives (.wadd g u d a la) fun vs fl =>
        let flag := (ws.getD 10 0).toNat % 16
        vs.length = 11 ∧ fl = (if f32Snan x then fINVL else 0) ∧
        if f32Finite x then
          ∃ e : ℤ, (e : ℚ) = v x * 2 ^ 149 ∧ (natOfWords (vs.take 10) : ℤ) = (old + e) % 2 ^ 320 ∧
            vs.getD 10 0 = word_ (flag ||| if old + e < -(2 ^ 319) ∨ 2 ^ 319 ≤ old + e then 8 else 0)
        else vs.take 10 = ws.take 10 ∧
          vs.getD 10 0 = word_ (flag ||| if f32Nan x then 1 else if x.msb then 4 else 2)) ∧
     (let ws := (List.range 11).map fun i => rdV t (a.toNat + i)
      let flag := ws.getD 10 0
      gives (.wrnd g u d a la) (one fun y fl =>
        let clash := flag.getLsbD 3 || (flag.getLsbD 1 && flag.getLsbD 2)
        if flag.getLsbD 0 || clash then y = canonical ∧ fl = (if clash then fINVL else 0)
        else if flag.getLsbD 1 then y = 0x7F800000 ∧ fl = 0
        else if flag.getLsbD 2 then y = 0xFF800000 ∧ fl = 0
        else f32Delivers ((wideInt ws : ℚ) / 2 ^ 149) (decide (wideInt ws < 0)) y fl)) ∧
     gives (.wclr g u d la) (fun vs fl => vs = List.replicate 11 0 ∧ fl = 0))

/-- Sanity: words of the spec's own examples and opcode maps, with their literals, hold the instructions that they stand for. -/
def Obligations.WrittenWordsDecode : Prop :=
  -- words of the spec's encoding examples: `p1? BRA` with OFS = −6, CALL v30 with OFS = 12, YIELD #32
  decode 4 0x003FFFFA none = .ok (.bra ⟨false, 1⟩ 0x1FFFFA) ∧
  decode 4 0x0807800C none = .ok (.call ⟨false, 0⟩ 30 12) ∧
  decode 4 0x24000000 (some 0x20) = .ok (.yield ⟨false, 0⟩ (.lit 0x20)) ∧
  -- ADD v3, v1, v2 and ADD v3, v1, #5 (Table 13, opcode 0)
  decode 0 0x0000C082 none = .ok (.add ⟨false, 0⟩ false 3 1 (.reg 2)) ∧
  decode 0 0x0000C080 (some 5) = .ok (.add ⟨false, 0⟩ false 3 1 (.lit 5)) ∧
  -- EXIT (CTRL opcode 5); a nonzero reserved field, and a reserved opcode, hold no instruction (R104)
  decode 4 0x14000000 none = .ok (.exit ⟨false, 0⟩) ∧
  decode 4 0x14000001 none = .error .operand ∧
  decode 6 0x20000000 none = .error .opcode

/-- R104: in a clause of each class exactly the opcodes that the maps leave reserved, or keep for service, are refused as opcodes, whatever
else the word and its literal hold. R31: a nonzero U on any word but one of ALU, of SFU, or of the loads LD, LDA, LDAP, LDC, LDV, LDS and LDFRAG
is refused as an operand. -/
def Obligations.ReservedOpcodesAreRefused : Prop :=
  (∀ (cls : Nat) (w : Nat) (lit : Option Nat), cls < 7 → w < 2 ^ 32 →
    (decode cls w lit = .error .opcode ↔ ([64, 61, 18, 14, 62, 40, 8] : List Nat).getD cls 0 ≤ fieldOp w)) ∧
  (∀ (cls : Nat) (w : Nat) (lit : Option Nat) (i : Instr),
    (cls = 2 ∨ cls = 3 ∨ cls = 4 ∨ cls = 6 ∨ (cls = 1 ∧ ((0x08 ≤ fieldOp w ∧ fieldOp w ≤ 0x0D) ∨ fieldOp w = 0x11 ∨ fieldOp w = 0x12 ∨
        (0x1D ≤ fieldOp w ∧ fieldOp w ≤ 0x20) ∨ 0x24 ≤ fieldOp w))) →
    decode cls w lit = .ok i → w / 2 ^ 25 % 2 = 0)

/-- R88, R91 to R101: for every well-formed instruction of a thread, at every value of its fields, the words that the encoder gives it
decode, in a clause of their class, to that instruction; they are 32-bit words, and R103's literal rule is met. -/
def Obligations.DecodingAnEncodedInstructionGivesItBack : Prop :=
  ∀ i : Instr, (classOf i).isSome = true → wellFormed i = true →
    ∃ w, encode i = some w ∧ classOf i = some w.cls ∧ w.w < 2 ^ 32 ∧ (∀ l, w.lit = some l → l < 2 ^ 32) ∧
      litOk w.cls (fieldOp w.w) w.lit.isSome = true ∧ decode w.cls w.w w.lit = .ok i

/-- R28, R90: a step runs what the fetch decodes. The next thread of the fused set, READY inside a clause and at no breakpoint, fetches
the word at its PC with the literal that the header marks; where they decode to i, the step is exec of i, with the issue counted, the
rest of the fused set still to come, and the step settled around it. A BLOCKED thread that looks again in its lane group's turn, and a
device step that the schedule names, in its phase of the clock, with nothing of an earlier phase due and no lane group's turn passed over, run
their instruction likewise. -/
def Obligations.StepRunsTheDecodedInstruction : Prop :=
  (∀ (s : State) (k : Nat) (ks : List Nat) (t : Thread) (g : Grid) (c : ClauseCtx) (hb wb lb : List Byte) (s0 s1 s4 : State)
      (lit : Option Nat) (i : Instr),
    let s2 : State := { s with stall := false, fused := ks }
    let s3 : State := { s2 with cur := k }
    s.fused = k :: ks → getThread s k = some t → t.st = .ready → getGrid s t.grid = some g → t.clause = some c →
    breakpointAt s3 t = none →
    codeWord s3 t.core g c.hdr = some (.ok hb s0) → codeWord s3 t.core g t.pc = some (.ok wb s1) →
    (if bitOf (wordOfBytes hb) ((t.pc - c.hdr) / 4 - 1) then codeWord s1 t.core g (t.pc + 4) = some (.ok lb s4) ∧ lit = some (wordOfBytes lb)
      else s4 = s1 ∧ lit = none) →
    (t.pc - c.hdr) / 4 - 1 < 14 →
    decode c.cls (wordOfBytes wb) lit = .ok i →
    (uBit i = false ∨ ∃ u, getThread s4 s4.cur = some u ∧ s4.ulead = some (uOperands s4 u i)) →
    step s = settled { s with stall := false } (passOver s2 (match exec i s4 with
      | .next r => .next (countIssue s2 r k)
      | o => o))) ∧
  (∀ (s : State) (k : Nat) (ks : List Nat) (t : Thread) (i : Instr),
    let s2 : State := { s with stall := false, fused := ks }
    s.fused = k :: ks → getThread s k = some t → t.st = .blocked (.poll i) → isSaving s2 t = false →
    step s = settled { s with stall := false } (passOver s2 (exec i { s2 with cur := k }))) ∧
  ∀ (s : State) (as : List Sched) (i : Instr),
    let s2 : State := { s with stall := false, sched := as }
    s.fused = [] → s.sched = .event i :: as → classOf i = none → (∀ core lg, i ≠ .starvationOverride core lg) → (∀ k, i ≠ .breakpointHit k) →
    s.phase ≤ phaseOf s2 i → dueBefore s2 (phaseOf s2 i) = false → (phaseOf s2 i ≤ 4 ∨ pendingPick s2 = none) →
    step s = settled { s with stall := false } (passOver s2 (exec i { s2 with phase := phaseOf s2 i, ready := readyFor s2 i }))

/-- R90, R89, R88: the order of the checks, for every instruction of a thread but an instruction BLOCKED already. With no POISON due and no
window waiting: GK = 0 with GN = 1 raises ILLEGAL_OPERAND; a guard that does not pass makes every other instruction than SEL, a
rendezvous and a barrier only advance, whatever its operands; then ROLE, ILLEGAL_OPERAND and LOOKAHEAD. That a CPY.MC whose CMASK names no core,
or one that its team does not have, raises ILLEGAL_OPERAND before LOOKAHEAD too is the model's reading (notes/assumptions/95.md, DEDUCED). A fault is delivered with the
thread's PC as TPC, and nothing else changes. -/
def Obligations.IssueChecksInOrder : Prop :=
  ∀ (i : Instr) (s : State) (t : Thread) (cls op : Nat),
    let fault : FaultCode → Out := fun c => .next (putThread s { t with st := .trapping { code := c, tpc := t.pc } })
    let g := guardOf i
    let passes : Bool := g.k == 0 || Bool.xor (rdP t (8 * ((t.clause.map (·.gw)).getD 0) + g.k.toNat)) g.n
    let never : Bool := decide ((cls = 4 ∧ 0x0C ≤ op ∧ op ≤ 0x2A) ∨ (cls = 0 ∧ op = 0x2B))
    let role : Bool :=
      if cls = 1 then decide ((0x19 ≤ op ∧ op ≤ 0x23) ∨ (0x37 ≤ op ∧ op ≤ 0x3A) ∨ t.kind = 1 ∨ t.kind = 3)
      else if cls = 2 then decide (t.kind = 2) else if cls = 3 then decide (t.kind = 3) else true
    let n := ((getTeam s t.team).map (·.cores.length)).getD 0
    let badMask : Bool := match i with
      | .cpyMc _ _ _ _ _ _ cm _ => decide (cm = 0 ∨ 2 ^ n ≤ cm.toNat)
      | _ => false
    getThread s s.cur = some t → t.st = .ready → classOf i = some cls → opOf i = op → poisonDue t = none → windowClosed t = false →
      (g.k = 0 ∧ g.n = true → exec i s = fault .illegalOperand) ∧
      (¬ (g.k = 0 ∧ g.n = true) → passes = false → never = false → exec i s = .next (retire i s (issued s t))) ∧
      (¬ (g.k = 0 ∧ g.n = true) → (passes = true ∨ never = true) →
        (role = false → exec i s = fault .role) ∧
        (role = true → operandsWf t.budget i = false → exec i s = fault .illegalOperand) ∧
        (role = true → operandsWf t.budget i = true → windowConflict t (uses i) = true →
          exec i s = fault (if badMask then .illegalOperand else .lookahead)))

/-- R133, R272, R274 to R276: MOVS gives D the value of the special register that it numbers, and clears D's taint; nothing else changes.
The convoy registers read the entry as the last clock left it, and FLAGS is read without the flags of an SFU result whose window still counts
(R135).
R134, R59, R66: MOVSW writes MHB up to 65,535, RMODE with MODE 0 to 4 and SAT, FLAGS in six bits, whole; any other value, or a MEET that is
neither a multiple of 4 nor 0xFFFFFFFF, raises ILLEGAL_OPERAND and changes nothing but the thread's fate. -/
def Obligations.SpecialRegistersReadAndWritten : Prop :=
  (∀ (g : Guard) (u : Bool) (d : Reg) (n : BitVec 14) (s : State) (t : Thread) (gr : Grid) (tm : Team),
     let cv : (Convoy → Nat → Nat) → Word := fun f => match t.cv with
       | none => 0
       | some (c, i) => word (f (((s.disp.convoysSeen.find? fun x => x.id == c).getD { id := c })) i % 2 ^ 32)
     getGrid s t.grid = some gr → getTeam s t.team = some tm →
     ∀ c ∈ ([(0x000, word t.pc), (0x001, word t.tid), (0x002, word (t.tid % 32)), (0x003, word t.grp), (0x004, word (2 * t.grp + t.tid % 32 / 16)),
           (0x005, word t.role), (0x006, word t.teamIdx), (0x007, word gr.nteam), (0x008, word ((gr.roles.map fun r => r.groups * r.threads).sum)),
           (0x009, word t.grid), (0x00A, word t.tcore), (0x00B, word tm.cores.length), (0x010, word t.core), (0x011, word (t.core / 12)),
           (0x012, word (t.core / 24)), (0x013, word (t.core / 48)), (0x014, word s.regs.pkg), (0x020, t.meet), (0x021, word t.mhb),
           (0x030, word t.rmode), (0x031, word (counted t).flags), (0x040, word t.mgang),
           (0x050, (match t.cv with | none => 0xFFFFFFFF | some c => word c.1)), (0x051, (match t.cv with | none => 0xFFFFFFFF | some c => word c.2)),
           (0x052, cv fun v i => v.posOf i), (0x053, cv fun v _ => v.tail), (0x054, cv fun v _ => v.sl), (0x055, cv fun v _ => v.lt),
           (0x056, cv fun v _ => v.cvm.toNat), (0x057, cv fun v _ => v.cvm.toNat / 2 ^ 32), (0x058, cv fun v _ => v.cvl.toNat),
           (0x059, cv fun v _ => v.cvl.toNat / 2 ^ 32), (0x05A, word t.cvmrg), (0x05B, word t.cvsolo), (0x060, t.tcause), (0x061, t.tpc),
           (0x062, t.taddrl), (0x063, t.taddrh), (0x064, t.tmask), (0x065, word t.tvec), (0x070, word (min 255 ((assoc s.slacks t.core).getD 0))),
           (0x080, word (s.disp.cadCount % 2 ^ 16 + 2 ^ 16 * (gr.cadgen % 2 ^ 16)))] : List (Nat × Word)),
       n.toNat = c.1 → Issues (.movs g u d n) s t →
         exec (.movs g u d n) s = .next (retire (.movs g u d n) s (wrV (issued s t) d.toNat c.2 false))) ∧
  (∀ (g : Guard) (u : Bool) (d : Reg) (n : BitVec 14) (s : State) (t : Thread),
     let i : Instr := .movsw g u d n
     let x := rdV t d.toNat
     let bad : Out := .next (putThread s { t with st := .trapping { code := .illegalOperand, tpc := t.pc } })
     Issues i s t →
       (n = 0x021 → exec i s = if x.toNat ≤ 65535 then .next (retire i s { issued s t with mhb := x.toNat }) else bad) ∧
       (n = 0x030 → exec i s =
         if x.extractLsb' 4 28 = 0 ∧ (x.extractLsb' 0 3).toNat ≤ 4 then .next (retire i s { issued s t with rmode := x.toNat }) else bad) ∧
       (n = 0x031 → exec i s = if x.extractLsb' 6 26 = 0 then .next (retire i s { issued s t with flags := x.toNat }) else bad) ∧
       (n = 0x020 → x.extractLsb' 0 2 ≠ 0 → x ≠ 0xFFFFFFFF → exec i s = bad) ∧
       (n = 0x020 ∨ n = 0x021 ∨ n = 0x030 ∨ n = 0x031))

/-- R192, R35, R134: SETM, SETMX, CLRM and MOVSW to MEET write MEET and go on; when every other thread of the group with the old address,
but those in a handler and the exited, is then HELD there, all that are held there go on; else no other thread changes.
R34, R5: a hold whose bound of its core's main clocks has passed ends: every thread that the group holds at the address goes on, and nothing else changes. -/
def Obligations.MeetingAddressesHoldAndRelease : Prop :=
  (∀ (g : Guard) (u : Bool) (a : Reg) (ofs : BitVec 21) (s : State) (t : Thread),
     let x := rdV t a.toNat
     ∀ c ∈ ([(.setm g ofs, true, BitVec.ofInt 32 ((t.pc : Int) + 4 * ofs.toInt)), (.setmx g a, decide (x.toNat % 4 = 0 ∨ x = 0xFFFFFFFF), x),
           (.clrm g, true, 0xFFFFFFFF), (.movsw g u a 0x020, decide (x.toNat % 4 = 0 ∨ x = 0xFFFFFFFF), x)] : List (Instr × Bool × Word)),
       Issues c.1 s t →
         let r := retire c.1 s { issued s t with meet := c.2.2 }
         let sibling : Thread → Bool := fun v => sameGroup v t && v.meet == t.meet && !v.inHandler && v.st != .exited
         let held : Thread → Bool := fun v => sameGroup v t && v.meet == t.meet && isHeldMeet v
         (c.2.1 = true → exec c.1 s = .next (if r.threads.all (fun v => !sibling v || isHeldMeet v)
           then { r with threads := r.threads.map fun v => if held v then { v with st := .ready, meetDone := true, readySince := mainClocks s v.core } else v }
           else r)) ∧
         (c.2.1 = false → exec c.1 s = .next (putThread s { t with st := .trapping { code := .illegalOperand, tpc := t.pc } }))) ∧
  (∀ (s : State) (k since bound : Nat) (t : Thread),
     let free : Thread → Thread := fun v =>
       if sameGroup v t && v.meet == t.meet && isHeldMeet v then { v with st := .ready, meetDone := true, readySince := mainClocks s v.core } else v
     getThread s k = some t → t.st = .heldMeet since bound → since + bound ≤ mainClocks s t.core →
     exec (.meetHoldTimeout k) s = .next { s with threads := s.threads.map free })

/-- R266: CLOCK and GTIME write their pair, low word first, and FLAGS reads FLAGS and clears the flags of its mask; their destinations
lose their taint. CLOCK counts the main clocks of the core's layer. GTIME's time in each clock is a free value
of the model (Config.podTime) that never goes back, and stays at the largest value of the pair. A TRACE on a channel that is not enabled does nothing.
R266, R384: a TRACE on an enabled channel posts one TRACE record of the thread's logical name, PC, time and register to the partition's
event queue, counts a drop where the queue does not take it and the partition's owner owns the grid, and goes on; no register changes. -/
def Obligations.TimeFlagsAndTrace : Prop :=
  (∀ (g : Guard) (d a : Reg) (mask : BitVec 6) (ch : BitVec 7) (s : State) (t : Thread),
     let pair : Nat → Thread := fun x =>
       wrV (wrV (issued s t) d.toNat (BitVec.ofNat 32 x) false) (d.toNat + 1) (BitVec.ofNat 32 (x / 2 ^ 32)) false
     (Issues (.clock g d) s t → exec (.clock g d) s = .next (retire (.clock g d) s (pair (s.power.clocks.getD (t.core / 12) 0)))) ∧
     (Issues (.gtime g d) s t → exec (.gtime g d) s = .next (retire (.gtime g d) s (pair (min (Config.podTime s.clock) (2 ^ 64 - 1))))) ∧
     (Issues (.flags g d mask) s t → ∃ fl : Nat,
       (∀ i, i < 6 → fl.testBit i = ((counted t).flags.testBit i && !mask.getLsbD i)) ∧ (∀ i, 6 ≤ i → fl.testBit i = false) ∧
       exec (.flags g d mask) s = .next (retire (.flags g d mask) s { wrV (issued s t) d.toNat (word (counted t).flags) false with flags := fl })) ∧
     (Issues (.trace g a ch) s t → (debugOf s (partOf s t.grid)).trcen.getLsbD ch.toNat = false →
       exec (.trace g a ch) s = .next (retire (.trace g a ch) s (issued s t)))) ∧
  (∀ m n : Nat, m ≤ n → Config.podTime m ≤ Config.podTime n) ∧
  (∀ (g : Guard) (a : Reg) (ch : BitVec 7) (s : State) (t : Thread),
     let i : Instr := .trace g a ch
     let p := partOf s t.grid
     let now := Config.podTime s.clock
     let ws : List Word := [word (256 * ch.toNat + 2), word t.grid, word t.teamIdx, word t.tid, word t.pc, word now, word (now / 2 ^ 32), 0,
       rdV t a.toNat, 0, 0, 0, 0, 0, 0, 0]
     let o := ownerOf s t.grid
     let r := devicePush s (debugOf s p).evq [ws.take 8, ws.drop 8] (some (p, o))
     Issues i s t → (debugOf s p).trcen.getLsbD ch.toNat = true →
       exec i s = .next (retire i (if r.2 = true ∨ partOwner r.1 p ≠ o then r.1 else countPart r.1 p 11 1) (issued s t)))

/-- R266, R410: TRAP raises TRAP with its code, and BKPT raises BKPT with its code where no debugger is attached to its grid; TPC is the
instruction's offset. Nothing else changes.
R411, R272, R273: once no destination is pending, a thread with a trap vector and outside a handler takes its fault: TCAUSE, TPC,
TADDRL, TADDRH and TMASK are written together, it is in a handler, and its PC is TVEC. FLAGS takes in the flags of its results whose windows
counted (R135, R380). General registers, predicates, slots, taint, MEET, MHB, RMODE, barrier bits, convoy and outstanding operations are as before.
R266, R412: TRET outside a handler, or for an ILLEGAL_CLAUSE whose TPC names no instruction and no header, raises ILLEGAL_OPERAND.
In a handler it ends the handler. TRET.RETRY goes to TPC, into the clause that holds it; TRET.SKIP goes past the instruction at TPC and
its literal, or, where TPC is a header, to the next header; both where the headers on the way can be read. The registers stay as the handler left them. -/
def Obligations.TrapsAreTakenAndReturnedFrom : Prop :=
  (∀ (g : Guard) (code : BitVec 7) (s : State) (t : Thread),
     let fault : FaultCode → Out := fun c => .next (putThread s { t with st := .trapping { code := c, arg := code.toNat, tpc := t.pc } })
     (Issues (.trap g code) s t → exec (.trap g code) s = fault .trap) ∧
     (Issues (.bkpt g code) s t → ¬ ((debugOf s (partOf s t.grid)).attach = true ∧ (debugOf s (partOf s t.grid)).target = t.grid) →
       exec (.bkpt g code) s = fault .bkpt)) ∧
  (∀ (s : State) (k : Nat) (t : Thread) (f : FaultInfo),
     getThread s k = some t → t.st = .trapping f → t.tvec ≠ 0 → t.inHandler = false →
     (∀ w ∈ t.windows, w.poison = none → w.regs = [] ∧ w.reads = []) → (∀ r ∈ s.mem.reqs, r.serves k = false) → (∀ p ∈ s.eng.sfu, p.thread ≠ k) →
     f.arg < 128 →
     ∃ (r : State) (u : Thread), exec (.trapEntry k) s = .next r ∧ getThread r k = some u ∧
       u.tcause.extractLsb' 0 8 = BitVec.ofNat 8 f.code.num ∧ u.tcause.extractLsb' 8 7 = BitVec.ofNat 7 f.arg ∧ u.tcause.getLsbD 15 = f.late ∧
       u.tcause.extractLsb' 16 16 = 0 ∧ u.tpc = word f.tpc ∧ u.taddrl = word f.addr ∧ u.taddrh = word (f.addr / 2 ^ 32) ∧
       u.tmask = word (f.mask.getD (2 ^ t.lane)) ∧ u.inHandler = true ∧ u.pc = t.tvec ∧ u.clause = none ∧ u.st = .ready ∧
       u.v = t.v ∧ u.vt = t.vt ∧ u.p = t.p ∧ u.b = t.b ∧ u.bt = t.bt ∧ u.meet = t.meet ∧ u.mhb = t.mhb ∧ u.rmode = t.rmode ∧
       u.flags = t.windows.foldl (fun f w => f ||| w.flags) t.flags ∧ u.arrT = t.arrT ∧ u.pendT = t.pendT ∧ u.arrG = t.arrG ∧ u.pendG = t.pendG ∧ u.cv = t.cv ∧ u.outMem = t.outMem ∧ u.outCopy = t.outCopy ∧
       r.mem = s.mem ∧ r.eng = s.eng ∧ r.disp = s.disp) ∧
  (∀ (g : Guard) (s : State) (t : Thread) (gr : Grid),
     let p := t.tpc.toNat
     let back : Nat → Option ClauseCtx → Out := fun pc c =>
       .next (putThread s { issued s t with pc := pc, clause := c, inHandler := false, meetDone := false })
     getGrid s t.grid = some gr →
     (∀ i ∈ [Instr.tretRetry g, Instr.tretSkip g], Issues i s t → (t.inHandler = false ∨ t.nowhere = true) →
       exec i s = .next (putThread s { t with st := .trapping { code := .illegalOperand, tpc := t.pc } })) ∧
     (Issues (.tretRetry g) s t → t.inHandler = true → t.nowhere = false → tretStop s t gr false = .none →
       exec (.tretRetry g) s = back p (clauseHolding s t.core gr p)) ∧
     (Issues (.tretSkip g) s t → t.inHandler = true → t.nowhere = false → tretStop s t gr true = .none →
       (∀ w, clauseHolding s t.core gr p = none → codeValue s t.core gr p = some w → w < 2 ^ 32 →
         exec (.tretSkip g) s = back (p + 4 * (w / 2 ^ 28 + 1)) none) ∧
       (∀ c h, clauseHolding s t.core gr p = some c → codeValue s t.core gr c.hdr = some h →
         let q := p + if h.testBit ((p - c.hdr) / 4 - 1) && decide ((p - c.hdr) / 4 - 1 < 14) then 8 else 4
         exec (.tretSkip g) s = back q (if c.stop ≤ q then none else some c))))

/-- R410, R413, R345: a fault in a handler, or with no trap vector, terminates the grid: its fault is the grid's first unless one is recorded,
no thread of the grid is left that could issue, and no load of theirs, resident or saved, is pending; what has been stored stays, and what has left for memory or
a scratchpad bank is still performed. -/
def Obligations.UnhandledFaultTerminatesTheGrid : Prop :=
  ∀ (s : State) (k : Nat) (t : Thread) (f : FaultInfo) (g : Grid),
    getThread s k = some t → t.st = .trapping f → (t.tvec = 0 ∨ t.inHandler = true) → getGrid s t.grid = some g →
    (∀ w ∈ t.windows, w.poison = none → w.regs = [] ∧ w.reads = []) → (∀ r ∈ s.mem.reqs, r.serves k = false) → (∀ p ∈ s.eng.sfu, p.thread ≠ k) →
    (s.threads.map (·.key)).Nodup → (∀ b ∈ g.saved, ∀ u ∈ b.threads, ∀ v ∈ s.threads, u.key ≠ v.key) →
    ∃ (r : State) (g' : Grid), exec (.trapEntry k) s = .next r ∧ getGrid r t.grid = some g' ∧ g'.status = .terminated ∧
      g'.first = some (g.first.getD { code := f.code.num, team := t.teamIdx, tid := t.tid, tpc := f.tpc, addr := f.addr }) ∧
      (∀ v ∈ r.threads, v.grid = t.grid → (v.st = .exited ∨ v.st = .ended) ∧ (v.st = .ended → v.cv = none)) ∧
      (∀ q ∈ r.mem.reqs, ∀ v ∈ s.threads ++ g.saved.flatMap (·.threads), v.grid = t.grid → v.st ≠ .exited → q.serves v.key = true → q.changesBank = true) ∧
      r.mem.ops = s.mem.ops ∧ r.mem.hbm = s.mem.hbm

/-- R191, R85: a transfer to a header moves the thread there, out of its clause; CALL and CALLX write the offset after their clause to
the link, and clear its taint, the target being the old value of A. A transfer to anything else raises ILLEGAL_CLAUSE at the transfer,
and writes nothing. Where a header on the way to the target cannot be read, the transfer parks on that header's page, or raises the
fault of its fetch, POISON with LATE 1 (R408), and writes nothing (the model's choice, notes/assumptions/17.md and 81.md). -/
def Obligations.TransfersGoToHeaders : Prop :=
  ∀ (g : Guard) (d a : Reg) (far : BitVec 21) (near : BitVec 14) (s : State) (t : Thread) (gr : Grid) (cl : ClauseCtx),
    getGrid s t.grid = some gr → t.clause = some cl →
    let at_ : Int := (rdV t a.toNat).toNat
    let link : Thread := wrV (issued s t) d.toNat (word cl.stop) false
    ∀ c ∈ ([(.bra g far, (t.pc : Int) + 4 * far.toInt, issued s t), (.brx g a, at_, issued s t),
          (.call g d near, (t.pc : Int) + 4 * near.toInt, link), (.callx g d a, at_, link), (.ret g a, at_, issued s t)] :
          List (Instr × Int × Thread)),
      Issues c.1 s t →
        (∀ p : Nat, c.2.1 = p → chainAt s t.core gr p = .hdr p →
          exec c.1 s = .next (putThread s { c.2.2 with pc := p, clause := none, meetDone := false })) ∧
        ((∀ p : Nat, c.2.1 = p → chainAt s t.core gr p = .none ∨ ∃ h, h ≠ p ∧ chainAt s t.core gr p = .hdr h) →
          exec c.1 s = .next (putThread s { t with st := .trapping { code := .illegalClause, tpc := t.pc } })) ∧
        (∀ (p : Nat) (k : PageKey) (o : Nat), c.2.1 = p → chainAt s t.core gr p = .park k o →
          exec c.1 s = .next (countGrid (putThread s { t with st := .parked k (codeAddr gr o) }) t.grid 15 1)) ∧
        (∀ (p : Nat) (e : FaultCode) (o : Nat), c.2.1 = p → chainAt s t.core gr p = .fault e o → e ≠ .illegalClause →
          exec c.1 s = .next (putThread (if e = .poison then codeFound s gr o else s)
            { t with st := .trapping { code := e, late := decide (e = .poison), tpc := t.pc, addr := codeAddr gr o } }))

/-- R193, R194: YIELD and NAP put the thread in YIELDED for their count, at most 65,535 and 1,048,575; with count 0 they complete, and so
does a NAP that finds its wake token, which it takes. WAKE makes a YIELDED thread of the team with that TID go on, and gives every
other live one its token; a TID of 16,384 or more raises ILLEGAL_OPERAND. A YIELDED thread whose main clocks have passed goes on.
R208, R94, R266: FENCE at a scope S of 0 to 6 waits, BLOCKED, until the thread's earlier loads, atomics and scratchpad accesses are
performed, and its earlier stores, atomics and reductions acknowledged at S; so are those of others that its lane group could have read, which
order behind it (R396, R401; notes/assumptions/135.md, DESIGN CHOICE). Then the thread goes on, with an acquire at S. A scope register
above 6 raises ILLEGAL_OPERAND. ICINV waits for the acknowledgement at PKG, and drops the core's instruction lines of the grid's code.
R170, R289: an acquire at LAYER or wider empties the core's L1, and keeps the replies that are on their way to it from installing; an
acquire at GROUP or CORE changes nothing. Neither changes a register or a byte of memory. -/
def Obligations.YieldsEndAndFencesWait : Prop :=
  (∀ (g : Guard) (n : Src) (a : Reg) (s : State) (t : Thread),
     let c := (rdSrc t n).toNat
     let x := (rdV t a.toNat).toNat
     let asleep : Instr → Nat → Out := fun i m => .next (putThread s { issued s t with st := .yielded (mainClocks s t.core + m), blen := lengthOf i })
     let on : Thread → Thread := fun v => advance { v with st := .ready, blen := 0, readySince := mainClocks s v.core } v.blen
     (Issues (.yield g n) s t →
       exec (.yield g n) s = if c = 0 then .next (retire (.yield g n) s (issued s t)) else asleep (.yield g n) (min c 65535)) ∧
     (Issues (.nap g n) s t →
       exec (.nap g n) s = if c = 0 then .next (retire (.nap g n) s (issued s t))
         else if t.wake = true then .next (retire (.nap g n) s { issued s t with wake := false }) else asleep (.nap g n) (min c 1048575)) ∧
     (Issues (.wake g a) s t → 16384 ≤ x →
       exec (.wake g a) s = .next (putThread s { t with st := .trapping { code := .illegalOperand, tpc := t.pc } })) ∧
     (Issues (.wake g a) s t → x < 16384 →
       let r := retire (.wake g a) s (issued s t)
       let woken : Thread → Thread := fun v =>
         if v.team = t.team ∧ v.tid = x ∧ v.st ≠ .exited then (if isYielded v then on v else { v with wake := true }) else v
       exec (.wake g a) s = .next { r with threads := r.threads.map woken }) ∧
     (∀ (k e : Nat) (v : Thread), getThread s k = some v → v.st = .yielded e → e ≤ mainClocks s v.core →
       exec (.yieldExpiry k) s = .next (putThread s (on v)))) ∧
  (∀ (g : Guard) (sc : ScopeSrc) (s : State) (t w : Thread) (gr : Grid),
     let x := if sc.sfr then (rdV t sc.scr.toNat).toNat else sc.sci.toNat
     let loads : Prop := ∀ q ∈ s.mem.reqs, q.serves t.key = true → s.mem.seq ≤ q.id
     let stores : Nat → Prop := fun S => ∀ q ∈ s.mem.ops,
       ((∃ c ∈ q.contrib, c.1 = t.key ∧ c.2 < s.mem.seq) ∨ (q.seenBy t.core t.lg = true ∧ ∃ c ∈ q.contrib, c.2 < s.mem.seq)) → ackLevel S ≤ q.level
     let starts : Instr → Prop := fun i => (Issues i s t ∧ w = issued s t) ∨
       (getThread s s.cur = some t ∧ t.st = .blocked (.poll i) ∧ w = { t with st := .ready })
     let still : Instr → Out := fun i => .next (putThread s { w with st := .blocked (.poll i) })
     (starts (.fence g sc) → 6 < x →
       exec (.fence g sc) s = .next (putThread s { t with st := .trapping { code := .illegalOperand, tpc := t.pc } })) ∧
     (starts (.fence g sc) → x ≤ 6 → loads → stores x → exec (.fence g sc) s = .next (acquireAt (putThread s (advance w 4)) t.core x)) ∧
     (starts (.fence g sc) → x ≤ 6 → ¬ (loads ∧ stores x) → exec (.fence g sc) s = still (.fence g sc)) ∧
     (starts (.icinv g) → getGrid s t.grid = some gr → stores 5 →
       exec (.icinv g) s = .next { putThread s (advance w 4) with mem := { s.mem with
         icache := s.mem.icache.filter fun l => decide (¬ (l.core = t.core ∧ l.owner = gr.owner ∧ l.code = gr.code.toNat)) } }) ∧
     (starts (.icinv g) → ¬ stores 5 → exec (.icinv g) s = still (.icinv g))) ∧
  (∀ (s : State) (core S : Nat),
     let r := acquireAt s core S
     (S < 2 → r = s) ∧
     (2 ≤ S → l1Of r core = [] ∧ (∀ c, c ≠ core → l1Of r c = l1Of s c) ∧
       r = { s with mem := { s.mem with
         l1 := r.mem.l1
         reqs := s.mem.reqs.map fun q => if q.arrived = true ∧ q.stage = .atCore ∧ q.core = core then { q with noInst := true } else q
         entries := s.mem.entries.map fun e => if core ∈ e.cores then { e with noInst := e.noInst ++ [core] } else e
         fillMarks := s.mem.fillMarks.filter fun f => decide (f.1 ≠ core) } }))

/-- R210, R211, R212, R382, R206: an allowed HSET or HARM changes the declared handle's entry as Table 10 says, once the thread's earlier accesses
are settled at the scope of R206 and no lower lane of its fused set still waits at it; until then it is BLOCKED. A handle that becomes FULL
makes the records armed on it ready to spawn, and a new state releases the threads that wait for it. In any other state, and for a
handle with its error bit or not declared, HANDLE is raised and the entry stays; HARM's count must be 1 to 16,777,215, which is looked at after
the state (the model's choice where both are wrong, notes/assumptions/36.md). HWAIT goes on, as an
acquire, when the entry is as wanted, and is BLOCKED else.
R209, R14: SCOPEOF, by kind: a TID of the team, a team of the grid, a core, with a value outside Table 9's limits raising
ILLEGAL_OPERAND; and a buffer pointer, which may raise BUF_INDEX or BUF_BOUNDS. The result is 0 to 6, its taint is clear, and nothing
else changes. -/
def Obligations.HandlesAndScopes : Prop :=
  (∀ (g : Guard) (h : BitVec 6) (c : Reg) (ph : Bool) (s : State) (t w : Thread) (tm : Team),
     let n := (rdV t c.toNat).toNat
     let S := if tm.cores.length = 1 then 1 else 2
     let starts : Instr → Prop := fun i => (Issues i s t ∧ w = issued s t) ∨
       (getThread s s.cur = some t ∧ t.st = .blocked (.poll i) ∧ w = { t with st := .ready })
     let fault : FaultCode → Out := fun e => .next (putThread s { t with st := .trapping { code := e, tpc := t.pc } })
     let still : Instr → Out := fun i => .next (putThread s { w with st := .blocked (.poll i) })
     let ready : Instr → Prop := fun i => laneWaits i s w = false ∧ settledAt s w S = true
     let sets : Handle → Team → Team := fun y m => if m.key = t.team then
       { m with handles := putAt {} m.handles h.toNat y
                conts := if y.state = 2 then m.conts.map (fun k => if k.handle = h.toNat then { k with armed := false } else k) else m.conts } else m
     let put : Instr → Handle → State := fun _ y =>
       { putThread s (advance w 4) with disp := { s.disp with teams := s.disp.teams.map (sets y) } }
     getTeam s t.team = some tm →
     (∀ x, tm.handles[h.toNat]? = some x → x.err = false →
       (∀ e ∈ ([(.hsetFill g h, decide (x.state = 0), { x with state := 1 }),
             (.hsetFull g h, decide (x.state = 0 ∨ (x.state = 1 ∧ x.infl = 0)), { x with state := 2 }),
             (.hsetDrain g h, decide (x.state = 2), { x with state := 3 }),
             (.hsetFree g h, decide (x.state = 2 ∨ x.state = 3), { x with state := 0, ph := !x.ph, rcv := 0, rsv := 0 })] : List (Instr × Bool × Handle)),
           starts e.1 → ready e.1 → exec e.1 s = if e.2.1 then .next (releaseWaits (put e.1 e.2.2) t.team h.toNat e.2.2) else fault .handle) ∧
       (starts (.harm g h c) → ready (.harm g h c) →
         exec (.harm g h c) s = if x.state ≠ 0 then fault .handle else if n = 0 ∨ 16777215 < n then fault .illegalOperand
           else .next (put (.harm g h c) { x with exp := n, rcv := 0, rsv := 0 })) ∧
       (∀ e ∈ ([(.hwaitF g h ph, decide (x.state = 2 ∧ x.ph = ph)), (.hwaitE g h, decide (x.state = 0))] : List (Instr × Bool)),
         starts e.1 → exec e.1 s = if e.2 then .next (acquireAt (putThread s (advance w 4)) t.core S) else still e.1)) ∧
     (∀ i ∈ [Instr.hsetFill g h, .hsetFull g h, .hsetDrain g h, .hsetFree g h, .harm g h c],
       (starts i → ¬ ready i → exec i s = still i) ∧
       (starts i → ready i → (∀ x, tm.handles[h.toNat]? = some x → x.err = true) → exec i s = fault .handle)) ∧
     (∀ i ∈ [Instr.hwaitF g h ph, .hwaitE g h],
       starts i → (∀ x, tm.handles[h.toNat]? = some x → x.err = true) → exec i s = fault .handle)) ∧
  (∀ (s : State) (team h : Nat) (y : Handle),
     let r := releaseWaits s team h y
     let waits : Thread → Prop := fun v => v.team = team ∧
       ((∃ g k ph, v.st = .blocked (.poll (.hwaitF g k ph)) ∧ k.toNat = h ∧ y.state = 2 ∧ y.ph = ph) ∨
        (∃ g k, v.st = .blocked (.poll (.hwaitE g k)) ∧ k.toNat = h ∧ y.state = 0))
     y.err = false → (s.threads.map (·.key)).Nodup →
       (∀ v ∈ s.threads, waits v → getThread r v.key = some (advance { v with st := .ready, readySince := mainClocks s v.core } 4)) ∧
       (∀ v ∈ s.threads, ¬ waits v → getThread r v.key = some v) ∧
       (∀ v ∈ s.threads, waits v → (∀ m, getTeam s team = some m → m.cores.length ≠ 1) → (getTeam s team).isSome = true → l1Of r v.core = []) ∧
       r.disp = s.disp ∧ MemoryKept s r) ∧
  (∀ (g : Guard) (d a : Reg) (s : State) (t : Thread) (gr : Grid) (tm : Team),
     let x := (rdV t a.toNat).toNat
     let i : BitVec 2 → Instr := fun kind => .scopeof g d a kind
     let gives : BitVec 2 → Nat → Prop := fun kind v =>
       exec (i kind) s = .next (retire (i kind) s (wrV (issued s t) d.toNat (word v) false))
     let fault : BitVec 2 → FaultCode → Nat → Prop := fun kind c adr =>
       exec (i kind) s = .next (putThread s { t with st := .trapping { code := c, tpc := t.pc, addr := adr } })
     let near : Nat → Nat → Nat := fun p q => if p = q then 1 else if p / 12 = q / 12 then 2 else if p / 24 = q / 24 then 3
       else if p / 48 = q / 48 then 4 else 5
     getGrid s t.grid = some gr → getTeam s t.team = some tm →
     (Issues (i 3) s t → if x < 192 then gives 3 (near t.core x) else fault 3 .illegalOperand 0) ∧
     (Issues (i 0) s t →
       (roleOfGroup gr.roles (x / 32) = none → fault 0 .illegalOperand 0) ∧
       (∀ ro, roleOfGroup gr.roles (x / 32) = some ro →
         (ro.threads ≤ x % 32 → fault 0 .illegalOperand 0) ∧
         (x % 32 < ro.threads → ∀ v, s.threads.find? (fun v => v.team == t.team && v.tid == x && v.st != .exited) = some v →
           gives 0 (if v.core ≠ t.core then 2 else if v.lg ≠ t.lg then 1 else 0)) ∧
         (x % 32 < ro.threads → (∀ v ∈ s.threads, v.team = t.team → v.tid = x → v.st = .exited) →
           ∀ v, s.threads.find? (fun v => v.team == t.team && v.tid == x && !v.isCont) = some v →
           gives 0 (if v.core ≠ t.core then 2 else if v.lg ≠ t.lg then 1 else 0)))) ∧
     (Issues (i 1) s t →
       (gr.nteam ≤ x → fault 1 .illegalOperand 0) ∧
       (x < gr.nteam → x = t.teamIdx → tm.cores.length = 1 → gives 1 1) ∧
       (x < gr.nteam → ¬ (x = t.teamIdx ∧ tm.cores.length = 1) →
         (∀ m ∈ s.disp.teams, ¬ (m.grid = t.grid ∧ m.idx = x)) → gives 1 5) ∧
       (∀ m, x < gr.nteam → ¬ (x = t.teamIdx ∧ tm.cores.length = 1) → s.disp.teams.find? (fun m => m.grid == t.grid && m.idx == x) = some m →
         tm.cores ≠ [] → ∃ v, gives 1 v ∧ (∀ p ∈ tm.cores ++ m.cores, ∀ q ∈ tm.cores ++ m.cores, near p q ≤ v) ∧
           ∃ p ∈ tm.cores ++ m.cores, ∃ q ∈ tm.cores ++ m.cores, near p q = v)) ∧
     (Issues (i 2) s t →
       let p := (rdV t a.toNat).toNat + 2 ^ 32 * (rdV t (a.toNat + 1)).toNat
       (∃ v, (v = 3 ∨ v = 4 ∨ v = 5 ∨ v = 6) ∧ gives 2 v) ∨ fault 2 .bufIndex p ∨ fault 2 .bufBounds p))

/-- R37, R218: EXIT moves the thread to EXITED: what it has issued to memory, to the engines and to a scratchpad bank is still performed, its
outstanding loads and SFU results are discarded, its leave of its convoy is sent, and its registers stay as they are. No other thread
but one that its exit releases or faults (held at its MEET, BLOCKED at a rendezvous, a gang or a barrier) changes.
R39, R213, R210: CONT to a header, on a handle without error, takes a record, writes v0 to v7, the target and the thread into it, armed
unless the handle is FULL, and exits the thread. With no record free it is BLOCKED; on a target that is no header it raises
ILLEGAL_CLAUSE, before any record is taken; for a handle with its error bit, or not declared, it raises HANDLE.
R40, R41, R382: the record SPAWNING that has waited longest on its handle makes a thread in a free lane of a slice that continuations of the
team and role share, or, when those have none, of a free slice: READY at the target, with the identity of the thread that executed CONT, v0
to v7 from the record with clear taint, every other register 0, and no convoy. The record is free. It spawns once the stores that the original
thread could have seen before the record have left their cores' queues (R396; notes/assumptions/138.md, DEDUCED). -/
def Obligations.ThreadsEndAndContinue : Prop :=
  (∀ (g : Guard) (s : State) (t : Thread),
     let waits : Thread → Prop := fun v => isHeldMeet v = true ∨ ∃ b, v.st = .blocked b
     Issues (.exit g) s t → (s.threads.map (·.key)).Nodup →
     (∀ tm, getTeam s t.team = some tm → (∀ i ∈ tm.rdv, ∀ a ∈ i.arrs, a.thread ≠ t.key ∧ ∀ v, getThread s a.thread = some v → v.st = .blocked .rdv) ∧
       ∀ i ∈ tm.gangs, ∀ a ∈ i.arrs, a.thread ≠ t.key ∧ ∀ v, getThread s a.thread = some v → v.st = .blocked .gang) →
     ∃ (r : State) (u : Thread), exec (.exit g) s = .next r ∧ getThread r s.cur = some u ∧ u.st = .exited ∧ u.cv = none ∧ u.clause = none ∧
       RegistersKept { counted t with cv := none } u ∧ (∀ v ∈ s.threads, v.key ≠ t.key → ¬ waits v → ∃ w, getThread r v.key = some w ∧ RegistersKept v w ∧ w.st = v.st ∧ w.pc = v.pc) ∧
       r.mem.ops = s.mem.ops ∧ MemoryKept s r ∧ r.eng.copies = s.eng.copies ∧ r.eng.nm = s.eng.nm ∧
       r.eng.sfu = s.eng.sfu.filter (fun p => p.thread != t.key) ∧
       (∀ q ∈ r.mem.reqs, q.changesBank = true ∨ q.serves t.key = false) ∧
       (∀ q ∈ s.mem.reqs, q.changesBank = true ∨ q.serves t.key = false → q ∈ r.mem.reqs) ∧
       r.disp.convoys = s.disp.convoys ∧ (t.cv = none → r.disp.cvq = s.disp.cvq) ∧
       (∀ c i, t.cv = some (c, i) → ∃ x, r.disp.cvq = s.disp.cvq ++ [x] ∧ x.kind = .leave ∧ x.thread = t.key ∧ x.convoy = c ∧ x.idx = i)) ∧
  (∀ (g : Guard) (h : BitVec 6) (w : Word) (s : State) (t t1 : Thread) (gr : Grid) (tm : Team) (x : Handle),
     let i : Instr := .cont g h w
     let target : Int := (t.pc : Int) + 4 * w.toInt
     let fault : FaultCode → Out := fun e => .next (putThread s { t with st := .trapping { code := e, tpc := t.pc } })
     (Issues i s t ∧ t1 = issued s t) ∨ (getThread s s.cur = some t ∧ t.st = .blocked (.poll i) ∧ t1 = { t with st := .ready }) →
     getGrid s t.grid = some gr → getTeam s t.team = some tm →
     (∀ k ∈ tm.rdv, ∀ a ∈ k.arrs, a.thread ≠ t.key) → (∀ k ∈ tm.gangs, ∀ a ∈ k.arrs, a.thread ≠ t.key) →
     ((∀ y, tm.handles[h.toNat]? = some y → y.err = true) → exec i s = fault .handle) ∧
     (tm.handles[h.toNat]? = some x → x.err = false →
       ((∀ p : Nat, target = p → chainAt s t.core gr p = .none ∨ ∃ k, k ≠ p ∧ chainAt s t.core gr p = .hdr k) → exec i s = fault .illegalClause) ∧
       (∀ p : Nat, target = p → chainAt s t.core gr p = .hdr p →
         (takeRecord s tm t.core = none → exec i s = .next (putThread s { t1 with st := .blocked (.poll i) })) ∧
         (∀ rsv, takeRecord s tm t.core = some rsv → ∃ (r : State) (u : Thread) (tm' : Team) (k : ContRec),
           exec i s = .next r ∧ getThread r s.cur = some u ∧ u.st = .exited ∧ getTeam r t.team = some tm' ∧ tm'.conts = tm.conts ++ [k] ∧
           k.core = t.core ∧ k.handle = h.toNat ∧ k.armed = decide (x.state ≠ 2) ∧ k.target = p ∧ k.orig = t.key ∧ k.reserved = rsv ∧
           k.stamp = s.mem.seq ∧ s.mem.seq < r.mem.seq ∧
           k.v07.length = 8 ∧ (∀ n, n < 8 → k.v07.getD n 0 = rdV t n) ∧ tm'.handles = tm.handles ∧ MemoryKept s r)))) ∧
  (∀ (s : State) (k : Nat) (m : Team) (n : Nat) (rec : ContRec) (o : Thread) (g : Grid) (lg depth lane : Nat),
     let inSlice : Thread → Prop := fun v => holdsSlice v = true ∧ v.core = rec.core ∧ v.lg = lg ∧ v.depth = depth ∧ v.lane / 8 = lane / 8
     let barred : Thread → Prop := fun v => (∃ b c d e, v.st = .blocked (.tbar b c d e)) ∨ ∃ b c d e, v.st = .blocked (.gbar b c d e)
     getTeam s k = some m → m.conts[n]? = some rec → getThread s rec.orig = some o → getGrid s m.grid = some g → g.status = .running → m.saving = none →
     rec.armed = false → storesAcked s rec.orig rec.stamp 1 = true → rec.v07.length = 8 → 8 ≤ o.budget → (∀ x ∈ m.conts, x.handle = rec.handle → rec.stamp ≤ x.stamp) →
     lg < 4 → depth < 16 → lane < 32 →
     (∀ v ∈ s.threads, holdsSlice v = true → v.core = rec.core → v.lg = lg → v.depth = depth → v.lane ≠ lane) →
     (((∃ v ∈ s.threads, inSlice v) ∧ ∀ v ∈ s.threads, inSlice v → v.isCont = true ∧ v.team = k ∧ v.role = o.role) ∨
       ((∀ v ∈ s.threads, ¬ inSlice v) ∧ blocksTaken s rec.core lg [] + o.budget / 8 ≤ 512 ∧ sharedFree s m o rec.core = false)) →
     (s.threads.map (·.key)).Nodup → (∀ v ∈ s.threads, v.key ≠ s.disp.nextKey) →
     ∃ r t tm, exec (.contSpawn k n lg depth lane) s = .next r ∧ getThread r s.disp.nextKey = some t ∧ t.st = .ready ∧ t.pc = rec.target ∧
       t.isCont = true ∧ t.grid = m.grid ∧ t.team = k ∧ t.tid = o.tid ∧ t.grp = o.tid / 32 ∧ t.role = o.role ∧ t.kind = o.kind ∧ t.budget = o.budget ∧
       t.core = rec.core ∧ t.lg = lg ∧ t.depth = depth ∧ t.lane = lane ∧ t.clause = none ∧ (∀ i, i < 8 → rdV t i = rec.v07.getD i 0) ∧
       (∀ i, 8 ≤ i → rdV t i = 0) ∧ (∀ i, rdTaint t i = false) ∧ (∀ i, 0 < i → i < 128 → rdP t i = false) ∧ (∀ i, rdB t i = 0) ∧
       t.meet = 0xFFFFFFFF ∧ t.rmode = 0 ∧ t.flags = 0 ∧ t.mgang = 0 ∧ t.cv = none ∧ t.inHandler = false ∧
       getTeam r k = some tm ∧ tm.conts = m.conts.eraseIdx n ∧ tm.handles = m.handles ∧ MemoryKept s r ∧ r.mem.ops = s.mem.ops ∧ r.mem.reqs = s.mem.reqs ∧
       (∀ v ∈ s.threads, ¬ barred v → ∃ w, getThread r v.key = some w ∧ RegistersKept v w ∧ w.st = v.st ∧ w.pc = v.pc))

/-- R217 Table 12, R218, R219, R325: CVJOIN, CVLEAVE and CVSET of a member send their change to the convoy node and go on; CVJOIN raises
ILLEGAL_OPERAND for a convoy or index out of range, and CONVOY in a member of another; CVSET raises ILLEGAL_OPERAND for a limit outside its range,
and CONVOY in no member (the range first, notes/assumptions/38.md, DEDUCED); CVLEAVE in none does nothing. A fault changes nothing.
R217, R218, R219, R325: at the end of the clock a join has its outcome by the order of the table; a leave frees the index, and unbinds the
convoy with its last member; a CVSET writes its limit. All changes of one clock apply after its steps: lapses first, then leaves, joins and CVSETs,
each by core, then lane, whatever order they were sent in. R366: the tail is then the least position of the active members, and its clock moves
when it rises or the members change, be it that one leaves and joins again.
R371, R372, R366: the lapse rule, when it is due on a convoy after the clock's steps, moves every active member at the tail to lapsed; it keeps
every member's position and index; the tail rises or the convoy has no active member, and its clock is this one. -/
def Obligations.ConvoysAndTheirLapses : Prop :=
  (∀ (g : Guard) (a b : Reg) (s : State) (t : Thread),
     let c := (rdV t a.toNat).toNat
     let m := (rdV t b.toNat).toNat
     let fault : FaultCode → Out := fun e => .next (putThread s { t with st := .trapping { code := e, tpc := t.pc } })
     let sent : CvKind → Nat → Nat → State := fun k d j =>
       { s with disp := { s.disp with cvq := s.disp.cvq ++
         [{ kind := k, thread := t.key, grid := t.grid, core := t.core, lane := t.lane, convoy := d, idx := j, pc := t.pc }] } }
     (Issues (.cvjoin g a b) s t → exec (.cvjoin g a b) s =
       if 255 < c ∨ 63 < m then fault .illegalOperand
       else if t.cv ≠ none ∧ t.cv ≠ some (c, m) then fault .convoy
       else .next (retire (.cvjoin g a b) (sent .join c m) (issued s t))) ∧
     (Issues (.cvleave g) s t → t.cv = none → exec (.cvleave g) s = .next (retire (.cvleave g) s (issued s t))) ∧
     (Issues (.cvleave g) s t → ∀ d j, t.cv = some (d, j) →
       exec (.cvleave g) s = .next (retire (.cvleave g) (sent .leave d j) { issued s t with cv := none })) ∧
     (∀ e ∈ ([(.cvsetSl g a, 1, 65535, .setSl c), (.cvsetLt g a, 64, 1048575, .setLt c)] : List (Instr × Nat × Nat × CvKind)),
       Issues e.1 s t → exec e.1 s =
         if c < e.2.1 ∨ e.2.2.1 < c then fault .illegalOperand
         else match t.cv with
           | none => fault .convoy
           | some (d, j) => .next (retire e.1 (sent e.2.2.2 d j) (issued s t)))) ∧
  (∀ (s : State) (x : CvChange),
     let c := x.convoy
     let m := x.idx
     let v := convoyOf s c
     let r := applyCv s x
     let bit : BitVec 64 := BitVec.ofNat 64 (2 ^ m)
     c < 256 → m < 64 →
     (x.kind = .join → ∀ t, getThread s x.thread = some t → (t.cv = none ∨ t.cv = some (c, m)) →
       let joins : Convoy → Prop := fun w => convoyOf r c = w ∧ ∃ u, getThread r t.key = some u ∧ u.cv = some (c, m) ∧ u.cvmrg = 0 ∧ u.cvsolo = 0 ∧
         u.pc = t.pc ∧ u.st = t.st ∧ RegistersKept { t with cv := u.cv, cvmrg := 0, cvsolo := 0 } u
       if (v.bound = true ∧ v.grid ≠ x.grid) ∨ (v.holder m ≠ none ∧ v.holder m ≠ some x.thread) then
         r = putThread s { t with pc := x.pc, st := .trapping { code := .convoy, tpc := x.pc } }
       else if t.cv = some (c, m) ∧ v.active m = true then r = s
       else if t.cv = some (c, m) then
         (if v.leastPos ≤ v.posOf m ∨ v.cvm = 0 then joins { v with cvm := v.cvm ||| bit, cvl := v.cvl &&& ~~~bit, changed := true } else r = s)
       else if v.bound = false then joins { v with bound := true, grid := x.grid, sl := 8, lt := 4096, cvm := bit, cvl := 0, pos := [(m, x.thread, 0)], changed := true }
       else joins ({ v with cvm := v.cvm ||| bit, changed := true }.setPos m x.thread (if v.cvm = 0 then 0 else v.leastPos))) ∧
     (x.kind = .leave → v.holder m = some x.thread →
       (convoyOf r c).holder m = none ∧ (convoyOf r c).active m = false ∧ (convoyOf r c).lapsed m = false ∧
       (∀ i, i ≠ m → (convoyOf r c).posOf i = v.posOf i ∧ (convoyOf r c).holder i = v.holder i ∧ (i < 64 → (convoyOf r c).active i = v.active i ∧
         (convoyOf r c).lapsed i = v.lapsed i)) ∧
       ((∀ y ∈ v.pos, y.1 = m) → (convoyOf r c).bound = false) ∧ r.threads = s.threads ∧ r.mem = s.mem) ∧
     (∀ n, x.kind = .setSl n → v.holder m = some x.thread → r = putConvoy s { v with sl := n }) ∧
     (∀ n, x.kind = .setLt n → v.holder m = some x.thread → r = putConvoy s { v with lt := n }) ∧
     (∀ d, d ≠ c → convoyOf r d = convoyOf s d)) ∧
  (∀ s : State,
     let rank : CvKind → Nat := fun k => match k with
       | .lapse => 0 | .leave => 1 | .join => 2 | .setSl _ => 3 | .setLt _ => 3
     let before : CvChange → CvChange → Prop := fun x y => rank x.kind < rank y.kind ∨
       (rank x.kind = rank y.kind ∧ (x.core < y.core ∨ (x.core = y.core ∧ x.lane < y.lane)))
     let steps : List Convoy := s.disp.convoys.map fun v => afterSteps s v.id
     let stepped : Nat → Convoy := fun c => (steps.find? fun v => v.id == c).getD { id := c }
     ∃ l : List CvChange, l.Perm s.disp.cvq ∧ l.Pairwise (fun x y => ¬ before y x) ∧
       let r := l.foldl applyCv { s with disp := { s.disp with convoys := steps, cvq := [] } }
       settleConvoys s = { r with disp := { r.disp with convoys := r.disp.convoys.map fun v =>
         { retail (stepped v.id) v s.clock with changed := false } } }) ∧
  (∀ (s : State) (c : Nat),
     let v := convoyOf s c
     let o := convoySeen s c
     let w := convoyOf (settleConvoys s) c
     s.disp.cvq = [] → (s.disp.convoys.map (·.id)).Nodup →
       w.tail = v.leastPos ∧ w.pos = v.pos ∧ w.cvm = v.cvm ∧ w.cvl = v.cvl ∧
       w.tailclk = if v.cvm = 0 then v.tailclk else if o.tail < v.leastPos ∨ o.cvm ≠ v.cvm ∨ v.changed = true then s.clock else v.tailclk) ∧
  (∀ (s : State) (c : Nat),
     let v := convoyOf s c
     let o := convoySeen s c
     let moved := if o.tail < v.leastPos ∨ o.cvm ≠ v.cvm ∨ v.changed = true then s.clock else v.tailclk
     (v.pos.map (·.1)).Nodup → (∀ i, v.active i = true → i ∈ v.pos.map (·.1)) →
     v.cvm ≠ 0 → v.heldClk = some s.clock → moved + v.lt ≤ s.clock → ∃ r, exec (.convoyLapse c) s = .next r ∧
       (∀ i, i < 64 → (convoyOf r c).active i = (v.active i && decide (v.posOf i ≠ v.leastPos))) ∧
       (∀ i, i < 64 → (convoyOf r c).lapsed i = (v.lapsed i || (v.active i && decide (v.posOf i = v.leastPos)))) ∧
       (convoyOf r c).pos = v.pos ∧ (convoyOf r c).tail = (convoyOf r c).leastPos ∧ (convoyOf r c).tailclk = s.clock ∧
       ((convoyOf r c).cvm = 0 ∨ v.leastPos < (convoyOf r c).tail) ∧ r.threads = s.threads ∧ r.mem = s.mem)

/-- R195, R196, R197: a rendezvous whose mask does not name the thread's own lane raises RDV_MASK, and one whose mask names a lane that holds
no live thread of the group raises RDV_ABSENT, each with the mask in TMASK and joining nothing. The first arrival of its group and PC
opens an instance with its mask, and is BLOCKED while other lanes are named. An arrival whose mask differs from the open instance's
raises RDV_MASK in itself and in every arrival that waits, and the instance is closed.
R196, R199, R200, R89: the arrival that completes an instance releases it. Every member that writes takes its result of Table 3 or Table 4
over the operands of all arrivals, with its taint and flags; every member goes on past its instruction; and the instance is closed.
The float combinations are the model's own functions, under their own rules. -/
def Obligations.RendezvousArrivalsAndRelease : Prop :=
  (∀ (g : Guard) (d a m : Reg) (n : LaneSrc) (s : State) (t : Thread) (tm : Team),
     let mask := rdV t m.toNat
     let fault : State → FaultCode → State := fun q c => putThread q { t with st := .trapping { code := c, tpc := t.pc, mask := some mask.toNat } }
     let lanes : List Nat := (s.threads.filter fun v => sameGroup v t && v.st != .exited).map fun v => v.tid % 32
     let mine : RdvInst → Bool := fun k => k.grp == t.grp && k.contKey == contKeyOf t && k.pc == t.pc
     ∀ i ∈ [Instr.rdv g m, .shflIdx g d a m n, .shflXor g d a m n, .shflUp g d a m n, .shflDn g d a m n, .voteAll g d a m, .voteAny g d a m,
         .voteBal g d a m, .matchAny g d a m, .matchAll g d a m, .redxAddI32 g d a m, .redxMinI32 g d a m, .redxMaxI32 g d a m,
         .redxMinN32 g d a m, .redxMaxN32 g d a m, .redxAnd g d a m, .redxOr g d a m, .redxXor g d a m, .redxFadd g d a m, .redxFmin g d a m,
         .redxFmax g d a m, .scanxAddI32 g d a m, .scanxFadd g d a m],
       Issues i s t → getTeam s t.team = some tm →
         (mask.getLsbD (t.tid % 32) = false → exec i s = .next (fault s .rdvMask)) ∧
         (mask.getLsbD (t.tid % 32) = true → (∃ l, l < 32 ∧ mask.getLsbD l = true ∧ l ∉ lanes) → exec i s = .next (fault s .rdvAbsent)) ∧
         (mask.getLsbD (t.tid % 32) = true → (∀ l, l < 32 → mask.getLsbD l = true → l ∈ lanes) →
           (tm.rdv.find? mine = none → (∃ l, l < 32 ∧ mask.getLsbD l = true ∧ l ≠ t.tid % 32) →
             ∃ q u tm' k, exec i s = .next q ∧ getThread q s.cur = some u ∧ u.st = .blocked .rdv ∧ u.pc = t.pc ∧ RegistersKept (counted t) u ∧
               getTeam q t.team = some tm' ∧ tm'.rdv = tm.rdv ++ [k] ∧ mine k = true ∧ k.mask = mask.toNat ∧ k.arrs.map (·.thread) = [t.key] ∧
               k.arrs.map (·.writes) = [guardPasses t g]) ∧
           (∀ r, tm.rdv.find? mine = some r → r.mask ≠ mask.toNat → (r.arrs.map (·.thread)).Nodup → t.key ∉ r.arrs.map (·.thread) →
             ∃ q tm', exec i s = .next q ∧ getTeam q t.team = some tm' ∧ r ∉ tm'.rdv ∧
               getThread q s.cur = some { t with st := .trapping { code := .rdvMask, tpc := t.pc, mask := some mask.toNat } } ∧
               (∀ b ∈ r.arrs, ∀ v, getThread s b.thread = some v →
                 getThread q b.thread = some { v with blen := 0, st := .trapping { code := .rdvMask, tpc := v.pc, mask := some r.mask } }) ∧
               ∀ k, k ≠ t.key → k ∉ r.arrs.map (·.thread) → getThread q k = getThread s k))) ∧
  (∀ (g : Guard) (d a m : Reg) (n : LaneSrc) (s : State) (t : Thread) (tm : Team) (r : RdvInst),
     let x := rdV t a.toNat
     let xt := rdTaint t a.toNat
     let p : Word := if rdP t a.toNat then 1 else 0
     let nn := match n with
       | .imm v => v.toNat
       | .reg l => (rdV t l.toNat).toNat % 32
     let mine : Word → Bool → Nat → Nat → RdvArr := fun v tt k dd =>
       { thread := t.key, lane := t.tid % 32, val := v, taint := tt, n := k, writes := guardPasses t g, d := dd }
     let from_ : List RdvArr → RdvArr → Option Nat → RdvGives := fun P me src =>
       match P.find? (fun b => some b.lane == src) with
       | some b => .reg b.val b.taint 0
       | none => .reg me.val me.taint 0
     let lanesOf : List RdvArr → Word := fun P => (P.map fun b => (1 : Word) <<< b.lane).foldl (· ||| ·) 0
     let upTo : List RdvArr → RdvArr → List RdvArr := fun P me => P.filter fun b => decide (b.lane ≤ me.lane)
     let all : (List Word → Word) → List RdvArr → RdvGives := fun f P => .reg (f (P.map (·.val))) (P.any (·.taint)) 0
     let least : (Word → Word → Bool) → List Word → Word := fun lt vs => vs.foldl (fun b v => if lt v b then v else b) (vs.headD 0)
     let flt : RdvOp → List RdvArr → RdvGives := fun op P =>
       .reg (combine op (P.map (·.val))).1 (P.any (·.taint)) (combine op (P.map (·.val))).2
     let dd := d.toNat
     ∀ c ∈ ([(.rdv g m, .rdv, mine 0 false 0 0, fun _ _ => .none), (.shflIdx g d a m n, .shflIdx, mine x xt nn dd, fun P me => from_ P me (some me.n)),
           (.shflXor g d a m n, .shflXor, mine x xt nn dd, fun P me => from_ P me (some (me.lane ^^^ me.n))),
           (.shflUp g d a m n, .shflUp, mine x xt nn dd, fun P me => from_ P me (if me.n ≤ me.lane then some (me.lane - me.n) else none)),
           (.shflDn g d a m n, .shflDn, mine x xt nn dd, fun P me => from_ P me (if me.lane + me.n ≤ 31 then some (me.lane + me.n) else none)),
           (.voteAll g d a m, .voteAll, mine p false 0 dd, fun P _ => .pred (P.all fun b => b.val != 0)),
           (.voteAny g d a m, .voteAny, mine p false 0 dd, fun P _ => .pred (P.any fun b => b.val != 0)),
           (.voteBal g d a m, .voteBal, mine p false 0 dd, fun P _ => .reg (lanesOf (P.filter fun b => b.val != 0)) false 0),
           (.matchAny g d a m, .matchAny, mine x xt 0 dd, fun P me => .reg (lanesOf (P.filter fun b => b.val == me.val)) false 0),
           (.matchAll g d a m, .matchAll, mine x xt 0 dd, fun P me => .reg (if P.all fun b => b.val == me.val then lanesOf P else 0) false 0),
           (.redxAddI32 g d a m, .addI32, mine x xt 0 dd, fun P _ => all (fun vs => vs.foldl (· + ·) 0) P),
           (.redxMinI32 g d a m, .minI32, mine x xt 0 dd, fun P _ => all (least BitVec.slt) P),
           (.redxMaxI32 g d a m, .maxI32, mine x xt 0 dd, fun P _ => all (least fun v b => b.slt v) P),
           (.redxMinN32 g d a m, .minN32, mine x xt 0 dd, fun P _ => all (least BitVec.ult) P),
           (.redxMaxN32 g d a m, .maxN32, mine x xt 0 dd, fun P _ => all (least fun v b => b.ult v) P),
           (.redxAnd g d a m, .and, mine x xt 0 dd, fun P _ => all (fun vs => vs.foldl (· &&& ·) 0xFFFFFFFF) P),
           (.redxOr g d a m, .or, mine x xt 0 dd, fun P _ => all (fun vs => vs.foldl (· ||| ·) 0) P),
           (.redxXor g d a m, .xor, mine x xt 0 dd, fun P _ => all (fun vs => vs.foldl (· ^^^ ·) 0) P),
           (.redxFadd g d a m, .fadd, mine x xt 0 dd, fun P _ => flt .fadd P), (.redxFmin g d a m, .fmin, mine x xt 0 dd, fun P _ => flt .fmin P),
           (.redxFmax g d a m, .fmax, mine x xt 0 dd, fun P _ => flt .fmax P),
           (.scanxAddI32 g d a m, .scanAdd, mine x xt 0 dd, fun P me => all (fun vs => vs.foldl (· + ·) 0) (upTo P me)),
           (.scanxFadd g d a m, .scanFadd, mine x xt 0 dd, fun P me => flt .scanFadd (upTo P me))] :
           List (Instr × RdvOp × RdvArr × (List RdvArr → RdvArr → RdvGives))),
       let mask := rdV t m.toNat
       let P := r.arrs ++ [c.2.2.1]
       Issues c.1 s t → getTeam s t.team = some tm → r.op = c.2.1 →
       mask.getLsbD (t.tid % 32) = true →
       (∀ l, l < 32 → mask.getLsbD l = true → ∃ v ∈ s.threads, sameGroup v t = true ∧ v.st ≠ .exited ∧ v.tid % 32 = l) →
       tm.rdv.find? (fun k => k.grp == t.grp && k.contKey == contKeyOf t && k.pc == t.pc) = some r → r.mask = mask.toNat →
       (∀ l, l < 32 → mask.getLsbD l = true → ∃ b ∈ P, b.lane = l) → (P.map (·.lane)).Nodup → (∀ b ∈ P, b.lane < 32) →
       (P.map (·.thread)).Nodup → (∀ b ∈ r.arrs, ∃ v, getThread s b.thread = some v) →
       ∃ (q : State) (tm' : Team), exec c.1 s = .next q ∧ getTeam q t.team = some tm' ∧ (∀ k ∈ tm'.rdv, k ∈ tm.rdv ∧ k ≠ r) ∧
         (∀ b ∈ r.arrs, ∀ v, getThread s b.thread = some v →
           getThread q b.thread = some (unblock s (rdvTake v b (c.2.2.2 P b)))) ∧
         getThread q t.key = some (unblock s (rdvTake { issued s t with st := .blocked .rdv, blen := lengthOf c.1 } c.2.2.1 (c.2.2.2 P c.2.2.1))) ∧
         (∀ k, k ∉ P.map (·.thread) → getThread q k = getThread s k) ∧ MemoryKept s q)

/-- R201, R202, R204: an arrival by a member whose arrived bit is clear sets its arrived and pending bits, enters one arrival that is not yet counted,
with its operand, and fixes the phase's kind; ARV goes on, SYNC and RED are BLOCKED. A thread that is no member, or has its arrived bit
set, raises BARRIER and leaves the barrier as it is; an arrival of another kind raises it too, and cancels the phase: BARRIER in every thread
that waits in it, the bits of its arrivals clear, the phase number as it was. R207: a continuation thread of a member role that has to wait for the phase
current at its spawn is BLOCKED, and arrives after it.
R202, R206: a WAIT needs the pending bit: without it, or in a thread that is no member, it raises BARRIER and changes nothing else. While the
phase of the arrival goes on it is BLOCKED; when that phase has completed, it clears the bit and goes on, as an acquire at the scope of
R206. -/
def Obligations.BarrierInstructions : Prop :=
  (∀ (gd : Guard) (d a : Reg) (sub : BitVec 3) (bar : BitVec 4) (hi : Option Bool) (s : State) (t : Thread) (gr : Grid) (tm : Team),
     let n := bar.toNat
     let roles : List (List Nat) := [[0, 1, 2, 3], [0], [1], [2], [3], [0, 1], [0, 2], [0, 3], [1, 2], [1, 3], [2, 3], [0, 1, 2], [0, 1, 3],
       [0, 2, 3], [1, 2, 3]]
     let member : Bool → Prop := fun g => if g then gr.coop = true else t.role ∈ roles.getD n []
     let code := sub.toNat + (if hi = some true then 8 else 0)
     let x := rdV t a.toNat
     let xt := rdTaint t a.toNat
     let wr := guardPasses t gd
     let fault : State → Out := fun q => .next (putThread q { t with st := .trapping { code := .barrier, tpc := t.pc } })
     getGrid s t.grid = some gr → getTeam s t.team = some tm →
     ∀ c ∈ ([(.tbarSync gd bar, false, none, 0, false, .blocked (.tbar n false 0 false)), (.tbarArv gd bar, false, none, 0, false, .ready),
           (.tbarRed gd d a sub bar hi, false, some code, x, xt, .blocked (.tbar n true d.toNat wr)),
           (.gbarSync gd bar, true, none, 0, false, .blocked (.gbar n false 0 false)), (.gbarArv gd bar, true, none, 0, false, .ready),
           (.gbarRed gd d a sub bar hi, true, some code, x, xt, .blocked (.gbar n true d.toNat wr))] :
           List (Instr × Bool × Option Nat × Word × Bool × Sch)),
       let g := c.2.1
       let kind := c.2.2.1
       ∀ b, getBar s t.team t.grid g n = some b → Issues c.1 s t →
         (¬ member g → exec c.1 s = fault s) ∧
         (member g → skipsAt g n t = true → exec c.1 s = .next (putThread s { issued s t with st := .blocked (.poll c.1) })) ∧
         (skipsAt g n t = false → arrivedAt g n t = true → exec c.1 s = fault s) ∧
         (member g → skipsAt g n t = false → arrivedAt g n t = false → (b.kind = none ∨ b.kind = some kind) →
           ∃ r u b', exec c.1 s = .next r ∧ getThread r s.cur = some u ∧ getBar r t.team t.grid g n = some b' ∧ b'.phase = b.phase ∧
             b'.kind = some kind ∧
             b'.arrs = b.arrs ++ [{ thread := t.key, counted := false, val := c.2.2.2.1, taint := c.2.2.2.2.1, seq := s.mem.seq }] ∧
             arrivedAt g n u = true ∧ pendingAt g n u = true ∧
             (∀ g' k, ¬ (g' = g ∧ k = n) → arrivedAt g' k u = arrivedAt g' k t ∧ pendingAt g' k u = pendingAt g' k t) ∧
             u.st = c.2.2.2.2.2 ∧ u.pc = t.pc + (if u.st = .ready then lengthOf c.1 else 0) ∧ RegistersKept (counted t) u ∧ OthersKept s r ∧ MemoryKept s r) ∧
         (member g → skipsAt g n t = false → arrivedAt g n t = false → (∃ k, b.kind = some k ∧ k ≠ kind) → (s.threads.map (·.key)).Nodup →
           ∃ r b', exec c.1 s = .next r ∧ getBar r t.team t.grid g n = some b' ∧ b' = { phase := b.phase } ∧
             getThread r s.cur = some { t with st := .trapping { code := .barrier, tpc := t.pc } } ∧
             ∀ v ∈ s.threads, v.key ≠ s.cur → barCounts t.team t.grid g n v = true → arrivedAt g n v = true →
               ∃ w, getThread r v.key = some w ∧ arrivedAt g n w = false ∧ pendingAt g n w = false ∧ RegistersKept v w ∧ w.pc = v.pc ∧
                 w.st = if (waitsIn g n v).isSome then .trapping { code := .barrier, tpc := v.pc } else v.st)) ∧
  (∀ (gd : Guard) (bar : BitVec 4) (s : State) (t : Thread) (tm : Team),
     let n := bar.toNat
     getTeam s t.team = some tm →
     ∀ c ∈ ([(.tbarWait gd bar, false, .tbar n false 0 false, if tm.cores.length = 1 then 1 else 2), (.gbarWait gd bar, true, .gbar n false 0 false, 5)] :
         List (Instr × Bool × Block × Nat)),
       let g := c.2.1
       Issues c.1 s t →
         (barMember s t g n = false ∨ pendingAt g n t = false →
           exec c.1 s = .next (putThread s { t with st := .trapping { code := .barrier, tpc := t.pc } })) ∧
         (barMember s t g n = true → pendingAt g n t = true → arrivedAt g n t = true →
           exec c.1 s = .next (putThread s { issued s t with st := .blocked c.2.2.1, blen := 4 })) ∧
         (barMember s t g n = true → pendingAt g n t = true → arrivedAt g n t = false →
           exec c.1 s = .next (acquireAt (retire c.1 s (setPending g n false (issued s t))) t.core c.2.2.2)))

/-- R202, R205, R206, R89: an issued arrival is counted once the thread's earlier loads are performed and its stores acknowledged at the barrier's
scope. The arrival that makes every live member of a team barrier counted completes the phase: the number goes up by 1, no arrival is
left and no kind, every arrived bit clears, and every thread that waits goes on with its pending bit clear; one whose guard passed
at a RED takes the combination of every operand of the phase. Another arrival changes nothing but its own count.
R202, R364: a grid barrier's phase completes in the same way over the live threads of the grid, resident and saved; its waiting threads stay BLOCKED,
and their cores enter the release: in one clock for 24 or fewer, else in the order of R364, from the layer after the one that the last
limited release began with.
R364, R206: a resumption of a grid barrier's release, in a clock after the last one, lets the waiting threads of its next cores, at most 24, go
on, each with its pending bit clear; the other cores of the release stay, and its threads stay as they were. -/
def Obligations.BarrierPhasesComplete : Prop :=
  let lt : Nat → Word → Word → Bool := fun c x y => match c with
    | 1 => x.slt y | 2 => y.slt x | 3 => x.ult y | _ => y.ult x
  let red : Nat → List Word → Word := fun c vs => match c with
    | 0 => vs.foldl (· + ·) 0 | 5 => vs.foldl (· &&& ·) 0xFFFFFFFF | 6 => vs.foldl (· ||| ·) 0 | 7 => vs.foldl (· ^^^ ·) 0
    | 8 => (combine .fadd vs).1 | 9 => (combine .fmin vs).1 | 10 => (combine .fmax vs).1
    | c => vs.foldl (fun m x => if lt c x m then x else m) (vs.headD 0)
  (∀ (s : State) (k n : Nat) (u : Thread) (tm : Team) (b : Barrier) (a : BarArr),
     let S := if tm.cores.length = 1 then 1 else 2
     getThread s k = some u → getTeam s u.team = some tm → tm.barriers[n]? = some b → n < 15 → barCounts u.team u.grid false n u = true →
     b.arrs.find? (fun x => x.thread == k && !x.counted) = some a → loadsDone s k a.seq = true → storesAcked s k a.seq S = true →
     (s.threads.map (·.key)).Nodup → (b.arrs.map (·.thread)).Nodup → (∀ c, b.kind = some (some c) → c < 11) →
     let last : Prop := ∀ v ∈ s.threads, barCounts u.team u.grid false n v = true →
       skipsAt false n v = true ∨ ∃ x ∈ b.arrs, x.thread = v.key ∧ (x.counted = true ∨ v.key = k)
     (last → ∃ r tm', exec (.barrierArrivalCounted k n false) s = .next r ∧ getTeam r u.team = some tm' ∧
       tm'.barriers[n]? = some { phase := (b.phase + 1) % 2 ^ 32 } ∧
       ∀ v ∈ s.threads, barCounts u.team u.grid false n v = true → ∃ w, getThread r v.key = some w ∧ arrivedAt false n w = false ∧
         (∀ c d wr, waitsIn false n v = some (c, d, wr) → arrivedAt false n v = true →
           w.st = .ready ∧ w.pc = v.pc + v.blen ∧ pendingAt false n w = false ∧
           (∀ cd, c = true → wr = true → b.kind = some (some cd) →
             rdV w d = red cd (b.arrs.map (·.val)) ∧ rdTaint w d = b.arrs.any (·.taint) ∧ GeneralKept [⟨d, 1, 1⟩] v w) ∧
           ((c = false ∨ wr = false) → w.v = v.v ∧ w.vt = v.vt)) ∧
         (waitsIn false n v = none → RegistersKept v w ∧ w.pc = v.pc ∧ w.st = v.st ∧ pendingAt false n w = pendingAt false n v)) ∧
     (¬ last → ∃ r tm', exec (.barrierArrivalCounted k n false) s = .next r ∧ getTeam r u.team = some tm' ∧ r.threads = s.threads ∧
       tm'.barriers[n]? = some { b with arrs := b.arrs.map fun x => if x.thread == k then { x with counted := true } else x })) ∧
  (∀ (s : State) (k n : Nat) (u : Thread) (gr : Grid) (b : Barrier) (a : BarArr),
     let live : Thread → Prop := fun v => v.grid = u.grid ∧ v.st ≠ .exited
     let waiting := s.threads.filter fun v => v.grid == u.grid && v.st != .exited && (waitsIn true n v).isSome && arrivedAt true n v
     let cores := (waiting.map (·.core)).eraseDups
     let place : Nat → Nat := fun c => (c / 12 + 15 - s.disp.slewLast) % 16
     getThread s k = some u → getGrid s u.grid = some gr → gr.gbars[n]? = some b → n < 8 → u.st ≠ .exited →
     b.arrs.find? (fun x => x.thread == k && !x.counted) = some a → loadsDone s k a.seq = true → storesAcked s k a.seq 5 = true →
     ((s.threads ++ gr.saved.flatMap (·.threads)).map (·.key)).Nodup → (b.arrs.map (·.thread)).Nodup → (∀ c, b.kind = some (some c) → c < 11) →
     s.disp.slewLast < 16 → (∀ v ∈ waiting, v.core < 192) →
     let last : Prop := ∀ v ∈ s.threads ++ gr.saved.flatMap (·.threads), live v →
       skipsAt true n v = true ∨ ∃ x ∈ b.arrs, x.thread = v.key ∧ (x.counted = true ∨ v.key = k)
     (last → ∃ r g', exec (.barrierArrivalCounted k n true) s = .next r ∧ getGrid r u.grid = some g' ∧
       g'.gbars[n]? = some { phase := (b.phase + 1) % 2 ^ 32 } ∧
       (∀ v ∈ s.threads, live v → ∃ w, getThread r v.key = some w ∧ arrivedAt true n w = false ∧ pendingAt true n w = pendingAt true n v ∧
         w.st = v.st ∧ w.pc = v.pc ∧
         (∀ d cd, waitsIn true n v = some (true, d, true) → arrivedAt true n v = true → b.kind = some (some cd) →
           rdV w d = red cd (b.arrs.map (·.val)) ∧ rdTaint w d = b.arrs.any (·.taint) ∧ GeneralKept [⟨d, 1, 1⟩] v w) ∧
         ((∀ d, waitsIn true n v ≠ some (true, d, true)) → w.v = v.v ∧ w.vt = v.vt)) ∧
       (waiting = [] → r.disp.slew = s.disp.slew) ∧
       (waiting ≠ [] → ∃ order : List Nat, order.Perm cores ∧ (24 < cores.length → order.Pairwise fun c d => place c < place d ∨ (place c = place d ∧ c < d)) ∧
         r.disp.slew = s.disp.slew ++ [{ grid := u.grid, bar := n, cores := order, clock := s.clock }] ∧
         r.disp.slewLast = if 24 < cores.length then (order.headD 0) / 12 else s.disp.slewLast) ∧ r.mem = s.mem) ∧
     (¬ last → ∃ r g', exec (.barrierArrivalCounted k n true) s = .next r ∧ getGrid r u.grid = some g' ∧ r.threads = s.threads ∧
       g'.gbars[n]? = some { b with arrs := b.arrs.map fun x => if x.thread == k then { x with counted := true } else x })) ∧
  (∀ (s : State) (gr n : Nat) (x : Slew),
     s.disp.slew.find? (fun y => y.grid == gr && y.bar == n) = some x → x.clock < s.clock → (s.threads.map (·.key)).Nodup →
     ∃ r, exec (.slewResume gr n) s = .next r ∧
       (∀ v ∈ s.threads, v.grid = gr → v.core ∈ x.cores.take 24 → (waitsIn true n v).isSome = true → arrivedAt true n v = false →
         ∃ w, getThread r v.key = some w ∧ w.st = .ready ∧ w.pc = v.pc + v.blen ∧ pendingAt true n w = false ∧ RegistersKept v w) ∧
       (∀ v ∈ s.threads, ¬ (v.grid = gr ∧ v.core ∈ x.cores.take 24) → getThread r v.key = some v) ∧
       (x.cores.length ≤ 24 → x ∉ r.disp.slew) ∧
       (24 < x.cores.length → { x with cores := x.cores.drop 24, clock := s.clock } ∈ r.disp.slew) ∧ MemoryKept s r)

/-- R214, R215, R216: QPUSH, QPUSH.D, QPOP and the non-blocking forms hand one operation, with the words of the entry, to the queue unit and wait for
it; QLEN gives the number of entries on chip and in the ring. A queue that is not enabled, of another owner, stopped by a ring fault, or
a launch queue used by anything but QPUSH.D, raises QUEUE, with the ring address where one stopped it, and nothing else changes.
R215, R216, R340: the queue unit's step of one operation whose turn it is, on a queue that may go on. A push with an empty ring and room
on chip appends its entries; a pop with an empty ring takes the oldest entry into eight registers, whose taint is clear, as an acquire at
PKG; a non-blocking form sets its predicate. On an empty queue a blocking pop waits behind those that wait already, with its fused set,
and a non-blocking one clears its predicate and goes on, as any non-blocking form does while the rest of a fused set of its direction is
BLOCKED; a form that may wait goes behind the BLOCKED operations of its direction. That an operation blocks with its fused set behind it,
and that the non-blocking forms pass blocked ones that cannot be performed, is the model's reading (notes/assumptions/42.md, DEDUCED).
R361: an operation that other ones come before waits at the queue unit's input. -/
def Obligations.QueueInstructionsAndTheQueueUnit : Prop :=
  (∀ (g : Guard) (d p : Reg) (q : BitVec 8) (s : State) (t : Thread) (gr : Grid),
     let n := q.toNat
     let fault : Nat → Out := fun adr => .next (putThread s { t with st := .trapping { code := .queue, tpc := t.pc, addr := adr } })
     let regs : Nat → List Word := fun k => (List.range k).map fun j => rdV t (d.toNat + j)
     let sends : Instr → QOpKind → List Word → Out := fun i k ws =>
       .next (withDisp (putThread s { issued s t with st := .blocked .queueOp, blen := lengthOf i }) fun x =>
         { x with qops := x.qops ++ [{ q := n, thread := t.key, kind := k, d := d.toNat, words := ws, after := s.mem.seq, fset := s.mem.uid, left := s.clock, slack := slackOf s t.core }] })
     getGrid s t.grid = some gr →
     ∀ c ∈ ([(.qpush g d q, false, sends (.qpush g d q) .push (regs 8)), (.qpushD g d q, true, sends (.qpushD g d q) .pushD (regs 16)),
           (.qpop g d q, false, sends (.qpop g d q) .pop []), (.qpushNb g d q p, false, sends (.qpushNb g d q p) (.pushNb p.toNat) (regs 8)),
           (.qpopNb g d q p, false, sends (.qpopNb g d q p) (.popNb p.toNat) []),
           (.qlen g d q, false, .next (retire (.qlen g d q) s (wrV (issued s t) d.toNat
             (word (((queueFor s n).map fun h => h.fifo.length + (h.tail + 2 ^ 32 - h.head) % 2 ^ 32).getD 0)) false)))] : List (Instr × Bool × Out)),
       Issues c.1 s t →
         (queueFor s n = none → exec c.1 s = fault 0) ∧
         ∀ h, queueFor s n = some h →
           (h.owner ≠ gr.owner → exec c.1 s = fault 0) ∧
           (h.owner = gr.owner → h.kind = 1 → c.2.1 = false → exec c.1 s = fault 0) ∧
           (h.owner = gr.owner → (h.kind = 1 → c.2.1 = true) →
             (∀ adr, h.stopped = some adr → exec c.1 s = fault adr) ∧ (h.stopped = none → exec c.1 s = c.2.2))) ∧
  (∀ (s : State) (n k : Nat) (o : QOp) (h : HwQueue) (t : Thread) (gr : Grid),
     let on : Thread → Thread := fun v => advance { v with st := .ready, blen := 0, readySince := mainClocks s v.core } v.blen
     let mine : QOp → Bool := fun x => x.q == o.q && x.fset == o.fset
     let later : List QOp := s.disp.qops.filter (fun x => !mine x) ++ (s.disp.qops.filter mine).map fun x => if x = o then { x with blocked := true } else x
     let behind : Out := .next { s with disp := { s.disp with qops := later } }
     qopOf s n k = some o → (s.disp.qops.filter fun x => x.q == n && x.thread == k) = [o] → qopReady s o = true →
     queueFor s n = some h → h.q = n → getThread s k = some t → unitPusher k = false →
     getGrid s t.grid = some gr → h.owner = gr.owner → (h.kind = 1 → o.kind = .pushD) → h.stopped = none → h.tail = h.head → h.head < 2 ^ 32 →
     (o.never = false → blockedAhead s o ≠ [] → o.blocked = false → exec (.queuePerform n k) s = behind) ∧
     (o.never = true → halfDone s o ≠ [] → ∀ p, o.kind = .pushNb p ∨ o.kind = .popNb p →
       ∃ r, exec (.queuePerform n k) s = .next r ∧ getThread r k = some (on (wrP t p false)) ∧ queueFor r n = some h ∧ r.mem = s.mem) ∧
     ((o.never = true ∧ halfDone s o = []) ∨ (o.never = false ∧ blockedAhead s o = []) →
       (∀ ws, o.kind = .push ∨ o.kind = .pushD ∨ (∃ p, o.kind = .pushNb p) → o.words = ws → (ws.length = 8 ∨ ws.length = 16) →
         h.fifo.length + ws.length / 8 ≤ 32 →
         ∃ r h', exec (.queuePerform n k) s = .next r ∧ queueFor r n = some h' ∧ h'.fifo.map (·.words) = h.fifo.map (·.words) ++
             (if ws.length = 8 then [ws] else [ws.take 8, ws.drop 8]) ∧ h'.head = h.head ∧ h'.tail = h.tail ∧
           getThread r k = some (on (match o.kind with | .pushNb p => wrP t p true | _ => t)) ∧ qopOf r n k = none ∧ r.mem = s.mem) ∧
       (∀ e es, o.kind = .pop ∨ (∃ p, o.kind = .popNb p) → h.fifo = e :: es → e.words.length = 8 →
         ∃ r h' u, exec (.queuePerform n k) s = .next r ∧ queueFor r n = some h' ∧ h'.fifo = es ∧ getThread r k = some u ∧ u.st = .ready ∧
           u.pc = t.pc + t.blen ∧ (∀ j, j < 8 → rdV u (o.d + j) = e.words.getD j 0 ∧ rdTaint u (o.d + j) = false) ∧
           GeneralKept [⟨o.d, 8, 8⟩] t u ∧ (∀ p, o.kind = .popNb p → rdP u p = true) ∧ l1Of r t.core = [] ∧ MemoryKept s r) ∧
       (h.fifo = [] →
         (o.kind = .pop → o.blocked = false → exec (.queuePerform n k) s = behind) ∧
         (∀ p, o.kind = .popNb p → ∃ r, exec (.queuePerform n k) s = .next r ∧ getThread r k = some (on (wrP t p false)) ∧
           queueFor r n = some h ∧ r.mem = s.mem)))) ∧
  (∀ (s : State) (n k : Nat) (o : QOp), qopOf s n k = some o → qopReady s o = false → qopReleased s o = true → frontQop s o = true →
     o.blocked = false → o.started = false → o.arrived = false → (qopBusy s o = true ∨ inputBehind s o = true) →
     exec (.queuePerform n k) s = .next { s with disp := { s.disp with
       qops := s.disp.qops.map fun x => if x = o then { x with arrived := true } else x } })

/-- R154 to R157, R313, R317: checks 1 to 6 of a global access, in their order, for every load, store, atomic and reduction (of LDV, where its
convoy does not hold the thread): the first that fails raises its fault, with the buffer's index and the offset in the address, no byte is
written, and no request or store is entered; an owner without a valid record fails check 2 at every index. A caddy's bounds are those of the
generation that the grid has pinned (KIND 1) or that is LOADING (KIND 2); without one the access fails check 2 (the model's choice,
notes/assumptions/134.md). R155, R320, R409: a page that the core has not looked up yet is entered in its miss table, and the thread waits; one
that is missing parks the thread, with the address; a refused one raises PAGE_DENIED; of a REMOTE buffer the owning package says which. -/
def Obligations.GlobalAccessChecksInOrder : Prop :=
  ∀ (g : Guard) (u : Bool) (d a : Reg) (la : BitVec 4) (bs : BitVec 3) (off : Option Word) (o : OrdLit) (s : State) (t : Thread) (gr : Grid),
    let plain : Int := match off with
      | none => 0
      | some w => w.toInt
    let ord : Int := o.ofs.toInt
    let p := (rdB t bs.toNat).toNat
    let idx := p / 2 ^ 48
    getGrid s t.grid = some gr → t.acquires = 0 → slotsFull s t.core = false →
    (if o.sfr then (rdV t o.scr.toNat).toNat else o.sci.toNat) ≤ 6 →
    ∀ c ∈ ([(.ldN8 g u d a la bs off, plain, 1, 1, 0), (.ldI8 g u d a la bs off, plain, 1, 1, 0), (.ldN16 g u d a la bs off, plain, 2, 2, 0),
          (.ldI16 g u d a la bs off, plain, 2, 2, 0), (.ldW g u d a la bs off, plain, 4, 4, 0), (.ldD g u d a la bs off, plain, 8, 8, 0),
          (.ldQ g u d a la bs off, plain, 16, 16, 0), (.ldO g u d a la bs off, plain, 32, 32, 0), (.ldcW g u d a la bs off, plain, 4, 4, 0),
          (.ldcD g u d a la bs off, plain, 8, 8, 0), (.ldaW g u d a la bs o, ord, 4, 4, 0), (.ldaD g u d a la bs o, ord, 8, 8, 0),
          (.ldapW g u d a la bs o, ord, 4, 4, 0), (.stB g d a la bs off, plain, 1, 1, 1), (.stH g d a la bs off, plain, 2, 2, 1),
          (.stW g d a la bs off, plain, 4, 4, 1), (.stD g d a la bs off, plain, 8, 8, 1), (.stQ g d a la bs off, plain, 16, 16, 1),
          (.stO g d a la bs off, plain, 32, 32, 1), (.stlW g d a la bs o, ord, 4, 4, 1), (.stlD g d a la bs o, ord, 8, 8, 1),
          (.atomAdd g d a la bs off, plain, 4, 4, 2), (.atomMinI32 g d a la bs off, plain, 4, 4, 2), (.atomMaxI32 g d a la bs off, plain, 4, 4, 2),
          (.atomMinN32 g d a la bs off, plain, 4, 4, 2), (.atomMaxN32 g d a la bs off, plain, 4, 4, 2), (.atomAnd g d a la bs off, plain, 4, 4, 2),
          (.atomOr g d a la bs off, plain, 4, 4, 2), (.atomXor g d a la bs off, plain, 4, 4, 2), (.atomXchg g d a la bs off, plain, 4, 4, 2),
          (.atomCas g d a la bs off, plain, 4, 4, 2), (.atomIncw g d a la bs off, plain, 4, 4, 2), (.atomAdd64 g d a la bs off, plain, 8, 8, 2),
          (.atomCas64 g d a la bs off, plain, 8, 8, 2), (.atomFadd g d a la bs off, plain, 4, 4, 2), (.atomWrd g d a la bs off, plain, 48, 64, 2),
          (.redAdd g d a la bs off, plain, 4, 4, 2), (.redFadd g d a la bs off, plain, 4, 4, 2), (.redWadd g d a la bs off, plain, 48, 64, 2),
          (.redMaxI32 g d a la bs off, plain, 4, 4, 2)] ++ (if t.stepped || !convoyHolds s t then
          [(.ldvW g u d a la bs off, plain, 4, 4, 0), (.ldvD g u d a la bs off, plain, 8, 8, 0), (.ldvQ g u d a la bs off, plain, 16, 16, 0),
            (.ldvO g u d a la bs off, plain, 32, 32, 0)] else []) : List (Instr × Int × Nat × Nat × Nat)),
      let at_ : Int := (p % 2 ^ 48 : Nat) + ((rdV t a.toNat).toNat : Int) + c.2.1
      let size := c.2.2.1
      let right := c.2.2.2.2
      let fault : FaultCode → Prop := fun e => ∃ r, exec c.1 s = .next r ∧
        getThread r s.cur = some { t with stepped := false
                                          st := .trapping { code := e, tpc := t.pc, addr := idx * 2 ^ 48 + (at_ % (2 ^ 48 : Int)).toNat } } ∧
        r.mem.hbm = s.mem.hbm ∧ r.mem.pods = s.mem.pods ∧ r.mem.reqs = s.mem.reqs ∧ r.mem.ops = s.mem.ops ∧ OthersKept s r
      let adr := idx * 2 ^ 48 + (at_ % (2 ^ 48 : Int)).toNat
      let still : State → Sch → Prop := fun r st => ∃ w, getThread r s.cur = some w ∧ w = { t with stepped := w.stepped, st := st } ∧
        r.mem.hbm = s.mem.hbm ∧ r.mem.pods = s.mem.pods ∧ r.mem.reqs = s.mem.reqs ∧ r.mem.ops = s.mem.ops ∧ OthersKept s r
      let parks : PageKey → Prop := fun k => ∃ r, exec c.1 s = .next r ∧ still r (.parked k adr)
      Issues c.1 s t → (right ≠ 0 → queueFull s t size = false) →
        (at_ % (c.2.2.2.1 : Int) ≠ 0 → fault .misaligned) ∧
        (at_ % (c.2.2.2.1 : Int) = 0 →
          (idx = 0 ∨ ownerRec s gr.owner = none → fault .bufIndex) ∧
          (ownerRec s gr.owner ≠ none → idx = 1 →
            (at_ < 0 ∨ 256 < at_ + size → fault .bufBounds) ∧ (0 ≤ at_ → at_ + size ≤ 256 → right ≠ 0 → fault .bufRights)) ∧
          (ownerRec s gr.owner ≠ none → 1 < idx →
            ((∀ ws, bufFor s (some t.core) gr.owner idx = some ws → bufValid s gr.owner ws = false) → fault .bufIndex) ∧
            ∀ ws, bufFor s (some t.core) gr.owner idx = some ws → bufValid s gr.owner ws = true →
              let e := decodeBuf ws
              let gen := if e.kind = 1 then assoc gr.pins e.cslot else caddyGenIn s e.cslot 1
              (e.kind ≠ 0 → gen = none → fault .bufIndex) ∧
              ∀ base len : Nat, ((e.kind = 0 ∧ base = e.base ∧ len = e.len) ∨
                  (e.kind ≠ 0 ∧ ∃ k, gen = some k ∧ base = caddyBase s e.cslot k ∧ len = min e.len (caddyLen s e.cslot k))) →
                (at_ < 0 ∨ (len : Int) < at_ + size → fault .bufBounds) ∧
                (0 ≤ at_ → at_ + size ≤ len → bitOf e.rights right = false ∨ (e.kind = 0 ∧ e.owner ≠ gr.owner) → fault .bufRights) ∧
                (0 ≤ at_ → at_ + size ≤ len → bitOf e.rights right = true → (e.kind = 0 → e.owner = gr.owner) →
                  let far := remotePage gr.owner e.rpkg (remoteAddr gr.owner idx at_.toNat)
                  let near := pageOf (if e.kind = 0 then gr.owner else caddyTag s e.cslot) (base + at_.toNat) (if e.kind = 0 then e.psz else 3)
                  (e.kind = 0 → e.mode = 4 → (assoc s.mem.podPages far = some .missing → parks far) ∧
                    (assoc s.mem.podPages far = some .refused → fault .pageDenied)) ∧
                  (¬ (e.kind = 0 ∧ e.mode = 4) →
                    (tlbFor s t.core near = some .denied → fault .pageDenied) ∧
                    (∀ tier, tlbFor s t.core near = some (.missing tier) → parks near) ∧
                    (tlbFor s t.core near = none → (t.core, near) ∉ s.mem.miss → (s.mem.miss.filter fun x => x.1 == t.core).length < 256 →
                      ∃ r, exec c.1 s = .next r ∧ still r .ready ∧ r.mem.miss = s.mem.miss ++ [(t.core, near)])))))

/-- R163, R166, R167, R170, R172, R173, R378, R379: a global load whose checks pass enters one request for its bytes, of its size, its format, its
destinations and its kind: LDC to home or the store queue, with tainted destinations; LDA and LDAP at their scope, holding the thread's later
accesses; LDAP with a PROMOTE for every core inside the scope. The destinations are pending for LA instructions. The thread goes on; no
register and no byte changes. R275, R361: the request carries the clock in which it leaves the core and the core's slack.
R162: under U a later member of the set enters no request, and waits for its leader's.
R175, R365: an LDV of a member is tested before any fault of the access: an active member at CVTAIL + CVSL or beyond is HELD, and neither steps nor
loads; every other member steps once, and then enters its load, which counts its reply. -/
def Obligations.LoadsEnterOneRequest : Prop :=
  (∀ (g : Guard) (u : Bool) (d a : Reg) (la : BitVec 4) (bs : BitVec 3) (off : Option Word) (o : OrdLit) (s : State) (t : Thread) (gr : Grid)
       (tgt : Target),
     let plain : Int := match off with
       | none => 0
       | some w => w.toInt
     let p := (rdB t bs.toNat).toNat
     let S := if o.sfr then (rdV t o.scr.toNat).toNat else o.sci.toNat
     let tainted := rdTaint t a.toNat || t.bt.getD bs.toNat false
     getGrid s t.grid = some gr → t.acquires = 0 → slotsFull s t.core = false → S ≤ 6 → t.cv = none →
     (tgt.pkg ≠ none ∨ 2 ^ 60 ≤ tgt.phys ∨ physOk tgt.phys = true) →
     ∀ c ∈ ([(.ldN8 g u d a la bs off, plain, 1, 1, .zext 8, false, none, false), (.ldI8 g u d a la bs off, plain, 1, 1, .sext 8, false, none, false),
           (.ldN16 g u d a la bs off, plain, 2, 1, .zext 16, false, none, false), (.ldI16 g u d a la bs off, plain, 2, 1, .sext 16, false, none, false),
           (.ldW g u d a la bs off, plain, 4, 1, .words 1, false, none, false), (.ldD g u d a la bs off, plain, 8, 2, .words 2, false, none, false),
           (.ldQ g u d a la bs off, plain, 16, 4, .words 4, false, none, false), (.ldO g u d a la bs off, plain, 32, 8, .words 8, false, none, false),
           (.ldcW g u d a la bs off, plain, 4, 1, .words 1, true, none, false), (.ldcD g u d a la bs off, plain, 8, 2, .words 2, true, none, false),
           (.ldvW g u d a la bs off, plain, 4, 1, .words 1, false, none, false), (.ldvD g u d a la bs off, plain, 8, 2, .words 2, false, none, false),
           (.ldvQ g u d a la bs off, plain, 16, 4, .words 4, false, none, false), (.ldvO g u d a la bs off, plain, 32, 8, .words 8, false, none, false),
           (.ldaW g u d a la bs o, o.ofs.toInt, 4, 1, .words 1, false, some S, false), (.ldaD g u d a la bs o, o.ofs.toInt, 8, 2, .words 2, false, some S, false),
           (.ldapW g u d a la bs o, o.ofs.toInt, 4, 1, .words 1, false, some S, true)] :
           List (Instr × Int × Nat × Nat × LoadFmt × Bool × Option Nat × Bool)),
       let size := c.2.2.1
       let n := c.2.2.2.1
       let ldc := c.2.2.2.2.2.1
       let acq := c.2.2.2.2.2.2.1
       let access : Access := { core := some t.core, owner := gr.owner, grid := t.grid, idx := p / 2 ^ 48
                                off := (p % 2 ^ 48 : Nat) + ((rdV t a.toNat).toNat : Int) + c.2.1, size := size, align := size, right := 0 }
       let goesOn : State → Thread → Nat → Prop := fun r w id =>
         w.acquires = (if acq.isSome then 1 else 0) ∧ w.outMem = { count := t.outMem.count + 1, pc := t.pc } ∧
         w.windows = tickWindows t.windows ++ [{ id := id, pc := t.pc, remain := la.toNat, regs := (List.range n).map (d.toNat + ·), dests := (List.range n).map (d.toNat + ·) }] ∧
         w.pc = t.pc + lengthOf c.1 ∧ w.st = .ready ∧ RegistersKept (counted t) w ∧ r.mem.ops = s.mem.ops ∧ OthersKept s r ∧ MemoryKept s r
       Issues c.1 s t → checkAccess (cacheBuf s t.core gr.owner (p / 2 ^ 48)) access = .ok tgt →
       (∀ k, uBit c.1 = true → s.ureq = some k → ∃ (r : State) (w : Thread), exec c.1 s = .next r ∧ getThread r s.cur = some w ∧ goesOn r w k ∧
         r.mem.reqs = s.mem.reqs.map fun x => if x.id = k then { x with mates := x.mates ++ [(t.key, none)] } else x) ∧
       ((uBit c.1 = true → s.ureq = none) →
       ∃ (r : State) (w : Thread) (q : Req), exec c.1 s = .next r ∧ getThread r s.cur = some w ∧ goesOn r w s.mem.seq ∧
         r.mem.reqs = s.mem.reqs ++ [q] ∧ (uBit c.1 = true → r.ureq = some s.mem.seq) ∧ q.left = s.clock ∧ q.slack = slackOf s t.core ∧ q.mates = [] ∧
         q.id = s.mem.seq ∧ q.thread = t.key ∧ q.pc = t.pc ∧ q.core = t.core ∧ q.lg = t.lg ∧ q.grid = t.grid ∧ q.tgt = tgt ∧ q.size = size ∧
         q.fmt = c.2.2.2.2.1 ∧ q.d = d.toNat ∧ q.stage = .atCore ∧ q.ldc = ldc ∧ q.acq = acq ∧ q.atomic = false ∧ q.stream = none ∧
         q.copy = none ∧ q.noL1 = (ldc || tainted || acq.any (2 ≤ ·)) ∧ q.own = (acq == some 1) ∧ q.noInstall = acq.any (2 ≤ ·) ∧
         ∀ core, core < 192 → ((assoc q.promote core).isSome = true ↔ c.2.2.2.2.2.2.2 = true ∧ scopeOfCores t.core core ≤ max 1 S))) ∧
  (∀ (g : Guard) (u : Bool) (d a : Reg) (la : BitVec 4) (bs : BitVec 3) (off : Option Word) (s : State) (t : Thread) (gr : Grid) (tgt : Target)
       (cv i : Nat),
     let lit : Int := match off with
       | none => 0
       | some w => w.toInt
     let p := (rdB t bs.toNat).toNat
     let seen := convoySeen s cv
     let v := convoyOf s cv
     let held : Prop := seen.active i = true ∧ seen.tail + seen.sl ≤ v.posOf i
     getGrid s t.grid = some gr → t.acquires = 0 → slotsFull s t.core = false → t.cv = some (cv, i) → t.stepped = false →
     v.holder i = some t.key → (tgt.pkg ≠ none ∨ 2 ^ 60 ≤ tgt.phys ∨ physOk tgt.phys = true) →
     ∀ c ∈ ([(.ldvW g u d a la bs off, 4, 1), (.ldvD g u d a la bs off, 8, 2), (.ldvQ g u d a la bs off, 16, 4), (.ldvO g u d a la bs off, 32, 8)] :
         List (Instr × Nat × Nat)),
       let access : Access := { core := some t.core, owner := gr.owner, grid := t.grid, idx := p / 2 ^ 48
                                off := (p % 2 ^ 48 : Nat) + ((rdV t a.toNat).toNat : Int) + lit, size := c.2.1, align := c.2.1, right := 0 }
       Issues c.1 s t →
         (held → ∃ r, exec c.1 s = .next r ∧ getThread r s.cur = some { t with st := .heldConvoy } ∧ r.mem = s.mem ∧
           (convoyOf r cv).posOf i = v.posOf i) ∧
         (¬ held → (∀ b ∈ [access], b.off % (b.align : Int) ≠ 0) → ∃ (r : State) (w : Thread) (f : FaultInfo), exec c.1 s = .next r ∧ getThread r s.cur = some w ∧
           w.st = .trapping f ∧ f.code = .misaligned ∧ r.mem.reqs = s.mem.reqs ∧ (convoyOf r cv).posOf i = v.posOf i + 1) ∧
         (¬ held → (uBit c.1 = true → s.ureq = none) → checkAccess (cacheBuf s t.core gr.owner (p / 2 ^ 48)) access = .ok tgt →
           ∃ (r : State) (w : Thread) (q : Req), exec c.1 s = .next r ∧ getThread r s.cur = some w ∧ r.mem.reqs = s.mem.reqs ++ [q] ∧ q.thread = t.key ∧ q.tgt = tgt ∧
             q.size = c.2.1 ∧ q.fmt = .words c.2.2 ∧ q.d = d.toNat ∧ q.stream = some t.cvStamp ∧ q.stage = .atCore ∧ q.ldc = false ∧
             (convoyOf r cv).posOf i = v.posOf i + 1 ∧ w.pc = t.pc + lengthOf c.1 ∧ w.stepped = false ∧
             w.windows = tickWindows t.windows ++ [{ id := s.mem.seq, pc := t.pc, remain := la.toNat, regs := (List.range c.2.2).map (d.toNat + ·)
                                                     dests := (List.range c.2.2).map (d.toNat + ·) }] ∧
             RegistersKept (counted t) w ∧ MemoryKept s r))

/-- R168, R171, R180, R181, R286: a store enters its bytes, read at issue, in the lane group's queue: in an entry of its own, or, when plain, merged over the
youngest entry of its chunk and grid; a release keeps an entry of its own, with its scope and its place. An atomic or reduction enters one
entry with its operands; an atomic's destinations are pending. The thread goes on; no register and no byte of memory changes. (No
debugger watches the grid here.) -/
def Obligations.StoresAndAtomicsEnterTheQueue : Prop :=
  ∀ (g : Guard) (d a : Reg) (la : BitVec 4) (bs : BitVec 3) (off : Option Word) (o : OrdLit) (s : State) (t : Thread) (gr : Grid) (tgt : Target),
    let plain : Int := match off with
      | none => 0
      | some w => w.toInt
    let p := (rdB t bs.toNat).toNat
    let S := if o.sfr then (rdV t o.scr.toNat).toNat else o.sci.toNat
    let byte : Nat → Byte := fun k => (rdV t (d.toNat + k / 4)).extractLsb' (8 * (k % 4)) 8
    let bytes : Nat → List (Nat × Byte) := fun n => (List.range n).map fun k => (tgt.phys + k, byte k)
    let access : Int → Nat → Nat → Nat → Access := fun l size align right =>
      { core := some t.core, owner := gr.owner, grid := t.grid, idx := p / 2 ^ 48
        off := (p % 2 ^ 48 : Nat) + ((rdV t a.toNat).toNat : Int) + l, size := size, align := align, right := right }
    let s' := cacheBuf s t.core gr.owner (p / 2 ^ 48)
    let goesOn : Instr → State → Thread → Prop := fun i r w =>
      getThread r s.cur = some w ∧ w.pc = t.pc + lengthOf i ∧ w.st = .ready ∧ RegistersKept (counted t) w ∧
        w.outMem = { count := t.outMem.count + 1, pc := t.pc } ∧ r.mem.seq = s.mem.seq + 1 ∧ OthersKept s r ∧ MemoryKept s r
    getGrid s t.grid = some gr → t.acquires = 0 → slotsFull s t.core = false → S ≤ 6 →
    ¬ ((debugOf s gr.part).attach = true ∧ (debugOf s gr.part).target = t.grid) →
    (tgt.pkg ≠ none ∨ 2 ^ 60 ≤ tgt.phys ∨ physOk tgt.phys = true) →
    (∀ c ∈ ([(.stB g d a la bs off, plain, 1, false), (.stH g d a la bs off, plain, 2, false), (.stW g d a la bs off, plain, 4, false),
          (.stD g d a la bs off, plain, 8, false), (.stQ g d a la bs off, plain, 16, false), (.stO g d a la bs off, plain, 32, false),
          (.stlW g d a la bs o, o.ofs.toInt, 4, true), (.stlD g d a la bs o, o.ofs.toInt, 8, true)] : List (Instr × Int × Nat × Bool)),
      let size := c.2.2.1
      Issues c.1 s t → queueFull s t size = false → checkAccess s' (access c.2.1 size size 1) = .ok tgt → ownLoadPending s t tgt size = false →
        ∃ (r : State) (w : Thread), exec c.1 s = .next r ∧ goesOn c.1 r w ∧ r.mem.reqs = s.mem.reqs ∧
          (c.2.2.2 = true ∨ mergeInto s t.core t.lg t.grid tgt = none → ∃ q : SqOp, r.mem.ops = s.mem.ops ++ [q] ∧ q.seq = s.mem.seq ∧ q.core = t.core ∧
            q.lg = t.lg ∧ q.grid = t.grid ∧ q.tgt = tgt ∧ q.bytes = bytes size ∧ q.contrib = [(t.key, s.mem.seq)] ∧ q.level = 0 ∧ q.trace = none ∧
            q.kind = if c.2.2.2 then .release S s.mem.seq else .plain) ∧
          (∀ k, c.2.2.2 = false → mergeInto s t.core t.lg t.grid tgt = some k → r.mem.ops = s.mem.ops.map fun q => if q.seq == k then
            { q with bytes := (q.bytes.filter fun b => !(bytes size).any fun x => x.1 == b.1) ++ bytes size
                     contrib := q.contrib ++ [(t.key, s.mem.seq)] } else q)) ∧
    (∀ c ∈ ([(.atomAdd g d a la bs off, .add, 4, 1, 1), (.atomMinI32 g d a la bs off, .minI32, 4, 1, 1), (.atomMaxI32 g d a la bs off, .maxI32, 4, 1, 1),
          (.atomMinN32 g d a la bs off, .minN32, 4, 1, 1), (.atomMaxN32 g d a la bs off, .maxN32, 4, 1, 1), (.atomAnd g d a la bs off, .and, 4, 1, 1),
          (.atomOr g d a la bs off, .or, 4, 1, 1), (.atomXor g d a la bs off, .xor, 4, 1, 1), (.atomXchg g d a la bs off, .xchg, 4, 1, 1),
          (.atomCas g d a la bs off, .cas, 4, 2, 1), (.atomIncw g d a la bs off, .incw, 4, 1, 1), (.atomAdd64 g d a la bs off, .add64, 8, 2, 2),
          (.atomCas64 g d a la bs off, .cas64, 8, 4, 2), (.atomFadd g d a la bs off, .fadd, 4, 1, 1), (.atomWrd g d a la bs off, .wadd, 48, 11, 11),
          (.redAdd g d a la bs off, .add, 4, 1, 0), (.redFadd g d a la bs off, .fadd, 4, 1, 0), (.redWadd g d a la bs off, .wadd, 48, 11, 0),
          (.redMaxI32 g d a la bs off, .maxI32, 4, 1, 0)] : List (Instr × AtomOp × Nat × Nat × Nat)),
      let size := c.2.2.1
      let ret := c.2.2.2.2
      Issues c.1 s t → queueFull s t size = false → checkAccess s' (access plain size (if size = 48 then 64 else size) 2) = .ok tgt → ownLoadPending s t tgt size = false →
        ∃ (r : State) (w : Thread) (q : SqOp), exec c.1 s = .next r ∧ goesOn c.1 r w ∧ r.mem.ops = s.mem.ops ++ [q] ∧ q.seq = s.mem.seq ∧ q.core = t.core ∧ q.lg = t.lg ∧
          q.grid = t.grid ∧ q.tgt = tgt ∧ q.size = size ∧ q.contrib = [(t.key, s.mem.seq)] ∧ q.level = 0 ∧
          q.kind = .atomic c.2.1 ((List.range c.2.2.2.1).map fun j => rdV t (d.toNat + j)) (if ret = 0 then none else some s.mem.seq) ∧
          (ret = 0 → r.mem.reqs = s.mem.reqs ∧ w.windows = tickWindows t.windows) ∧
          (ret ≠ 0 → w.windows = tickWindows t.windows ++
              [{ id := s.mem.seq, pc := t.pc, remain := la.toNat, regs := (List.range ret).map (d.toNat + ·)
                 dests := (List.range ret).map (d.toNat + ·) }] ∧
            ∃ x : Req, r.mem.reqs = s.mem.reqs ++ [x] ∧ x.id = s.mem.seq ∧ x.thread = t.key ∧ x.d = d.toNat ∧ x.fmt = .words ret ∧ x.atomic = true ∧
              x.ldc = false ∧ x.stage = .atCore))

/-- R158 to R160, R177, R178, R183: a scratchpad access at a = v[A] + offset names a team core, a mode and a logical offset, and leaves for that core's
banks with its bytes or operands; the thread goes on, with the destinations of a load or atomic pending, and no register or byte changes. At
the bank every byte goes through the map of its mode, and no two offsets through one place. Loads and fragments take their bytes in the
order of R177 and R178; a store writes exactly its bytes, an atomic exactly its word and returns the old one; every other byte of every
scratchpad, and all other memory, is as before. A misaligned access of any form raises MISALIGNED with its address; one that is aligned and
names no byte of the team's scratchpad raises SCRATCH_BOUNDS, with its address, in every member of its fused set that fails so (under U, of
those that go with it), with the mask of their lanes.
R165: an access of several words may be performed in two steps, each of whole words and each with no other access between its bytes.
R183, R292: the accesses of a fused set to one core reach its banks in one step, one after another in the order of their issue.
R184: SETB makes a buffer slot of a register pair, with the OR of their taint bits; GETB copies a slot, and its taint, to a pair. Neither checks
the pointer, and nothing else changes. -/
def Obligations.ScratchpadAccessesAndBufferSlots : Prop :=
  (∀ (g : Guard) (u : Bool) (d a : Reg) (la : BitVec 4) (off : Option Word) (s : State) (t : Thread) (gr : Grid) (tm : Team),
     let adrOf : Thread → Word := fun x => rdV x a.toNat + off.getD 0
     let adr := adrOf t
     let mode := (adr.extractLsb' 28 4).toNat
     let tc := (adr.extractLsb' 20 3).toNat
     let low : Thread → Nat := fun x => ((adrOf x).extractLsb' 0 20).toNat
     let o := low t
     let inside : Thread → Nat → Bool := fun x size => (adrOf x).extractLsb' 23 5 == 0 && decide (((adrOf x).extractLsb' 28 4).toNat < 3) &&
       decide (((adrOf x).extractLsb' 20 3).toNat < tm.cores.length) && decide (low x + size ≤ 1024 * gr.scr)
     let bytes : Nat → List Byte := fun n => (List.range n).map fun k => (rdV t (d.toNat + k / 4)).extractLsb' (8 * (k % 4)) 8
     let data : Nat → List Word := fun n => (List.range n).map fun k => rdV t (d.toNat + k)
     getGrid s t.grid = some gr → getTeam s t.team = some tm → t.acquires = 0 →
     (∀ c ∈ ([(.ldsW g u d a la off, 4, 1, .words 1, fun x => x % 4 == 0), (.ldsD g u d a la off, 8, 2, .words 2, fun x => x % 8 == 0), (.ldsQ g u d a la off, 16, 4, .words 4, fun x => x % 16 == 0),
           (.ldsO g u d a la off, 32, 8, .words 8, fun x => x % 32 == 0), (.ldfragN g u d a la off, 32, 8, .words 8, fun x => x % 32 == 0),
           (.ldfragT8 g u d a la off, 32, 8, .t8, fun x => x / 32 % 32 == 0), (.ldfragT16 g u d a la off, 32, 8, .t16, fun x => x / 64 % 16 == 0 && x % 2 == 0),
           (.stsW g d a la off, 4, 0, .store (bytes 4), fun x => x % 4 == 0), (.stsD g d a la off, 8, 0, .store (bytes 8), fun x => x % 8 == 0),
           (.stsQ g d a la off, 16, 0, .store (bytes 16), fun x => x % 16 == 0), (.stsO g d a la off, 32, 0, .store (bytes 32), fun x => x % 32 == 0),
           (.atomsAdd g d a la off, 4, 1, .atomic .add (data 1), fun x => x % 4 == 0), (.atomsCas g d a la off, 4, 1, .atomic .cas (data 2), fun x => x % 4 == 0),
           (.atomsMaxN32 g d a la off, 4, 1, .atomic .maxN32 (data 1), fun x => x % 4 == 0), (.atomsXchg g d a la off, 4, 1, .atomic .xchg (data 1), fun x => x % 4 == 0)] :
           List (Instr × Nat × Nat × ScrKind × (Nat → Bool))),
       let n := c.2.2.1
       let goesOn : State → Thread → Nat → Prop := fun r w id =>
         w.pc = t.pc + lengthOf c.1 ∧ w.st = .ready ∧ RegistersKept (counted t) w ∧ w.outMem = { count := t.outMem.count + 1, pc := t.pc } ∧
         w.windows = tickWindows t.windows ++ (if n = 0 then [] else [{ id := id, pc := t.pc, remain := la.toNat
                                                                        regs := (List.range n).map (d.toNat + ·), dests := (List.range n).map (d.toNat + ·) }]) ∧
         r.mem.ops = s.mem.ops ∧ OthersKept s r ∧ MemoryKept s r
       let size := c.2.1
       let ok := c.2.2.2.2
       let takes : Nat → Option Thread := fun k => match prepare s k with
         | .run s1 j => if j = c.1 then (getThread s1 k).filter fun x => (match issueCheck j x with | .ok => true | _ => false) && ok (low x) &&
             !inside x size && (!uBit j || adrOf x == adr) else none
         | _ => none
       let mask := ((t :: s.fused.filterMap takes).map fun x => 2 ^ x.lane).sum
       let struck : Thread → Thread := fun x =>
         { x with st := .trapping { code := .scratchBounds, tpc := x.pc, addr := (adrOf x).toNat, mask := some mask } }
       (Issues c.1 s t → ok o = false →
         exec c.1 s = .next (putThread s { t with st := .trapping { code := .misaligned, tpc := t.pc, addr := adr.toNat } })) ∧
       (Issues c.1 s t → ok o = true → inside t size = false → s.cur ∉ s.fused →
         (∀ k ∈ s.fused, ∀ x, takes k = some x → x.grid = t.grid ∧ x.team = t.team) →
         ∃ r, exec c.1 s = .next r ∧ r.mem = s.mem ∧ r.disp = s.disp ∧ getThread r s.cur = some (struck t) ∧
           (∀ k ∈ s.fused, ∀ x, takes k = some x → getThread r k = some (struck x)) ∧
           ∀ k, k ≠ s.cur → (k ∉ s.fused ∨ takes k = none) → getThread r k = getThread s k) ∧
       (Issues c.1 s t → ok o = true → inside t size = true →
         (∀ k, uBit c.1 = true → s.ureq = some k → ∃ (r : State) (w : Thread), exec c.1 s = .next r ∧ getThread r s.cur = some w ∧ goesOn r w k ∧
           r.mem.reqs = s.mem.reqs.map fun x => if x.id = k then { x with mates := x.mates ++ [(t.key, none)] } else x) ∧
         ((uBit c.1 = true → s.ureq = none) → ∃ (r : State) (w : Thread) (q : Req), exec c.1 s = .next r ∧ getThread r s.cur = some w ∧
           goesOn r w s.mem.seq ∧ r.mem.reqs = s.mem.reqs ++ [q] ∧ q.id = s.mem.seq ∧ q.thread = t.key ∧ q.core = t.core ∧ q.lg = t.lg ∧ q.stage = .atCore ∧ q.copy = none ∧
           q.ldc = false ∧ q.acq = none ∧ q.mates = [] ∧ q.fmt = .words n ∧ (n ≠ 0 → q.d = d.toNat) ∧
           q.scr = some { team := t.team, tc := tc, mode := mode, off := o, kind := c.2.2.2.1, fset := s.mem.uid, lane := t.lane })))) ∧
  (∀ (s : State) (r : Req) (acc : ScrAcc) (tm : Team),
     let place : Nat → Nat := fun x =>
       let blk := x / 1024
       let q := x / 16 % 64
       blk * 1024 + (if acc.mode = 0 then q else if acc.mode = 1 then (q + blk) % 64 else q ^^^ (blk % 64)) * 16 + x % 16
     let o := acc.off
     let byte : Nat → Byte := fun x => scratchByte s acc.team acc.tc (place x)
     let old : Word := byte (o + 3) ++ byte (o + 2) ++ byte (o + 1) ++ byte o
     let q := bankAccess s (r, acc)
     let gives : List Byte → Prop := fun bs => q.threads = s.threads ∧ q.mem.reqs = s.mem.reqs.map (fun x => if x.id = r.id then
         (if r.torn then { r with got := some (bs, false) } else { r with stage := .data (r.mixed bs) false }) else x)
     let writes : (Nat → Prop) → Prop := fun mine => q.mem.hbm = s.mem.hbm ∧ q.mem.pods = s.mem.pods ∧ q.mem.tbl = s.mem.tbl ∧ q.mem.hostMem = s.mem.hostMem ∧
       q.mem.ops = s.mem.ops ∧ ∀ k c z, ¬ (k = acc.team ∧ c = acc.tc ∧ mine z) → scratchByte q k c z = scratchByte s k c z
     getTeam s acc.team = some tm →
     (acc.mode < 3 → ∀ y z, place y = place z → y = z) ∧
     (∀ n, acc.kind = .words n → MemoryKept s q ∧ gives ((List.range (4 * n)).map fun i => byte (o + i))) ∧
     (acc.kind = .t8 → MemoryKept s q ∧ gives ((List.range 32).map fun i => byte (o / 1024 * 1024 + 32 * i + o % 32))) ∧
     (acc.kind = .t16 → MemoryKept s q ∧ gives ((List.range 32).map fun i => byte (o / 1024 * 1024 + 64 * (i / 2) + 2 * (o / 2 % 32) + i % 2))) ∧
     (∀ bs, acc.kind = .store bs → acc.mode < 3 →
       writes (fun z => ∃ k, k < bs.length ∧ r.inStep k = true ∧ z = place (o + k)) ∧
       (∀ k x, r.inStep k = true → bs[k]? = some x → scratchByte q acc.team acc.tc (place (o + k)) = x) ∧
       (r.torn = true → q.threads = s.threads ∧ q.mem.reqs = s.mem.reqs.map fun x => if x.id = r.id then { r with got := some ([], false) } else x) ∧
       (r.torn = false → q.mem.reqs = s.mem.reqs.filter (fun x => decide (x.id ≠ r.id)) ∧
         (∀ v, getThread s r.thread = some v → getThread q r.thread = some { v with outMem := { v.outMem with count := v.outMem.count - 1 } }) ∧
         ∀ k, k ≠ r.thread → getThread q k = getThread s k)) ∧
     (r.tear = 0 → r.got = none → r.torn = false ∧ (∀ k, r.inStep k = true) ∧ ∀ bs, r.mixed bs = bs) ∧
     (r.size % 4 = 0 → r.tear ≠ 0 → ∀ k first bs, (r.inStep k = r.inStep (k / 4 * 4)) ∧
       ({ r with got := some first : Req }).inStep k = !({ r with got := none : Req }).inStep k ∧
       ({ r with got := some first : Req }).mixed bs = bs.zipIdx.map fun x => if ({ r with got := none : Req }).inStep x.2 then first.1.getD x.2 0 else x.1) ∧
     (∀ op data, acc.kind = .atomic op data → acc.mode < 3 →
       gives ((List.range 4).map fun i => byte (o + i)) ∧ writes (fun z => ∃ k, k < 4 ∧ z = place (o + k)) ∧
       ∀ v : Word, (op = .add ∧ v = old + data.getD 0 0) ∨ (op = .cas ∧ v = if old = data.getD 1 0 then data.getD 0 0 else old) ∨
           (op = .maxN32 ∧ v = if old.ult (data.getD 0 0) then data.getD 0 0 else old) ∨ (op = .xchg ∧ v = data.getD 0 0) →
         ∀ k, k < 4 → scratchByte q acc.team acc.tc (place (o + k)) = v.extractLsb' (8 * k) 8)) ∧
  (∀ (s : State) (k : Nat) (r : Req) (acc : ScrAcc),
     let c := bankCore s acc
     s.mem.reqs.find? (fun x => x.id == k) = some r → r.copy = none → r.stage = .atCore → r.scr = some acc →
     lexLess (bankKey s r acc) ((assoc s.banked c).getD []) = false → (∀ x ∈ bankBlock s r acc, bankBehind s x.1 x.2 = false) →
     (∀ x b, (x, b) ∈ bankBlock s r acc ↔ x ∈ s.mem.reqs ∧ x.stage = .atCore ∧ x.scr = some b ∧ x.core = r.core ∧ b.fset = acc.fset ∧
       b.team = acc.team ∧ b.tc = acc.tc) ∧
     exec (.loadReturn k) s = .next ((bankBlock s r acc).foldl bankAccess { s with banked := assocSet s.banked c (bankKey s r acc) })) ∧
  (∀ (g : Guard) (a : Reg) (la : BitVec 4) (bs : BitVec 3) (s : State) (t : Thread),
     (Issues (.setb g a la bs) s t → ∃ w, exec (.setb g a la bs) s = .next (retire (.setb g a la bs) s w) ∧
       w = { issued s t with b := w.b, bt := w.bt } ∧
       ∀ i, i < 8 → rdB w i = (if i = bs.toNat then rdV t (a.toNat + 1) ++ rdV t a.toNat else rdB t i) ∧
         rdBTaint w i = (if i = bs.toNat then rdTaint t a.toNat || rdTaint t (a.toNat + 1) else rdBTaint t i)) ∧
     (Issues (.getb g a la bs) s t →
       exec (.getb g a la bs) s = .next (retire (.getb g a la bs) s
         (wrV (wrV (issued s t) a.toNat ((rdB t bs.toNat).extractLsb' 0 32) (rdBTaint t bs.toNat)) (a.toNat + 1)
           ((rdB t bs.toNat).extractLsb' 32 32) (rdBTaint t bs.toNat)))))

/-- R166, R167, R162, R186, R170: a load whose bytes have come writes, in every thread that it serves, its destinations with the value of its
form, little-endian, and the taint of its form, and the rest of the thread's registers stay; its destinations are pending no more and its
class counts one less. A load of which a byte is poisoned writes no destination; its window carries the fault, which TPC and the address of
the access name. An acquire at LAYER or wider leaves nothing in its core's L1. -/
def Obligations.LoadsReturnTheirData : Prop :=
  ∀ (s : State) (k : Nat) (r : Req) (bs : List Byte),
    s.mem.reqs.find? (fun x => x.id == k) = some r → r.copy = none → r.threads.Nodup →
    (r.fmt = .zext (8 * bs.length) ∨ r.fmt = .sext 8 ∧ bs.length = 1 ∨ r.fmt = .sext 16 ∧ bs.length = 2 ∨
      ∃ n, r.fmt = .words n ∧ bs.length = 4 * n) →
    let vals : List Word := match r.fmt with
      | .zext _ => [word (wordOfBytes bs)]
      | .sext n => [(BitVec.ofNat n (wordOfBytes bs)).signExtend 32]
      | .words n => (List.range n).map fun i => word (wordOfBytes ((bs.drop (4 * i)).take 4))
    let mine : Nat → Prop := fun x => r.d ≤ x ∧ x < r.d + vals.length
    let after : State → Prop := fun q => (∀ x ∈ q.mem.reqs, x.id ≠ k) ∧
      (∀ x ∈ s.mem.reqs, x.id ≠ k → ∃ y ∈ q.mem.reqs, y = { x with noInst := y.noInst } ∧ (r.acq.all (· < 2) = true → y = x)) ∧ MemoryKept s q ∧
      (∀ j, j ∉ r.threads → getThread q j = getThread s j) ∧ ((∃ sc, r.acq = some sc ∧ 2 ≤ sc) → l1Of q r.core = [])
    let served : Thread → Thread → Prop := fun t u => u.outMem = { count := t.outMem.count - 1, pc := t.outMem.pc } ∧ u.pc = t.pc ∧ u.st = t.st ∧
      u.acquires = (if r.acq.isSome then t.acquires - 1 else t.acquires) ∧ u.p = t.p ∧ u.b = t.b ∧ u.bt = t.bt ∧ u.flags = t.flags ∧ SpecialsKept t u ∧ TrapKept t u
    (r.stage = .data bs false ∨ (r.stage = .atCore ∧ r.scr = none ∧ coreSource s r = some bs) →
      ∃ q, exec (.loadReturn k) s = .next q ∧ after q ∧ ∀ j ∈ r.threads, ∀ t, getThread s j = some t → ∃ u, getThread q j = some u ∧ served t u ∧
        (∀ i x, vals[i]? = some x → rdV u (r.d + i) = x ∧ rdTaint u (r.d + i) = r.ldc) ∧
        GeneralKept [{ first := r.d, count := vals.length, align := 1 }] t u ∧
        (∀ w, w.id ≠ r.window → (w ∈ u.windows → w ∈ t.windows) ∧
          (w ∈ t.windows → w.open = true ∨ 0 < w.remain ∨ w.flags ≠ 0 → w ∈ u.windows)) ∧
        (∀ w ∈ u.windows, w.id = r.window → (∀ x ∈ w.regs, ¬ mine x) ∧
          ∃ w0 ∈ t.windows, w = { w0 with regs := w.regs } ∧ ∀ x, x ∈ w.regs ↔ x ∈ w0.regs ∧ ¬ mine x) ∧
        (∀ w ∈ t.windows, w.id = r.window → 0 < w.remain → ∃ w1 ∈ u.windows, w1 = { w with regs := w1.regs })) ∧
    (r.stage = .data bs true →
      ∃ q, exec (.loadReturn k) s = .next q ∧ after q ∧ ∀ j ∈ r.threads, ∀ t, getThread s j = some t → ∃ u, getThread q j = some u ∧ served t u ∧
        u.v = t.v ∧ u.vt = t.vt ∧
        ∀ w ∈ t.windows, (if w.id = r.window then { w with poison := some { code := .poison, late := true, tpc := r.pc, addr := r.addr } }
          else w) ∈ u.windows)

/-- R286, R171, R13: the oldest entry of a lane group's queue leaves the core; a release at scope S leaves it only when every load
of its thread before it has its value, and every store before it is acknowledged at S, of its thread or seen by its lane group (that what
was seen counts is the model's choice, notes/assumptions/135.md). A gate of the next level then takes an operation, and acknowledges it: one
level at a time, and on one line in the order of arrival. R182: an atomic or reduction goes as one block with those of its fused set that
stand where it does. Nothing is written at home.
R275, R361: what leaves a core carries the clock and the core's slack.
R172: PROMOTE reaches a core, which takes every release performed on it, with every store that such a release waited for, also when the
release itself is home already; the core acknowledges when all of them have been performed at home, and not before. -/
def Obligations.StoresPassTheGatesAndPromoteWaits : Prop :=
  (∀ (s : State) (q : SqOp),
     let mate : SqOp → SqOp → Bool := fun x y => x.isAtomic && y.isAtomic && y.fset == x.fset && y.core == x.core && y.lg == x.lg
     let block := if q.isAtomic then s.mem.ops.filter fun x => mate q x && x.level == q.level && x.lane == q.lane else [q]
     let passed : State → (Nat → SqOp → SqOp) → Prop := fun r f =>
       (∀ (n : Nat) (x : SqOp), block[n]? = some x → f (s.mem.seq + n) x ∈ r.mem.ops) ∧ (∀ x ∈ s.mem.ops, x ∉ block → x ∈ r.mem.ops) ∧
         r.mem.ops.length = s.mem.ops.length ∧ MemoryKept s r
     let seen : SqOp → Prop := fun x => (x.core = q.core ∧ (x.lg = q.lg ∨ 1 ≤ x.level)) ∨ (x.core / 12 = q.core / 12 ∧ 2 ≤ x.level) ∨
       (x.core / 24 = q.core / 24 ∧ 3 ≤ x.level) ∨ (x.core / 48 = q.core / 48 ∧ 4 ≤ x.level)
     let due : Prop := ∀ sc n, q.kind = .release sc n → (∀ c ∈ q.contrib, (∀ l ∈ s.mem.reqs, l.serves c.1 = true → n ≤ l.id) ∧
         ∀ x ∈ s.mem.ops, (∃ d ∈ x.contrib, d.1 = c.1 ∧ d.2 < n) → min sc 5 ≤ x.level) ∧
       ∀ x ∈ s.mem.ops, seen x → (∃ d ∈ x.contrib, d.2 < n) → min sc 5 ≤ x.level
     (s.mem.ops.Pairwise fun x y => ¬ (x.seq = y.seq ∧ x.part = y.part)) →
     (∀ core lg, (s.mem.ops.filter fun x => x.level == 0 && x.core == core && x.lg == lg).head? = some q →
       (due → ∃ r, exec (.storeQueueDrain core lg) s = .next r ∧
           passed r (fun n x => { x with level := 1, stamps := n :: x.stamps, left := s.clock, slack := slackOf s core }) ∧
         ∀ t, getThread s t.key = some t → ∃ u, getThread r t.key = some u ∧ RegistersKept t u ∧ u.pc = t.pc ∧ u.st = t.st) ∧
       (¬ due → exec (.storeQueueDrain core lg) s = .fault .notEnabled)) ∧
     (∀ lvl, s.mem.ops.find? (fun x => x.seq == q.seq) = some q → 2 ≤ lvl → lvl ≤ 4 →
       let before : Prop := ∃ y ∈ block, ∃ x ∈ s.mem.ops, ¬ (x.seq = y.seq ∧ x.part = y.part) ∧ mate y x = false ∧ x.level = y.level ∧
         x.tgt.pkg = y.tgt.pkg ∧ x.tgt.phys / 64 = y.tgt.phys / 64 ∧ x.stamps.headD 0 < y.stamps.headD 0 ∧
         (match y.level with
           | 1 => x.core = y.core
           | 2 => x.core / 12 = y.core / 12
           | _ => x.core / 24 = y.core / 24)
       (q.level + 1 = lvl → ¬ before →
         ∃ r, exec (.gateAcknowledgement q.seq lvl) s = .next r ∧ passed r (fun n x => { x with level := lvl, stamps := n :: x.stamps }) ∧ r.threads = s.threads) ∧
       (q.level + 1 ≠ lvl ∨ before → exec (.gateAcknowledgement q.seq lvl) s = .fault .notEnabled))) ∧
  (∀ (s : State) (k core : Nat) (r : Req),
     s.mem.reqs.find? (fun x => x.id == k) = some r → (getThread s r.thread).isSome = true →
     (assoc r.promote core = some none → ∃ q r' ids, exec (.promote k core) s = .next q ∧
       q.mem.reqs.find? (fun x => x.id == k) = some r' ∧ assoc r'.promote core = some (some ids) ∧
       (∀ x ∈ s.mem.ops, x.core = core → x.isRelease = true → 1 ≤ x.level ∨ releaseMet s x = true →
         ∀ y ∈ s.mem.ops, (y.seq = x.seq ∨ ∃ c ∈ y.contrib, ∃ d ∈ x.contrib, (d.1 = c.1 ∨ y.core = core) ∧ c.2 < d.2) → y.seq ∈ ids) ∧
       (∀ p ∈ s.mem.rels, p.1 = core → ∀ y ∈ s.mem.ops, (∃ c ∈ y.contrib, ∃ d ∈ p.2, (d.1 = c.1 ∨ y.core = core) ∧ c.2 < d.2) → y.seq ∈ ids) ∧
       q.mem.ops = s.mem.ops ∧ q.threads = s.threads ∧ MemoryKept s q) ∧
     (∀ ids, assoc r.promote core = some (some ids) →
       ((∀ i ∈ ids, ∀ x ∈ s.mem.ops, x.seq ≠ i) → ∃ q, exec (.promote k core) s = .next q ∧
         q.mem.reqs.find? (fun x => x.id == k) = some { r with promote := r.promote.filter (fun p => p.1 != core) } ∧
         q.mem.ops = s.mem.ops ∧ q.threads = s.threads ∧ MemoryKept s q) ∧
       ((∃ i ∈ ids, ∃ x ∈ s.mem.ops, x.seq = i) → exec (.promote k core) s = .fault .notEnabled)))

/-- R294, R295, R361, R297: a load at its core that neither its queue nor its L1 serves, with no other read of its core and line before it,
reaches its home slice. A load that the L1 may serve joins its core's request of the line, unless a store or an invalidation of that core
has overtaken it. Else it merges into the youngest entry of its line that no write has reached, or opens an entry, whose bytes are those
at home in that place of the slice's order, when one is free and no read that waits there is granted before it; else it waits at the slice.
The reply gives each request of the entry its bytes as the owner's tag sees them (zeros under another tag), with the poison of the atoms
that hold them, counts a stream load as merged or solo in every member that it serves and whose membership lasts, and frees the entry.
R165: of a load in two steps the first takes its words only; the second adds the rest, and counts. No byte of memory changes. (That a reply
is not taken by a request that a bulk invalidation overtook is the model's choice, notes/assumptions/104.md.) -/
def Obligations.StraitReadsMergeAndReply : Prop :=
  ∀ (s : State) (k : Nat) (r : Req),
    let line := r.tgt.phys / 64 * 64
    let entered : State → Prop := fun q => MemoryKept s q ∧ q.threads = s.threads ∧
      q.mem.reqs.find? (fun x => x.id == k) = some { r with stage := .atEntry, arrived := false }
    let mark : Bool → List Nat := fun b => if b then [r.core] else []
    s.mem.reqs.find? (fun x => x.id == k) = some r → r.copy = none → r.scr = none → r.tgt.pkg = none → line + 64 ≤ discBase →
    (r.stage = .atCore → r.atomic = false → r.promote = [] → olderUnbound s r = false → coreSource s r = none → overlapping s r = [] → coreWaiting s r = false →
      (∀ e, entryWith s r.core none line = some e → r.noL1 = false → r.noInstall = false → r.core ∉ e.dirty → r.core ∉ e.noInst →
        ∃ q : State, exec (.straitRead k) s = .next q ∧ entered q ∧
          { e with reqs := e.reqs ++ [k], noInst := e.noInst ++ mark r.noInst, dirty := e.dirty ++ mark r.dirty } ∈ q.mem.entries) ∧
      ((∀ e ∈ s.mem.entries, e.line = line → e.pkg = none → r.core ∉ e.cores) → aheadOf s r.core none line = false →
        let young := (s.mem.entries.filter fun e => e.line == line && e.pkg == none).getLast?
        let free : Prop := (s.mem.entries.filter fun e => lineKey e.pkg e.line / 2 ^ 48 == line / 2 ^ 48).length < 16384
        let first : Prop := ∀ x ∈ s.mem.reqs, x.arrived = true → x.stage = .atCore → lineKey x.tgt.pkg x.tgt.phys / 2 ^ 48 = r.tgt.phys / 2 ^ 48 → x.id ≠ k →
          lexLess (grantKey s.clock x.left x.slack x.id) (grantKey s.clock r.left r.slack k) = false
        (∀ e, young = some e → e.closed = false → ∃ q : State, exec (.straitRead k) s = .next q ∧ entered q ∧
          { e with cores := e.cores ++ [r.core], reqs := e.reqs ++ [k], noInst := e.noInst ++ mark r.noInst, dirty := e.dirty ++ mark r.dirty } ∈ q.mem.entries ∧
          q.mem.entries.length = s.mem.entries.length) ∧
        ((∀ e, young = some e → e.closed = true) → free → first →
          ∃ (q : State) (e : StraitEntry), exec (.straitRead k) s = .next q ∧ entered q ∧ q.mem.entries = s.mem.entries ++ [e] ∧
            e.line = line ∧ e.pkg = none ∧ e.cores = [r.core] ∧ e.reqs = [k] ∧ e.closed = false ∧ e.noInst = mark r.noInst ∧ e.dirty = mark r.dirty ∧
            e.bytes = (List.range 64).map (fun i => cellGet s.mem.hbm (line + i))) ∧
        ((∀ e, young = some e → e.closed = true) → ¬ (free ∧ first) → r.arrived = false →
          exec (.straitRead k) s = .next { s with mem := { s.mem with reqs := s.mem.reqs.map fun x => if x.id = k then { r with arrived := true } else x } }))) ∧
    (∀ n e, s.mem.entries[n]? = some e → e.line = line → e.pkg = none → e.reqs = [k] → s.mem.entries.Nodup → r.threads.Nodup → r.thread < 2 ^ 64 →
      let info : Nat → AtomInfo := fun o => e.infos.getD (o / 32) {}
      let seen : Nat → Byte := fun o =>
        if (info o).tag = some r.tgt.tag ∧ r.tgt.tag ∉ s.mem.keys then e.bytes.getD o 0 else 0
      let bad : Prop := ∃ o, r.tgt.phys - line ≤ o ∧ o < r.tgt.phys - line + r.size ∧ r.inStep (o - (r.tgt.phys - line)) = true ∧
        ∃ h, (if r.tgt.gang then h < 2 else h = (line + o) / 32 - line / 32) ∧ ((e.infos.getD h {}).poison = true ∨ (e.infos.getD h {}).ue = true)
      r.tgt.phys - line + r.size ≤ 64 →
      ∃ (q : State) (b : Bool), exec (.straitReply n) s = .next q ∧ MemoryKept s q ∧ q.mem.entries = s.mem.entries.eraseIdx n ∧
        (b = true ↔ bad) ∧ q.mem.reqs.find? (fun x => x.id == k) =
          (let bs := (List.range r.size).map fun i => seen (r.tgt.phys - line + i)
          some (if r.torn then { r with stage := .atCore, got := some (bs, b) } else { r with stage := .data (r.mixed bs) (b || r.got.any (·.2)) })) ∧
        (r.tear = 0 → r.got = none → r.torn = false ∧ (∀ i, r.inStep i = true) ∧ ∀ bs, r.mixed bs = bs) ∧
        ∀ m ∈ (r.thread, r.stream) :: r.mates, ∀ t, getThread s m.1 = some t → getThread q m.1 = some
          (if r.torn = false ∧ m.2 = some t.cvStamp ∧ t.cv ≠ none then
            (if 1 < e.cores.length then { t with cvmrg := (t.cvmrg + 1) % 2 ^ 32 } else { t with cvsolo := (t.cvsolo + 1) % 2 ^ 32 })
          else t))

/-- R296, R299, R302, R303, R310: a store that takes its place at home is acknowledged and writes its bytes, and its atom takes the writer's tag;
over an atom that holds another tag, or whose tag has no key, the atom's other bytes become 0. On a poisoned atom a write of part of it is
discarded; a write of the whole atom clears the poison. Every byte outside the atom stays. -/
def Obligations.StoresAreWrittenAtHome : Prop :=
  ∀ (s : State) (x : SqOp),
    let size := if x.tgt.gang then 64 else 32
    let start := x.tgt.phys / size * size
    let infoAt : State → Nat → AtomInfo := fun q a => (assoc q.mem.atoms (a / 32)).getD {}
    let halves : List Nat := if x.tgt.gang then [start, start + 32] else [start]
    let whole : Prop := ∀ i, i < size → ∃ b ∈ x.bytes, b.1 = start + i
    let dead : Prop := ∃ h ∈ halves, (infoAt s h).poison = true ∨ (infoAt s h).ue = true
    opFor s x.seq = some x → (x.kind = .plain ∨ ∃ sc n, x.kind = .release sc n) → x.level = 4 → firstAtGate s x = true →
    x.tgt.pkg = none → x.tgt.cad = none → x.trace = none →
    x.bytes ≠ [] → (∀ b ∈ x.bytes, start ≤ b.1 ∧ b.1 < start + size) → (x.bytes.map (·.1)).Nodup → Memory.wf s.mem.hbm = true →
    ∃ r, exec (.straitWrite x.seq) s = .next r ∧ (∀ y, y ∈ r.mem.ops ↔ y ∈ s.mem.ops ∧ ¬ (y.seq = x.seq ∧ y.part = x.part)) ∧ r.threads = s.threads ∧ r.mem.tbl = s.mem.tbl ∧
      (∀ a, a < start ∨ start + size ≤ a → cellGet r.mem.hbm a = cellGet s.mem.hbm a ∧ infoAt r a = infoAt s a) ∧
      (whole ∨ ¬ dead → (∀ b ∈ x.bytes, cellGet r.mem.hbm b.1 = b.2) ∧
        (∀ a, start ≤ a → a < start + size → a ∉ x.bytes.map (·.1) → cellGet r.mem.hbm a =
          if (infoAt s a).tag = some x.tgt.tag ∧ x.tgt.tag ∉ s.mem.keys then cellGet s.mem.hbm a else 0) ∧
        ∀ h ∈ halves, infoAt r h = { tag := some x.tgt.tag }) ∧
      (¬ whole → dead → r.mem.hbm = s.mem.hbm ∧ ∃ h ∈ halves, (infoAt r h).poison = true)

/-- R362: an atomic or reduction at home enters the lanes of its chiplet's service with the operations of its fused set that go there, as one
block (the model's reading, notes/assumptions/126.md), once none of its line, and to another package none sent before, is before them; a lane
of 256 requests that is full, or owes its place to another by R361, holds the block in the routers.
R180, R181, R182, R310, R68: at the head of its lane it is performed, and with it the other operations of its fused set on its line, in
one step: each acts on the value at home, as its tag sees it, with the new value of its row of Table 8; the returned bytes are the old
ones, with the bits above a wide cell's flags as 0. Every byte outside the atom stays. On a poisoned atom nothing is written, and a
reduction's loss is counted in the error log. -/
def Obligations.AtomicsActOnTheValueAtHome : Prop :=
  ∀ (s : State) (x : SqOp) (op : AtomOp) (d : List Word) (ret : Option Nat),
    let width := match op with | .add64 => 8 | .cas64 => 8 | .wadd => 48 | _ => 4
    let size := if x.tgt.gang then 64 else 32
    let start := x.tgt.phys / size * size
    let stop := (x.tgt.phys + width - 1) / size * size + size
    let infoAt : State → Nat → AtomInfo := fun q a => (assoc q.mem.atoms (a / 32)).getD {}
    let byte : Nat → Byte := fun a => if (infoAt s a).tag = some x.tgt.tag ∧ x.tgt.tag ∉ s.mem.keys then cellGet s.mem.hbm a else 0
    let old : List Byte := (List.range x.size).map fun i => byte (x.tgt.phys + i)
    let o : Word := word (wordOfBytes old)
    let o64 : Quad := BitVec.ofNat 64 (wordOfBytes old)
    let x0 := d.getD 0 0
    let pair : Nat → Quad := fun i => d.getD (i + 1) 0 ++ d.getD i 0
    let w4 : Word → List Byte := fun v => bytesOfWord 4 v.toNat
    let w8 : Quad → List Byte := fun v => bytesOfWord 8 v.toNat
    let new : List Byte := match op with
      | .add => w4 (o + x0) | .and => w4 (o &&& x0) | .or => w4 (o ||| x0) | .xor => w4 (o ^^^ x0) | .xchg => w4 x0
      | .minI32 => w4 (if x0.slt o then x0 else o) | .maxI32 => w4 (if o.slt x0 then x0 else o)
      | .minN32 => w4 (if x0.ult o then x0 else o) | .maxN32 => w4 (if o.ult x0 then x0 else o)
      | .cas => w4 (if o = d.getD 1 0 then x0 else o) | .incw => w4 (if x0.ule o then 0 else o + 1)
      | .add64 => w8 (o64 + pair 0) | .cas64 => w8 (if o64 = pair 2 then pair 0 else o64)
      | .fadd => w4 (word (fpAdd .f32 o.toNat x0.toNat).1)
      | .wadd => bytesOf (wideWords (wideMerge (wideOfWords (wordsOf old)) (wideOfWords d))) ++ [0, 0, 0, 0]
    let dead : Prop := ∃ i, i < x.size ∧ ∃ h ∈ atomHalves x.tgt.gang (x.tgt.phys + i),
      ((assoc s.mem.atoms h).getD {}).poison = true ∨ ((assoc s.mem.atoms h).getD {}).ue = true
    let back : List Byte := if op = .wadd then old.take 40 ++ bytesOfWord 4 (wordOfBytes ((old.drop 40).take 4) % 16) else old
    let block := laneBlock s x
    let mate : SqOp → SqOp → Prop := fun y z => y.isAtomic = true ∧ z.isAtomic = true ∧ z.fset = y.fset ∧ z.core = y.core ∧ z.lg = y.lg
    let past : SqOp → Prop := fun y => y.tgt.pkg ≠ none ∧ ∃ z ∈ s.mem.ops, z.tgt.pkg = y.tgt.pkg ∧ z.level = 4 ∧ ¬ mate y z ∧
      (z.seq, z.part) ≠ (y.seq, y.part) ∧ z.stamps.headD 0 < y.stamps.headD 0
    let waits : Prop := ∃ y ∈ block, y.level ≠ 4 ∨ past y ∨ (y.tgt.pkg ≠ none ∧ true ∉ s.regs.ports) ∨ ∃ z ∈ s.mem.ops, z ∉ block ∧ z.level = 4 ∧ z.lane = none ∧
      z.tgt.pkg = y.tgt.pkg ∧ z.tgt.phys / 64 = y.tgt.phys / 64 ∧ z.core / 48 = y.core / 48 ∧ z.stamps.headD 0 < y.stamps.headD 0
    let room : Prop := ∀ y ∈ block, (inLane s (kettleLane y.tgt)).length + (block.filter fun z => kettleLane z.tgt == kettleLane y.tgt).length ≤ 256
    opFor s x.seq = some x → x.kind = .atomic op d ret →
    (x.lane = none → (s.mem.ops.map fun y => (y.seq, y.part)).Nodup →
      (∀ y, y ∈ block ↔ y ∈ s.mem.ops ∧ y.isAtomic = true ∧ y.lane = none ∧ y.fset = x.fset ∧ y.core = x.core ∧ y.lg = x.lg ∧ y.level = x.level ∧
        (kettleLane y.tgt).1 = (kettleLane x.tgt).1) ∧
      (waits → exec (.atomicService x.seq) s = .fault .notEnabled) ∧
      (¬ waits → room → laneBehind s block x = false →
        exec (.atomicService x.seq) s = .next { s with mem := { s.mem with
          seq := s.mem.seq + 1, ops := s.mem.ops.map fun y => if y ∈ block then { y with lane := some s.mem.seq, held := false } else y } }) ∧
      (¬ waits → ¬ room ∨ laneBehind s block x = true → x.held = false →
        exec (.atomicService x.seq) s = .next { s with mem := { s.mem with
          ops := s.mem.ops.map fun y => if y ∈ block then { y with held := true } else y } })) ∧
    (x.lane ≠ none → laneHead s (kettleLane x.tgt) = some x → ¬ past x →
      exec (.atomicService x.seq) s = .next ((serveSet s x).foldl serveAtomic s) ∧
      ∀ y, y ∈ serveSet s x ↔ y ∈ s.mem.ops ∧ y.isAtomic = true ∧ y.lane = x.lane ∧ y.tgt.pkg = x.tgt.pkg ∧ y.tgt.phys / 64 = x.tgt.phys / 64) ∧
    (x.size = width → x.tgt.pkg = none → x.tgt.cad = none → x.trace = none → x.tgt.phys / 64 = (x.tgt.phys + width - 1) / 64 →
      x.tgt.phys + width ≤ discBase → Memory.wf s.mem.hbm = true →
      let r := serveAtomic s x
      (∀ y, y ∈ r.mem.ops ↔ y ∈ s.mem.ops ∧ ¬ (y.seq = x.seq ∧ y.part = x.part)) ∧ r.threads = s.threads ∧
        (∀ a, a < start ∨ stop ≤ a → cellGet r.mem.hbm a = cellGet s.mem.hbm a) ∧
        (¬ dead → (∀ i b, new[i]? = some b → cellGet r.mem.hbm (x.tgt.phys + i) = b) ∧
          (∀ a, start ≤ a → a < stop → (a < x.tgt.phys ∨ x.tgt.phys + new.length ≤ a) → cellGet r.mem.hbm a = byte a)) ∧
        (dead → r.mem.hbm = s.mem.hbm ∧ (ret = none → r.mem.errLog = s.mem.errLog + 1)) ∧
        (∀ n q, ret = some n → s.mem.reqs.find? (fun y => y.id == n) = some q → ∃ b, (b = true ↔ dead) ∧
          r.mem.reqs.find? (fun y => y.id == n) = some { q with stage := .data back b }))

/-- R223, R232, R234 to R238: MGANG sets or clears the gang, or raises ILLEGAL_OPERAND or GANG and leaves it; MREL releases the latch that the thread's
own gang holds, and no other; MOPF marks the place in the writes from which later reads may choose; MZERO and MCB enter the engine's queue,
MCB after the checks of its address; MWAIT is BLOCKED until every matrix operation of the thread is complete.
R224, R225, R229, R230: a gang instruction raises GANG outside a gang and in a continuation thread, and the faults of an MMA's layout word.
Else it arrives at the instance of its count, with its operands: the thread is BLOCKED, until with it every live thread of the gang's
rowsets has arrived. Then the engine accepts the instance as one operation, the latch changes as Table 3 gives, and every arrival goes on.
An arrival that disagrees, or one of a gang that shares a rowset with another open instance, raises GANG in itself and in
every arrival of those instances, which close. R159: SCRATCH_BOUNDS carries the mask of the members of the fused set that raise it. (That its
address is the layout word's first word is the model's reading, notes/assumptions/80.md; that the layout word's fault comes before GANG is its
choice, notes/assumptions/139.md.) -/
def Obligations.MatrixInstructionsIssue : Prop :=
  (∀ (gd : Guard) (x2 : Reg) (tile : BitVec 2) (k : BitVec 3) (s : State) (t : Thread) (tm : Team),
     let fault : FaultCode → Nat → Out := fun c a => .next (putThread s { t with st := .trapping { code := c, tpc := t.pc, addr := a } })
     getTeam s t.team = some tm →
     (Issues (.mgang gd x2) s t →
       let v := (rdV t x2.toNat).toNat
       let first := bitsOf v 9 0
       let count := bitsOf v 12 10
       let good : Prop := first ≤ rsetOf t ∧ rsetOf t < first + count ∧ ∀ r, first ≤ r → r < first + count →
         (∃ d, rowsetRole s t r = some d ∧ d.kind = 2) ∧ runOf tm (r / 2) = runOf tm (first / 2)
       (v = 0 → exec (.mgang gd x2) s = .next (retire (.mgang gd x2) s { issued s t with mgang := 0, gangCount := 0 })) ∧
       (v ≠ 0 → (2 ^ 13 ≤ v ∨ count < 2 ∨ 6 < count) → exec (.mgang gd x2) s = fault .illegalOperand 0) ∧
       (v < 2 ^ 13 → 2 ≤ count → count ≤ 6 → ¬ good → exec (.mgang gd x2) s = fault .gang 0) ∧
       (v < 2 ^ 13 → 2 ≤ count → count ≤ 6 → good →
         exec (.mgang gd x2) s = .next (retire (.mgang gd x2) s { issued s t with mgang := v, gangCount := 0 }))) ∧
     (Issues (.mrel gd) s t → ∃ r, exec (.mrel gd) s = .next r ∧ getThread r s.cur = some (advance (issued s t) (lengthOf (.mrel gd))) ∧
       (∀ c, c ≠ t.core → assoc r.eng.latch c = assoc s.eng.latch c) ∧
       (∀ l, assoc s.eng.latch t.core = some l → assoc r.eng.latch t.core =
         if l.team = t.team ∧ l.gang = t.mgang ∧ t.mgang ≠ 0 then none else some l) ∧ OthersKept s r ∧ MemoryKept s r) ∧
     (Issues (.mopf gd) s t →
       let busy : Prop := (∃ w ∈ t.windows, w.poison = none ∧ w.regs ≠ []) ∨ ∃ q ∈ s.mem.reqs, q.serves t.key = true ∧ q.stage = .atCore ∧ q.scr ≠ none
       (busy → exec (.mopf gd) s = .next { s with stall := true }) ∧
       (¬ busy → exec (.mopf gd) s = .next (retire (.mopf gd) s { issued s t with mopf := s.eng.matlog.length }))) ∧
     (Issues (.mzero gd tile) s t → ∃ r, exec (.mzero gd tile) s = .next r ∧ r.eng.matq = s.eng.matq ++ [(t.core, .mzero t.key tile.toNat)] ∧
       r.eng.tiles = s.eng.tiles ∧ getThread r s.cur = some (advance { issued s t with outMatrix := { count := t.outMatrix.count + 1, pc := t.pc } } (lengthOf (.mzero gd tile))) ∧
       OthersKept s r ∧ MemoryKept s r) ∧
     (Issues (.mcb gd x2 k) s t →
       let a := (rdV t x2.toNat).toNat
       let o := bitsOf a 19 0
       let inside : Prop := bitsOf a 27 23 = 0 ∧ bitsOf a 31 28 < 3 ∧ bitsOf a 22 20 < tm.cores.length ∧ o + 32 ≤ scrBytes s t.grid
       (o % 32 ≠ 0 → exec (.mcb gd x2 k) s = fault .misaligned a) ∧
       (o % 32 = 0 → ¬ inside → s.fused = [] → exec (.mcb gd x2 k) s =
         .next (putThread s { t with st := .trapping { code := .scratchBounds, tpc := t.pc, addr := a, mask := some (2 ^ t.lane) } })) ∧
       (o % 32 = 0 → inside → ∃ r, exec (.mcb gd x2 k) s = .next r ∧
         r.eng.matq = s.eng.matq ++ [(t.core, .mcb t.key t.team k.toNat a t.mopf)] ∧ r.eng.slots = s.eng.slots ∧
         getThread r s.cur = some (advance { issued s t with outMatrix := { count := t.outMatrix.count + 1, pc := t.pc } } (lengthOf (.mcb gd x2 k))) ∧
         OthersKept s r ∧ MemoryKept s r)) ∧
     (Issues (.mwait gd) s t →
       exec (.mwait gd) s = if t.outMatrix.count = 0 then .next (retire (.mwait gd) s (issued s t))
         else .next (putThread s { issued s t with st := .blocked (.poll (.mwait gd)) }))) ∧
  (∀ (gd : Guard) (x1 x2 x3 : Reg) (tile sb : BitVec 2) (keep : Bool) (k : BitVec 3) (la : BitVec 4) (af : AFmt) (s : State) (t : Thread) (tm : Team),
     let arr : Nat → Nat → Nat → Bool → GangArr := fun opc fmt ks sc =>
       { thread := t.key, member := 16 * (rsetOf t - bitsOf t.mgang 9 0) + t.tid % 16, opc := opc, afmt := fmt
         tile := if opc = 9 then 0 else tile.toNat, slw := if opc = 9 then [] else rdMany t x2.toNat 3, keep := if opc = 9 then false else keep
         kslot := ks, sb := if sc then sb.toNat else 0, x1 := x1.toNat, x3 := if sc then x3.toNat else 0, window := s.mem.seq, mopf := t.mopf }
     getTeam s t.team = some tm →
     ∀ c ∈ ([(.mmaE4e4 gd x1 x2 x3 tile sb keep la, arr 0 0 0 true, 32, 128), (.mmaE4e5 gd x1 x2 x3 tile sb keep la, arr 1 0 0 true, 32, 128),
           (.mmaE5e4 gd x1 x2 x3 tile sb keep la, arr 2 1 0 true, 32, 128), (.mmaE5e5 gd x1 x2 x3 tile sb keep la, arr 3 1 0 true, 32, 128),
           (.mmaCb4 gd x1 x2 x3 tile sb keep k la, arr 4 2 k.toNat true, 64, 64), (.mmaBf16 gd x1 x2 tile keep la, arr 5 3 0 false, 16, 256),
           (.mmaF16 gd x1 x2 tile keep la, arr 6 4 0 false, 16, 256), (.mmaI8 gd x1 x2 tile keep la, arr 7 5 0 false, 32, 128),
           (.mload gd af x1 x3 sb k la, arr 9 (afmtCode af) k.toNat true, 0, 0)] : List (Instr × GangArr × Nat × Nat)),
       Issues c.1 s t →
       let a := c.2.1
       let w := rdMany t x2.toNat 3
       let fault : FaultCode → Nat → Out := fun q ad => .next (putThread s { t with st := .trapping { code := q, tpc := t.pc, addr := ad } })
       let reserved : Prop := a.opc ≠ 9 ∧ (bitsOf (w.getD 0 0).toNat 27 23 ≠ 0 ∨ 2 ^ 16 ≤ (w.getD 2 0).toNat)
       let outside : Prop := a.opc ≠ 9 ∧ (3 ≤ bitsOf (w.getD 0 0).toNat 31 28 ∨ bitsOf (w.getD 0 0).toNat 22 20 ≠ t.tcore ∨
         ∃ i b, i < c.2.2.1 ∧ b < c.2.2.2 ∧ scrBytes s t.grid ≤ slwOff w b i 0)
       let others := tm.gangs.filter fun g => g.gang != t.mgang && gangsMeet g.gang t.mgang
       let mine := tm.gangs.filter fun g => g.gang == t.mgang && g.n == t.gangCount + 1
       let before : List GangArr := mine.flatMap (·.arrs)
       let g : GangInst := { gang := t.mgang, n := t.gangCount + 1, arrs := before ++ [a] }
       let agree : Prop := ∀ b ∈ before, b.opc = a.opc ∧ b.afmt = a.afmt ∧ b.tile = a.tile ∧ b.slw = a.slw ∧ b.keep = a.keep ∧ b.kslot = a.kslot
       let last : Prop := ∀ v ∈ s.threads, v.team = t.team → v.isCont = false → bitsOf t.mgang 9 0 ≤ rsetOf v →
         rsetOf v < bitsOf t.mgang 9 0 + bitsOf t.mgang 12 10 → v.st = .exited ∨ v.key = t.key ∨ ∃ b ∈ before, b.thread = v.key
       (t.mgang = 0 ∨ t.isCont = true → exec c.1 s = fault .gang 0) ∧
       (t.mgang ≠ 0 → t.isCont = false → reserved → exec c.1 s = fault .illegalOperand 0) ∧
       (t.mgang ≠ 0 → t.isCont = false → ¬ reserved → outside →
         (s.fused = [] → exec c.1 s = .next (putThread s
           { t with st := .trapping { code := .scratchBounds, tpc := t.pc, addr := (w.getD 0 0).toNat, mask := some (2 ^ t.lane) } })) ∧
         (s.cur ∉ s.fused → ∃ r mask, exec c.1 s = .next r ∧ r.mem = s.mem ∧ r.eng = s.eng ∧ r.disp = s.disp ∧ bitOf mask t.lane = true ∧
           getThread r s.cur = some { t with st := .trapping { code := .scratchBounds, tpc := t.pc, addr := (w.getD 0 0).toNat, mask := some mask } })) ∧
       (t.mgang ≠ 0 → t.isCont = false → ¬ reserved → ¬ outside → mine.length ≤ 1 → tm.gangs.Nodup →
         (∀ q ∈ tm.gangs, ∀ b ∈ q.arrs, ∃ v, getThread s b.thread = some v ∧ v.core = t.core ∧ v.st = .blocked .gang ∧ b.thread ≠ s.cur) →
         ((tm.gangs.flatMap (·.arrs)).map (·.thread)).Nodup →
         (others ≠ [] ∨ ¬ agree → ∃ r tm', exec c.1 s = .next r ∧ MemoryKept s r ∧
           getThread r s.cur = some { t with st := .trapping { code := .gang, tpc := t.pc } } ∧
           getTeam r t.team = some tm' ∧ tm'.gangs = tm.gangs.filter (fun q => !(others ++ mine).contains q) ∧
           ∀ b ∈ (others ++ mine).flatMap (·.arrs), ∃ v u, getThread s b.thread = some v ∧ getThread r b.thread = some u ∧ u.pc = v.pc ∧
             u.st = .trapping { code := .gang, tpc := v.pc } ∧ u.v = v.v) ∧
         (others = [] → agree → ¬ last → ∃ r u tm', exec c.1 s = .next r ∧ MemoryKept s r ∧ OthersKept s r ∧ getThread r s.cur = some u ∧
           u.st = .blocked .gang ∧ u.pc = t.pc ∧ RegistersKept { counted t with gangCount := t.gangCount + 1 } u ∧
           u.outMatrix = { count := t.outMatrix.count + 1, pc := t.pc } ∧ getTeam r t.team = some tm' ∧
           tm'.gangs = tm.gangs.filter (fun q => !mine.contains q) ++ [g] ∧ r.eng.matq = s.eng.matq) ∧
         (others = [] → agree → last → ∃ r tm' held, exec c.1 s = .next r ∧ MemoryKept s r ∧ getTeam r t.team = some tm' ∧
           tm'.gangs = tm.gangs.filter (fun q => !mine.contains q) ∧ r.eng.matq = s.eng.matq ++ [(t.core, .gang t.team g held)] ∧
           (held = true ↔ a.opc ≠ 9 ∧ assoc s.eng.latch t.core = some { team := t.team, gang := t.mgang, fmt := a.afmt }) ∧
           assoc r.eng.latch t.core = (if a.opc = 9 ∨ a.keep = true then some { team := t.team, gang := t.mgang, fmt := a.afmt } else none) ∧
           (∃ u, getThread r s.cur = some u ∧ u.st = .ready ∧ u.pc = t.pc + lengthOf c.1 ∧ RegistersKept { counted t with gangCount := t.gangCount + 1 } u) ∧
           ∀ b ∈ before, ∃ v u, getThread s b.thread = some v ∧ getThread r b.thread = some u ∧ u.st = .ready ∧ u.pc = v.pc + v.blen ∧
             RegistersKept v u)))

/-- R226, R227, R228, R231, R236, R237, R238: the engine performs its core's first accepted operation. An MMA gives each element of the gang's
rows the sum of R73 or R74 over its A row, its B column and their scales, and changes no other row and no other tile; its A
operands, or those of an MLOAD, stand in the latch. MZERO writes 0 to every word of its tile; MCB writes 32 bytes of scratchpad to its slot. The
values are those of an engine that reads every operand as it stands: the choice without late reads, one of those that notes/assumptions/78.md
lists. (A missing row of the gang holds values of zero under MMA.CB4 too: the model's choice, notes/assumptions/112.md.) -/
def Obligations.MatrixEnginePerformsOneOperation : Prop :=
  ∀ (s : State) (core : Nat) (x : Nat × MatOp),
    let op : Instr := .matrixEngineOperation core []
    let countDown : State → Nat → Prop := fun r key => ∀ u, getThread s key = some u → ∃ w, getThread r key = some w ∧
      w.outMatrix = { count := u.outMatrix.count - 1, pc := u.outMatrix.pc } ∧ RegistersKept u w ∧ w.pc = u.pc ∧ w.st = u.st
    s.eng.matq.find? (fun y => y.1 == core) = some x →
    (∀ key tile, x.2 = .mzero key tile → ∃ r, exec op s = .next r ∧ MemoryKept s r ∧ r.eng.matq = s.eng.matq.erase x ∧ countDown r key ∧
      (∀ i, cellGet (tileOf r core tile) i = 0) ∧ ∀ c n, (c, n) ≠ (core, tile) → tileOf r c n = tileOf s c n) ∧
    (∀ key team slot a m tm, x.2 = .mcb key team slot a m → getTeam s team = some tm → a % 32 = 0 → ∃ r, exec op s = .next r ∧ MemoryKept s r ∧
      r.eng.matq = s.eng.matq.erase x ∧ countDown r key ∧
      slotOf r core slot = (List.range 32).map (fun i => scrByte tm (bitsOf a 22 20) (bitsOf a 31 28) (bitsOf a 19 0 + i)) ∧
      r.eng.tiles = s.eng.tiles ∧ ∀ c n, (c, n) ≠ (core, slot) → slotOf r c n = slotOf s c n) ∧
    (∀ team g held a tm, x.2 = .gang team g held → g.arrs.head? = some a → getTeam s team = some tm → (a.opc < 8 ∨ a.opc = 9 ∧ held = false) →
      a.afmt ≤ 5 → (g.arrs.map (·.thread)).Nodup → (∀ b ∈ g.arrs, ∃ u, getThread s b.thread = some u) → cellsWf (tileOf s core a.tile) = true →
      (a.opc < 8 → a.afmt = (mmaFmts a.opc).1) →
      let m := 16 * bitsOf g.gang 12 10
      let bits : Nat := match a.afmt with | 2 => 4 | 3 => 16 | 4 => 16 | _ => 8
      let len : Nat := 256 / bits
      let slot := wordsOf (slotOf s core a.kslot)
      let code : Nat → Nat := fun p => if a.afmt = 2 then (slot.getD (p / 2) 0).toNat / 2 ^ (16 * (p % 2)) % 2 ^ 16 else p
      let member : Nat → Option (GangArr × Thread) := fun row =>
        (g.arrs.find? fun b => b.member == row).bind fun b => (getThread s b.thread).map fun u => (b, u)
      let regA : Nat → Nat → Nat := fun row i => match member row with
        | some (b, u) => code ((rdV u (b.x1 + i * bits / 32)).toNat / 2 ^ (i * bits % 32) % 2 ^ bits)
        | none => 0
      let scale : Nat → (GangArr → Nat) → (GangArr → Nat) → Int := fun row reg byte => match member row with
        | some (b, u) => if a.afmt < 3 then (BitVec.ofNat 8 ((rdV u (reg b)).toNat / 2 ^ (8 * byte b))).toInt else 0
        | none => 0
      let latch := (assoc s.eng.latched core).getD { rows := [], scales := [] }
      let eltA : Nat → Nat → Nat := fun row i => if held then (latch.rows.getD row []).getD i 0 else regA row i
      let sa : Nat → Int := fun row => if held then (if a.afmt < 3 then (BitVec.ofNat 8 (latch.scales.getD row 0)).toInt else 0)
        else scale row (·.x3) (·.sb)
      let byteB : Nat → Nat → Nat := fun i b =>
        (scrByte tm (bitsOf (a.slw.getD 0 0).toNat 22 20) (bitsOf (a.slw.getD 0 0).toNat 31 28) (slwOff a.slw b i 0)).toNat
      let eltB : Nat → Nat → Nat := fun i j =>
        if bits = 16 then byteB i (2 * j) + 256 * byteB i (2 * j + 1) else if bits = 8 then byteB i j else code (byteB i (j / 2) / 16 ^ (j % 2) % 16)
      let val : Nat → Nat → Val := fun f p => match f with
        | 0 => unpack .e4m3 p | 1 => unpack .e5m2 p | 4 => unpack .f16 p | _ => unpack .bf16 p
      let fb : Nat := if a.opc = 1 ∨ a.opc = 3 then 1 else if a.opc = 2 then 0 else a.afmt
      (held = true → ∀ row, row < m → (latch.rows.getD row []).length = len) →
      ∃ r, exec op s = .next r ∧ MemoryKept s r ∧ r.eng.matq = s.eng.matq.erase x ∧ (∀ b ∈ g.arrs, countDown r b.thread) ∧
        (∀ c n, (c, n) ≠ (core, a.tile) → tileOf r c n = tileOf s c n) ∧
        (held = false → ∃ l, assoc r.eng.latched core = some l ∧ ∀ row i, row < m → i < len → (l.rows.getD row []).getD i 0 = regA row i) ∧
        (a.opc = 9 → r.eng.tiles = s.eng.tiles) ∧
        (a.opc < 8 → (∀ i, 128 * m ≤ i → i < 12288 → cellGet (tileOf r core a.tile) i = cellGet (tileOf s core a.tile) i) ∧
          ∀ row j, row < m → row < 96 → j < 128 →
            let c := (cellGet (tileOf s core a.tile) (128 * row + j)).toNat
            cellGet (tileOf r core a.tile) (128 * row + j) =
              if a.opc = 7 then
                word (mmaSumI8 c ((List.range len).map fun i => ((BitVec.ofNat 8 (eltA row i)).toInt, (BitVec.ofNat 8 (eltB i j)).toInt)))
              else word (mmaSum c ((List.range len).map fun i => (val a.afmt (eltA row i), val fb (eltB i j)))
                (sa row + if a.afmt < 3 then scale (j / 4) (fun b => b.x3 + 1 + b.sb) (fun _ => j % 4) else 0))))

/-- R239, R251, R252, R255: a copy or drain samples its operands at issue, the record pointers, layout words, origin and RMODE, and enters the copy
engine; its thread waits for the acceptance, and nothing else changes. CPY.MC with no destination core, or one that the team has not, raises
ILLEGAL_OPERAND. CPY.V2S is one convoy step, before which its member may be held; a member that has taken the step takes it no second time.
R245, R256, R257: GTRINV raises MISALIGNED or BUF_INDEX, else it waits until every store of the thread, or seen by its lane group (the model's
choice, notes/assumptions/135.md), is acknowledged at PKG and then takes the record out of its core's cache, and no other. CPYWAIT is BLOCKED while a copy of the thread is not finished, and then acquires at
PKG. PGHINT changes no value. -/
def Obligations.CopyInstructionsEnterTheEngine : Prop :=
  (∀ (gd : Guard) (cv : DrainFmt) (h : BitVec 6) (tile : BitVec 2) (bs : BitVec 3) (x1 x2 x3 : Reg) (cm : BitVec 8) (la : BitVec 4) (s : State)
     (t : Thread) (tm : Team),
     let quad := (rdB t bs.toNat).toNat
     let ptr : Reg → Option (Nat × Nat) := fun x => some (ptrIdx quad, ptrOff quad + (rdV t x.toNat).toNat)
     let slw : Reg → List Word := fun x => [rdV t x.toNat, rdV t (x.toNat + 1), rdV t (x.toNat + 2)]
     let base : CopyForm → Copy := fun f =>
       { id := s.mem.uid, thread := t.key, grid := t.grid, owner := ownerOf s t.grid, team := t.team, core := t.core, form := f, pc := t.pc
         hnd := h.toNat, orig := [rdV t x3.toNat, rdV t (x3.toNat + 1)], rmode := t.rmode }
     let load : CopyForm → Copy := fun f => { base f with ptrA := ptr x2, slwD := slw x1 }
     let entered : State → Thread → Instr → Copy → Out := fun s0 t0 i c =>
       .next (putThread { s0 with mem := { s0.mem with uid := s0.mem.uid + 1 }, eng := { s0.eng with copies := s0.eng.copies ++ [c] } }
         { t0 with st := .blocked .copyAccept, blen := lengthOf i, lastIssue := s.clock + 1, issuePc := t.pc, readySince := mainClocks s t.core + 1
                   skipBrk := false })
     let illegal : Out := .next (putThread s { t with st := .trapping { code := .illegalOperand, tpc := t.pc } })
     (∀ c ∈ ([(.mdrain gd cv h tile bs x2 x3 la, { base .mdrain with ptrA := ptr x2, cvt := cvtCode cv, tile := tile.toNat }),
           (.mdraina gd h tile bs x2 x3 la, { base .mdraina with ptrA := ptr x2, tile := tile.toNat }),
           (.mdrains gd cv h tile x1 x3 la, { base .mdrains with slwD := slw x1, cvt := cvtCode cv, tile := tile.toNat }),
           (.cpyG2s gd h bs x1 x2 x3 la, load .g2s), (.cpyG2sT8 gd h bs x1 x2 x3 la, load .g2sT8), (.cpyG2sT16 gd h bs x1 x2 x3 la, load .g2sT16),
           (.cpyS2g gd h bs x1 x2 x3 la, { base .s2g with ptrA := ptr x2, slwS := slw x1 }),
           (.cpyS2ga gd h bs x1 x2 x3 la, { base .s2ga with ptrA := ptr x2, slwS := slw x1 }),
           (.cpyG2g gd h bs x1 x2 x3 la, { base .g2g with ptrA := ptr x2, ptrB := ptr x1 }),
           (.cpyS2s gd h x1 x2 x3 la, { base .s2s with slwD := slw x1, slwS := slw x2 })] : List (Instr × Copy)),
       Issues c.1 s t → exec c.1 s = entered s t c.1 c.2) ∧
     (let i := Instr.cpyMc gd h bs x1 x2 x3 cm la;
       getTeam s t.team = some tm →
       (cm = 0 → getThread s s.cur = some t → t.st = .ready → poisonDue t = none → windowClosed t = false → guardWf gd = true → guardPasses t gd = true →
         t.kind = 3 → exec i s = illegal) ∧
       (Issues i s t → 2 ^ tm.cores.length ≤ cm.toNat → exec i s = illegal) ∧
       (Issues i s t → cm ≠ 0 → cm.toNat < 2 ^ tm.cores.length → exec i s = entered s t i { load .mc with cmask := cm.toNat })) ∧
     (let i := Instr.cpyV2s gd h bs x1 x2 x3 la;
       let c := { load .v2s with stream := t.cv.map fun _ => t.cvStamp };
       Issues i s t →
       (t.stepped = false → convoyHolds s (issued s t) = true → exec i s = .next (holdConvoy s t)) ∧
       (t.stepped = false → convoyHolds s (issued s t) = false →
         exec i s = entered (stepConvoy s (issued s t)) { t with stepped := t.cv.isSome } i c) ∧
       (t.stepped = true → exec i s = entered s { t with stepped := t.cv.isSome } i c))) ∧
  (∀ (gd : Guard) (bs : BitVec 3) (x2 x3 : Reg) (s : State) (t w : Thread),
     let quad := (rdB t bs.toNat).toNat
     let off := ptrOff quad + (rdV t x2.toNat).toNat
     let key := faultAddr (ptrIdx quad) off
     let owner := ownerOf s t.grid
     let valid : Prop := (ownerRec s owner).isSome = true ∧
       (ptrIdx quad = 1 ∨ ∃ e, bufFor s (some t.core) owner (ptrIdx quad) = some e ∧ bufValid s owner e = true)
     let starts : Instr → Prop := fun i => (Issues i s t ∧ w = issued s t) ∨
       (getThread s s.cur = some t ∧ t.st = .blocked (.poll i) ∧ w = { t with st := .ready })
     let still : Instr → Out := fun i => .next (putThread s { w with st := .blocked (.poll i) })
     let fault : FaultCode → Out := fun c => .next (putThread s { t with st := .trapping { code := c, tpc := t.pc, addr := key } })
     let seen : SqOp → Prop := fun x => (x.core = t.core ∧ (x.lg = t.lg ∨ 1 ≤ x.level)) ∨ (x.core / 12 = t.core / 12 ∧ 2 ≤ x.level) ∨
       (x.core / 24 = t.core / 24 ∧ 3 ≤ x.level) ∨ (x.core / 48 = t.core / 48 ∧ 4 ≤ x.level)
     let acked : Prop := ∀ q ∈ s.mem.ops, (∃ c ∈ q.contrib, (c.1 = t.key ∨ seen q) ∧ c.2 < s.mem.seq) → 5 ≤ q.level
     let i := Instr.gtrinv gd bs x2
     let j := Instr.cpywait gd
     (starts i →
       (off % 32 ≠ 0 → exec i s = fault .misaligned) ∧
       (off % 32 = 0 → ¬ valid → exec i s = fault .bufIndex) ∧
       (off % 32 = 0 → valid → ¬ acked → exec i s = still i) ∧
       (off % 32 = 0 → valid → acked → exec i s = .next { putThread s (advance w 8) with mem := { s.mem with
         recs := s.mem.recs.filter fun x => decide (¬ (x.core = t.core ∧ x.owner = owner ∧ x.ptr = key)) } })) ∧
     (starts j →
       ((∃ c ∈ s.eng.copies, c.thread = t.key ∧ c.form.isDrain = false) → exec j s = still j) ∧
       ((∀ c ∈ s.eng.copies, c.thread = t.key → c.form.isDrain = true) → exec j s = .next (acquireAt (putThread s (advance w 8)) t.core 5))) ∧
     (Issues (.pghint gd bs x2 x3) s t → exec (.pghint gd bs x2 x3) s = .next (retire (.pghint gd bs x2 x3) s (issued s t))))

/-- R247, R252, R253, R322: the engine accepts a copy whose records are in its core's record cache. A broken limit of the records or layout words, or
a handle that is not declared, has its error bit, is neither FREE nor FILLING, or has too few bytes left, is a precise fault of its
thread, and nothing is moved. Else the handle is FILLING with c bytes more reserved and one more in flight, and the thread goes on.
R241, R249, R251, R253, R254, R322, R363: the first look of a CPY.S2S at its ranges, no copy accepted before it on its core being still to start,
finds them good, or sets the handle's error bit. A part of it gives
each destination byte its source byte, as they stood before the part, and a part of an MDRAINS with raw words gives each element its
word of the tile; both under their layout words, and every other byte stays. The part's bytes count toward the handle,
which is FULL when the received count equals the expected one. A finish takes the copy out of flight. (The model's readings: that a part is a
range of whole chunks of the destination, 32 bytes of scratchpad, notes/assumptions/82.md; the test of whole ranges at the first look,
notes/assumptions/123.md; the first looks of a core in the order of acceptance, notes/assumptions/124.md.) -/
def Obligations.CopiesAreAcceptedWrittenAndFinished : Prop :=
  (∀ (s : State) (k : Nat) (c : Copy) (t : Thread) (tm : Team) (ra rb : List Word),
     let cached : Option (Nat × Nat) → List Word → Prop := fun p ws => match p with
       | none => ws = []
       | some (idx, off) => off % 32 = 0 ∧
         ∃ x, s.mem.recs.find? (fun x => x.core == c.core && x.owner == c.owner && x.ptr == faultAddr idx off) = some x ∧ x.words = ws
     let c' : Copy := { c with recA := ra, recB := rb }
     let dests : List Nat := if c.form = .mc then (List.range 8).filter (fun n => bitOf c.cmask n) else [0]
     let n := c'.bytes * dests.length
     let refused : FaultCode → Prop := fun f => ∃ r u, exec (.copyAccept k) s = .next r ∧ getThread r c.thread = some u ∧
       (∃ a, u.st = .trapping { code := f, tpc := t.pc, addr := a }) ∧ u.pc = t.pc ∧ RegistersKept t u ∧ (∀ x ∈ r.eng.copies, x.id ≠ k) ∧
       r.disp.teams = s.disp.teams ∧ MemoryKept s r
     s.eng.copies.find? (fun x => x.id == k) = some c → getThread s c.thread = some t → c.accepted = false → t.st = .blocked .copyAccept →
     getTeam s c.team = some tm → cached c.ptrA ra → cached c.ptrB rb →
     (∀ f, copyFault s c' = some f → refused f) ∧
     (copyFault s c' = none →
       ((∀ h, tm.handles[c.hnd]? = some h → h.err = true ∨ 2 ≤ h.state ∨ h.exp < h.rsv + n) → refused .handle) ∧
       (∀ h, tm.handles[c.hnd]? = some h → h.err = false → h.state < 2 → h.rsv + n ≤ h.exp → h.infl < 255 →
         (s.eng.copies.filter fun x => x.core == c.core && x.accepted).length < 64 →
         ∃ r u tm' y, exec (.copyAccept k) s = .next r ∧ getTeam r c.team = some tm' ∧
           tm'.handles = putAt {} tm.handles c.hnd { h with state := 1, rsv := h.rsv + n, infl := h.infl + 1 } ∧
           r.eng.copies.find? (fun x => x.id == k) = some y ∧ y.accepted = true ∧ y.dests = dests ∧ y.units = c'.count ∧ y.recA = ra ∧ y.recB = rb ∧
           y.started = s.clock ∧ y.stores = leftStores s t ∧ (∀ x ∈ r.eng.copies, x.id ≠ k → x ∈ s.eng.copies) ∧ (r.eng.copies.getLast?.map (·.id)) = some k ∧
           getThread r c.thread = some u ∧ u.st = .ready ∧ u.pc = t.pc + t.blen ∧ RegistersKept (counted t) u ∧
           (if c.form.isDrain then u.outMatrix = { count := t.outMatrix.count + 1, pc := t.pc } ∧ u.outCopy = t.outCopy
             else u.outCopy = { count := t.outCopy.count + 1, pc := t.pc } ∧ u.outMatrix = t.outMatrix) ∧ MemoryKept s r))) ∧
  (∀ (s : State) (k : Nat) (c : Copy) (tm : Team) (h : Handle),
     let cols := if c.form = .s2s then (c.orig.getD 0 0).toNat % 2 ^ 16 else (c.orig.getD 1 0).toNat
     let rows := if c.form = .s2s then (c.orig.getD 0 0).toNat / 2 ^ 16 else (c.orig.getD 0 0).toNat
     let e := if c.form = .s2s then 1 else 4
     let place : List Word → Nat → Nat := fun w n => slwOff w (n % cols * e) (n / cols % rows) 0
     let phys : List Word → Nat → Nat → Nat := fun w n b => scrMap (bitsOf (w.getD 0 0).toNat 31 28) (place w n + b)
     let tcr : List Word → Nat := fun w => bitsOf (w.getD 0 0).toNat 22 20
     let byte : Nat → Nat → Byte := fun n b =>
       if c.form = .s2s then scratchByte s c.team (tcr c.slwS) (phys c.slwS n b)
       else BitVec.ofNat 8 ((cellGet (tileOf s c.core c.tile) (n / cols % rows * 128 + n % cols)).toNat / 256 ^ b)
     s.eng.copies.find? (fun x => x.id == k) = some c → c.accepted = true → getTeam s c.team = some tm → tm.handles[c.hnd]? = some h →
     (c.form = .s2s → c.checked = false → c.srcFail = false → c.stopped = false → c.dests = [0] →
       (∀ x ∈ s.eng.copies, x.core = c.core → x.accepted = true → x.checked = true ∨ x.id = k) →
       let ok : List Word → Bool := fun w => scrRangeOk s c w (tcr w) rows cols 1
       ∃ r y h', exec (.copyPartWritten k 0 0 0) s = .next r ∧ r.eng.copies.find? (fun x => x.id == k) = some y ∧ y.checked = true ∧
         (y.srcFail = true ↔ ok c.slwS = false) ∧ (ok c.slwS = true → (y.failed = [] ↔ ok c.slwD = true)) ∧
         handleOf r c.team c.hnd = some h' ∧ (h'.err = true ↔ h.err = true ∨ ok c.slwS = false ∨ ok c.slwD = false) ∧
         (h.err = false → h'.err = true → h'.ecode = 0x0D) ∧ MemoryKept s r) ∧
     (∀ lo hi, let es := c.elemsIn 0 lo hi;
       (c.form = .s2s ∨ (c.form = .mdrains ∧ c.cvt = 0)) → c.checked = true → c.srcFail = false → c.stopped = false → c.dests = [0] →
       c.failed = [] → c.buf = [] → c.adding = [] → c.after = 0 → (∀ q ∈ s.mem.ops, q.seq ∉ c.stores) →
       (∀ q ∈ s.mem.reqs, q.stage = .atCore → q.scr ≠ none → q.id ∉ c.stores) → lo < hi → hi ≤ (c.chunks 0).length →
       (∀ w ∈ c.written, w.1 = 0 ∧ (hi ≤ w.2.1 ∨ w.2.2 ≤ lo) ∧ w.2.1 ≤ w.2.2) →
       (∀ n m b d, n ∈ es → m ∈ es → b < e → d < e → phys c.slwD n b = phys c.slwD m d → n = m ∧ b = d) →
       Memory.wf (tm.scratch.getD (tcr c.slwD) []) = true →
       (∀ n ∈ es, n < c.units ∧ ∀ m, m < c.units → place c.slwD m / c.atom = place c.slwD n / c.atom → m ∈ es) ∧
       ∃ r h', exec (.copyPartWritten k 0 lo hi) s = .next r ∧
         (∀ n b, n ∈ es → b < e → scratchByte r c.team (tcr c.slwD) (phys c.slwD n b) = byte n b) ∧
         (∀ tc a, (tc = tcr c.slwD → ∀ n b, n ∈ es → b < e → a ≠ phys c.slwD n b) → scratchByte r c.team tc a = scratchByte s c.team tc a) ∧
         (∀ m tc a, m ≠ c.team → scratchByte r m tc a = scratchByte s m tc a) ∧ r.mem.hbm = s.mem.hbm ∧ r.mem.tbl = s.mem.tbl ∧
         handleOf r c.team c.hnd = some h' ∧ h'.rcv = (h.rcv + es.length * e) % 2 ^ 24 ∧
         h'.state = (if h.state = 1 ∧ h'.rcv = h.exp then 2 else h.state) ∧ h'.err = h.err ∧ h'.infl = h.infl ∧ h'.exp = h.exp) ∧
     (c.srcFail = true ∨ c.stopped = true ∨ (c.checked = true ∧ ∀ d ∈ c.dests, d ∈ c.failed ∨
         ((c.written.filter fun w => w.1 == d).map fun w => (c.elemsIn d w.2.1 w.2.2).length).sum = c.units) →
       ∃ r h', exec (.copyFinish k) s = .next r ∧ (∀ x ∈ r.eng.copies, x.id ≠ k) ∧ handleOf r c.team c.hnd = some h' ∧
         h' = { h with infl := h.infl - 1, state := if h.err = true ∧ h.infl - 1 = 0 ∧ h.state ≤ 1 then 2 else h.state } ∧ MemoryKept s r ∧
         ∀ t, getThread s c.thread = some t → (s.threads.map (·.key)).Nodup → ∃ u, getThread r c.thread = some u ∧ RegistersKept t u ∧
           u.outCopy = (if c.form.isDrain then t.outCopy else { count := t.outCopy.count - 1, pc := t.outCopy.pc }) ∧
           u.outMatrix = (if c.form.isDrain = true ∧ c.readDone = false then { count := t.outMatrix.count - 1, pc := t.outMatrix.pc } else t.outMatrix) ∧
           ((∀ i, t.st ≠ .blocked (.poll i)) → u.pc = t.pc ∧ u.st = t.st)))

/-- R258, R259, R263: an NMC whose record address passes its checks raises NM, and nothing is sent, when its command breaks a rule of R259. Else, with
every page of its operands translated, the command enters with the targets of its lines, and the thread waits until it is sent: which
needs every store of the thread before it acknowledged at home and room at the stack. NMWAIT is BLOCKED while a command of the
thread has not written its record, and then acquires at PKG.
R258, R260, R261, R262: a step of a command gives each of its 16 elements, or the rest, the value of its operation, rounded and with one canonical
NaN, and changes no other byte. A step that would read a poisoned atom, or one with an error not yet found, stops the command and changes
no byte; that error poisons its atom alone. A command that is stopped or whole writes its record and is gone. (The model's readings,
notes/assumptions/85.md: SCALE, AXPY and SGDF read every atom of their lines in each step, FILL the one that it fills in part, and the record is
written by a step of its own. What a thread has seen counts as its stores do, notes/assumptions/135.md.) -/
def Obligations.NearMemoryCommandsRun : Prop :=
  (∀ (gd : Guard) (bs : BitVec 3) (x1 x2 : Reg) (la : BitVec 4) (s : State) (t : Thread),
     let i := Instr.nmc gd bs x1 x2 la
     let j := Instr.nmwait gd
     let owner := ownerOf s t.grid
     let p := rdB t bs.toNat
     let acc : Access := { core := some t.core, owner := owner, grid := t.grid, idx := p.toNat / 2 ^ 48
                           off := ((p.toNat % 2 ^ 48 : Nat) : Int) + (rdV t x2.toNat).toNat, size := 16, align := 16, right := rightW }
     let s1 := cacheBuf s t.core owner (p.toNat / 2 ^ 48)
     let ws := rdMany t x1.toNat 8
     let op := (ws.getD 0 0).toNat
     let n := (ws.getD 1 0).toNat
     let dst := (ws.getD 2 0).toNat + 2 ^ 32 * (ws.getD 3 0).toNat
     let src := (ws.getD 4 0).toNat + 2 ^ 32 * (ws.getD 5 0).toNat
     let entry : Nat → Nat → Option BufEntry := fun q r => (bufFor s1 (some t.core) owner (q / 2 ^ 48)).bind fun w =>
       let e := decodeBuf w
       if bufValid s1 owner w = true ∧ q / 2 ^ 48 ≠ 0 ∧ q % 64 = 0 ∧ e.kind = 0 ∧ e.mode = 1 ∧ bitOf e.rights rightN = true ∧ bitOf e.rights r = true ∧
         e.owner = owner ∧ q % 2 ^ 48 + 4 * n ≤ e.len then some e else none
     let good : Prop := op = 1 ∨ op = 2 ∨ op = 3 ∨ op = 4
     let legal : Prop := good ∧ 1 ≤ n ∧ n ≤ 16777216 ∧ ∃ d, entry dst rightW = some d ∧
       if op = 4 then src = 0 else ∃ e, entry src rightR = some e ∧ e.stk = d.stk
     let lines : Nat → List Access := fun q => (List.range ((n + 15) / 16)).map fun l =>
       { core := some t.core, owner := owner, grid := t.grid, idx := q / 2 ^ 48, off := ((q % 2 ^ 48 + 64 * l : Nat) : Int)
         size := min 64 (4 * n - 64 * l), align := 1, right := rightN }
     let tgts : Nat → List Target → Prop := fun q ts => (lines q).map (checkAccess s1) = ts.map .ok
     let seen : Thread → SqOp → Prop := fun x y => (y.core = x.core ∧ (y.lg = x.lg ∨ 1 ≤ y.level)) ∨ (y.core / 12 = x.core / 12 ∧ 2 ≤ y.level) ∨
       (y.core / 24 = x.core / 24 ∧ 3 ≤ y.level) ∨ (y.core / 48 = x.core / 48 ∧ 4 ≤ y.level)
     (Issues i s t → (s.threads.map (·.key)).Nodup → ∀ g, checkAccess s1 acc = .ok g → g.pkg.isSome = true ∨ physOk g.phys = true →
       (¬ legal → ∃ r, exec i s = .next r ∧ getThread r s.cur = some { t with st := .trapping { code := .nm, tpc := t.pc } } ∧
         r.eng.nm = s.eng.nm ∧ OthersKept s r ∧ MemoryKept s r) ∧
       (legal → ∀ ds ss, tgts dst ds → (if op = 4 then ss = [] else tgts src ss) → ∃ (r : State) (u : Thread) (c : NmCmd), exec i s = .next r ∧
         r.eng.nm = s.eng.nm ++ [c] ∧ c.thread = t.key ∧ c.owner = owner ∧ c.words = ws ∧ c.dst = ds ∧ c.srcA = ss ∧ c.record = g ∧ c.sent = false ∧
         c.next = 0 ∧ c.stopped = false ∧ (∀ d, entry dst rightW = some d → c.stack = d.stk) ∧ getThread r s.cur = some u ∧
         u.st = .blocked .nmcSend ∧ u.pc = t.pc ∧ u.blen = lengthOf i ∧ RegistersKept (counted t) u ∧ OthersKept s r ∧ r.mem.hbm = s.mem.hbm)) ∧
     (∀ k c u, s.eng.nm.find? (fun x => x.id == k) = some c → getThread s c.thread = some u → c.sent = false → u.st = .blocked .nmcSend →
       (s.eng.nm.filter fun x => x.stack == c.stack && x.sent).length < 64 →
       ((∃ q ∈ s.mem.ops, ∃ d ∈ q.contrib, d.1 = c.thread ∧ d.2 < c.after ∧ q.level < 5) → exec (.nmcSend k) s = .fault .notEnabled) ∧
       ((∀ q ∈ s.mem.ops, ∀ d ∈ q.contrib, d.1 = c.thread ∨ seen u q → c.after ≤ d.2) → ∃ (r : State) (v : Thread), exec (.nmcSend k) s = .next r ∧
         r.eng.nm.find? (fun x => x.id == k) = some { c with sent := true } ∧ getThread r c.thread = some v ∧ v.st = .ready ∧ v.pc = u.pc + u.blen ∧
         v.outCopy = { count := u.outCopy.count + 1, pc := u.pc } ∧ RegistersKept u v ∧ MemoryKept s r)) ∧
     (∀ v : Thread, (Issues j s t ∧ v = issued s t) ∨ (getThread s s.cur = some t ∧ t.st = .blocked (.poll j) ∧ v = { t with st := .ready }) →
       ((∃ c ∈ s.eng.nm, c.thread = t.key) → exec j s = .next (putThread s { v with st := .blocked (.poll j) })) ∧
       ((∀ c ∈ s.eng.nm, c.thread ≠ t.key) → exec j s = .next (acquireAt (putThread s (advance v 8)) t.core 5)))) ∧
  (∀ (s : State) (k : Nat) (c : NmCmd),
     let w : Nat → Nat := fun n => (c.words.getD n 0).toNat
     let op := w 0 % 256
     let count := w 1
     let infoAt : State → Nat → AtomInfo := fun q a => (assoc q.mem.atoms (a / 32)).getD {}
     let bad : Nat → Prop := fun a => (infoAt s a).poison = true ∨ (infoAt s a).ue = true
     s.eng.nm.find? (fun x => x.id == k) = some c → c.sent = true → 1 ≤ op → op ≤ 4 → Memory.wf s.mem.hbm = true →
     (∀ x ∈ s.eng.nm.takeWhile (fun x => x.id != k), x.thread = c.thread → x.stack ≠ c.stack) →
     (∀ d e, c.stopped = false → c.next < count → c.dst[c.next / 16]? = some d → d.pkg = none → d.cad = none → d.phys % 64 = 0 →
       (if op = 4 then c.srcA = [] else c.srcA[c.next / 16]? = some e ∧ e.pkg = none ∧ e.phys % 64 = 0) →
       let m := min 16 (count - c.next)
       let size := if d.gang then 64 else 32
       let touched : Nat → Prop := fun a =>
         if op = 4 then d.phys + 4 * m / size * size ≤ a ∧ a < d.phys + (4 * m + size - 1) / size * size
         else a / 64 = d.phys / 64 ∨ a / 64 = e.phys / 64
       let dn : Nat → Nat := fun n => wordOfBytes ((List.range 4).map fun b => homeByte s d (d.phys + 4 * n + b))
       let an : Nat → Nat := fun n => wordOfBytes ((List.range 4).map fun b => homeByte s e (e.phys + 4 * n + b))
       let val : Nat → Nat := fun n =>
         if op = 1 then (fpMul .f32 (an n) (w 6)).1 else if op = 2 then (fpFma .f32 (w 6) (an n) (dn n)).1
         else if op = 3 then (fpFma .f32 ((w 6 + 2 ^ 31) % 2 ^ 32) ((fpFma .f32 (w 7) (dn n) (an n)).1) (dn n)).1 else w 6
       ((∃ a, touched a ∧ bad a) → ∃ r, exec (.nmStep k) s = .next r ∧ MemoryKept s r ∧
         r.eng.nm.find? (fun x => x.id == k) = some { c with stopped := true } ∧ (∀ a, (infoAt r a).poison = true → bad a) ∧
         ∀ a, touched a → (infoAt s a).ue = true → (infoAt r a).poison = true) ∧
       ((∀ a, touched a → ¬ bad a) → ∃ r, exec (.nmStep k) s = .next r ∧
         r.eng.nm.find? (fun x => x.id == k) = some { c with next := c.next + m } ∧
         (∀ n b, n < m → b < 4 → cellGet r.mem.hbm (d.phys + 4 * n + b) = BitVec.ofNat 8 (val n / 256 ^ b)) ∧
         (∀ a, a < d.phys ∨ d.phys + 64 ≤ a → cellGet r.mem.hbm a = cellGet s.mem.hbm a) ∧
         (∀ a, d.phys + 4 * m ≤ a → a < d.phys + 64 → cellGet r.mem.hbm a =
           if d.phys + (4 * m + size - 1) / size * size ≤ a then cellGet s.mem.hbm a else homeByte s d a))) ∧
     (c.stopped = true ∨ count ≤ c.next → c.record.pkg = none → c.record.cad = none → c.record.phys % 16 = 0 →
       (∀ h ∈ atomHalves c.record.gang c.record.phys, ((assoc s.mem.atoms h).getD {}).poison = false ∧ ((assoc s.mem.atoms h).getD {}).ue = false) →
       ∃ r, exec (.nmStep k) s = .next r ∧ (∀ x ∈ r.eng.nm, x.id ≠ k) ∧
         memRead r.mem.hbm c.record.phys 16 = bytesOf [if c.stopped then 1 else 0, if c.stopped then word c.next else word count, word op, 0] ∧
         (∀ a, a / (if c.record.gang then 64 else 32) ≠ c.record.phys / (if c.record.gang then 64 else 32) →
           cellGet r.mem.hbm a = cellGet s.mem.hbm a) ∧
         ∀ t, getThread s c.thread = some t → ∃ u, getThread r c.thread = some u ∧
           u.outCopy = { count := t.outCopy.count - 1, pc := t.outCopy.pc } ∧ RegistersKept t u ∧ u.pc = t.pc ∧ u.st = t.st))

/-- R319, R320, R336, R409: a walk of a page in a core's miss table, or its chiplet's translation of
the page, enters its outcome in the core's translation buffer. When a page that is waited on is
present, every access parked on it may issue again, at its own instruction with its registers as they were; when it is denied, or
function 3 decides so in hardware, each raises PAGE_DENIED, at its own instruction and address. The host's page is written in the
leaf, at the frame and rotation of its reply (the model's reading, notes/assumptions/68.md). -/
def Obligations.PageWalksAndService : Prop :=
  ∀ (s : State) (p : PageKey),
    let wanted : Prop := p.psz < 4 ∧ ((∃ t ∈ s.threads, ∃ a, t.st = .parked p a) ∨ ∃ x ∈ s.mem.parks, x.page = p ∧ x.refused = false)
    let resumed : State → Prop := fun r =>
      (∀ t, getThread s t.key = some t → ∃ u, getThread r t.key = some u ∧ RegistersKept t u ∧ u.pc = t.pc ∧
        ((∃ a, t.st = .parked p a) → u.st = .ready) ∧ ((∀ a, t.st ≠ .parked p a) → u = t)) ∧
      (∀ x ∈ r.mem.parks, x.page = p → x.refused = true) ∧ (∀ x ∈ s.mem.parks, x.page ≠ p → x ∈ r.mem.parks) ∧ (∀ e ∈ r.mem.tlb, e.page ≠ p)
    let denied : State → Prop := fun r => ∀ t, getThread s t.key = some t → ∃ u, getThread r t.key = some u ∧ RegistersKept t u ∧ u.pc = t.pc ∧
      ((∀ a, t.st = .parked p a → u.st = .trapping { code := .pageDenied, tpc := t.pc, addr := a }) ∧ ((∀ a, t.st ≠ .parked p a) → u = t))
    (∀ core, (core, p) ∈ s.mem.miss →
      ((s.mem.miss.takeWhile fun x => x != (core, p)).filter fun x => x.1 / 24 == core / 24).length < 64 →
      ∃ r, exec (.pageWalk core p) s = .next r ∧ (∀ x, x ∈ r.mem.miss ↔ x ∈ s.mem.miss ∧ x ≠ (core, p)) ∧
        tlbFor r core p = some (((s.mem.tlb2.find? fun e => e.core == core / 24 && e.page == p).map (·.res)).getD (walk s p.owner p.va p.psz)) ∧ MemoryKept s r ∧ r.threads = s.threads) ∧
    (wanted → ∀ pte lvl, walk s p.owner p.va p.psz = .leaf pte lvl → ∀ a rot, ∃ r, exec (.pageServiced p a rot) s = .next r ∧ resumed r ∧ MemoryKept s r) ∧
    (wanted → walk s p.owner p.va p.psz = .missing false → ∀ o rcd a rot, ownerRec s p.owner = some rcd →
      leafSlot s.mem.tbl p.va p.psz 4 rcd.proot 0 = some o → a % 4096 = 0 → a < 2 ^ 48 → rot < 8 → Memory.wf s.mem.tbl = true →
      (∃ q, s.disp.openQs.find? (fun x => x.what == .pageFault p) = some q ∧ q.answer = some 1) →
      ∃ r, exec (.pageServiced p a rot) s = .next r ∧ resumed r ∧ memNat r.mem.tbl o 8 = a + 8 * rot + 3 ∧
        (∀ b, b < o ∨ o + 8 ≤ b → cellGet r.mem.tbl b = cellGet s.mem.tbl b) ∧ r.mem.hbm = s.mem.hbm) ∧
    (wanted → walk s p.owner p.va p.psz = .denied → ∃ r, exec (.pageRefused p) s = .next r ∧ denied r ∧ MemoryKept s r) ∧
    (wanted → walk s p.owner p.va p.psz = .missing false → (∀ x ∈ s.disp.openQs, x.what ≠ .pageFault p) → fnHost s 3 = false →
      ∃ r, exec (.pageRefused p) s = .next r ∧ denied r)

/-- R300, R304, R305: a page moves in two steps. It is put in transit, TRANS set and its translations dropped, when its new place is decided. Once no
access in flight has translated through it, each of its bytes and the side information of its atoms stand at the new homes, or in the
tier, ROT is the new rotation or TIER is set, TRANS is clear, and what waits on the page goes on. A page of mode STACK does not
move, nor one of which a near-memory command holds a part.
R336: left to hardware, function 2 sends a page to the tier when no page that may go has been used less recently (that a thread's access is the
use is the model's choice, notes/assumptions/143.md), and no other.
R304, R305: a page that is in the tier comes in in two steps too: its entry is marked in transit, and then it has the bytes, tags and poison that it
was sent out with, at the place that is given it, whatever the frame held before; its entry is present, and what waits on it goes on. (The two
steps, the place that the step names and the mode by which a page's bytes are found are the model's readings, notes/assumptions/65.md, 66.md
and 67.md.) -/
def Obligations.PagesMoveWithTheirBytes : Prop :=
  (∀ (s : State) (p : PageKey) (o pte lvl mode stk : Nat),
     let x : PagePlace := { mode := mode, stk := stk, pte := pte, lvl := lvl }
     let size := levelBytes lvl
     let byteAt : State → Nat → Byte := fun r b => cellGet r.mem.hbm b
     let infoAt : State → Nat → AtomInfo := fun r b => (assoc r.mem.atoms (b / 32)).getD {}
     let still : Prop := (∀ q ∈ s.mem.ops, q.tgt.pkg = none → x.holds q.tgt.phys = false) ∧
       ∀ q ∈ s.mem.reqs, q.scratch = false → q.tgt.pkg = none → x.holds q.tgt.phys = false
     let canonical : Prop := Memory.wf s.mem.hbm = true ∧ Memory.wf s.mem.tbl = true ∧ (s.mem.atoms.map (·.1)).Nodup
     let sameTable : State → Prop := fun r => ∀ b, b < o ∨ o + 8 ≤ b → cellGet r.mem.tbl b = cellGet s.mem.tbl b
     let held : Prop := ∃ c ∈ s.eng.nm, ∃ k ∈ c.pages, k.owner = p.owner ∧ p.va < k.va + pageBytes k.psz ∧ k.va < p.va + size
     let least : Prop := ∀ u ∈ s.mem.pageUse, pagesMeet p u.1 = true ∨ tierMovable s u.1 = false ∨ lastUse s p ≤ lastUse s u.1
     leafOf s p = some (o, pte, lvl) → pageMode s p = some (mode, stk) → mode < 4 → stk < 8 → p.va % size = 0 → canonical → p.psz < 3 →
     (mode = 1 ∨ held → ∀ rot, exec (.pageMigration p rot) s = .fault .notEnabled) ∧
     (mode ≠ 1 → ¬ held →
       (∀ r, r < 8 → r ≠ pteRot pte → assoc s.mem.transit p = none → bitOf pte 6 = false →
         (∃ q, s.disp.openQs.find? (fun y => y.what == .pageRot p) = some q ∧ q.answer = some r) → ∀ rot, ∃ u, exec (.pageMigration p rot) s = .next u ∧
           assoc u.mem.transit p = some (some r) ∧ memNat u.mem.tbl o 8 = pte + 64 ∧ sameTable u ∧ u.mem.hbm = s.mem.hbm ∧ (∀ e ∈ u.mem.tlb, e.page ≠ p)) ∧
       (∀ r, r < 8 → assoc s.mem.transit p = some (some r) → bitOf pte 6 = true → still → ∀ rot, ∃ u, exec (.pageMigration p rot) s = .next u ∧
         let y : PagePlace := { x with pte := withRot (pte - 64) r }
         memNat u.mem.tbl o 8 = y.pte ∧ pteRot y.pte = r ∧ sameTable u ∧ (∀ e ∈ u.mem.tlb, e.page ≠ p) ∧
           (∀ b, b < size → byteAt u (y.addr p.va b) = byteAt s (x.addr p.va b) ∧ infoAt u (y.addr p.va b) = infoAt s (x.addr p.va b)) ∧
           (∀ b, x.holds b = false → byteAt u b = byteAt s b) ∧ ∀ t ∈ u.threads, ∀ a, t.st ≠ .parked p a)) ∧
     (¬ held → assoc s.mem.transit p = none → bitOf pte 6 = false → fnHost s 2 = false → (∀ y ∈ s.disp.openQs, y.what ≠ .tier p) →
       (least → ∃ u, exec (.tierMigration p false 0) s = .next u ∧ assoc u.mem.transit p = some none ∧ memNat u.mem.tbl o 8 = pte + 64 ∧ sameTable u ∧
         ∀ e ∈ u.mem.tlb, e.page ≠ p) ∧
       (¬ least → exec (.tierMigration p false 0) s = .fault .notEnabled)) ∧
     (¬ held → assoc s.mem.transit p = some none → bitOf pte 6 = true → bitOf pte 8 = false → still → (∀ t ∈ s.mem.tier, t.page ≠ p) →
       ∃ u e, exec (.tierMigration p false 0) s = .next u ∧ e ∈ u.mem.tier ∧ e.page = p ∧ memNat u.mem.tbl o 8 = pte - 64 - 1 + 256 ∧ sameTable u ∧
         (∀ b, b < size → cellGet e.bytes b = byteAt s (x.addr p.va b) ∧ (assoc e.infos (b / 32)).getD {} = infoAt s (x.addr p.va b)) ∧
         ∀ b, byteAt u b = if x.holds b then 0 else byteAt s b)) ∧
  (∀ (s : State) (p : PageKey) (t : TierPage) (o mode stk adr : Nat),
     let pte := memNat s.mem.tbl o 8
     let lvl := leafLevel p.psz
     let y : PagePlace := { mode := mode, stk := stk, pte := adr + 8 * pteRot pte + 3, lvl := lvl }
     s.mem.tier.find? (fun e => e.page == p) = some t → walkSlot s p.owner p.va p.psz = some o → pageMode s p = some (mode, stk) → mode < 4 → stk < 8 →
     p.psz < 3 → p.va % levelBytes lvl = 0 → bitOf pte 0 = false → bitOf pte 8 = true → adr % 4096 = 0 → adr < 2 ^ 48 →
     Memory.wf s.mem.hbm = true → Memory.wf s.mem.tbl = true → Memory.wf t.bytes = true → (∀ c ∈ t.bytes, c.1 < levelBytes lvl) →
     (∀ c ∈ t.infos, 32 * c.1 < levelBytes lvl) → (t.infos.map (·.1)).Nodup → (s.mem.atoms.map (·.1)).Nodup →
     (assoc s.mem.transit p = none → bitOf pte 6 = false → ∃ u, exec (.tierMigration p true adr) s = .next u ∧ assoc u.mem.transit p = some none ∧
       memNat u.mem.tbl o 8 = pte + 64 ∧ u.mem.hbm = s.mem.hbm ∧ u.mem.tier = s.mem.tier ∧ u.threads = s.threads) ∧
     ((assoc s.mem.transit p).isSome = true → ∃ u, exec (.tierMigration p true adr) s = .next u ∧ (∀ e ∈ u.mem.tier, e.page ≠ p) ∧ memNat u.mem.tbl o 8 = y.pte ∧
       (∀ b, b < levelBytes lvl → cellGet u.mem.hbm (y.addr p.va b) = cellGet t.bytes b ∧
         (assoc u.mem.atoms (y.addr p.va b / 32)).getD {} = (assoc t.infos (b / 32)).getD {}) ∧
       (∀ b, y.holds b = false → cellGet u.mem.hbm b = cellGet s.mem.hbm b) ∧ ∀ v ∈ u.threads, ∀ a, v.st ≠ .parked p a))

/-- R343, R344, R346: the dispatcher takes the head packet of a launch queue whose operations nothing holds. A GRID packet that no row of Table 5 refuses makes one grid table entry, with the
next grid id and the fields of Table 4; its teams wait on the chosen layers. One with a reserved field, a broken role word or
an SCR above 512 is refused with the lowest code that applies: it starts nothing, and its record, if it has one, says REFUSED and the code.
R346: a WAIT packet that is not refused holds its queue with every grid taken earlier from it. The wait goes on while such a grid is in
the grid table or the word is below the value, and ends when neither holds, with a record DONE, if it has one; a refused or poisoned read ends
it with the STATUS FAULT and the fault's code in the record. Every other byte at home stays; a record that is refused is lost and counted.
A KICK packet that is not refused puts one kick of its graph in line, with its pins. (The model's readings: the dealing of teams over the
chosen layers, notes/assumptions/48.md; the choice of the partition, notes/assumptions/47.md; one poll at home, notes/assumptions/56.md.) -/
def Obligations.LaunchPacketsAreTaken : Prop :=
  (∀ (s s1 : State) (q : Nat) (x : HwQueue) (ws : List Word) (es : List QEntry) (layers : List Nat),
     let w : Nat → Nat := fun i => (ws.getD i 0).toNat
     let pair : Nat → Quad := fun i => ws.getD (i + 1) 0 ++ ws.getD i 0
     let role : Nat → RoleDecl := fun i =>
       { kind := bitsOf (w (5 + i)) 19 16, groups := bitsOf (w (5 + i)) 15 6, threads := bitsOf (w (5 + i)) 5 0, budget := 8 * bitsOf (w (5 + i)) 24 20 }
     let roles := [role 0, role 1, role 2, role 3]
     let part := (((partsOf s1 x.owner).find? fun p => layers.all (partLayer s1 p)).orElse fun _ => (partsOf s1 x.owner).head?).getD 0
     let reserved : Prop := w 0 % 256 ≠ 1 ∨ 2 ^ 17 ≤ w 0 ∨ (∃ i, i < 4 ∧ 2 ^ 25 ≤ w (5 + i)) ∨ 2 ^ 10 ≤ w 9 ∨ 2 ^ 24 ≤ w 15 ∨ bitsOf (w 15) 7 2 ≠ 0 ∨
       bitsOf (w 15) 1 0 = 3
     let broken : Prop := (∃ r ∈ roles, if r.kind = 0 then r.groups ≠ 0 else 3 < r.kind ∨ r.threads < 1 ∨ 32 < r.threads ∨ 512 < r.groups ∨
         r.budget < 8 ∨ 128 < r.budget) ∨ 512 < (roles.map (·.groups)).sum ∨ (roles.map fun r => r.groups * r.threads).sum < 1 ∨
       16384 < (roles.map fun r => r.groups * r.threads).sum ∨
       (bitsOf (w 15) 23 16 ≠ 0 ∧ (bitsOf (w 15) 23 16 < 2 ∨ 6 < bitsOf (w 15) 23 16 ∨ ∀ r ∈ roles, r.kind ≠ 2))
     let refused : Nat → Prop := fun code =>
       (pair 12 = 0 → exec (.gridPacket q layers) s = .next s1) ∧
       (∀ t, pair 12 ≠ 0 → unitCheck s1 (.command q) x.owner 0 (pair 12).toNat 32 32 rightW = .ok t →
         recordCheck s1 (.command q) x.owner (pair 12).toNat 32 = .ok t → t.pkg = none → t.phys % 32 = 0 →
         (∀ h ∈ atomHalves t.gang t.phys, ((assoc s1.mem.atoms h).getD {}).poison = false ∧ ((assoc s1.mem.atoms h).getD {}).ue = false) →
         Memory.wf s1.mem.hbm = true → ∃ r, exec (.gridPacket q layers) s = .next r ∧ r.disp.grids = s1.disp.grids ∧
           memRead r.mem.hbm t.phys 32 = bytesOf [2, word code, 0, 0, 0, 0, 0, 0])
     headPacket s q = some (x, ws) → ringHeld s q = false → ws.length = 16 → x.q = q → takePacket s q = .done s1 es → w 0 % 256 ≠ 2 → w 0 % 256 ≠ 3 →
     (reserved → refused 1) ∧ (¬ reserved → broken → refused 2) ∧ (¬ reserved → ¬ broken → 512 < w 9 → refused 3) ∧
     (gridCode s1 x.owner part ws (currentPins s1) = none → s.disp.grids.length < 1024 →
       layersGood s1 (gridOf (pinCaddies s1) s.disp.nextGrid x.owner part ws
           (.queue q ((es.head?.map (·.pusher)).join)) (currentPins s1) s1.disp.cadCount) layers = true →
       ∃ (r : State) (g : Grid), exec (.gridPacket q layers) s = .next r ∧ r.disp.grids = s1.disp.grids ++ [g] ∧ g.id = s.disp.nextGrid ∧ g.owner = x.owner ∧ g.part = part ∧
         g.coop = bitOf (w 0) 16 ∧ g.nhnd = bitsOf (w 0) 15 10 ∧ g.prio = bitsOf (w 0) 9 8 ∧ g.code = pair 1 ∧ g.entry = w 3 ∧ g.nteam = w 4 ∧ g.roles = roles ∧
         g.scr = w 9 ∧ g.param = pair 10 ∧ g.done = pair 12 ∧ g.tvec = w 14 ∧ g.gangr = bitsOf (w 15) 23 16 ∧ g.cvhint = bitsOf (w 15) 15 8 ∧
         g.cls = bitsOf (w 15) 1 0 ∧ g.status = .running ∧ g.pins = currentPins s1 ∧ g.doneTeams = 0 ∧
         g.waiting = (List.range (w 4)).map (fun i => (i, layers.getD (i % layers.length) 0, s1.clock)) ∧
         r.disp.nextGrid = (if s1.disp.nextGrid + 1 = 2 ^ 32 then 1 else s1.disp.nextGrid + 1) ∧ r.threads = s1.threads)) ∧
  ((∀ (s s1 : State) (q : Nat) (x : HwQueue) (ws : List Word) (es : List QEntry),
     let pair : Nat → Quad := fun i => ws.getD (i + 1) 0 ++ ws.getD i 0
     headPacket s q = some (x, ws) → ringHeld s q = false → ws.length = 16 → takePacket s q = .done s1 es →
     (ws.getD 0 0 = 2 → waitCode s1 x.owner ws = none → ∃ (r : State) (w : WaitPkt), exec (.waitPacket q) s = .next r ∧ r.disp.waits = s1.disp.waits ++ [w] ∧
       r.disp.grids = s1.disp.grids ∧ w.polled = s.clock ∧ w.q = q ∧ w.owner = x.owner ∧ w.code = pair 1 ∧ w.value = ws.getD 3 0 ∧ w.done = pair 12 ∧
       (∀ g, g ∈ w.grids ↔ ∃ y ∈ s1.disp.grids, y.id = g ∧ ∃ p, y.origin = .queue q p)) ∧
     (ws.getD 0 0 = 3 → pktReserved ws = false → pktPtrsOk s1 x.owner 0 ws = true → pktOwnerOk s1 x.owner = true →
       graphResident s1 (ws.getD 3 0).toNat = true → graphOwner s1 (ws.getD 3 0).toNat = x.owner →
       ∃ (r : State) (k : Kick), exec (.kickPacket q) s = .next r ∧ r.disp.kicks = s1.disp.kicks ++ [k] ∧ k.graph = (ws.getD 3 0).toNat ∧ k.owner = x.owner ∧
         k.patch = pair 10 ∧ k.done = some (pair 12) ∧ k.queue = some q ∧ k.pins = currentPins s1 ∧ r.disp.grids = s1.disp.grids)) ∧
   (∀ (s : State) (q : Nat) (w : WaitPkt),
     let busy : Prop := ∃ g ∈ w.grids, ∃ y ∈ s.disp.grids, y.id = g
     let place := recordCheck s (.wait q) w.owner w.done.toNat 32
     let ended : Nat → Nat → Prop := fun status code => w.done = 0 ∨ (∀ p, place ≠ .park p) → ∃ r, exec (.waitPoll q) s = .next r ∧
       (∀ y ∈ r.disp.waits, y.q ≠ q) ∧ (∀ y ∈ s.disp.waits, y.q ≠ q → y ∈ r.disp.waits) ∧ r.disp.grids = s.disp.grids ∧ r.threads = s.threads ∧
       (w.done = 0 → MemoryKept s r ∧ r.mem.errLog = s.mem.errLog) ∧
       (∀ c, w.done ≠ 0 → place = .fault c → MemoryKept s r ∧ r.mem.errLog = s.mem.errLog + 1) ∧
       (∀ t, w.done ≠ 0 → place = .ok t → t.pkg = none → t.phys % 32 = 0 → Memory.wf s.mem.hbm = true →
         (∀ h ∈ atomHalves t.gang t.phys, ((assoc s.mem.atoms h).getD {}).poison = false ∧ ((assoc s.mem.atoms h).getD {}).ue = false) →
         memRead r.mem.hbm t.phys 32 = bytesOf [word status, word code, 0, 0, 0, 0, 0, 0] ∧
         ∀ a, a / (if t.gang then 64 else 32) ≠ t.phys / (if t.gang then 64 else 32) → cellGet r.mem.hbm a = cellGet s.mem.hbm a)
     s.disp.waits.find? (fun y => y.q == q) = some w →
     (w.code = 0 → (busy → exec (.waitPoll q) s = .fault .notEnabled) ∧ (¬ busy → ended 0 0)) ∧
     (∀ c, w.code ≠ 0 → unitCheck s (.wait q) w.owner 0 w.code.toNat 4 4 rightR = .fault c → ended 1 c.num) ∧
     (∀ t, w.code ≠ 0 → unitCheck s (.wait q) w.owner 0 w.code.toNat 4 4 rightR = .ok t →
       let v := wordOfBytes (readTarget s t 0 4).1
       ((readTarget s t 0 4).2 = true → ended 1 FaultCode.poison.num) ∧
       ((readTarget s t 0 4).2 = false → ¬ busy → w.value.toNat ≤ v → ended 0 0) ∧
       ((readTarget s t 0 4).2 = false → busy ∨ v < w.value.toNat → ∃ r, exec (.waitPoll q) s = .next r ∧
         r.disp.waits.find? (fun y => y.q == q) = some { w with polled := s.clock } ∧ MemoryKept s r))))

/-- R21, R80, R347, R348, R349: a waiting team whose turn it is, on a layer that the dispatcher prefers for it and cores that have room for all of it, is admitted: its
resources are taken at once, its memory reads zero, and every thread of its groups is READY at ENTRY, with b0 the parameter pointer and
every other register 0; its cores' L1 lose their lines (the model's reading, notes/assumptions/135.md). A team that has waited 2 × TSLICE, fresh or
pre-empted, becomes reserving, one of a cooperative grid with all that wait of it. (Function 0 posts no event here.) -/
def Obligations.TeamsAreAdmittedWhole : Prop :=
  let reserved : State → Nat → Nat → Nat → Grid → Nat → Prop := fun s k team layer g since =>
    layerOk s g.part layer = true → (∀ x ∈ g.reserving, x.1 ≠ team) →
      (since + 2400000 ≤ s.clock → ∃ r g', exec (.reserving k team layer) s = .next r ∧ getGrid r k = some g' ∧ r.threads = s.threads ∧ r.mem = s.mem ∧
        g'.reserving = (if g.coop then g.saved.map (fun x => (x.team.idx, x.team.layer)) ++ g.waiting.map (fun x => (x.1, x.2.1))
          else g.reserving ++ [(team, layer)]) ∧
        g'.waiting = (if g.coop then g.waiting else g.waiting.map fun x => if x.1 = team then (x.1, layer, x.2.2) else x)) ∧
      (s.clock < since + 2400000 → exec (.reserving k team layer) s = .fault .notEnabled)
  (∀ (s : State) (k team layer : Nat) (g : Grid) (b : SaveBlock), getGrid s k = some g → g.status = .running → assoc g.waiting team = none →
    g.saved.find? (fun x => x.team.idx == team) = some b → reserved s k team layer g b.since) ∧
  ∀ (s : State) (k team own since : Nat) (g : Grid),
    getGrid s k = some g → assoc g.waiting team = some (own, since) → g.status = .running → k = g.id → (∀ d ∈ g.roles, d.threads ≤ 32) →
    (∀ cores layer, g.coop = false → layer = cores.headD 0 / 12 → layer ∈ chooseLayers s g team own (fitFree s g) →
      (∀ o ∈ s.disp.openQs, o.what ≠ .placement k team) → eventQueue s (fnMode s 0).evq = none → layerOk s g.part layer = true →
      earlierFits s { grid := g.id, team := team, layer := layer, saved := false } = false → reservedFrom s layer g team = false →
      coresOk s g layer cores = true → (∀ m ∈ s.disp.teams, m.key < s.disp.nextKey) → (∀ t ∈ s.threads, t.key < s.disp.nextKey) →
      ∃ (r : State) (ts : List Thread) (tm : Team) (g' : Grid), exec (.teamAdmission k team cores) s = .next r ∧ r.threads = s.threads ++ ts ∧ r.disp.teams = s.disp.teams ++ [tm] ∧
        tm.grid = k ∧ tm.idx = team ∧ tm.layer = layer ∧ tm.cores = cores ∧ tm.handles = List.replicate (g.nhnd + 1) ({} : Handle) ∧
        tm.barriers = List.replicate 15 ({} : Barrier) ∧ (∀ c a, scratchByte r tm.key c a = 0) ∧
        ts.map (·.tid) = (groupsOf g.roles).zipIdx.flatMap (fun d => (List.range d.1.threads).map (fun l => 32 * d.2 + l)) ∧
        (ts.map (·.key)).Nodup ∧
        (∀ t ∈ ts, t.st = .ready ∧ t.pc = g.entry ∧ t.grid = k ∧ t.team = tm.key ∧ t.core ∈ cores ∧ t.tvec = g.tvec ∧ t.clause = none ∧
          (∃ d, (groupsOf g.roles)[t.grp]? = some d ∧ t.role = d.role ∧ t.kind = d.kind ∧ t.budget = d.budget) ∧ t.grp = t.tid / 32 ∧
          rdB t 0 = g.param ∧ (∀ i, 0 < i → rdB t i = 0) ∧ (∀ i, rdV t i = 0 ∧ rdTaint t i = false) ∧ (∀ i, 0 < i → i < 128 → rdP t i = false) ∧
          t.meet = 0xFFFFFFFF ∧ t.mhb = 64 ∧ t.flags = 0 ∧ t.cv = none) ∧
        getGrid r k = some g' ∧ g'.waiting = g.waiting.filter (fun x => x.1 != team) ∧ MemoryKept s r ∧
        (∀ c, l1Of r c = if c ∈ cores then [] else l1Of s c) ∧ r.mem.ops = s.mem.ops ∧ r.mem.reqs.length = s.mem.reqs.length ∧
        ∀ x ∈ s.mem.reqs, ∃ y ∈ r.mem.reqs, y = { x with noInst := y.noInst }) ∧
    ∀ layer, reserved s k team layer g since

/-- R358, R414, R415, R416, R44, R45: a pre-emption stops its victim first, with every team of its cooperative grid, where their save blocks fit in the
pool, and saves each when it is quiet (in two steps: the model's choice, notes/assumptions/53.md): its threads leave the machine and stand in a
save block of its grid, with the flags of results whose windows still count, and no line of its cores' L1 stays. The block is in the pool, which
the host reads as zeros (where in it is the model's choice, notes/assumptions/142.md). A restore, in its turn and once the stores of the team are
at home, puts the team on its new cores of one layer with every thread's registers as saved, and no line of those cores' L1 stays; the teams of a
cooperative grid go together, once all that are not complete are saved. -/
def Obligations.TeamsAreSavedAndRestored : Prop :=
  (∀ (s : State) (k team victim : Nat) (m : Team),
    getTeam s victim = some m →
    (∀ g gm, m.saving = none → getGrid s k = some g → getGrid s m.grid = some gm → g.status = .running →
      let stops := s.disp.teams.filter fun x => x.key == victim || (gm.coop && x.grid == m.grid)
      (∀ x ∈ stops, x.saving = none) → (gm.coop = true → ∀ b ∈ gm.saved, b.move = none) →
      ((∃ x ∈ g.waiting, x.1 = team) ∨ ∃ b ∈ g.saved, b.team.idx = team) → m ∈ victims s g → fitsSomewhere (withoutSaving s) g team = false →
      (poolFits s stops = false → exec (.preemption k team victim) s = .fault .notEnabled) ∧
      (poolFits s stops = true → ∃ r, exec (.preemption k team victim) s = .next r ∧ getTeam r victim = some { m with saving := some none } ∧
        r.disp.teams = s.disp.teams.map (fun x => if x ∈ stops then { x with saving := some none } else x) ∧ r.threads = s.threads ∧ r.mem = s.mem)) ∧
    (∀ g, m.saving = some none → teamQuiet s m = true → getGrid s m.grid = some g → (s.disp.teams.map (·.key)).Nodup → ∃ r g' b,
      exec (.preemption k team victim) s = .next r ∧ (∀ t ∈ r.threads, t.team ≠ victim) ∧
      (∀ t, getThread s t.key = some t → t.team ≠ victim → ∃ u, getThread r t.key = some u ∧ RegistersKept t u ∧ u.pc = t.pc) ∧
      (∀ x ∈ r.disp.teams, x.key ≠ victim) ∧ getGrid r m.grid = some g' ∧
      (let z : SaveBlock → SaveBlock := fun x => { x with start := 0 }
      g'.saved.map z = g.saved.map z ++ [z b]) ∧ b.team.idx = m.idx ∧ b.since = s.clock ∧ b.len = saveBytes s m ∧
      (let o := s.regs.tblSize * 2 ^ 26 - s.regs.savePool * 2 ^ 20
      ∀ a, o ≤ a → a < o + savedBytes r → cellGet r.mem.tbl a = 0) ∧
      b.team.scratch = m.scratch ∧ b.team.handles = m.handles ∧ b.threads.map (·.key) = (s.threads.filter fun t => t.team == victim).map (·.key) ∧
      (∀ t, t ∈ s.threads → t.team = victim → ∃ u ∈ b.threads, u.key = t.key ∧ u.pc = t.pc ∧ u.v = t.v ∧ u.vt = t.vt ∧ u.p = t.p ∧ u.b = t.b ∧
        u.flags = (flushFlags t).flags ∧ u.meet = t.meet ∧ TrapKept t u ∧ ∀ e, t.st = .yielded e → u.st = .yielded (e - mainClocks s t.core)) ∧ r.mem.hbm = s.mem.hbm ∧ r.mem.hostMem = s.mem.hostMem ∧
      ∀ c ∈ m.cores, l1Of r c = [])) ∧
  (∀ (s : State) (k team : Nat) (g : Grid) (b : SaveBlock) (cores : List Nat),
    getGrid s k = some g → g.saved.find? (fun x => x.team.idx == team) = some b → g.status = .running → g.coop = true → b.move = none →
    let whole : Prop := g.saved.length + g.doneTeams = g.nteam ∧ (∀ x ∈ g.saved, x.move = none) ∧ (g.saved.head?.map fun x => x.team.idx) = some team
    (∀ r, whole → restoreList s g g.saved cores = some r → exec (.restore k team cores) s = .next r) ∧
    (¬ whole ∨ restoreList s g g.saved cores = none → exec (.restore k team cores) s = .fault .notEnabled)) ∧
  (∀ (s : State) (k team : Nat) (g : Grid) (b : SaveBlock) (cores : List Nat),
    let layer := cores.headD 0 / 12
    let turn : Prop := b.move = some layer ∨
      (∃ l, b.move = some l ∧ restoreCores s g b l [] = none ∧ layer ∈ restoreLayers s g b) ∨ (b.move = none ∧ layer ∈ restoreLayers s g b ∧
      earlierFits s { grid := k, team := team, layer := layer, saved := true } = false)
    getGrid s k = some g → g.saved.find? (fun x => x.team.idx == team) = some b → g.status = .running → layerOk s g.part layer = true → turn →
    (g.coop = false ∨ b.move ≠ none) →
    (∀ q ∈ s.mem.ops, ∀ c ∈ q.contrib, ∀ t ∈ b.threads, t.key ≠ c.1) → restoreOk s g b layer cores = true →
    (∀ m ∈ s.disp.teams, m.key ≠ b.team.key) →
    ∃ r ts tm, exec (.restore k team cores) s = .next r ∧ r.threads = s.threads ++ ts ∧ r.disp.teams.map (·.key) = s.disp.teams.map (·.key) ++ [b.team.key] ∧
      getTeam r b.team.key = some tm ∧ tm.cores = cores ∧ tm.layer = layer ∧ tm.scratch = b.team.scratch ∧ tm.handles = b.team.handles ∧
      ts.map (·.key) = b.threads.map (·.key) ∧
      (∀ t ∈ b.threads, ∃ u ∈ ts, u.key = t.key ∧ RegistersKept t u ∧ u.core = cores.getD t.tcore t.core ∧ u.lg = t.lg ∧ u.lane = t.lane ∧ u.tid = t.tid) ∧
      (∀ c ∈ cores, l1Of r c = []) ∧ r.mem.hbm = s.mem.hbm)

/-- R359, R360: a layer without a waiting team that it can admit, and with one of its partition that it could take, takes half, rounded up, of the waiting teams of
the first layer after it that may ship any: the last in that layer's order. The host's class of a grid is taken when it answers;
else the class comes from the request bytes and the instructions of its first team over its first 65,536 clocks. (What bytes count, and that a
grid without an issued instruction is NEUTRAL, are the model's readings, notes/assumptions/55.md.) -/
def Obligations.TeamsAreDonatedAndClassed : Prop :=
  (∀ (s : State) (part thief victim : Nat),
    let ws := shippable s part victim
    let go := ws.drop (ws.length - (ws.length + 1) / 2)
    couldTake s part thief = true → layerCanAdmit s thief = false → ws ≠ [] →
    (∃ i, i < 15 ∧ victim = (thief + 1 + i) % 16 ∧ partLayer s part victim = true ∧
      ∀ j, j < i → partLayer s part ((thief + 1 + j) % 16) = true → shippable s part ((thief + 1 + j) % 16) = []) →
    ∃ r, exec (.stealRequest part thief) s = .next r ∧ r.threads = s.threads ∧ r.mem = s.mem ∧ r.disp.teams = s.disp.teams ∧
      ∀ g, getGrid s g.id = some g → ∃ g', getGrid r g.id = some g' ∧
        g'.waiting = g.waiting.map (fun w => if (∃ x ∈ go, x.grid = g.id ∧ x.team = w.1) then (w.1, thief, w.2.2) else w) ∧ g'.reserving = g.reserving) ∧
  (∀ (s : State) (k : Nat) (g : Grid),
    getGrid s k = some g →
    (∀ o d, s.disp.openQs.find? (fun x => x.what == .classify k) = some o → o.answer = some d →
      ∃ r g', exec (.classify k) s = .next r ∧ getGrid r k = some g' ∧ g' = { g with cls := if d < 3 then d else g.cls } ∧ r.threads = s.threads) ∧
    (∀ t c b i m, (∀ o ∈ s.disp.openQs, o.what ≠ .classify k) → g.classMeas = some (t, c, b, i) → getTeam s t = some m →
      (c + 65536 ≤ s.clock → ∃ r g', exec (.classify k) s = .next r ∧ getGrid r k = some g' ∧ r.threads = s.threads ∧
        g' = { g with cls := if b < 4 * i then 1 else if 16 * i ≤ b ∧ 0 < i then 2 else 0, classMeas := none }) ∧
      (s.clock < c + 65536 → exec (.classify k) s = .fault .notEnabled)))

/-- R21, R22, R345, R418: a team is complete when its threads are over and no engine works for it; its resources return and its grid counts it. A grid whose
teams, children, those still in a launch queue among them, stores, copies and commands are all done writes its record at home, DONE, FAULT with
the first fault, or CONTAINED, and leaves the grid table; a record that a page refuses is lost and counted. A contained grid posts its
containment record too, two entries on the queue of function 8, or has its loss counted in PCNT11. -/
def Obligations.TeamsAndGridsComplete : Prop :=
  (∀ (s : State) (k : Nat) (m : Team) (g : Grid),
    let done : Prop := (∀ t ∈ s.threads, t.team = k → t.st = .exited ∨ t.st = .ended) ∧ m.saving = none ∧ (m.conts = [] ∨ g.status ≠ .running) ∧
      (∀ c ∈ s.eng.copies, c.team ≠ k) ∧ (∀ q ∈ s.eng.matq, matOpOf s m q.2 = false) ∧
      (∀ c ∈ s.eng.nm, ∀ t ∈ s.threads, t.team = k → t.key ≠ c.thread) ∧ ∀ q ∈ s.mem.reqs, ∀ a, q.scr = some a → a.team ≠ k
    getTeam s k = some m → getGrid s m.grid = some g →
    (done → ∃ r g', exec (.teamComplete k) s = .next r ∧ (∀ t, t ∈ r.threads ↔ t ∈ s.threads ∧ t.team ≠ k) ∧
      (∀ x, x ∈ r.disp.teams ↔ x ∈ s.disp.teams ∧ x.key ≠ k) ∧ getGrid r m.grid = some g' ∧ g' = { g with doneTeams := g.doneTeams + 1 } ∧ r.mem = s.mem) ∧
    (¬ done → exec (.teamComplete k) s = .fault .notEnabled)) ∧
  (∀ (s : State) (k : Nat) (g : Grid),
    let gone : State → Prop := fun r => (∀ y ∈ r.disp.grids, y.id ≠ k) ∧ (∀ y ∈ s.disp.grids, y.id ≠ k → y ∈ r.disp.grids) ∧ r.threads = s.threads
    let f : FirstFault := g.first.getD { code := 0, team := 0, tid := 0, tpc := 0, addr := 0 }
    let sc : Nat × Nat := match g.status with | .running => (0, 0) | .terminated => (1, f.code) | .contained _ _ _ => (3, 0x1A)
    let finished : Prop := (g.status = .running → g.doneTeams = g.nteam) ∧ (g.status ≠ .running → ∀ m ∈ s.disp.teams, m.grid ≠ k) ∧
      (∀ y ∈ s.disp.grids, ∀ q, y.origin ≠ .queue q (some k)) ∧
      (∀ x ∈ s.disp.queues, x.kind = 1 → (∀ e ∈ x.fifo, e.pusher ≠ some k) ∧ some k ∉ x.pushers) ∧ (∀ q ∈ s.mem.ops, q.grid ≠ k) ∧ (∀ c ∈ s.eng.copies, c.grid ≠ k) ∧ ∀ c ∈ s.eng.nm, c.grid ≠ k
    let evq := (fnMode s 8).evq
    let free : HwQueue → Prop := fun x => eventQueue s evq = some x ∧ x.ringCount = 0 ∧ x.fifo.length ≤ 30 ∧ pushesWait s evq = false
    let quiet : Prop := g.status = .running ∨ g.status = .terminated ∨ eventQueue s evq = none ∨ ∃ x, free x
    let place := recordCheck s (.done k) g.owner g.done.toNat 32
    let words : Nat → Nat → Nat → List Word := fun cause core clock =>
      let n := min 12 g.wrote.length
      let time := Config.podTime clock
      let buf : Nat → Nat := fun i => if i < n then g.wrote.getD i 0 else 0
      [word (256 * cause + 5), word k, word g.owner, word core, word (time % 2 ^ 32), word (time / 2 ^ 32), word (n + if 12 < g.wrote.length then 16 else 0)] ++
        (List.range 6).map (fun i => word (buf (2 * i) + 2 ^ 16 * buf (2 * i + 1))) ++ [0, 0, 0]
    getGrid s k = some g →
    (∀ cause core clock, finished → g.status = .contained cause core clock → g.done = 0 ∨ (∀ p, place ≠ .park p) →
      (∀ x, free x → ∃ r y, exec (.gridComplete k) s = .next r ∧ gone r ∧ y ∈ r.disp.queues ∧
        y = { x with fifo := x.fifo ++ [{ words := (words cause core clock).take 8 }, { words := (words cause core clock).drop 8 }] }) ∧
      (eventQueue s evq = none → g.part < s.debugs.length → (s.debugs.getD g.part {}).pcnt.length = 16 → ∃ r, exec (.gridComplete k) s = .next r ∧ gone r ∧
        (r.debugs.getD g.part {}).pcnt.getD 11 0 = if partOwner s g.part = g.owner then ((s.debugs.getD g.part {}).pcnt.getD 11 0 + 1) % 2 ^ 64
          else (s.debugs.getD g.part {}).pcnt.getD 11 0)) ∧
    (¬ finished → exec (.gridComplete k) s = .fault .notEnabled) ∧
    (finished → g.done = 0 → ∃ r, exec (.gridComplete k) s = .next r ∧ gone r) ∧
    (∀ c, finished → g.done ≠ 0 → place = .fault c → quiet →
      ∃ r, exec (.gridComplete k) s = .next r ∧ gone r ∧ r.mem.hbm = s.mem.hbm ∧ r.mem.errLog = s.mem.errLog + 1) ∧
    (∀ t, finished → g.done ≠ 0 → place = .ok t → t.pkg = none → t.phys % 32 = 0 →
      (∀ h ∈ atomHalves t.gang t.phys, ((assoc s.mem.atoms h).getD {}).poison = false ∧ ((assoc s.mem.atoms h).getD {}).ue = false) →
      Memory.wf s.mem.hbm = true → quiet →
      ∃ r, exec (.gridComplete k) s = .next r ∧ gone r ∧
        memRead r.mem.hbm t.phys 32 = bytesOf [word sc.1, word sc.2, word k, word f.team, word (f.tid % 2 ^ 14), word f.tpc, word (f.addr % 2 ^ 32),
          word (f.addr / 2 ^ 32)] ∧
        ∀ a, a / (if t.gang then 64 else 32) ≠ t.phys / (if t.gang then 64 else 32) → cellGet r.mem.hbm a = cellGet s.mem.hbm a))

/-- R417, R309 Table 6: an uncorrectable error in a unit that a grid holds contains that grid alone: it stops in this clock, with the
cause and the core; its teams and threads are gone, and so is all it has not sent from its cores; every other thread stays as it was, and
no byte at home changes. An error in a register block or a granule that no grid holds clears it, which changes nothing that can be read;
one in a tile that no team holds clears the tile, and contains the grid of the tag that the core's tiles carry, if they carry one (R285; notes/assumptions/125.md).
R309, R310, R311, R303: an error in a line of an L1 or of an instruction cache drops the line. An error in a Strait entry drops it: each of its reads is sent again
once, and a read's second error gives it POISON (notes/assumptions/27.md); the read of another package opens its entry again once, and is
then answered with POISON. A corrected error changes no data, and the partitions of the line's owner count it. An error in HBM is found by
the scrubber, which poisons the atom; a pass over HBM finds them all (what a pass releases: notes/assumptions/91.md). A shard that fails its digest makes its generation
SUSPECT. When the scrubber has passed over HBM, every atom of a destroyed owner is tagless and reads zero, and the tag has its key again. -/
def Obligations.ErrorsAreContained : Prop :=
  (∀ (s : State) (k core : Nat) (g : Grid),
     let contained : UnitError → Nat → Nat → Prop := fun w cause at_core => ∃ (r : State) (g' : Grid), exec (.containment w) s = .next r ∧
       getGrid r k = some g' ∧ g'.status = .contained cause at_core s.clock ∧ g'.waiting = [] ∧ g'.saved = [] ∧
       (∀ t, t ∈ r.threads ↔ t ∈ s.threads ∧ ∀ m ∈ s.disp.teams, m.grid = k → m.key ≠ t.team) ∧
       (∀ m, m ∈ r.disp.teams ↔ m ∈ s.disp.teams ∧ ∀ x ∈ s.disp.teams, x.grid = k → x.key ≠ m.key) ∧
       (∀ q, q ∈ r.mem.ops ↔ q ∈ s.mem.ops ∧ (q.grid = k → q.level ≠ 0)) ∧ (∀ q ∈ r.mem.reqs, q.grid ≠ k) ∧ (∀ c ∈ r.eng.copies, c.grid ≠ k) ∧
       (∀ j, j ≠ k → getGrid r j = getGrid s j) ∧ r.mem.hbm = s.mem.hbm ∧ r.mem.hostMem = s.mem.hostMem
     getGrid s k = some g → (∀ a b c, g.status ≠ .contained a b c) →
     (∀ lg depth lane,
       ((∃ t ∈ s.threads, t.st ≠ .exited ∧ t.core = core ∧ t.lg = lg ∧ t.depth = depth ∧ t.lane / 8 = lane / 8) →
         (∀ t ∈ s.threads, t.st ≠ .exited → t.core = core → t.lg = lg → t.depth = depth → t.lane / 8 = lane / 8 → t.grid = k) →
         contained (.regfile core lg depth lane) 1 core) ∧
       ((∀ t ∈ s.threads, t.st = .exited ∨ ¬ (t.core = core ∧ t.lg = lg ∧ t.depth = depth ∧ t.lane / 8 = lane / 8)) →
         exec (.containment (.regfile core lg depth lane)) s = .next s)) ∧
     (∀ q x, s.mem.ops.find? (fun y => y.seq == q) = some x → x.level = 0 → x.grid = k → contained (.storeQueue q) 2 x.core) ∧
     (∀ team m tc line, getTeam s team = some m → m.grid = k → m.cores[tc]? = some core → m.cores.Nodup →
       (line ∈ m.scratchValid.getD tc [] → contained (.scratchpad core team line) 3 core) ∧
       (line ∉ m.scratchValid.getD tc [] → exec (.containment (.scratchpad core team line)) s = .next s)) ∧
     (∀ team line, getTeam s team = none → exec (.containment (.scratchpad core team line)) s = .next s) ∧
     (∀ tile team m, assoc s.eng.matTeam core = some team → getTeam s team = some m → m.grid = k → contained (.tile core tile) 4 core) ∧
     (∀ tile, assoc s.eng.matTeam core = none → assoc s.mem.tags (.tiles core) = some (g.owner, k) → contained (.tile core tile) 4 core) ∧
     (∀ tile, assoc s.eng.matTeam core = none → assoc s.mem.tags (.tiles core) = none → ∃ r : State, exec (.containment (.tile core tile)) s = .next r ∧
       (∀ x, x ∈ r.eng.tiles ↔ x ∈ s.eng.tiles ∧ ¬ (x.1 = core ∧ x.2.1 = tile)) ∧ r.threads = s.threads ∧ r.mem = s.mem) ∧
     (∀ o, bitOf ((ownerLoaded s o).getD 0 0).toNat 31 = false → s.disp.grids.filter (fun x => x.owner == o) = [g] → contained (.owner o) 5 0xFF)) ∧
  (∀ (s : State),
     let infoAt : State → Nat → AtomInfo := fun r a => (assoc r.mem.atoms a).getD {}
     let sorted : Prop := (s.mem.atoms.map (·.1)).Pairwise (· < ·)
     (∀ core line, ∃ r : State, exec (.containment (.l1Line core line)) s = .next r ∧ (∀ l ∈ l1Of r core, l.line ≠ line) ∧
       (∀ l ∈ l1Of s core, l.line ≠ line → l ∈ l1Of r core) ∧ (∀ c, c ≠ core → assoc r.mem.l1 c = assoc s.mem.l1 c) ∧ MemoryKept s r ∧ r.threads = s.threads) ∧
     (∀ core line, ∃ r : State, exec (.containment (.icLine core line)) s = .next r ∧
       (∀ l, l ∈ r.mem.icache ↔ l ∈ s.mem.icache ∧ ¬ (l.core = core ∧ l.line = line)) ∧ MemoryKept s r ∧ r.threads = s.threads) ∧
     (∀ n e, s.mem.entries[n]? = some e → e.link = none →
       let lost : Req → Req := fun q =>
         if q.id ∉ e.reqs then q else if q.again = false then { q with stage := .atCore, again := true }
         else { q with stage := if q.copy.isSome then .line (List.replicate 64 0) [true, true] else .data (List.replicate q.size 0) true }
       exec (.containment (.straitEntry n)) s =
         .next { s with mem := { s.mem with entries := s.mem.entries.eraseIdx n, reqs := s.mem.reqs.map lost } }) ∧
     (∀ n e l, s.mem.entries[n]? = some e → e.link = some l → ∃ r : State, exec (.containment (.straitEntry n)) s = .next r ∧
       r.mem.hbm = s.mem.hbm ∧ r.threads = s.threads ∧
       (e.again = true → r.mem.entries = s.mem.entries.eraseIdx n ∧ r.hostOut = [] ∧ r.hostBad = true) ∧
       (e.again = false → ∃ e', r.mem.entries = s.mem.entries.eraseIdx n ++ [e'] ∧ e'.pkg = e.pkg ∧ e'.line = e.line ∧ e'.link = some l ∧
         e'.again = true ∧ e'.closed = true ∧ e'.reqs = [])) ∧
     (∀ o, (∀ x ∈ s.debugs, x.pcnt.length = 16) → 16 ≤ s.debugs.length → ∃ r : State, exec (.containment (.corrected o)) s = .next r ∧ r.mem = s.mem ∧ r.threads = s.threads ∧
       ∀ p, p < 16 → (r.debugs.getD p {}).pcnt.getD 12 0 = if partEn s p = true ∧ partOwner s p = o
         then ((s.debugs.getD p {}).pcnt.getD 12 0 + 1) % 2 ^ 64 else (s.debugs.getD p {}).pcnt.getD 12 0) ∧
     (sorted → ∀ phys, physOk phys = true → ∃ r : State, exec (.containment (.hbm phys)) s = .next r ∧ MemoryKept s r ∧
       infoAt r (phys / 32) = { infoAt s (phys / 32) with ue := true } ∧ ∀ a, a ≠ phys / 32 → infoAt r a = infoAt s a) ∧
     (sorted → ∀ phys, ∃ r : State, exec (.scrubPass (.atom phys)) s = .next r ∧ MemoryKept s r ∧ (∀ a, a ≠ phys / 32 → infoAt r a = infoAt s a) ∧
       infoAt r (phys / 32) = if (infoAt s (phys / 32)).ue then { infoAt s (phys / 32) with ue := false, poison := true } else infoAt s (phys / 32)) ∧
     (sorted → s.mem.keys = [] → (∀ c ∈ s.disp.caddies, c.state.getD 0 0 < 2 ∧ c.state.getD 1 0 < 2) →
       ∃ r : State, exec (.scrubPass (.pass true)) s = .next r ∧ MemoryKept s r ∧ r.mem.scrub = { s.mem.scrub with hbm := s.clock } ∧
         ∀ a, infoAt r a = if (infoAt s a).ue then { infoAt s a with ue := false, poison := true } else infoAt s a) ∧
     (∀ slot g n, g < 2 → 2 ≤ (caddyOf s slot).state.getD g 0 → n < shardCount s slot g → eventQueue s (fnMode s 4).evq = none →
       (shardMatches s slot g n = true → exec (.scrubPass (.shard slot g n)) s = .next s) ∧
       (shardMatches s slot g n = false → (caddyOf s slot).slot = slot → ∃ r : State, exec (.scrubPass (.shard slot g n)) s = .next r ∧
         (caddyOf r slot).sus.getD g false = true ∧ (caddyOf r slot).state = (caddyOf s slot).state ∧ r.mem.hbm = s.mem.hbm)) ∧
     (∀ o, o ∈ s.mem.keys → sorted → Memory.wf s.mem.hbm = true → eventQueue s (fnMode s 8).evq = none →
       ∃ r : State, exec (.scrubPass (.tagRelease o)) s = .next r ∧ o ∉ r.mem.keys ∧
         ∀ a, if (infoAt s (a / 32)).tag = some o then infoAt r (a / 32) = {} ∧ cellGet r.mem.hbm a = 0
           else infoAt r (a / 32) = infoAt s (a / 32) ∧ cellGet r.mem.hbm a = cellGet s.mem.hbm a))

/-- R353, R356: a kick that is first of its source, of a graph without a replay, is checked under the patches of its table. When no node fails, the
replay begins, under the caddy pins and the switch count of its kick (R308, R328): every count is NPRED, and exactly the nodes of NPRED 0 start. Else no node
starts: the record has STATUS REFUSED, CODE 7 and the first failing node, and node 0 for a refused table. That a replay's record has GRIDID 0, and
that its patches are read as it starts, is notes/assumptions/63.md; what a kick pins, notes/assumptions/110.md.
R357: a replay that has nothing left to do goes; its record, where it has one, says DONE, or how it was stopped, and by which node. -/
def Obligations.GraphReplaysStartAndComplete : Prop :=
  (∀ (s : State) (k : Nat) (x : Kick) (tab : Nat → Nat) (len : Nat),
     let g := x.graph
     let dir : Nat → Nat := graphWord s g
     let obj := 64 * dir 1
     let count := memNat s.mem.tbl obj 4 % 2 ^ 17
     let w : Nat → Nat → Nat := fun n i => memNat s.mem.tbl (obj + 64 + 128 * n + 4 * i) 4
     let kind : Nat → Nat := fun n => w n 0 % 8
     let nsucc : Nat → Nat := fun n => w n 1 / 2 ^ 16 % 2 ^ 5
     let succ : Nat → Nat → Nat := fun n j => w n (2 + j / 2) / 2 ^ (16 * (j % 2)) % 2 ^ 16
     let body : Nat → Nat → Nat := fun n j =>
       match (List.range len).reverse.find? fun i => tab (4 + 2 * i) == n + 2 ^ 16 * j with
       | some i => tab (5 + 2 * i)
       | none => w n (16 + j)
     let zeros : Nat → Nat → Prop := fun n j => ∀ i, j ≤ i → i < 16 → body n i = 0
     let named : Nat → Nat := fun n => ((List.range count).map fun m => ((List.range (nsucc m)).filter fun j => succ m j == n).length).sum
     let good : Nat → Prop := fun n =>
       w n 0 < 6 ∧ w n 1 < 2 ^ 21 ∧ nsucc n ≤ 28 ∧ (∀ j, j < 28 → if j < nsucc n then succ n j < count else succ n j = 0) ∧
         w n 1 % 2 ^ 16 = named n ∧
         match kind n with
         | 0 => body n 0 % 2 ^ 8 = 1
         | 1 => body n 4 ≠ 0 ∧ zeros n 5
         | 2 => nsucc n = 2 ∧ zeros n 2
         | 3 => body n 2 ≠ 0 ∧ body n 3 < n ∧ zeros n 4
         | 4 => zeros n 0
         | _ => zeros n 3
     let table : Prop := tab 0 ≤ 4096 ∧ tab 1 = 0 ∧ tab 2 = 0 ∧ tab 3 = 0
     let entries : Prop := ∀ i, i < tab 0 → tab (4 + 2 * i) < 2 ^ 20 ∧ tab (4 + 2 * i) % 2 ^ 16 < count ∧
       (kind (tab (4 + 2 * i) % 2 ^ 16) = 0 → tab (4 + 2 * i) / 2 ^ 16 ≠ 0)
     let reads : Nat → Prop := fun n => ∀ i, i < n → tab i < 2 ^ 32 ∧ ∃ t, unitCheck s (.replay g) x.owner 0 (x.patch.toNat + 4 * i) 4 4 rightR = .ok t ∧
       readTarget s t 0 4 = (bytesOfWord 4 (tab i), false)
     let ptr : Quad := x.done.getD (BitVec.ofNat 64 (dir 2 + 2 ^ 32 * dir 3))
     let refused : Nat → Prop := fun node =>
       (ptr = 0 → ∃ r : State, exec (.graphReplayStart k) s = .next r ∧ r.disp.replays = s.disp.replays ∧ r.disp.kicks = s.disp.kicks.eraseIdx k ∧ MemoryKept s r) ∧
       (∀ t, ptr ≠ 0 → (if x.done.isSome then recordCheck s (.replay g) x.owner ptr.toNat 32
         else unitCheck s (.replay g) x.owner 0 ptr.toNat 32 32 rightW) = .ok t → t.pkg = none → t.phys % 32 = 0 →
         (∀ h ∈ atomHalves t.gang t.phys, ((assoc s.mem.atoms h).getD {}).poison = false ∧ ((assoc s.mem.atoms h).getD {}).ue = false) →
         Memory.wf s.mem.hbm = true → ∃ r : State, exec (.graphReplayStart k) s = .next r ∧ r.disp.replays = s.disp.replays ∧
           r.disp.kicks = s.disp.kicks.eraseIdx k ∧ memRead r.mem.hbm t.phys 32 = bytesOf [2, 7, 0, 0, word (2 ^ 16 * node), 0, 0, 0])
     s.disp.kicks[k]? = some x → (∀ j y, j < k → s.disp.kicks[j]? = some y → ¬ (y.part = x.part ∧ y.queue = x.queue)) →
     (∀ r ∈ s.disp.replays, r.id ≠ g) → bitOf (dir 0) 31 = true → bitsOf (dir 0) 11 0 = x.owner → bitsOf (dir 0) 30 12 = 0 →
     dir 5 = 0 → dir 6 = 0 → dir 7 = 0 → 1 ≤ count → count ≤ 65536 → (x.patch = 0 → len = 0) →
     (x.patch ≠ 0 → reads 4 ∧ len = tab 0 ∧ (table → reads (4 + 2 * len))) →
     (x.patch ≠ 0 → ¬ (table ∧ entries) → refused 0) ∧
     ((x.patch ≠ 0 → table ∧ entries) → ∀ n, n < count → ¬ good n → (∀ m, m < n → good m) → refused n) ∧
     ((x.patch ≠ 0 → table ∧ entries) → (∀ n, n < count → good n) → Memory.wf s.mem.tbl = true → ∃ (r : State) (rep : Replay), exec (.graphReplayStart k) s = .next r ∧
       r.disp.replays = s.disp.replays ++ [rep] ∧ r.disp.kicks = s.disp.kicks.eraseIdx k ∧ rep.id = g ∧ rep.owner = x.owner ∧ rep.part = x.part ∧
       rep.done = ptr ∧ rep.pins = x.pins ∧ rep.cadgen = x.cadgen ∧ rep.stopped = none ∧ rep.nodes.length = count ∧ r.threads = s.threads ∧
       (∀ n, n < count → (∀ j, j < 16 → bodyWord s obj rep.patches n j = body n j) ∧ ∃ z, rep.nodes[n]? = some z ∧ z.count = w n 1 % 2 ^ 16 ∧
         z.started = decide (w n 1 % 2 ^ 16 = 0) ∧ z.finished = false ∧ memNat r.mem.tbl (64 * dir 4 + 4 * n) 4 = z.count))) ∧
  (∀ (s : State) (k n : Nat) (x : Replay),
     let over_ : Prop := if x.stopped = none then ∀ z ∈ x.nodes, z.finished = true else ∀ z ∈ x.nodes, z.started = true → z.finished = true
     let how := x.stopped.getD (0, 0, 0, none)
     let f : FirstFault := how.2.2.2.getD { code := 0, team := 0, tid := 0, tpc := 0, addr := 0 }
     let gone : State → Prop := fun r => (∀ y ∈ r.disp.replays, y.id ≠ k) ∧ (∀ y ∈ s.disp.replays, y.id ≠ k → y ∈ r.disp.replays) ∧ r.threads = s.threads
     s.disp.replays.find? (fun y => y.id == k) = some x → x.id = k → over_ →
     (x.done = 0 → ∃ r, exec (.graphNodeFinish k n) s = .next r ∧ gone r) ∧
     (∀ t, x.done ≠ 0 → (if x.checked then recordCheck s (.replay k) x.owner x.done.toNat 32
       else unitCheck s (.replay k) x.owner 0 x.done.toNat 32 32 rightW) = .ok t → t.pkg = none → t.phys % 32 = 0 →
       (∀ h ∈ atomHalves t.gang t.phys, ((assoc s.mem.atoms h).getD {}).poison = false ∧ ((assoc s.mem.atoms h).getD {}).ue = false) →
       Memory.wf s.mem.hbm = true → ∃ r, exec (.graphNodeFinish k n) s = .next r ∧ gone r ∧
         memRead r.mem.hbm t.phys 32 = bytesOf [word how.1, word how.2.1, 0, word f.team, word (how.2.2.1 % 2 ^ 16 * 2 ^ 16 + f.tid % 2 ^ 14), word f.tpc,
           word (f.addr % 2 ^ 32), word (f.addr / 2 ^ 32)]))

/-- R354, R355, R357: a started node does its work and finishes. JOIN, NOTIFY, COPY, a WHILE whose word is 0 or whose count is spent, and a GRID whose grid is complete
mark every successor run, and those whose counts reach 0 start; a COND marks one run and the other skip. A WHILE that goes on starts BFIRST
again. A GRID launches its grid first, once those of lower index that started with it have. An access that faults stops the replay. A replay with nothing left to do goes, with its record.
That a COPY node moves its bytes in one step, that a launch is made in GRAPH_NODE_FINISH, and the order of nodes that start together, are notes/assumptions/64.md
(DESIGN CHOICE); GRIDID 0 is notes/assumptions/63.md. -/
def Obligations.GraphNodesFinish : Prop :=
  ∀ (s : State) (k n : Nat) (x : Replay) (me : NodeState),
    let obj := x.obj
    let b : Nat → Nat := fun j => bodyWord s obj x.patches n j
    let pair : Nat → Nat := fun j => b j + 2 ^ 32 * b (j + 1)
    let kind := nodeKind s obj n
    let succs := succList s obj n
    let node : State → Nat → Option NodeState := fun r m => (r.disp.replays.find? (fun y => y.id == k)).bind fun y => y.nodes[m]?
    let ends : State → Prop := fun r => ∀ m z, x.nodes[m]? = some z → m ≠ n →
      ∃ z', node r m = some z' ∧ z'.count = z.count - succs.count m ∧ (z'.started = true ↔ z.started = true ∨ (m ∈ succs ∧ z'.count = 0)) ∧
        z'.finished = z.finished ∧ (m ∈ succs → z'.run = true) ∧ z'.grid = z.grid
    let finishes : State → Prop := fun r => (∃ z, node r n = some z ∧ z.finished = true) ∧ r.threads = s.threads
    let access : Nat → Nat → Nat → Target → Prop := fun ptr size right t => unitCheck s (.node k n) x.owner 0 ptr size (if size = 4 then 4 else 1) right = .ok t
    let run : (State → Prop) → Prop := fun P => ∃ r, exec (.graphNodeFinish k n) s = .next r ∧ P r
    s.disp.replays.find? (fun y => y.id == k) = some x → x.nodes[n]? = some me → me.started = true → me.finished = false → n ∉ succs →
    (x.stopped = none →
      (kind = 4 → run fun r => finishes r ∧ ends r ∧ r.mem.hbm = s.mem.hbm) ∧
      (∀ t, kind = 5 → access (pair 0) 4 rightW t → t.pkg = none → t.phys % 4 = 0 → t.phys + 4 ≤ discBase → Memory.wf s.mem.hbm = true →
        (∀ h ∈ atomHalves t.gang t.phys, ((assoc s.mem.atoms h).getD {}).poison = false ∧ ((assoc s.mem.atoms h).getD {}).ue = false) →
        run fun r => finishes r ∧ ends r ∧ memNat r.mem.hbm t.phys 4 = b 2 % 2 ^ 32 ∧
          ∀ a, a / (if t.gang then 64 else 32) ≠ t.phys / (if t.gang then 64 else 32) → cellGet r.mem.hbm a = cellGet s.mem.hbm a) ∧
      (∀ ts, kind = 1 → copyTargets s x n (pair 0) (pair 2) (copyPieces (pair 0) (pair 2) (b 4 + 1) 0 (b 4)) [] = .ok ts → Memory.wf s.mem.hbm = true →
        (∀ y ∈ ts, (readTarget s y.1 0 y.2.2).2 = false ∧ y.2.1.pkg = none ∧ y.2.1.tag = x.owner ∧ y.2.1.gang = ((ts.head?.map fun z => z.2.1.gang).getD false) ∧
          y.2.1.phys / 64 = (y.2.1.phys + y.2.2 - 1) / 64 ∧
          ∀ h ∈ halvesAt y.2.1 y.2.2, ((assoc s.mem.atoms h).getD {}).poison = false ∧ ((assoc s.mem.atoms h).getD {}).ue = false) →
        x.owner ∉ s.mem.keys → (s.mem.atoms.map (·.1)).Pairwise (· < ·) →
        ts.Pairwise (fun y z => y.2.1.phys + y.2.2 ≤ z.2.1.phys ∨ z.2.1.phys + z.2.2 ≤ y.2.1.phys) →
        run fun r => finishes r ∧ ends r ∧ ∀ y ∈ ts, memRead r.mem.hbm y.2.1.phys y.2.2 = (readTarget s y.1 0 y.2.2).1) ∧
      (∀ t v, kind = 2 → succs.length = 2 → access (pair 0) 4 rightR t → readTarget s t 0 4 = (bytesOfWord 4 v, false) → v < 2 ^ 32 →
        succs.getD 0 0 ≠ succs.getD 1 0 → run fun r => finishes r ∧
          let go := if v = 0 then succs.getD 1 0 else succs.getD 0 0
          let skip := if v = 0 then succs.getD 0 0 else succs.getD 1 0
          (∀ z, x.nodes[go]? = some z → ∃ z', node r go = some z' ∧ z'.run = true ∧ (z.count = 1 → z'.started = true)) ∧
          (∀ z, x.nodes[skip]? = some z → z.run = false → (1 < z.count → ∃ z', node r skip = some z' ∧ z'.skip = true) ∧
            (z.count = 1 → go ∉ succList s obj skip → ∃ z', node r skip = some z' ∧ z'.finished = true ∧ z'.started = z.started))) ∧
      (∀ t v, kind = 3 → access (pair 0) 4 rightR t → readTarget s t 0 4 = (bytesOfWord 4 v, false) → v < 2 ^ 32 →
        let first := b 3 % 2 ^ 16
        (v = 0 ∨ b 2 ≤ me.iter → run fun r => finishes r ∧ ends r) ∧
        (v ≠ 0 → me.iter < b 2 → first < n → run fun r => r.threads = s.threads ∧ ∀ m z, x.nodes[m]? = some z →
          node r m = some (if first ≤ m ∧ m ≤ n then
            { count := nodePreds s obj m, run := decide (m = first), started := decide (m = first), iter := if m = n then me.iter + 1 else z.iter
              wave := x.wave + 1 } else z))) ∧
      (∀ ws, ws = (List.range 16).map (fun j => word (b j)) → kind = 0 → me.grid = 0 → gridCode s x.owner x.part ws x.pins = none → s.disp.grids.length < 1024 →
        partLayers s x.part ≠ [] → launchBehind s x n = false → run fun r => ∃ gr : Grid, r.disp.grids = s.disp.grids ++ [gr] ∧ gr.id = s.disp.nextGrid ∧ gr.owner = x.owner ∧ gr.part = x.part ∧
          gr.code = ws.getD 2 0 ++ ws.getD 1 0 ∧ gr.entry = b 3 % 2 ^ 32 ∧ gr.nteam = b 4 % 2 ^ 32 ∧ gr.pins = x.pins ∧ gr.status = .running ∧ gr.origin = .node k n ∧
          (gr.waiting.map (·.1)) = List.range gr.nteam ∧ ∃ z, node r n = some z ∧ z.grid = s.disp.nextGrid ∧ z.finished = false) ∧
      (kind = 0 → me.grid ≠ 0 → getGrid s me.grid = none → run fun r => finishes r ∧ ends r) ∧
      (∀ c, kind = 2 ∨ kind = 3 → unitCheck s (.node k n) x.owner 0 (pair 0) 4 4 rightR = .fault c → run fun r => finishes r ∧
        (∀ y ∈ r.disp.replays, y.id = k → y.stopped = some (1, c.num, n, none)) ∧ ∀ m z, x.nodes[m]? = some z → m ≠ n → node r m = some z)) ∧
    (∀ f, x.stopped = some f → kind = 4 →
      run fun r => finishes r ∧ ∀ m z, x.nodes[m]? = some z → m ≠ n → node r m = some z)

/-- R279 to R282, R284, R278: the host writes the device registers. PARTn takes a word unless it overlaps another enabled partition or a layer still to be given up, names owner 0,
or sets a reserved bit; a refusal sets DEVERR. REGSEL takes every value. LBUDGETn takes 0x0A0 to 0x3E8. KSTAT and DEVERR clear the
bits written 1. No thread and no byte of memory changes. A write at an offset of Table 6 is the write of the register there, and one at an offset
that the table does not list does nothing.
R283, R284, R308: one 64-bit write of KICK queues one kick under the partition's owner, with one pin of the CURRENT generation of every enabled slot and the switch
count, or is dropped and sets its KSTAT bits: OVF for a full FIFO, BADKICK for a graph
that is not resident or not the owner's, or a reserved field; a 32-bit write sets TORN. (A kick before READY does nothing: notes/assumptions/131.md.) -/
def Obligations.DeviceRegistersAndKicks : Prop :=
  (∀ (s : State) (n : Nat) (v : Word),
     let same : Instr → Regs → Prop := fun i q => exec i s = .next { s with regs := q }
     let part : Nat → Word := fun k => s.regs.parts.getD k 0
     let has : Word → Nat → Bool := fun w l => bitOf w.toNat 31 && bitOf w.toNat l
     let resident : Nat → Prop := fun l => ∃ m ∈ s.disp.teams, m.layer = l ∧ ∃ g, getGrid s m.grid = some g ∧ g.part = n
     let overlap : Prop := bitOf v.toNat 31 = true ∧ ∃ l, l < 16 ∧ bitOf v.toNat l = true ∧
       ((∃ k, k < 16 ∧ k ≠ n ∧ has (part k) l = true) ∨ ∃ p ∈ s.regs.premove, p.1 ≠ n ∧ p.2 = l)
     let owner : Prop := bitsOf v.toNat 30 28 ≠ 0 ∨ (bitOf v.toNat 31 = true ∧ bitsOf v.toNat 27 16 = 0)
     let w1c : Nat → Nat → Nat := fun x m => x - (x &&& v.toNat &&& m)
     (s.regs.state = 15 → exec (.partWrite n v) s = .next s ∧ exec (.regselWrite v) s = .next s ∧ exec (.lbudgetWrite n v) s = .next s ∧
       exec (.deverrWrite v) s = .next s ∧ exec (.kstatWrite n v) s = .next s) ∧
     (s.regs.state ≠ 15 →
       (n < 16 → s.regs.parts.length = 16 →
         (overlap → ∀ b, b = (if bitsOf v.toNat 30 28 ≠ 0 ∨ (bitOf v.toNat 31 = true ∧ bitsOf v.toNat 27 16 = 0) then 3 else 1) →
           same (.partWrite n v) { s.regs with deverr := s.regs.deverr ||| b }) ∧
         (¬ overlap → owner → same (.partWrite n v) { s.regs with deverr := s.regs.deverr ||| 2 }) ∧
         (¬ overlap → ¬ owner → ∃ pre, same (.partWrite n v) { s.regs with parts := s.regs.parts.set n v, premove := pre } ∧
           ∀ p, p ∈ pre ↔ (p ∈ s.regs.premove ∧ ¬ (p.1 = n ∧ has v p.2 = true)) ∨
             (p.1 = n ∧ p.2 < 16 ∧ has (part n) p.2 = true ∧ has v p.2 = false ∧ resident p.2))) ∧
       (∃ act pre, same (.regselWrite v) { s.regs with regsel := v, regActive := act, premove := pre } ∧
         (∀ l, l < 16 → bitsOf act.toNat (2 * l + 1) (2 * l) =
           if ∃ m ∈ s.disp.teams, m.layer = l then bitsOf s.regs.regActive.toNat (2 * l + 1) (2 * l) else bitsOf v.toNat (2 * l + 1) (2 * l)) ∧
         ∀ p ∈ pre, p ∈ s.regs.premove) ∧
       (n < 16 → s.regs.lbudget.length = 16 → same (.lbudgetWrite n v)
         (if v.toNat < 0x0A0 ∨ 0x3E8 < v.toNat then { s.regs with deverr := s.regs.deverr ||| 4 } else { s.regs with lbudget := s.regs.lbudget.set n v })) ∧
       same (.deverrWrite v) { s.regs with deverr := w1c s.regs.deverr 7 } ∧
       (n < 16 → s.regs.kstat.length = 16 → same (.kstatWrite n v) { s.regs with kstat := s.regs.kstat.set n (w1c (s.regs.kstat.getD n 0) 0x700) })) ∧
     (n < 16 → ∀ x : Quad, exec (.registerWrite false (0x100 + 4 * n) v) s = exec (.partWrite n v) s ∧
       exec (.registerWrite false (0x180 + 4 * n) v) s = exec (.lbudgetWrite n v) s ∧
       exec (.registerWrite false (0x10008 + 0x1000 * n) v) s = exec (.kstatWrite n v) s ∧
       ∀ o ∈ [0, 4], exec (.registerWrite false (0x10000 + 0x1000 * n + o) v) s = exec (.kick n x false) s) ∧
     exec (.registerWrite false 0x140 v) s = exec (.regselWrite v) s ∧ exec (.registerWrite false 0x1C4 v) s = exec (.deverrWrite v) s ∧
     (∀ off, off ≠ 0x140 → off ≠ 0x1C4 → (∀ k, k < 16 → off ≠ 0x100 + 4 * k ∧ off ≠ 0x180 + 4 * k ∧
         ∀ o ∈ [0, 4, 8], off ≠ 0x10000 + 0x1000 * k + o) → exec (.registerWrite false off v) s = .next s) ∧
     (∀ off, off ∉ [0x0C, 0x10, 0x1C, 0x20] → exec (.registerWrite true off v) s = .next s) ∧
     same (.registerWrite true 0x0C v) { s.regs with bootlo := v &&& 0xFFFFF000 } ∧ same (.registerWrite true 0x10 v) { s.regs with boothi := v } ∧
     same (.registerWrite true 0x1C v) { s.regs with attlo := v } ∧ same (.registerWrite true 0x20 v) { s.regs with atthi := v }) ∧
  (∀ (s : State) (n : Nat) (v : Quad),
     let g := v.toNat % 2 ^ 8
     let owner := bitsOf (s.regs.parts.getD n 0).toNat 27 16
     let dir := memNat s.mem.tbl (0x4A000 + 32 * g) 4
     let full : Bool := decide (16 ≤ (s.disp.kicks.filter fun k => k.part == n && k.queue.isNone).length)
     let bad : Bool := decide (bitsOf v.toNat 15 8 ≠ 0) || !bitOf dir 31 || decide (bitsOf dir 11 0 ≠ owner)
     let sets : Nat → State := fun b => { s with regs := { s.regs with kstat := s.regs.kstat.set n (s.regs.kstat.getD n 0 ||| b) } }
     n < 16 → s.regs.kstat.length = 16 →
     (s.regs.state = 15 → ∀ w, exec (.kick n v w) s = .next s) ∧ (s.regs.state ≠ 15 → exec (.kick n v false) s = .next (sets 0x400)) ∧
     (s.regs.state ≠ 3 → exec (.kick n v true) s = .next s) ∧
     (s.regs.state = 3 →
       (full = true ∨ bad = true → exec (.kick n v true) s = .next (sets ((if full then 0x100 else 0) + if bad then 0x200 else 0))) ∧
       (full = false → bad = false → ∃ (r : State) (pins : List (Nat × Nat)), exec (.kick n v true) s = .next r ∧ r.threads = s.threads ∧ r.regs = s.regs ∧ r.mem.hbm = s.mem.hbm ∧
         r.disp.kicks = s.disp.kicks ++ [{ part := n, owner := owner, graph := g, patch := BitVec.ofNat 64 (v.toNat / 2 ^ 16 * 2 ^ 16)
                                           pins := pins, cadgen := s.disp.cadCount }] ∧
         (∀ slot gen, (slot, gen) ∈ pins ↔ ∃ c ∈ s.disp.caddies, c.slot = slot ∧ bitOf (memNat s.mem.tbl (0x42000 + 128 * slot) 4) 31 = true ∧
           ((gen = 0 ∧ c.state.getD 0 0 = 3) ∨ (gen = 1 ∧ c.state.getD 0 0 ≠ 3 ∧ c.state.getD 1 0 = 3))) ∧
         ((s.disp.caddies.map (·.slot)).Nodup → (∀ c ∈ s.disp.caddies, c.slot < 256) → ∀ slot gen,
           (caddyOf r slot).pin.getD gen 0 = (caddyOf s slot).pin.getD gen 0 + if (slot, gen) ∈ pins then 1 else 0))))

/-- R420 to R423, R425, R426: module reset gives the reset state but for the host's memory and the other packages' (notes/assumptions/71.md). GO, in STATE RESET, begins
LOADING; in another STATE it does nothing. The bring-up's next step checks the descriptor and the image in the order of Table 3, its digest by SHAKE256
(notes/assumptions/105.md) and its signature under the root key, and ends in FAIL with the first failure's code, or goes on to TRAINING; the step from
there ends in FAIL, or in READY with memory tagless, the table region zero, the registers at reset values, PKG taken, and the ports up that were trained
(that LOADING and TRAINING are a step each is notes/assumptions/69.md). ATTGO, in READY, reads the request and starts a report, which is written
64 bytes beyond the request's address, signed with the device's key, and clears ATTBUSY. -/
def Obligations.BringUpAndAttestation : Prop :=
  (∀ (s : State), exec .moduleReset s = .next { State.reset with
    mem := { State.reset.mem with hostMem := s.mem.hostMem, pods := s.mem.pods }, sched := s.sched, free := s.free }) ∧
  (∀ (s : State) (inp : BringUp),
    let host : Nat → Nat → Nat := fun a n => memNat s.mem.hostMem a n
    let desc := s.regs.bootlo.toNat + 2 ^ 32 * s.regs.boothi.toNat
    let w : Nat → Nat := fun i => host (desc + 4 * i) 4
    let img := w 0 + 2 ^ 32 * w 1
    let bytes := memRead s.mem.hostMem img (w 2)
    let badDesc : Prop := w 4 < 2 ∨ w 5 < 1 ∨ w 2 < 242 ∨ 2 ^ 15 ≤ w 6 ∨ bitsOf (w 6) 7 6 ≠ 0 ∨ bitsOf (w 6) 14 8 < 1 ∨ 64 < bitsOf (w 6) 14 8 ∨
      (∃ i, 7 ≤ i ∧ i < 16 ∧ w i ≠ 0) ∨ w 4 * 2 ^ 26 < w 5 * 2 ^ 20 + 0x68000 ∨ 8 * stackBytes < (w 3 + w 4) * 2 ^ 26
    let badImage : Prop := host img 4 ≠ 0x454C5446 ∨ 128 + host (img + 8) 4 + 114 ≠ w 2 ∨
      memRead s.mem.hostMem (img + 12) 32 ≠ shake256 (memRead s.mem.hostMem (img + 128) (host (img + 8) 4)) ∨
      (∃ i, 44 ≤ i ∧ i < 128 ∧ cellGet s.mem.hostMem (img + i) ≠ 0) ∨
      Ed448.verify ((Config.rootKey ++ List.replicate 57 0).take 57) (bytes.take (128 + host (img + 8) 4)) (bytes.drop (128 + host (img + 8) 4)) = false
    let fails : Nat → Prop := fun c => ∃ r : State, bootStep s = .next r ∧ r.regs.state = 15 ∧ r.regs.err = c ∧ r.mem = s.mem ∧ r.threads = s.threads ∧ r.disp = s.disp
    (s.regs.state ≠ 0 → exec (.go inp) s = .next s) ∧
    (s.regs.state = 0 → exec (.go inp) s = .next { s with regs := { s.regs with state := 1, bootIn := some inp } }) ∧
    (s.regs.state = 1 → s.regs.bootIn = some inp → (badDesc → fails 1) ∧ (¬ badDesc → inp.imageRead = false → fails 2) ∧
      (¬ badDesc → inp.imageRead = true → (badImage → fails 3) ∧ (¬ badImage → host (img + 4) 4 < Config.fusedMinimum → fails 4) ∧
        (¬ badImage → Config.fusedMinimum ≤ host (img + 4) 4 → bootStep s = .next { s with regs := { s.regs with state := 2 } }))) ∧
    (s.regs.state = 2 → s.regs.bootIn = some inp → (inp.trained = false → fails 5) ∧ (inp.trained = true →
          bootStep s = .next { s with
            mem := { s.mem with hbm := [], atoms := [], tbl := [], keys := [] }
            regs := { s.regs with state := 3, err := 0, parts := List.replicate 16 0, regsel := 0xFFAA5500, regActive := 0xFFAA5500
                                  lbudget := List.replicate 16 0x226, pkg := bitsOf (w 6) 5 0, npkg := bitsOf (w 6) 14 8, tblBase := w 3, tblSize := w 4
                                  ports := (inp.ports ++ List.replicate 12 false).take 12, bootIn := none
                                  savePool := w 5, fwVersion := word (wordOfBytes ((bytes.drop 4).take 4)), fwDigest := (bytes.drop 12).take 32 } }))) ∧
  (∀ (s : State),
    let at_ := s.regs.attlo.toNat / 64 * 64 + 2 ^ 32 * s.regs.atthi.toNat
    let a := s.regs.attReq.1
    let secret := (Config.identitySecret ++ List.replicate 57 0).take 57
    exec .attgo s = .next (if s.regs.state = 3 ∧ s.regs.attbusy = false
      then { s with regs := { s.regs with attbusy := true, attReq := (at_, memRead s.mem.hostMem at_ 32) } } else s) ∧
    (s.regs.attbusy = false → exec .attestationReportDone s = .fault .notEnabled) ∧
    (s.regs.attbusy = true → Memory.wf s.mem.hostMem = true →
      ∃ r : State, exec .attestationReportDone s = .next r ∧ r.regs = { s.regs with attbusy := false } ∧ r.threads = s.threads ∧ r.mem.hbm = s.mem.hbm ∧
        (∀ i, i < 32 → cellGet r.mem.hostMem (a + 64 + i) = s.regs.attReq.2.getD i 0) ∧
        (∀ i, i < 57 → cellGet r.mem.hostMem (a + 96 + i) = (Ed448.publicKey secret).getD i 0) ∧
        memNat r.mem.hostMem (a + 153) 4 = s.regs.fwVersion.toNat ∧
        (∀ i, i < 32 → cellGet r.mem.hostMem (a + 157 + i) = s.regs.fwDigest.getD i 0) ∧
        (∀ i, i < 32 → cellGet r.mem.hostMem (a + 189 + i) = (shake256 (s.disp.fnModes.flatMap fun f => bytesOf f.raw)).getD i 0) ∧
        (∀ i, i < 114 → cellGet r.mem.hostMem (a + 221 + i) = (Ed448.sign secret (memRead r.mem.hostMem (a + 64) 157)).getD i 0) ∧
        (∀ i, 271 ≤ i → i < 320 → cellGet r.mem.hostMem (a + 64 + i) = 0) ∧
        (∀ b, b < a + 64 ∨ a + 384 ≤ b → cellGet r.mem.hostMem b = cellGet s.mem.hostMem b)))

/-- R342: a host write of line 0 of a window pushes an entry, and for a LAUNCH queue a packet as two entries; it is dropped and counted when it does not fit, or the queue is disabled
or stopped. A read of line 1 pops, and gives zeros where there is nothing to pop, or from a LAUNCH queue. A read of line 0 gives the entry count and DROPS. Here the
queue's entries are on chip.
R302, R312, R419, R422: before READY the host reads zeros through CXL.mem and its writes do nothing. After it, the table region outside the windows is memory, at its offsets
and at its place in HBM (notes/assumptions/98.md), and a read of other HBM gives the bytes of atoms under
tag 0, and zeros elsewhere (of a poisoned atom as they stand: notes/assumptions/145.md); a write within an atom of 32 bytes
(notes/assumptions/144.md) puts its bytes there under tag 0, the atom's other bytes being zero where another tag was.
R424, R296, R298: a request of another package is checked by the buffer entry of its owner here; a read that passes opens an entry of its own, whose reply is its
answer, or POISON of a poisoned atom; a write that passes writes the entry's bytes; an atomic enters the atomic service; one that fails reads and writes nothing. A load that found no path
for 100 us completes with POISON; a store, or a part of a copy, that found none is dropped and counted in the error log. -/
def Obligations.HostAndLinkReachTheDevice : Prop :=
  (∀ (s : State) (q : Nat) (line : List Word),
     let zeros : List Word := List.replicate 16 0
     let said : State → List Word → Prop := fun r ws => r = { s with hostOut := ws, hostBad := false }
     s.regs.state = 3 → line.length = 16 →
     (queueFor s q = none → (∀ r, exec (.hostQueuePop q) s = .next r → said r zeros) ∧ (∃ r, exec (.hostQueuePop q) s = .next r) ∧
       ∃ (r : State) (y : HwQueue), exec (.hostQueuePush q line) s = .next r ∧ r.disp.queues.find? (fun x => x.q == q) = some y ∧ queueFor r q = none ∧
         y.drops = ((((s.disp.queues.find? fun x => x.q == q).map (·.drops)).getD 0) + 1) % 2 ^ 32) ∧
     (∀ x, queueFor s q = some x → x.q = q → s.disp.queues.find? (fun y => y.q == q) = some x →
       let drops (r : State) : Prop := exec (.hostQueuePush q line) s = .next r ∧ queueFor r q = some { x with drops := (x.drops + 1) % 2 ^ 32 } ∧ r.mem = s.mem
       let n := if x.kind = 1 then 2 else 1
       (∃ r, exec (.hostQueueStatus q) s = .next r ∧ said r ([word (x.fifo.length + x.ringCount), word x.drops] ++ List.replicate 14 0)) ∧
       (x.stopped ≠ none → (∃ r, drops r) ∧ ∃ r, exec (.hostQueuePop q) s = .next r ∧ said r zeros) ∧
       (x.stopped = none → x.room n = false → ∃ r, drops r) ∧
       (x.stopped = none → x.tail = x.head → x.head < 2 ^ 32 →
         (x.fifo.length + n ≤ 32 → (∀ p ∈ s.mem.parks, p.unit ≠ .ring q) → (∀ o ∈ s.disp.qops, o.q ≠ q) →
           ∃ (r : State) (y : HwQueue), exec (.hostQueuePush q line) s = .next r ∧ queueFor r q = some y ∧ r.mem = s.mem ∧ r.threads = s.threads ∧
             y.drops = x.drops ∧ y.tail = x.tail ∧ y.head = x.head ∧
             y.fifo.map (·.words) = x.fifo.map (·.words) ++ (if x.kind = 1 then [line.take 8, line.drop 8] else [line.take 8])) ∧
         (x.kind = 1 ∨ x.fifo = [] → ∃ r, exec (.hostQueuePop q) s = .next r ∧ said r zeros) ∧
         (∀ e es, x.kind ≠ 1 → x.fifo = e :: es → e.words.length = 8 → (∀ p ∈ s.mem.parks, p.unit ≠ .ring q) → (∀ o ∈ s.disp.qops, o.q ≠ q) → ∃ (r : State) (y : HwQueue), exec (.hostQueuePop q) s = .next r ∧
           queueFor r q = some y ∧ y.fifo = es ∧ r.hostOut = e.words ++ [1] ++ List.replicate 7 0 ∧ r.mem = s.mem ∧ r.threads = s.threads)))) ∧
  (∀ (s : State) (a n : Nat) (bs : List Byte),
     let out : Instr → List Word → Prop := fun i ws => exec i s = .next { s with hostOut := ws, hostBad := false }
     let words : List Byte → List Word := fun l => (List.range (l.length / 4)).map fun i => word (wordOfBytes ((l.drop (4 * i)).take 4))
     let infoAt : State → Nat → AtomInfo := fun r b => (assoc r.mem.atoms (b / 32)).getD {}
     let seen : Nat → Byte := fun b => if (infoAt s b).tag = some 0 ∧ 0 ∉ s.mem.keys then cellGet s.mem.hbm b else 0
     let size := s.regs.tblSize * 2 ^ 26
     let table : Nat → Prop := fun o => a / 2 ^ 48 * stackBytes + a % 2 ^ 48 = s.regs.tblBase * 2 ^ 26 + o ∧ o < size
     (s.regs.state ≠ 3 → n % 4 = 0 → out (.hostMemAccess (.readTable a n)) (List.replicate (n / 4) 0) ∧ out (.hostMemAccess (.readHbm a n)) (List.replicate (n / 4) 0) ∧
       exec (.hostMemAccess (.writeTable a bs)) s = .next s ∧ exec (.hostMemAccess (.writeHbm a bs)) s = .next s) ∧
     (s.regs.state = 3 →
       (n % 4 = 0 → a + n ≤ size → a + n ≤ 0x50000 ∨ 0x68000 ≤ a → out (.hostMemAccess (.readTable a n)) (words ((List.range n).map fun i => cellGet s.mem.tbl (a + i)))) ∧
       (a + bs.length ≤ size → a + bs.length ≤ 0x50000 ∨ 0x68000 ≤ a → Memory.wf s.mem.tbl = true → ∃ r : State, exec (.hostMemAccess (.writeTable a bs)) s = .next r ∧
         r.threads = s.threads ∧ r.mem.hbm = s.mem.hbm ∧ (∀ i, i < bs.length → cellGet r.mem.tbl (a + i) = bs.getD i 0) ∧
         ∀ b, b < a ∨ a + bs.length ≤ b → cellGet r.mem.tbl b = cellGet s.mem.tbl b) ∧
       (∀ o, table o → physOk a = true → (physOk (a + n - 1) = true → exec (.hostMemAccess (.readHbm a n)) s = exec (.hostMemAccess (.readTable o n)) s) ∧
         (physOk (a + bs.length - 1) = true → exec (.hostMemAccess (.writeHbm a bs)) s = exec (.hostMemAccess (.writeTable o bs)) s)) ∧
       (0 < n → physOk a = true → physOk (a + n - 1) = true → (∀ o, ¬ table o) → a + n ≤ discBase → n % 4 = 0 → ∃ r : State, exec (.hostMemAccess (.readHbm a n)) s = .next r ∧
         r.hostOut = words ((List.range n).map fun i => seen (a + i)) ∧ MemoryKept s r ∧ r.threads = s.threads) ∧
       (bs ≠ [] → physOk a = true → physOk (a + bs.length - 1) = true → (∀ o, ¬ table o) → a / 32 = (a + bs.length - 1) / 32 →
         ((infoAt s a).poison = false ∧ (infoAt s a).ue = false ∨ bs.length = 32) → Memory.wf s.mem.hbm = true → ∃ r : State, exec (.hostMemAccess (.writeHbm a bs)) s = .next r ∧
         r.threads = s.threads ∧ r.mem.tbl = s.mem.tbl ∧ infoAt r a = { tag := some 0 } ∧
         ∀ b, cellGet r.mem.hbm b = if a ≤ b ∧ b < a + bs.length then bs.getD (b - a) 0 else if b / 32 = a / 32 then seen b else cellGet s.mem.hbm b)) ∧
     (Memory.wf s.mem.hostMem = true → ∃ r : State, exec (.hostMemAccess (.hostMemory a bs)) s = .next r ∧ r.threads = s.threads ∧ r.mem.hbm = s.mem.hbm ∧ r.mem.tbl = s.mem.tbl ∧
       ∀ b, cellGet r.mem.hostMem b = if a ≤ b ∧ b < a + bs.length then bs.getD (b - a) 0 else cellGet s.mem.hostMem b)) ∧
  (∀ (s : State) (owner idx off : Nat),
     let p := idx * 2 ^ 48 + off
     let gone : MemSys := { s.mem with parks := s.mem.parks.filter fun x => !(x.unit == .link owner) }
     let up : Prop := true ∈ s.regs.ports
     let late : Nat → Prop := fun since => Config.podTime since + 100000 ≤ Config.podTime s.clock
     (¬ up → ∀ n bs op ds, exec (.linkRequest (.read owner idx off n)) s = .fault .notEnabled ∧ exec (.linkRequest (.write owner idx off bs)) s = .fault .notEnabled ∧
       exec (.linkRequest (.atomic owner idx off op ds)) s = .fault .notEnabled) ∧
     (∀ n t, up → unitAccess s owner 0 p n 1 rightR = .ok t → 0 < n → t.phys % 64 + n ≤ 64 → entryFree s t.pkg (t.phys / 64 * 64) = true →
       ∃ (r : State) (e : StraitEntry), exec (.linkRequest (.read owner idx off n)) s = .next r ∧ r.mem.entries = s.mem.entries ++ [e] ∧ e.line = t.phys / 64 * 64 ∧
         e.pkg = t.pkg ∧ e.link = some (t.tag, t.phys % 64, n, t.gang) ∧ e.closed = true ∧ e.cores = [] ∧ e.reqs = [] ∧
         (t.pkg = none → e.line + 64 ≤ discBase → e.bytes = (List.range 64).map fun i => cellGet s.mem.hbm (e.line + i)) ∧ MemoryKept s r ∧ r.threads = s.threads) ∧
     (∀ n c, up → unitAccess s owner 0 p n 1 rightR = .fault c → exec (.linkRequest (.read owner idx off n)) s = .next { s with hostOut := [], hostBad := false, mem := gone }) ∧
     (∀ op ds t c, ∀ sz al, (op = .wadd → sz = 48 ∧ al = 64) → (op = .add64 ∨ op = .cas64 → sz = 8 ∧ al = 8) →
       (op ≠ .wadd → op ≠ .add64 → op ≠ .cas64 → sz = 4 ∧ al = 4) → up →
       (unitAccess s owner 0 p sz al rightA = .ok t → ∃ (r : State) (q : SqOp), exec (.linkRequest (.atomic owner idx off op ds)) s = .next r ∧ r.mem.ops = s.mem.ops ++ [q] ∧
         q.kind = .atomic op ds (some s.mem.seq) ∧ q.link = true ∧ q.tgt = t ∧ q.owner = owner ∧ q.size = sz ∧ q.level = 4 ∧ MemoryKept s r ∧ r.threads = s.threads) ∧
       (unitAccess s owner 0 p sz al rightA = .fault c → exec (.linkRequest (.atomic owner idx off op ds)) s = .next { s with hostOut := [], hostBad := false, mem := gone })) ∧
     (∀ k e tag o n gang, s.mem.entries[k]? = some e → e.link = some (tag, o, n, gang) → e.cores = [] → e.reqs = [] → e.pkg = none → e.bytes.length = 64 → o + n ≤ 64 →
       let info : Nat → AtomInfo := fun i => e.infos.getD (i / 32) {}
       ∃ r, exec (.straitReply k) s = .next r ∧ r.mem.entries = s.mem.entries.eraseIdx k ∧ MemoryKept s r ∧ r.threads = s.threads ∧
         let bad : Prop := ∃ i, i < n ∧ ((info (o + i)).bad = true ∨ (gang = true ∧ ∃ j, j < 2 ∧ (info (32 * j)).bad = true))
         (bad → r.hostOut = [] ∧ r.hostBad = true) ∧ (¬ bad → r.hostBad = false ∧ r.hostOut = packWords ((List.range n).map fun i =>
           if (info (o + i)).tag = some tag ∧ tag ∉ s.mem.keys then e.bytes.getD (o + i) 0 else 0))) ∧
     (∀ bs t, up → unitAccess s owner 0 p bs.length 1 rightW = .ok t → bs ≠ [] → t.pkg = none → t.phys / 32 = (t.phys + bs.length - 1) / 32 →
       (∀ h ∈ atomHalves t.gang t.phys, ((assoc s.mem.atoms h).getD {}).poison = false ∧ ((assoc s.mem.atoms h).getD {}).ue = false) → Memory.wf s.mem.hbm = true →
       ∃ r : State, exec (.linkRequest (.write owner idx off bs)) s = .next r ∧ r.threads = s.threads ∧ memRead r.mem.hbm t.phys bs.length = bs ∧
         ∀ a, a / (if t.gang then 64 else 32) ≠ t.phys / (if t.gang then 64 else 32) → cellGet r.mem.hbm a = cellGet s.mem.hbm a) ∧
     (∀ bs c, up → unitAccess s owner 0 p bs.length 1 rightW = .fault c → exec (.linkRequest (.write owner idx off bs)) s = .next { s with mem := gone }) ∧
     (∀ pkg adr bs, Memory.wf ((assoc s.mem.pods pkg).getD []) = true → ∃ r : State, exec (.linkRequest (.remote pkg adr bs)) s = .next r ∧ r.threads = s.threads ∧
       r.mem.hbm = s.mem.hbm ∧ (∀ i, i < bs.length → cellGet ((assoc r.mem.pods pkg).getD []) (adr + i) = bs.getD i 0) ∧
       (∀ b, b < adr ∨ adr + bs.length ≤ b → cellGet ((assoc r.mem.pods pkg).getD []) b = cellGet ((assoc s.mem.pods pkg).getD []) b) ∧
       ∀ k, k ≠ pkg → assoc r.mem.pods k = assoc s.mem.pods k) ∧
     (∀ k r, s.mem.reqs.find? (fun x => x.id == k) = some r → r.tgt.pkg ≠ none → goesHome s r = true → r.copy = none →
       (¬ late r.left → exec (.linkTimeout (.load k)) s = .fault .notEnabled) ∧ (late r.left → ∃ q : State, exec (.linkTimeout (.load k)) s = .next q ∧ MemoryKept s q ∧ q.threads = s.threads ∧ (∀ e ∈ q.mem.entries, k ∉ e.reqs) ∧
         q.mem.reqs.find? (fun x => x.id == k) = some { r with stage := .data (List.replicate r.size 0) true })) ∧
     (∀ k d lo hi c, copyFor s k = some c → (¬ late c.started → exec (.linkTimeout (.part k d lo hi)) s = .fault .notEnabled) ∧
       (late c.started → c.accepted = true → c.checked = true → c.srcFail = false → c.stopped = false → c.form.adds = false → c.form.isDrain = false →
         partFree s c d lo hi = true → goesAway s c d (c.elemsIn d lo hi) = true → (∃ xs, readElems s c (c.elemsIn d lo hi) = .ok xs) →
         ∃ (q : State) (c' : Copy), exec (.linkTimeout (.part k d lo hi)) s = .next q ∧ MemoryKept s q ∧ q.threads = s.threads ∧ q.mem.errLog = s.mem.errLog + 1 ∧
           copyFor q k = some c' ∧ c'.written = c.written ++ [(d, lo, hi)])) ∧
     (∀ k x, s.mem.ops.find? (fun y => y.seq == k) = some x → x.tgt.pkg ≠ none → x.level = 4 → x.lane = none →
       (¬ late x.left → exec (.linkTimeout (.store k)) s = .fault .notEnabled) ∧ (late x.left → ∃ q : State, exec (.linkTimeout (.store k)) s = .next q ∧
       MemoryKept s q ∧ q.threads = s.threads ∧ q.mem.errLog = s.mem.errLog + 1 ∧ (∀ y, y ∈ q.mem.ops ↔ y ∈ s.mem.ops ∧ y.seq ≠ k) ∧
       ∀ op d n r, x.kind = .atomic op d (some n) → s.mem.reqs.find? (fun y => y.id == n) = some r → r.copy = none →
         q.mem.reqs.find? (fun y => y.id == n) = some { r with stage := .data (List.replicate r.size 0) true })))

/-- R314, R315: a management command that breaks a rule of R314 is refused, changes nothing, and leaves its queue, with the lowest DETAIL that applies in its record: 1 for OWNER or the issuer, 2 for an
unknown CMD, 3 for a reserved bit or an argument out of range. That an issuer which Table 3 does not name has DETAIL 1 is
notes/assumptions/57.md (DEDUCED). One whose completion pointer fails its check is counted in DROPS and writes no record. A BUFINV that is done
says so in its record. -/
def Obligations.ManagementCommandsAreChecked : Prop :=
  ∀ (s : State) (q : Nat) (x : HwQueue) (e : QEntry) (es : List QEntry),
    let w : Nat → Nat := fun i => (e.words.getD i 0).toNat
    let ptr := w 6 + 2 ^ 32 * w 7
    let owner := w 1 % 2 ^ 12
    let admin : Nat := bitsOf (memNat s.mem.tbl (0x42000 + 128 * w 2) 4) 11 0
    let badOwner : Prop := x.owner ≠ 0 ∧ owner ≠ x.owner
    let range : Nat → Prop := fun c => match c with
      | 1 => 1 ≤ w 3 ∧ w 3 ≤ 65536 ∧ w 2 < 65536
      | 2 => w 2 % 2 ^ 16 = 0 ∧ w 3 < 2 ^ 16
      | 4 => w 2 < 256
      | 5 => w 2 < 256 ∧ w 3 < 2
      | 6 => w 2 < 256 ∧ w 3 < 2
      | 7 => w 2 < 256 ∧ w 3 < 2
      | 9 => w 2 < 9
      | _ => True
    let badIssuer : Nat → Prop := fun c => match c with
      | 3 => x.owner ≠ 0
      | 8 => x.owner ≠ 0
      | 9 => x.owner ≠ 0
      | 5 => w 2 < 256 ∧ admin ≠ owner
      | 6 => w 2 < 256 ∧ admin ≠ owner
      | 7 => w 2 < 256 ∧ admin ≠ owner
      | _ => False
    let popped : State → Prop := fun r => queueFor r q = some { x with fifo := es } ∧ r.threads = s.threads ∧ r.disp.grids = s.disp.grids ∧ r.mem.tbl = s.mem.tbl
    let record : Target → List Word → State → Prop := fun t ws r => memRead r.mem.hbm t.phys 16 = bytesOf ws ∧
      ∀ a, a / (if t.gang then 64 else 32) ≠ t.phys / (if t.gang then 64 else 32) → cellGet r.mem.hbm a = cellGet s.mem.hbm a
    let checked : Target → Prop := fun t => ptr ≠ 0 ∧ (∃ t0, unitCheck s (.command q) x.owner 0 ptr 16 16 rightW = .ok t0) ∧ recordCheck s (.command q) x.owner ptr 16 = .ok t ∧ t.pkg = none ∧ t.phys % 16 = 0 ∧
      Memory.wf s.mem.hbm = true ∧ ∀ h ∈ atomHalves t.gang t.phys, ((assoc s.mem.atoms h).getD {}).poison = false ∧ ((assoc s.mem.atoms h).getD {}).ue = false
    let ends : Instr → List Word → Prop := fun i ws => (ptr = 0 → ∃ r : State, exec i s = .next r ∧ popped r ∧ MemoryKept s r) ∧
      ∀ t, checked t → ∃ r : State, exec i s = .next r ∧ popped r ∧ record t ws r
    AtHead s q x e es →
    (∀ c ∈ ([(.bufinv q, 1), (.xlatinv q, 2), (.ownrec q, 3), (.qdesc q, 4), (.cadload q, 5), (.cadswitch q, 6), (.caddrop q, 7), (.fmreload q, 8), (.fmreply q, 9)] :
        List (Instr × Nat)),
      (w 0 % 2 ^ 8 = c.2 → badOwner ∨ badIssuer c.2 → ends c.1 [1, 1, 0, 0]) ∧
      (w 0 % 2 ^ 8 = c.2 → ¬ badOwner → ¬ badIssuer c.2 → (2 ^ 8 ≤ w 0 ∨ 2 ^ 12 ≤ w 1 ∨ ¬ range c.2) → ends c.1 [1, 3, 0, 0]) ∧
      (∀ f, w 0 % 2 ^ 8 = c.2 → ptr ≠ 0 → unitCheck s (.command q) x.owner 0 ptr 16 16 rightW = .fault f → s.disp.queues.find? (fun y => y.q == q) = some x →
        ∃ r : State, exec c.1 s = .next r ∧ MemoryKept s r ∧ r.threads = s.threads ∧ queueFor r q = some { x with fifo := es, drops := (x.drops + 1) % 2 ^ 32 }) ∧
      (w 0 % 2 ^ 8 ≠ c.2 → exec c.1 s = .fault .notEnabled)) ∧
    (w 0 % 2 ^ 8 = 0 ∨ 9 < w 0 % 2 ^ 8 → (badOwner → ends (.manageUnknown q) [1, 1, 0, 0]) ∧ (¬ badOwner → ends (.manageUnknown q) [1, 2, 0, 0])) ∧
    (w 0 = 1 → w 1 < 2 ^ 12 → ¬ badOwner → range 1 → ∀ t, checked t → ∃ r : State, exec (.bufinv q) s = .next r ∧ popped r ∧ record t [0, 0, 0, 0] r)

/-- R318, R320, R313, R303, R332, R307, R330, R337, R338: what each management command does when its rules allow it, and with no record. BUFINV and XLATINV drop cached entries, and XLATINV and OWNREC, which
leave their queue as they act, end once the accesses that used the entries are done; OWNREC loads the record, one that makes a living owner not VALID erases its key and contains its grids, and a VALID one
for a key still erased is refused. QDESC tests the descriptor, and enables and disables queues. CADLOAD, CADSWITCH and CADDROP move generations. FMRELOAD loads the nine entries. FMREPLY answers an open
question by its deadline, and so does its timeout. The tests of a descriptor with EN 0 are notes/assumptions/58.md, the refusal of a VALID record for an erased key
notes/assumptions/60.md, and EMPTY at a switch without pins notes/assumptions/61.md (each DEDUCED). -/
def Obligations.ManagementCommandEffects : Prop :=
  ∀ (s : State) (q : Nat) (x : HwQueue) (e : QEntry) (es : List QEntry),
    let w : Nat → Nat := fun i => (e.words.getD i 0).toNat
    let o := w 1
    let cmd : Nat → Prop := fun c => w 0 = c ∧ w 1 < 2 ^ 12 ∧ (x.owner ≠ 0 → w 1 = x.owner)
    let done : Instr → (State → Prop) → Prop := fun i P => ∃ r : State, exec i s = .next r ∧ queueFor r q = some { x with fifo := es } ∧ P r
    let unchanged : State → Prop := fun r => MemoryKept s r ∧ r.threads = s.threads ∧ r.disp.grids = s.disp.grids ∧ r.disp.caddies = s.disp.caddies
    let dropped : Nat → Nat → State → Prop := fun va n r =>
      let inside : PageKey → Prop := fun p => p.owner = o ∧ (n = 0 ∨ (p.va < va + n ∧ va < p.va + pageBytes p.psz))
      (∀ t, t ∈ r.mem.tlb ↔ t ∈ s.mem.tlb ∧ ¬ inside t.page) ∧ (∀ t, t ∈ r.mem.tlb2 ↔ t ∈ s.mem.tlb2 ∧ ¬ inside t.page) ∧ ∀ m, m ∈ r.mem.miss ↔ m ∈ s.mem.miss ∧ ¬ inside m.2
    let quiet : Nat → Prop := fun m => (∀ y ∈ s.mem.ops, y.tgt.tag = o → m ≤ y.seq) ∧ (∀ y ∈ s.mem.reqs, y.scratch = false → y.tgt.tag = o → m ≤ y.id) ∧
      ∀ c ∈ s.eng.nm, c.owner = o → m ≤ c.after
    let slot := w 2
    let gen := w 3
    let c := caddyOf s slot
    let slots : Prop := slot < 256 ∧ gen < 2 ∧ caddyAdmin s slot = o ∧ caddyEn s slot = true ∧ c.state.length = 2
    let taken : HwQueue := { x with fifo := es, mark := some (s.mem.seq, e.words) }
    w 6 = 0 → w 7 = 0 →
    (∀ m, queueFor s q = some x → x.q = q → x.mark = some (m, e.words) → ∀ i ∈ [Instr.xlatinv q, Instr.ownrec q],
      cmd (if i = .xlatinv q then 2 else 3) → (i = .xlatinv q → w 2 % 2 ^ 16 = 0 ∧ w 3 < 2 ^ 16) → (i = .ownrec q → x.owner = 0) →
        (quiet m → ∃ r : State, exec i s = .next r ∧ queueFor r q = some { x with mark := none } ∧ unchanged r) ∧ (¬ quiet m → exec i s = .fault .notEnabled)) ∧
    (∀ fn n y, s.disp.openQs.find? (fun z => z.fn == fn && z.seqNo == n && z.answer.isNone) = some y →
      (y.deadline ≤ s.clock → ∃ r : State, exec (.fmTimeout fn n) s = .next r ∧ unchanged r ∧ { y with answer := some y.hw } ∈ r.disp.openQs) ∧
      (s.clock < y.deadline → exec (.fmTimeout fn n) s = .fault .notEnabled)) ∧
    (AtHead s q x e es →
    (cmd 1 → 1 ≤ w 3 → w 3 ≤ 65536 → w 2 < 65536 → done (.bufinv q) fun r => unchanged r ∧
      ∀ b, b ∈ r.mem.bufc ↔ b ∈ s.mem.bufc ∧ ¬ (b.owner = o ∧ w 2 ≤ b.idx ∧ b.idx < w 2 + w 3)) ∧
    (cmd 2 → w 2 % 2 ^ 16 = 0 → w 3 < 2 ^ 16 →
      ∃ r : State, exec (.xlatinv q) s = .next r ∧ queueFor r q = some taken ∧ unchanged r ∧ dropped (w 2 + 2 ^ 32 * w 3) (w 4 * 2 ^ 16) r) ∧
    (cmd 3 → x.owner = 0 → o ∈ s.mem.keys → bitOf (memNat s.mem.tbl (64 * o) 4) 31 = true → done (.ownrec q) fun r => unchanged r ∧ r.mem.keys = s.mem.keys ∧ r.disp.owners = s.disp.owners) ∧
    (cmd 3 → x.owner = 0 → (o ∈ s.mem.keys → bitOf (memNat s.mem.tbl (64 * o) 4) 31 = false) → eventQueue s (fnMode s 8).evq = none →
      let lived : Prop := (∃ ws, assoc s.disp.owners o = some ws ∧ bitOf (ws.getD 0 0).toNat 31 = true) ∨ (∃ g ∈ s.disp.grids, g.owner = o) ∨ ∃ a ∈ s.mem.atoms, a.2.tag = some o
      ∃ r : State, exec (.ownrec q) s = .next r ∧ queueFor r q = some taken ∧ dropped 0 0 r ∧
        (∀ b, b ∈ r.mem.bufc ↔ b ∈ s.mem.bufc ∧ ¬ (b.owner = o ∧ b.idx < 65536)) ∧ ownerLoaded r o = ownerWords s o ∧
        (lived → bitOf (memNat s.mem.tbl (64 * o) 4) 31 = false → (s.disp.grids.map (·.id)).Nodup → o ∈ r.mem.keys ∧ (∀ g ∈ r.disp.grids, g.owner = o → ∃ a b t, g.status = .contained a b t) ∧
          ∀ t ∈ r.threads, t ∈ s.threads) ∧
        (¬ (lived ∧ bitOf (memNat s.mem.tbl (64 * o) 4) 31 = false) → unchanged r ∧ r.mem.keys = s.mem.keys)) ∧
    (cmd 4 → ∀ n d, w 2 = n → n < 256 → n ≠ q → qdescWords s n = d →
      let w0 := (d.getD 0 0).toNat
      (qdescOk s d = false → done (.qdesc q) fun r => unchanged r ∧ queueFor r n = queueFor s n) ∧
      (queueFor s n = none → bitOf w0 31 = true → qdescOk s d = true → done (.qdesc q) fun r => r.threads = s.threads ∧ r.mem.hbm = s.mem.hbm ∧
        queueFor r n = some { q := n, en := true, kind := bitsOf w0 30 29, owner := bitsOf w0 27 16, logcap := bitsOf w0 4 0, ring := d.getD 3 0 ++ d.getD 2 0 }) ∧
      (queueFor s n = none → bitOf w0 31 = false → qdescOk s d = true → done (.qdesc q) fun r => unchanged r ∧ queueFor r n = none) ∧
      (∀ y, queueFor s n = some y → qdescOk s d = true →
        let waits : QOp → Prop := fun p => p.blocked = true ∨ ∃ z ∈ s.disp.qops, z.q = n ∧ z.fset = p.fset ∧ z.blocked = true
        let busy : Prop := (∃ p ∈ s.disp.qops, p.q = n ∧ ¬ waits p) ∨ ∃ z ∈ s.disp.queues, z.q = n ∧ z.mark ≠ none
        let same : Prop := y.kind = bitsOf w0 30 29 ∧ y.owner = bitsOf w0 27 16 ∧ y.logcap = bitsOf w0 4 0 ∧ y.ring = d.getD 3 0 ++ d.getD 2 0
        (¬ same ∨ bitOf w0 31 = true → done (.qdesc q) fun r => unchanged r ∧ queueFor r n = some y) ∧
        (same → bitOf w0 31 = false → busy → exec (.qdesc q) s = .fault .notEnabled) ∧
        (same → bitOf w0 31 = false → ¬ busy → (s.threads.map (·.key)).Nodup → Memory.wf s.mem.tbl = true → done (.qdesc q) fun r =>
          queueFor r n = none ∧ (∀ p, p ∈ r.disp.qops ↔ p ∈ s.disp.qops ∧ p.q ≠ n) ∧ r.mem.hbm = s.mem.hbm ∧
          memRead r.mem.tbl (0x40000 + 32 * n + 16) 12 = bytesOf [word y.head, word y.tail, word y.fifo.length] ∧
          ∀ t ∈ s.threads, ∃ u, getThread r t.key = some u ∧ RegistersKept t u ∧ u.pc = t.pc ∧
            if (∃ p ∈ s.disp.qops, p.q = n ∧ p.thread = t.key) then u.st = .trapping { code := .queue, tpc := t.pc } else u = t))) ∧
    (cmd 5 → slots → done (.cadload q) fun r => r.mem.hbm = s.mem.hbm ∧ r.threads = s.threads ∧
      (caddyOf r slot).state = if c.state.getD gen 0 = 0 then c.state.set gen 1 else c.state) ∧
    (cmd 7 → slots → done (.caddrop q) fun r => r.mem.hbm = s.mem.hbm ∧ r.threads = s.threads ∧
      (caddyOf r slot).state = if c.state.getD gen 0 = 1 ∨ c.state.getD gen 0 = 2 then c.state.set gen 0 else c.state) ∧
    (cmd 6 → slots →
      let can : Prop := c.state.getD gen 0 = 2 ∧ c.sus.getD gen false = false
      let other := 1 - gen
      let switched : State → Prop := fun r => r.disp.cadCount = s.disp.cadCount + 1 ∧ r.threads = s.threads ∧ r.mem.hbm = s.mem.hbm ∧ (caddyOf r slot).state.getD gen 0 = 3 ∧
        (caddyOf r slot).state.getD other 0 = if c.state.getD other 0 ≠ 3 then c.state.getD other 0 else if c.pin.getD other 0 = 0 then 0 else 4
      let open_ := s.disp.openQs.find? fun y => y.what == .cadswitch q slot gen
      (¬ can → done (.cadswitch q) unchanged) ∧
      (can → (open_ = none ∧ eventQueue s (fnMode s 4).evq = none) ∨ (∃ y, open_ = some y ∧ y.answer = some 1) → done (.cadswitch q) switched) ∧
      (can → (∃ y, open_ = some y ∧ y.answer = some 0) → done (.cadswitch q) unchanged) ∧
      (can → (∃ y, open_ = some y ∧ y.answer = none) → exec (.cadswitch q) s = .fault .notEnabled)) ∧
    (cmd 8 → x.owner = 0 → done (.fmreload q) fun r => unchanged r ∧ r.disp.fnModes.length = 9 ∧ ∀ i, i < 9 →
      let f : Nat → Nat := fun j => memNat s.mem.tbl (0x4C000 + 16 * i + 4 * j) 4
      (r.disp.fnModes.getD i {}).evq = f 1 % 2 ^ 8 ∧ (r.disp.fnModes.getD i {}).tmo = f 2 % 2 ^ 20 ∧
        ((r.disp.fnModes.getD i {}).host = true ↔ f 0 = 1 ∧ f 1 < 2 ^ 8 ∧ f 2 ≤ 1000000 ∧ f 3 = 0)) ∧
    (cmd 9 → x.owner = 0 → w 2 < 9 →
      let asked := s.disp.openQs.find? fun y => y.fn == w 2 && y.seqNo == w 3 && y.answer.isNone
      (asked = none ∨ (∃ y, asked = some y ∧ y.deadline < s.clock) → done (.fmreply q) fun r => unchanged r ∧ r.disp.openQs = s.disp.openQs) ∧
      (∀ y, asked = some y → s.clock ≤ y.deadline → done (.fmreply q) fun r => unchanged r ∧
        { y with answer := some (if decisionOk s y.what (w 4) then w 4 else y.hw) } ∈ r.disp.openQs ∧ r.disp.openQs.length = s.disp.openQs.length)))

/-- R5, R26, R27, R386: the starvation override chooses the PC and grid of the thread that has been READY longest of those READY for 256 clocks of the lane group, and issues
the threads of its lane group there, one for each physical lane, with those that look again at what they wait for. A thread of TARGET that is about to issue an instruction of its clause at an enabled
breakpoint does not: a stop is asked of it and of those that the mode of the breakpoint names, and no register changes.
R387, R139, R185: a thread of which a stop is asked becomes STOPPED where it stands, between instructions, once what it has issued has written its results (notes/assumptions/87.md).
R383, R422, R387, R388, R391: the host writes a partition's window. A line that Table 2 does not admit changes nothing; another is taken whole, and clearing ATTACH resumes the target's threads. STOP asks a stop of
the named live thread of TARGET with those of its mode (before READY all of this is ignored); RESUME resumes every thread of TARGET; STEP lets a stopped thread issue one instruction; each reaches threads in save blocks too. A write of line 4 clears the
counters. No register of a thread changes.
R385: every SPER clocks a core samples the first live thread at or after its pointer, in the order of lane group, context depth and lane, and moves the pointer past it. The record holds the thread's
place, the offset that it issues next, its handler's when a fault takes it there, and the reason that applies; it is pushed on the window's queue, or counted as lost
when the partition's OWNER owns the grid. That a sample is taken in the clock in which it is due, and the reason of a thread between its fault and its trap entry, are
notes/assumptions/88.md. -/
def Obligations.DebugStopsStepsAndSamples : Prop :=
  ((∀ (s : State) (core lg : Nat) (u : Thread),
     let here : Thread → Prop := fun v => v ∈ s.threads ∧ v.core = core ∧ v.lg = lg ∧ v.key ∈ s.ready ∧ v.st = .ready ∧ v.stopped = false ∧ v.stopAsk = none ∧ isSaving s v = false
     s.phase ≤ 4 → beats s core = true → (∀ p ∈ s.picked, p.1 < core ∨ (p.1 = core ∧ p.2 < lg)) → s.fused = [] → (s.threads.map (·.key)).Nodup →
     here u → u.readySince + 256 ≤ mainClocks s core → u.stepping ≠ 1 → u.lane < 32 →
     (∀ v, here v → v.readySince + 256 ≤ mainClocks s core → v = u ∨ u.readySince < v.readySince ∨
       (u.readySince = v.readySince ∧ (u.lane < v.lane ∨ (u.lane = v.lane ∧ u.depth < v.depth)))) →
     let joins : Thread → Prop := fun v => here v ∧ v.pc = u.pc ∧ v.grid = u.grid ∧ v.stepping ≠ 1
     ∃ r, exec (.starvationOverride core lg) s = .next r ∧ r.picked = s.picked ++ [(core, lg)] ∧ MemoryKept s r ∧
       (∀ v ∈ s.threads, getThread r v.key = some (if v.core = core ∧ v.lg = lg ∧ v.st = .ready ∧ ¬ here v then { v with readySince := mainClocks s core + 1 } else v)) ∧
      r.chose = s.chose ++ [(core, lg, u.pc)] ∧
       (∀ k ∈ r.fused, (∃ v, joins v ∧ v.key = k) ∨ k ∈ s.looks) ∧
       ∀ v, joins v → v.lane < 32 → ∃ x, joins x ∧ x.key ∈ r.fused ∧ x.lane = v.lane ∧ max x.lastIssue (x.created + 1) ≤ max v.lastIssue (v.created + 1)) ∧
   (∀ (s : State) (k : Nat) (u : Thread) (g : Grid),
     let d := s.debugs.getD g.part {}
     let hits : Nat → Prop := fun i => i < 8 ∧ d.ben.getD i false = true ∧ d.bpc.getD i 0 = u.pc
     getThread s k = some u → u.st = .ready → (s.cur = k ∨ (u.stopped = false ∧ u.stopAsk = none ∧ isSaving s u = false)) → getGrid s u.grid = some g →
     let inClause : Prop := ∃ c, u.clause = some c ∧ u.pc < c.stop
    (d.attach = true → d.target = u.grid → u.skipBrk = false → inClause → ∀ i, hits i → (∀ j, j < i → ¬ hits j) →
       ∃ r, exec (.breakpointHit k) s = .next r ∧ MemoryKept s r ∧
         getThread r k = some { u with skipBrk := true, stepping := 0, stopAsk := some (some { cause := 0x16, mode := d.bmode.getD i 0, pc := u.pc }) } ∧
         ∀ w, getThread s w.key = some w → w.key ≠ k → getThread r w.key = some (if w.st ≠ .exited ∧ w.st ≠ .ended ∧
             ((d.bmode.getD i 0 = 1 ∧ w.team = u.team) ∨ (d.bmode.getD i 0 = 2 ∧ w.grid = u.grid)) then { w with stopAsk := some w.stopAsk.join } else w)) ∧
     (d.attach = false ∨ d.target ≠ u.grid ∨ u.skipBrk = true ∨ ¬ inClause ∨ (∀ i, ¬ hits i) → exec (.breakpointHit k) s = .fault .notEnabled)) ∧
   (∀ (s : State) (u : Thread), getThread s u.key = some u → ((allThreads s).map (·.key)).Nodup →
     if u.stopAsk ≠ none ∧ u.st ≠ .exited ∧ u.st ≠ .ended ∧ (∀ w ∈ u.windows, w.regs = [] ∨ w.poison ≠ none) ∧ u.key ∉ s.fused ∧
       u.st ≠ .blocked .copyAccept ∧ u.st ≠ .blocked .nmcSend ∧ (∀ o ∈ s.disp.qops, o.thread = u.key → o.kind.pred = none)
     then getThread (settleStops s) u.key = some { flushFlags u with stopped := true, stopAsk := none, stepping := 0 } else getThread (settleStops s) u.key = some u)) ∧
  (∀ (s : State) (part : Nat) (ws : List Word),
     let w : Nat → Nat := fun i => (ws.getD i 0).toNat
     let d := s.debugs.getD part {}
     let with_ : Debug → State := fun x => { s with debugs := s.debugs.set part x }
     let changed : (Thread → Thread) → State → Prop := fun f r => r.threads = s.threads.map f ∧ allThreads r = (allThreads s).map f ∧ r.mem = s.mem
     let resumed : Thread → Thread := fun t => if t.grid = d.target then { t with stopped := false } else t
     let named : Name → Thread → Prop := fun n t => t ∈ allThreads s ∧ t.grid = n.grid ∧ t.teamIdx = n.team ∧ t.tid = n.tid ∧ t.st ≠ .exited ∧ t.st ≠ .ended ∧
       ((getGrid s t.grid).map (·.part)).getD 0 = part
     part < 16 → s.debugs.length = 16 →
     (s.regs.state ≠ 3 → ∀ line n m, exec (.debugConfigWrite part line ws) s = .next s ∧ exec (.pcntClear part) s = .next s ∧ exec (.debugStop part n m) s = .next s ∧
       exec (.debugResume part) s = .next s ∧ exec (.debugStep part n) s = .next s) ∧
     (s.regs.state = 3 →
     (let bad : Prop := w 0 % 2 ^ 31 ≠ 0 ∨ 256 ≤ w 2 ∨ 3 ≤ w 8 ∨ (w 3 ≠ 0 ∧ (w 3 < 256 ∨ 2 ^ 24 ≤ w 3)) ∨ ∀ x, queueFor s (w 2) = some x → x.kind ≠ 3 ∨ x.owner ≠ 0;
       let x : Debug := { d with attach := bitOf (w 0) 31, target := w 1, evq := w 2, sper := w 3, smode := w 8,
                                 trcen := ws.getD 7 0 ++ ws.getD 6 0 ++ ws.getD 5 0 ++ ws.getD 4 0 };
       (bad → exec (.debugConfigWrite part 0 ws) s = .next s) ∧
       (¬ bad → d.attach = false ∨ bitOf (w 0) 31 = true → ws.length = 16 → exec (.debugConfigWrite part 0 ws) s = .next (with_ x)) ∧
       (¬ bad → d.attach = true → bitOf (w 0) 31 = false → ws.length = 16 → ∃ r : State, exec (.debugConfigWrite part 0 ws) s = .next r ∧ r.debugs = s.debugs.set part x ∧
         changed (fun t => if t.grid = d.target then { t with stopped := false, stopAsk := none } else t) r)) ∧
     (let bad : Prop := ∃ i, i < 8 ∧ 6 ≤ w (2 * i + 1);
       (bad → exec (.debugConfigWrite part 1 ws) s = .next s) ∧
       (¬ bad → exec (.debugConfigWrite part 1 ws) s = .next (with_ { d with
         bpc := (List.range 8).map fun i => w (2 * i), bmode := (List.range 8).map fun i => w (2 * i + 1) / 2,
         ben := (List.range 8).map fun i => w (2 * i + 1) % 2 == 1 }))) ∧
     (let bad : Prop := ∃ i, i < 4 ∧ 12 ≤ w (4 * i + 3);
       (bad → exec (.debugConfigWrite part 2 ws) s = .next s) ∧
       (¬ bad → exec (.debugConfigWrite part 2 ws) s = .next (with_ { d with
         wptr := (List.range 4).map fun i => w (4 * i) + 2 ^ 32 * w (4 * i + 1), wlen := (List.range 4).map fun i => w (4 * i + 2),
         wmode := (List.range 4).map fun i => w (4 * i + 3) / 4, wact := (List.range 4).map fun i => w (4 * i + 3) % 4 }))) ∧
     exec (.pcntClear part) s = .next (with_ { d with pcnt := List.replicate 16 0 }) ∧
     (d.attach = false → ∀ n m, exec (.debugStop part n m) s = .next s ∧ exec (.debugResume part) s = .next s ∧ exec (.debugStep part n) s = .next s) ∧
     (d.attach = true → ∃ r : State, exec (.debugResume part) s = .next r ∧ changed resumed r) ∧
     (∀ n m, d.target ≠ n.grid ∨ (∀ t, ¬ named n t) → exec (.debugStop part n m) s = .next s ∧ exec (.debugStep part n) s = .next s) ∧
     (∀ n m t, d.attach = true → d.target = n.grid → named n t → (∀ u, named n u → u = t) →
       (t.stopped = true → ∃ r : State, exec (.debugStep part n) s = .next r ∧ changed (fun u => if u.key = t.key then { u with stopped := false, stepping := 1 } else u) r) ∧
       (t.stopped = false → exec (.debugStep part n) s = .next s) ∧
       (3 ≤ m → exec (.debugStop part n m) s = .next s) ∧
       (m < 3 → ∃ r : State, exec (.debugStop part n m) s = .next r ∧ changed (fun u =>
         if u.st ≠ .exited ∧ u.st ≠ .ended ∧ (u.key = t.key ∨ (m = 1 ∧ u.team = t.team) ∨ (m = 2 ∧ u.grid = t.grid))
         then { u with stopAsk := some (if u.key = t.key then some { cause := 0, mode := m, pc := t.pc } else u.stopAsk.join) } else u) r)))) ∧
  (∀ (s : State) (part core : Nat),
     let d := s.debugs.getD part {}
     let last : Nat × Nat := ((d.sampled.find? fun x => x.1 == core).map (·.2)).getD (0, 0)
     let key : Thread → Nat := fun t => 512 * t.lg + 32 * t.depth + t.lane
     let seen : Thread → Prop := fun t => t ∈ s.threads ∧ t.core = core ∧ t.st ≠ .exited ∧ t.st ≠ .ended ∧ ((getGrid s t.grid).map (·.part)).getD 0 = part ∧
       (d.target = 0 ∨ d.target = t.grid)
     let due : Prop := d.sper ≠ 0 ∧ last.2 + d.sper ≤ s.clock
     let now := Config.podTime s.clock
     let issued : Thread → Bool := fun t => t.lastIssue == s.clock + 1
     let holds : Thread → Nat → Prop := fun t x => ∃ y ∈ t.windows, (t.stopAsk ≠ none ∨ y.remain = 0) ∧ y.poison = none ∧ x ∈ y.regs ++ y.reads
     let inside : Thread → Prop := fun t => t.st = .blocked .copyAccept ∨ t.st = .blocked .nmcSend ∨
       ∃ o ∈ s.disp.qops, o.thread = t.key ∧ ∃ p, o.kind.pred = some p
     let traps : Thread → Prop := fun t => (∃ f, t.st = .trapping f) ∧ t.tvec ≠ 0 ∧ t.inHandler = false
     let chose : Thread → Nat := fun t => ((s.chose.find? fun c => c.1 == t.core && c.2.1 == t.lg).map fun c => c.2.2).getD t.pc
     part < 16 → s.debugs.length = 16 →
     (¬ due ∨ (∀ t, ¬ seen t) → exec (.sample part core) s = .fault .notEnabled) ∧
     (∀ t, due → seen t → (∀ u, seen u → key u = key t → u = t) →
       ((last.1 ≤ key t ∧ ∀ u, seen u → last.1 ≤ key u → key t ≤ key u) ∨ ((∀ u, seen u → key u < last.1) ∧ ∀ u, seen u → key t ≤ key u)) →
       ∀ (off : Nat) (clause : Option ClauseCtx), (traps t → off = t.tvec ∧ clause = none) → (¬ traps t → clause = t.clause) → (¬ traps t → inside t → off = t.pc) →
       (¬ traps t → ¬ inside t → off = match t.st with
         | .blocked (.poll i) => t.pc + lengthOf i
         | .blocked _ => t.pc + t.blen
         | .yielded _ => t.pc + t.blen
         | _ => t.pc) →
       ∃ (r : State) (sub blame reg own : Nat), exec (.sample part core) s = .next r ∧ r.threads = s.threads ∧
         ((r.debugs.getD part {}).sampled.find? fun x => x.1 == core) = some (core, key t + 1, s.clock) ∧
         ((∃ c, clause = some c ∧ off < c.stop) → own = off) ∧
         ((∀ c, clause = some c → c.stop ≤ off) → ∀ g x, getGrid s t.grid = some g → codeValue s t.core g off = some x →
           own = if (unmetClass t (decodeHeader x).wait).isSome then off else off + 4) ∧
         (issued t = true → sub = 0 ∧ blame = t.issuePc ∧ reg = 0) ∧
         (issued t = false → (t.stopped = true → sub = 10 ∧ blame = own) ∧
           (t.stopped = false →
             (t.st = .ready → t.key ∈ s.ready → sub = 4 ∧ reg = 0 ∧ blame = chose t) ∧
             (∀ x, t.st = .ready → t.key ∉ s.ready → holds t x → (∀ z, holds t z → x ≤ z) → sub = 1 ∧ reg = x) ∧
             (∀ a b, t.st = .heldMeet a b → sub = 5 ∧ blame = t.meet.toNat) ∧ (t.st = .heldConvoy → sub = 6 ∧ blame = own) ∧
             (∀ a, t.st = .yielded a → sub = 7 ∧ blame = t.pc) ∧ (∀ b, t.st = .blocked b → ¬ inside t → sub = 8 ∧ blame = t.pc) ∧
             (∀ b, t.st = .blocked b → inside t → sub = 3 ∧ blame = own) ∧ (∀ p a, t.st = .parked p a → sub = 9 ∧ blame = t.pc))) ∧
         (let rec_ : List Word := [word (256 * sub + 1), word t.grid, word t.teamIdx, word t.tid, word own, word now, word (now / 2 ^ 32), word blame,
             word (t.core + 2 ^ 8 * t.lg + 2 ^ 10 * t.lane + 2 ^ 15 * t.depth), word reg, 0, 0, 0, 0, 0, 0]
           ∃ p : State × Bool, devicePush s d.evq [rec_.take 8, rec_.drop 8] (some (part, (getGrid s t.grid).elim 0 fun g => g.owner)) = p ∧ (p.2 = true → r.mem = p.1.mem ∧ r.disp = p.1.disp) ∧
             (p.2 = false → (r.debugs.getD part {}).pcnt.getD 11 0 = if partOwner s part = (getGrid s t.grid).elim 0 fun g => g.owner
               then (d.pcnt.getD 11 0 + 1) % 2 ^ 64 else d.pcnt.getD 11 0))))

/-- R427, R428: a layer's controller steps once a microsecond: error against its budget, clamped integral, ration level, and beyond level 12 or 0 a clock request of 30 MHz down or up, within 360 to 720 MHz (what the firmware gives: notes/assumptions/74.md). At the end of a control period a regulator moves
to the lowest point that its layers request, or to the one about which function 7 was asked; under a refusal its layers ask for the point it has (notes/assumptions/75.md). R429, R43: the longest resident team that has not moved for 10 ms leaves the hottest
layer above 95 °C for the coolest that is 5 °C cooler and can admit it, one with cores free of its convoy hint if there is one, once a millisecond (notes/assumptions/77.md); it is stopped
first (notes/assumptions/53.md), and, when it is quiet and its stores are home, saved and at once restored on that layer, if it still has room there. -/
def Obligations.PowerAndThermalControl : Prop :=
  (∀ (s : State) (l : Nat) (watts temp : Int),
    let us := Config.podTime s.clock / 1000
    let budget : Int := ((s.regs.lbudget.getD l 0).toNat % 2 ^ 12 : Nat)
    let e := budget - watts
    let i := max (-Config.powerGains.2.2) (min Config.powerGains.2.2 (s.power.integ.getD l 0 + e))
    let u := Config.powerGains.1 * e + Config.powerGains.2.1 * i
    let r0 := s.power.ration.getD l 0
    let w0 := s.power.want.getD l 600
    l < 16 → s.power.integ.length = 16 → s.power.ration.length = 16 → s.power.want.length = 16 → s.power.temps.length = 16 → s.power.period.length = 16 →
    (s.regs.state = 3 → us ≠ s.power.period.getD l 0 → exec (.powerControl l watts temp) s = .next { s with power := { s.power with
      integ := s.power.integ.set l i
      ration := s.power.ration.set l (if u < 0 ∧ r0 < 12 then r0 + 1 else if 0 < u ∧ 0 < r0 then r0 - 1 else r0)
      want := s.power.want.set l (if u < 0 ∧ 12 ≤ r0 then max 360 (w0 - 30) else if 0 < u ∧ r0 = 0 then min 720 (w0 + 30) else w0)
      temps := s.power.temps.set l temp, period := s.power.period.set l us } }) ∧
    (s.regs.state ≠ 3 ∨ us = s.power.period.getD l 0 → exec (.powerControl l watts temp) s = .fault .notEnabled)) ∧
  (∀ (s : State) (n low : Nat),
    let on : Nat → Prop := fun l => l < 16 ∧ bitsOf s.regs.regActive.toNat (2 * l + 1) (2 * l) = n
    let now := s.power.mhz.getD n 600
    let ended : Prop := ∀ a b, on a → on b → s.power.period.getD a 0 = s.power.period.getD b 0
    let asked : Nat → OpenQ → Prop := fun p y => y ∈ s.disp.openQs ∧ y.what = .opPoint n p
    let moves : Nat → Prop := fun p => ∃ r : State, exec (.operatingPointChange n) s = .next r ∧ r.power = { s.power with mhz := s.power.mhz.set n p } ∧ r.threads = s.threads ∧ r.mem = s.mem
    n < 4 → s.power.mhz.length = 4 → s.power.want.length = 16 → (∃ l, on l ∧ s.power.want.getD l 600 = low) → (∀ l, on l → low ≤ s.power.want.getD l 600) →
    (¬ ended → exec (.operatingPointChange n) s = .fault .notEnabled) ∧
    ((∀ p y, ¬ asked p y) → low = now → exec (.operatingPointChange n) s = .fault .notEnabled) ∧
    (ended → (∀ p y, ¬ asked p y) → low ≠ now → eventQueue s (fnMode s 7).evq = none → moves low) ∧
    (∀ p y, ended → asked p y → (∀ q z, asked q z → z = y) → (y.answer = some 1 → moves p) ∧ (y.answer = none → exec (.operatingPointChange n) s = .fault .notEnabled) ∧
     (y.answer = some 0 → ∃ r : State, exec (.operatingPointChange n) s = .next r ∧ r.power.mhz = s.power.mhz ∧ r.threads = s.threads ∧
      ∀ l, l < 16 → r.power.want.getD l 600 = if bitsOf s.regs.regActive.toNat (2 * l + 1) (2 * l) = n then now else s.power.want.getD l 600))) ∧
  (∀ (s : State) (part k : Nat) (cores : List Nat) (m : Team) (g : Grid) (src dst : Nat),
    let t : Nat → Int := fun l => s.power.temps.getD l 0
    let mine : Nat → Prop := fun l => l < 16 ∧ bitOf (s.regs.parts.getD part 0).toNat l = true
    let may : Team → Prop := fun x => x ∈ s.disp.teams ∧ x.layer = src ∧ x.saving = none ∧ (∃ y, getGrid s x.grid = some y ∧ y.part = part) ∧
      ∀ c, x.movedAt = some c → c + 6000000 ≤ s.clock
    let takes : Nat → Prop := fun l => layerOk s part l = true ∧ t l + 5 ≤ t src ∧ reservedFrom s l g m.idx = false ∧
      (restoreCores s g { team := m, threads := teamThreads s m, tiles := [], slots := [] } l []).isSome = true
    let free : Nat → Prop := fun l => (restoreCores s g { team := m, threads := teamThreads s m, tiles := [], slots := [] } l (hintCores s g.cvhint)).isSome = true
    let best : Nat → Prop := fun l => takes l ∧ (free l ∨ ∀ d, takes d → ¬ free d)
    let asked := s.disp.openQs.find? fun y => y.what == .thermal k dst
    getTeam s k = some m → getGrid s m.grid = some g →
    (m.saving = none → mine src → 95 < t src → (∀ l, mine l → 95 < t l → t l < t src ∨ (t l = t src ∧ src ≤ l)) →
      may m → (∀ x, may x → m = x ∨ m.resident < x.resident) → (∃ l, mine l ∧ t l ≤ 95) → best dst → (∀ l, best l → t dst < t l ∨ (t dst = t l ∧ dst ≤ l)) →
      (∀ c, s.power.lastMove.getD part none = some c → c + 600000 ≤ s.clock) → (∀ c ∈ cores, c / 12 = dst) → part < 16 → s.power.lastMove.length = 16 →
      (asked = none ∧ eventQueue s (fnMode s 6).evq = none) ∨ (∃ y, asked = some y ∧ y.answer = some 1) →
      ∃ (r : State) (m' : Team), exec (.thermalMove part k cores) s = .next r ∧ getTeam r k = some m' ∧ m'.saving = some (some dst) ∧
        r.power.lastMove = s.power.lastMove.set part (some s.clock) ∧ r.threads = s.threads ∧ r.mem = s.mem) ∧
    (∀ l, m.saving = some (some l) → teamQuiet s m = true → (s.disp.teams.map (·.key)).Nodup → (∀ x ∈ g.saved, x.team.key ≠ k) →
      let home : Prop := ∀ q ∈ s.mem.ops, ∀ c ∈ q.contrib, ∀ u ∈ s.threads, u.team = k → u.key ≠ c.1
      (¬ home → exec (.thermalMove part k cores) s = .fault .notEnabled) ∧
      (home → ∃ (g1 : Grid) (b : SaveBlock), getGrid (saveTeam s m) m.grid = some g1 ∧ b ∈ g1.saved ∧ b.move = some l ∧ b.team.key = k ∧ b.team.idx = m.idx ∧
        (restoreFit (saveTeam s m) g1 b l = none → exec (.thermalMove part k cores) s = .next (saveTeam s m)) ∧
        ∀ cs, restoreFit (saveTeam s m) g1 b l = some cs → ∃ (r : State) (m' : Team), exec (.thermalMove part k cores) s = .next r ∧ getTeam r k = some m' ∧
          m'.layer = l ∧ m'.cores = cs ∧ m'.movedAt = some s.clock ∧ m'.saving = none ∧ m'.scratch = m.scratch ∧ (∀ x ∈ (getGrid r m.grid).elim [] fun y => y.saved, x.team.key ≠ k) ∧
          (∀ u ∈ s.threads, u.team = k → ∃ v ∈ r.threads, v.key = u.key ∧ v.pc = u.pc ∧ v.v = u.v ∧ v.p = u.p ∧ v.b = u.b ∧ TrapKept u v) ∧ r.mem.hbm = s.mem.hbm)))

/-- R279, as an invariant of every step: a step from a state whose sixteen partition words are as R279 admits them, no layer in two enabled partitions, no enabled partition of
owner 0, ends in such a state. -/
def Obligations.PartitionsStayDisjoint : Prop :=
  ∀ s s' : State, partsOk s.regs.parts → step s = .next s' → partsOk s'.regs.parts

/-- Every memory keeps its canonical form over every step: the bytes at home, of the table region, of the host and of other packages, and of every team core's
scratchpad, resident or saved, are listed by rising address with no zero byte, so that equal memories are equal data. The form is the model's choice (log entry 9). -/
def Obligations.MemoryStaysCanonical : Prop :=
  ∀ s s' : State,
    let canonical : State → Prop := fun r => Memory.wf r.mem.hbm = true ∧ Memory.wf r.mem.tbl = true ∧ Memory.wf r.mem.hostMem = true ∧
      (∀ p ∈ r.mem.pods, Memory.wf p.2 = true) ∧ (∀ m ∈ r.disp.teams, ∀ x ∈ m.scratch, Memory.wf x = true) ∧
      ∀ g ∈ r.disp.grids, ∀ b ∈ g.saved, ∀ x ∈ b.team.scratch, Memory.wf x = true
    canonical s → step s = .next s' → canonical s'

/-- R422, R278 to R284, R420: after module reset STATE is RESET and ERR 0, the partitions are disabled, REGSEL is 0xFFAA5500 and every LBUDGET 0x226, DEVERR and KSTAT are 0, ATTBUSY is clear, no thread, team, grid or
queue exists, and both invariants hold. -/
def Obligations.ResetLeavesTheRegistersAtTheirValues : Prop :=
  let r := State.reset
  r.regs.state = 0 ∧ r.regs.err = 0 ∧ r.regs.parts = List.replicate 16 0 ∧ r.regs.regsel = 0xFFAA5500 ∧ r.regs.lbudget = List.replicate 16 0x226 ∧ r.regs.deverr = 0 ∧
    r.regs.kstat = List.replicate 16 0 ∧ r.regs.bootlo = 0 ∧ r.regs.boothi = 0 ∧ r.regs.attlo = 0 ∧ r.regs.atthi = 0 ∧ r.regs.attbusy = false ∧
    r.threads = [] ∧ r.disp.teams = [] ∧ r.disp.grids = [] ∧ r.disp.queues = [] ∧ r.disp.replays = [] ∧ partsOk r.regs.parts ∧
    Memory.wf r.mem.hbm = true ∧ Memory.wf r.mem.tbl = true ∧ Memory.wf r.mem.hostMem = true ∧ r.mem.pods = []
end

