-- ==== Sys2Proof/Laws/Caches.lean ====
section
/-! SUPPORT. What an install in an L1 does, said once: the line is there, and no set holds more lines than it has ways (R288). -/

namespace Sys2Proof.Machine

/-- The lines of a set. -/
def waysOf (ls : List L1Line) (k : Nat) : List L1Line := ls.filter fun x => l1Set x.line == k

theorem mem_installLine (ls : List L1Line) (l : L1Line) : l ∈ installLine ls l := List.mem_cons_self

theorem waysOf_dropIf_le (p : L1Line → Bool) (ls : List L1Line) (k : Nat) : (waysOf (dropIf p ls) k).length ≤ (waysOf ls k).length :=
  ((List.filter_sublist (l := ls)).filter _).length_le

/-- A full set makes room for the line that enters, and no other set gains one. -/
theorem waysOf_installLine_le {ls : List L1Line} (h : ∀ k, (waysOf ls k).length ≤ l1Ways) (l : L1Line) (k : Nat) :
    (waysOf (installLine ls l) k).length ≤ l1Ways := by
  have hr (k : Nat) := le_trans (waysOf_dropIf_le (fun x => x.line == l.line) ls k) (h k)
  unfold installLine
  simp only
  generalize hrest : dropIf (fun x => x.line == l.line) ls = rest at hr
  rw [show (rest.filter fun x => l1Set x.line == l1Set l.line) = waysOf rest (l1Set l.line) from rfl]
  by_cases hk : l1Set l.line = k
  · subst hk
    rw [waysOf, List.filter_cons_of_pos (by simp), List.length_cons]
    split
    · next hf =>
      obtain ⟨x, hx⟩ : ∃ x, (waysOf rest (l1Set l.line)).getLast? = some x := by
        cases hw : waysOf rest (l1Set l.line) with
        | nil => rw [hw] at hf; simp [l1Ways] at hf
        | cons a as => exact ⟨_, List.getLast?_cons⟩
      have hm : x ∈ waysOf rest (l1Set l.line) := List.mem_of_getLast? hx
      have hlt : (waysOf (dropIf (fun y => some y.line == (some x.line)) rest) (l1Set l.line)).length < (waysOf rest (l1Set l.line)).length := by
        rw [waysOf, dropIf, List.filter_comm]
        exact List.length_filter_lt_length_iff_exists.2 ⟨x, hm, by simp⟩
      have := hr (l1Set l.line)
      simp only [hx, Option.map_some]
      exact Nat.succ_le_of_lt (lt_of_lt_of_le hlt this)
    · next hf => exact Nat.succ_le_of_lt (Nat.lt_of_not_le hf)
  · rw [waysOf, List.filter_cons_of_neg (by simpa using hk)]
    split
    · exact le_trans (waysOf_dropIf_le _ _ _) (hr k)
    · exact hr k

end Sys2Proof.Machine
end

