-- ==== Sys2Proof/Laws/Cells.lean ====
section
/-! SUPPORT. Memories in canonical form: every write keeps the form, and a read after a write gives what was written. -/

namespace Sys2Proof.Machine

/-- The canonical form as a property of the list. -/
theorem cellsWf_cons {n : Nat} (a : Nat) (x : BitVec n) (l : List (Nat × BitVec n)) :
    cellsWf ((a, x) :: l) = true ↔ x ≠ 0 ∧ (∀ c ∈ l, a < c.1) ∧ cellsWf l = true := by
  induction l generalizing a x with
  | nil => simp [cellsWf]
  | cons c l ih =>
    obtain ⟨b, y⟩ := c
    have h := ih b y
    simp only [cellsWf, Bool.and_eq_true, bne_iff_ne, decide_eq_true_eq, List.mem_cons, forall_eq_or_imp]
    constructor
    · rintro ⟨⟨hx, hab⟩, hw⟩
      exact ⟨hx, ⟨hab, fun c hc => Nat.lt_trans hab ((h.1 hw).2.1 c hc)⟩, hw⟩
    · rintro ⟨hx, ⟨hab, -⟩, hw⟩
      exact ⟨⟨hx, hab⟩, hw⟩

theorem mem_cellSet {n : Nat} (m : List (Nat × BitVec n)) (a : Nat) (v : BitVec n) (c : Nat × BitVec n) (h : c ∈ cellSet m a v) :
    c = (a, v) ∨ c ∈ m := by
  induction m with
  | nil =>
    simp only [cellSet] at h
    split at h <;> simp_all
  | cons d m ih =>
    obtain ⟨b, y⟩ := d
    simp only [cellSet] at h
    split at h
    · split at h
      · exact .inr h
      · exact (List.mem_cons.1 h).imp id id
    · split at h
      · split at h
        · exact .inr (List.mem_cons_of_mem _ h)
        · exact (List.mem_cons.1 h).imp id (List.mem_cons_of_mem _)
      · rcases List.mem_cons.1 h with h | h
        · exact .inr (h ▸ List.mem_cons_self)
        · exact (ih h).imp id (List.mem_cons_of_mem _)

/-- A write keeps the canonical form. -/
theorem cellSet_wf {n : Nat} (m : List (Nat × BitVec n)) (a : Nat) (v : BitVec n) (h : cellsWf m = true) : cellsWf (cellSet m a v) = true := by
  induction m with
  | nil =>
    simp only [cellSet]
    split
    · rfl
    · next hv => simpa [cellsWf] using hv
  | cons c m ih =>
    obtain ⟨b, x⟩ := c
    obtain ⟨hx, hlt, hm⟩ := (cellsWf_cons b x m).1 h
    simp only [cellSet]
    split
    · next hab =>
      split
      · exact h
      · next hv =>
        refine (cellsWf_cons a v _).2 ⟨by simpa using hv, ?_, h⟩
        intro c hc
        rcases List.mem_cons.1 hc with rfl | hc
        · exact hab
        · exact Nat.lt_trans hab (hlt c hc)
    · next hab =>
      split
      · next he =>
        have he' : a = b := by simpa using he
        split
        · exact hm
        · next hv => exact (cellsWf_cons a v m).2 ⟨by simpa using hv, fun c hc => he' ▸ hlt c hc, hm⟩
      · next hne =>
        have hne' : a ≠ b := by simpa using hne
        refine (cellsWf_cons b x _).2 ⟨hx, ?_, ih hm⟩
        intro c hc
        rcases mem_cellSet m a v c hc with rfl | hc
        · show b < a
          omega
        · exact hlt c hc

theorem cellGet_of_lt {n : Nat} (m : List (Nat × BitVec n)) (a : Nat) (h : ∀ c ∈ m, a < c.1) : cellGet m a = 0 := by
  induction m with
  | nil => rfl
  | cons c m ih =>
    obtain ⟨b, x⟩ := c
    have hb : a < b := h (b, x) List.mem_cons_self
    have hne : (b == a) = false := by simp; omega
    simp only [cellGet, hne, Bool.false_eq_true, if_false]
    exact ih fun c hc => h c (List.mem_cons_of_mem _ hc)

/-- What a cell reads after a write. -/
theorem cellGet_cellSet {n : Nat} (m : List (Nat × BitVec n)) (a b : Nat) (v : BitVec n) (h : cellsWf m = true) :
    cellGet (cellSet m a v) b = if b = a then v else cellGet m b := by
  induction m with
  | nil =>
    simp only [cellSet]
    split
    · next hv =>
      have hv' : v = 0 := by simpa using hv
      subst hv'
      exact (ite_self _).symm
    · by_cases hb : b = a
      · subst hb; simp [cellGet]
      · simp [cellGet, hb, Ne.symm hb]
  | cons c m ih =>
    obtain ⟨d, x⟩ := c
    obtain ⟨-, hlt, hm⟩ := (cellsWf_cons d x m).1 h
    have ihm := ih hm
    simp only [cellSet]
    split
    · next had =>
      split
      · next hv =>
        have hv' : v = 0 := by simpa using hv
        by_cases hb : b = a
        · subst hb
          rw [if_pos rfl, hv']
          apply cellGet_of_lt
          intro c hc
          rcases List.mem_cons.1 hc with rfl | hc
          · exact had
          · exact Nat.lt_trans had (hlt c hc)
        · rw [if_neg hb]
      · by_cases hb : b = a
        · subst hb; simp [cellGet]
        · simp [cellGet, hb, Ne.symm hb]
    · next had =>
      split
      · next he =>
        have he' : a = d := by simpa using he
        subst he'
        split
        · next hv =>
          have hv' : v = 0 := by simpa using hv
          by_cases hb : b = a
          · subst hb
            rw [if_pos rfl, hv']
            exact cellGet_of_lt m b hlt
          · simp [cellGet, hb, Ne.symm hb]
        · by_cases hb : b = a
          · subst hb; simp [cellGet]
          · simp [cellGet, hb, Ne.symm hb]
      · next hne =>
        have hne' : a ≠ d := by simpa using hne
        by_cases hd : d = b
        · subst hd
          simp [cellGet, Ne.symm hne']
        · simp only [cellGet, beq_iff_eq, hd, if_false]
          exact ihm

/-- Bytes written from an address on keep the canonical form. -/
theorem memWrite_wf (m : Memory) (a : Nat) (bs : List Byte) (h : m.wf = true) : (memWrite m a bs).wf = true := by
  induction bs generalizing m a with
  | nil => exact h
  | cons x bs ih => exact ih _ _ (cellSet_wf m a x h)

/-- Bytes written at their own addresses keep the canonical form. -/
theorem memPut_wf (m : Memory) (bs : List (Nat × Byte)) (h : m.wf = true) : (memPut m bs).wf = true := by
  induction bs generalizing m with
  | nil => exact h
  | cons c bs ih => exact ih _ (cellSet_wf m c.1 c.2 h)

/-- A part of a memory is in canonical form. -/
theorem filter_wf {n : Nat} (m : List (Nat × BitVec n)) (p : Nat × BitVec n → Bool) (h : cellsWf m = true) : cellsWf (m.filter p) = true := by
  induction m with
  | nil => rfl
  | cons c m ih =>
    obtain ⟨hx, hlt, hm⟩ := (cellsWf_cons c.1 c.2 m).1 h
    simp only [List.filter_cons]
    split
    · exact (cellsWf_cons c.1 c.2 _).2 ⟨hx, fun d hd => hlt d (List.mem_filter.1 hd).1, ih hm⟩
    · exact ih hm

/-- A byte read after a run of bytes is written. -/
theorem cellGet_memWrite (m : Memory) (a : Nat) (bs : List Byte) (b : Nat) (h : m.wf = true) :
    cellGet (memWrite m a bs) b = if a ≤ b ∧ b < a + bs.length then bs.getD (b - a) 0 else cellGet m b := by
  induction bs generalizing m a with
  | nil =>
    rw [if_neg (by simp only [List.length_nil]; omega)]
    rfl
  | cons x bs ih =>
    simp only [memWrite]
    rw [ih _ _ (cellSet_wf m a x h), cellGet_cellSet m a b x h]
    by_cases h1 : a + 1 ≤ b ∧ b < a + 1 + bs.length
    · have h2 : a ≤ b ∧ b < a + (x :: bs).length := by simp only [List.length_cons]; omega
      have h3 : b - a = (b - (a + 1)) + 1 := by omega
      rw [if_pos h1, if_pos h2, h3, List.getD_cons_succ]
    · rw [if_neg h1]
      by_cases h4 : b = a
      · subst h4
        simp
      · have h5 : ¬ (a ≤ b ∧ b < a + (x :: bs).length) := by simp only [List.length_cons]; omega
        rw [if_neg h4, if_neg h5]

/-- Memories in canonical form that read alike are equal. -/
theorem cells_ext {n : Nat} (m k : List (Nat × BitVec n)) (hm : cellsWf m = true) (hk : cellsWf k = true)
    (h : ∀ a, cellGet m a = cellGet k a) : m = k := by
  induction m generalizing k with
  | nil =>
    cases k with
    | nil => rfl
    | cons c k =>
      obtain ⟨hx, -, -⟩ := (cellsWf_cons c.1 c.2 k).1 hk
      exact absurd (h c.1) (by simpa [cellGet] using Ne.symm hx)
  | cons c m ih =>
    obtain ⟨a, x⟩ := c
    obtain ⟨hx, hlt, hm'⟩ := (cellsWf_cons a x m).1 hm
    cases k with
    | nil => exact absurd (h a) (by simpa [cellGet] using hx)
    | cons d k =>
      obtain ⟨b, y⟩ := d
      obtain ⟨hy, hlk, hk'⟩ := (cellsWf_cons b y k).1 hk
      have hab : a = b := by
        rcases Nat.lt_trichotomy a b with hl | he | hg
        · have := h a
          rw [cellGet_of_lt ((b, y) :: k) a (by
            intro c hc
            rcases List.mem_cons.1 hc with rfl | hc
            · exact hl
            · exact Nat.lt_trans hl (hlk c hc))] at this
          exact absurd this (by simpa [cellGet] using hx)
        · exact he
        · have := h b
          rw [cellGet_of_lt ((a, x) :: m) b (by
            intro c hc
            rcases List.mem_cons.1 hc with rfl | hc
            · exact hg
            · exact Nat.lt_trans hg (hlt c hc))] at this
          exact absurd this.symm (by simpa [cellGet] using hy)
      subst hab
      have hxy : x = y := by simpa [cellGet] using h a
      subst hxy
      congr 1
      refine ih k hm' hk' fun e => ?_
      by_cases he : a = e
      · subst he
        rw [cellGet_of_lt m a hlt, cellGet_of_lt k a hlk]
      · simpa [cellGet, he] using h e

/-- Every memory of the machine after reset is in canonical form: nothing is listed. -/
theorem reset_memories_wf :
    State.reset.mem.hbm.wf = true ∧ State.reset.mem.tbl.wf = true ∧ State.reset.mem.hostMem.wf = true ∧ State.reset.mem.pods = [] := by
  decide

end Sys2Proof.Machine
end

