-- ==== Sys2Proof/Laws/Exec.lean ====
section
/-! SUPPORT. The arms of exec, one equation each. -/

namespace Sys2Proof.Machine

@[simp] theorem exec_add (g u d a b s) : exec (.add g u d a b) s = execAdd g u d a b s := rfl
@[simp] theorem exec_sub (g u d a b s) : exec (.sub g u d a b) s = execSub g u d a b s := rfl
@[simp] theorem exec_mul (g u d a b s) : exec (.mul g u d a b) s = execMul g u d a b s := rfl
@[simp] theorem exec_mulhI32 (g u d a b s) : exec (.mulhI32 g u d a b) s = execMulhI32 g u d a b s := rfl
@[simp] theorem exec_mulhN32 (g u d a b s) : exec (.mulhN32 g u d a b) s = execMulhN32 g u d a b s := rfl
@[simp] theorem exec_mad (g u d a b s) : exec (.mad g u d a b) s = execMad g u d a b s := rfl
@[simp] theorem exec_madwI32 (g u d a b s) : exec (.madwI32 g u d a b) s = execMadwI32 g u d a b s := rfl
@[simp] theorem exec_madwN32 (g u d a b s) : exec (.madwN32 g u d a b) s = execMadwN32 g u d a b s := rfl
@[simp] theorem exec_add64 (g u d a b s) : exec (.add64 g u d a b) s = execAdd64 g u d a b s := rfl
@[simp] theorem exec_sub64 (g u d a b s) : exec (.sub64 g u d a b) s = execSub64 g u d a b s := rfl
@[simp] theorem exec_addsI32 (g u d a b s) : exec (.addsI32 g u d a b) s = execAddsI32 g u d a b s := rfl
@[simp] theorem exec_subsI32 (g u d a b s) : exec (.subsI32 g u d a b) s = execSubsI32 g u d a b s := rfl
@[simp] theorem exec_minI32 (g u d a b s) : exec (.minI32 g u d a b) s = execMinI32 g u d a b s := rfl
@[simp] theorem exec_maxI32 (g u d a b s) : exec (.maxI32 g u d a b) s = execMaxI32 g u d a b s := rfl
@[simp] theorem exec_minN32 (g u d a b s) : exec (.minN32 g u d a b) s = execMinN32 g u d a b s := rfl
@[simp] theorem exec_maxN32 (g u d a b s) : exec (.maxN32 g u d a b) s = execMaxN32 g u d a b s := rfl
@[simp] theorem exec_and (g u d a b s) : exec (.and g u d a b) s = execAnd g u d a b s := rfl
@[simp] theorem exec_or (g u d a b s) : exec (.or g u d a b) s = execOr g u d a b s := rfl
@[simp] theorem exec_xor (g u d a b s) : exec (.xor g u d a b) s = execXor g u d a b s := rfl
@[simp] theorem exec_andn (g u d a b s) : exec (.andn g u d a b) s = execAndn g u d a b s := rfl
@[simp] theorem exec_shl (g u d a b s) : exec (.shl g u d a b) s = execShl g u d a b s := rfl
@[simp] theorem exec_shr (g u d a b s) : exec (.shr g u d a b) s = execShr g u d a b s := rfl
@[simp] theorem exec_sar (g u d a b s) : exec (.sar g u d a b) s = execSar g u d a b s := rfl
@[simp] theorem exec_popc (g u d a s) : exec (.popc g u d a) s = execPopc g u d a s := rfl
@[simp] theorem exec_clz (g u d a s) : exec (.clz g u d a) s = execClz g u d a s := rfl
@[simp] theorem exec_brev (g u d a s) : exec (.brev g u d a) s = execBrev g u d a s := rfl
@[simp] theorem exec_bfeN32 (g u d a b s) : exec (.bfeN32 g u d a b) s = execBfeN32 g u d a b s := rfl
@[simp] theorem exec_bfeI32 (g u d a b s) : exec (.bfeI32 g u d a b) s = execBfeI32 g u d a b s := rfl
@[simp] theorem exec_bfi (g u d a b s) : exec (.bfi g u d a b) s = execBfi g u d a b s := rfl
@[simp] theorem exec_permb (g u d a b s) : exec (.permb g u d a b) s = execPermb g u d a b s := rfl
@[simp] theorem exec_dot4I8 (g u d a b s) : exec (.dot4I8 g u d a b) s = execDot4I8 g u d a b s := rfl
@[simp] theorem exec_dot4N8 (g u d a b s) : exec (.dot4N8 g u d a b) s = execDot4N8 g u d a b s := rfl
@[simp] theorem exec_setpEq (g u d a b s) : exec (.setpEq g u d a b) s = execSetpEq g u d a b s := rfl
@[simp] theorem exec_setpNe (g u d a b s) : exec (.setpNe g u d a b) s = execSetpNe g u d a b s := rfl
@[simp] theorem exec_setpLtI32 (g u d a b s) : exec (.setpLtI32 g u d a b) s = execSetpLtI32 g u d a b s := rfl
@[simp] theorem exec_setpLeI32 (g u d a b s) : exec (.setpLeI32 g u d a b) s = execSetpLeI32 g u d a b s := rfl
@[simp] theorem exec_setpLtN32 (g u d a b s) : exec (.setpLtN32 g u d a b) s = execSetpLtN32 g u d a b s := rfl
@[simp] theorem exec_setpLeN32 (g u d a b s) : exec (.setpLeN32 g u d a b) s = execSetpLeN32 g u d a b s := rfl
@[simp] theorem exec_setpEqF32 (g u d a b s) : exec (.setpEqF32 g u d a b) s = execSetpEqF32 g u d a b s := rfl
@[simp] theorem exec_setpNeF32 (g u d a b s) : exec (.setpNeF32 g u d a b) s = execSetpNeF32 g u d a b s := rfl
@[simp] theorem exec_setpLtF32 (g u d a b s) : exec (.setpLtF32 g u d a b) s = execSetpLtF32 g u d a b s := rfl
@[simp] theorem exec_setpLeF32 (g u d a b s) : exec (.setpLeF32 g u d a b) s = execSetpLeF32 g u d a b s := rfl
@[simp] theorem exec_setpUnF32 (g u d a b s) : exec (.setpUnF32 g u d a b) s = execSetpUnF32 g u d a b s := rfl
@[simp] theorem exec_sel (g u d a b s) : exec (.sel g u d a b) s = execSel g u d a b s := rfl
@[simp] theorem exec_pand (g u d a b s) : exec (.pand g u d a b) s = execPand g u d a b s := rfl
@[simp] theorem exec_por (g u d a b s) : exec (.por g u d a b) s = execPor g u d a b s := rfl
@[simp] theorem exec_pxor (g u d a b s) : exec (.pxor g u d a b) s = execPxor g u d a b s := rfl
@[simp] theorem exec_pandn (g u d a b s) : exec (.pandn g u d a b) s = execPandn g u d a b s := rfl
@[simp] theorem exec_ppack (g u d a s) : exec (.ppack g u d a) s = execPpack g u d a s := rfl
@[simp] theorem exec_punpack (g u d a s) : exec (.punpack g u d a) s = execPunpack g u d a s := rfl
@[simp] theorem exec_mov (g u d a s) : exec (.mov g u d a) s = execMov g u d a s := rfl
@[simp] theorem exec_movi (g u d imm s) : exec (.movi g u d imm) s = execMovi g u d imm s := rfl
@[simp] theorem exec_moviLiteral (g u d w s) : exec (.moviLiteral g u d w) s = execMoviLiteral g u d w s := rfl
@[simp] theorem exec_fadd (g u d a b s) : exec (.fadd g u d a b) s = execFadd g u d a b s := rfl
@[simp] theorem exec_fsub (g u d a b s) : exec (.fsub g u d a b) s = execFsub g u d a b s := rfl
@[simp] theorem exec_fmul (g u d a b s) : exec (.fmul g u d a b) s = execFmul g u d a b s := rfl
@[simp] theorem exec_ffma (g u d a b s) : exec (.ffma g u d a b) s = execFfma g u d a b s := rfl
@[simp] theorem exec_fmin (g u d a b s) : exec (.fmin g u d a b) s = execFmin g u d a b s := rfl
@[simp] theorem exec_fmax (g u d a b s) : exec (.fmax g u d a b) s = execFmax g u d a b s := rfl
@[simp] theorem exec_hfma2 (g u d a b s) : exec (.hfma2 g u d a b) s = execHfma2 g u d a b s := rfl
@[simp] theorem exec_hadd2 (g u d a b s) : exec (.hadd2 g u d a b) s = execHadd2 g u d a b s := rfl
@[simp] theorem exec_hmul2 (g u d a b s) : exec (.hmul2 g u d a b) s = execHmul2 g u d a b s := rfl
@[simp] theorem exec_bfma2 (g u d a b s) : exec (.bfma2 g u d a b) s = execBfma2 g u d a b s := rfl
@[simp] theorem exec_movs (g u d sr s) : exec (.movs g u d sr) s = execMovs g u d sr s := rfl
@[simp] theorem exec_movsw (g u d sr s) : exec (.movsw g u d sr) s = execMovsw g u d sr s := rfl
@[simp] theorem exec_cvtF32I32 (g u d a la s) : exec (.cvtF32I32 g u d a la) s = execCvtF32I32 g u d a la s := rfl
@[simp] theorem exec_cvtF32N32 (g u d a la s) : exec (.cvtF32N32 g u d a la) s = execCvtF32N32 g u d a la s := rfl
@[simp] theorem exec_cvtI32F32 (g u d a la s) : exec (.cvtI32F32 g u d a la) s = execCvtI32F32 g u d a la s := rfl
@[simp] theorem exec_cvtN32F32 (g u d a la s) : exec (.cvtN32F32 g u d a la) s = execCvtN32F32 g u d a la s := rfl
@[simp] theorem exec_cvtF16F32 (g u d a la s) : exec (.cvtF16F32 g u d a la) s = execCvtF16F32 g u d a la s := rfl
@[simp] theorem exec_cvtBf16F32 (g u d a la s) : exec (.cvtBf16F32 g u d a la) s = execCvtBf16F32 g u d a la s := rfl
@[simp] theorem exec_cvtE4m3F32 (g u d a la s) : exec (.cvtE4m3F32 g u d a la) s = execCvtE4m3F32 g u d a la s := rfl
@[simp] theorem exec_cvtE5m2F32 (g u d a la s) : exec (.cvtE5m2F32 g u d a la) s = execCvtE5m2F32 g u d a la s := rfl
@[simp] theorem exec_cvtF32F16 (g u d a la sel s) : exec (.cvtF32F16 g u d a la sel) s = execCvtF32F16 g u d a la sel s := rfl
@[simp] theorem exec_cvtF32Bf16 (g u d a la sel s) : exec (.cvtF32Bf16 g u d a la sel) s = execCvtF32Bf16 g u d a la sel s := rfl
@[simp] theorem exec_cvtF32E4m3 (g u d a la sel s) : exec (.cvtF32E4m3 g u d a la sel) s = execCvtF32E4m3 g u d a la sel s := rfl
@[simp] theorem exec_cvtF32E5m2 (g u d a la sel s) : exec (.cvtF32E5m2 g u d a la sel) s = execCvtF32E5m2 g u d a la sel s := rfl
@[simp] theorem exec_unpk8Cb4 (g u d a la sel s) : exec (.unpk8Cb4 g u d a la sel) s = execUnpk8Cb4 g u d a la sel s := rfl
@[simp] theorem exec_qntCb4 (g u d a la sel s) : exec (.qntCb4 g u d a la sel) s = execQntCb4 g u d a la sel s := rfl
@[simp] theorem exec_pk4E4m3 (g u d a la s) : exec (.pk4E4m3 g u d a la) s = execPk4E4m3 g u d a la s := rfl
@[simp] theorem exec_pk4E5m2 (g u d a la s) : exec (.pk4E5m2 g u d a la) s = execPk4E5m2 g u d a la s := rfl
@[simp] theorem exec_unpk4E4m3 (g u d a la s) : exec (.unpk4E4m3 g u d a la) s = execUnpk4E4m3 g u d a la s := rfl
@[simp] theorem exec_unpk4E5m2 (g u d a la s) : exec (.unpk4E5m2 g u d a la) s = execUnpk4E5m2 g u d a la s := rfl
@[simp] theorem exec_pk2Bf16 (g u d a la s) : exec (.pk2Bf16 g u d a la) s = execPk2Bf16 g u d a la s := rfl
@[simp] theorem exec_pk2F16 (g u d a la s) : exec (.pk2F16 g u d a la) s = execPk2F16 g u d a la s := rfl
@[simp] theorem exec_rcpF32 (g u d a la s) : exec (.rcpF32 g u d a la) s = execRcpF32 g u d a la s := rfl
@[simp] theorem exec_rsqF32 (g u d a la s) : exec (.rsqF32 g u d a la) s = execRsqF32 g u d a la s := rfl
@[simp] theorem exec_sqrtF32 (g u d a la s) : exec (.sqrtF32 g u d a la) s = execSqrtF32 g u d a la s := rfl
@[simp] theorem exec_divF32 (g u d a la s) : exec (.divF32 g u d a la) s = execDivF32 g u d a la s := rfl
@[simp] theorem exec_exp2F32 (g u d a la s) : exec (.exp2F32 g u d a la) s = execExp2F32 g u d a la s := rfl
@[simp] theorem exec_log2F32 (g u d a la s) : exec (.log2F32 g u d a la) s = execLog2F32 g u d a la s := rfl
@[simp] theorem exec_sintF32 (g u d a la s) : exec (.sintF32 g u d a la) s = execSintF32 g u d a la s := rfl
@[simp] theorem exec_costF32 (g u d a la s) : exec (.costF32 g u d a la) s = execCostF32 g u d a la s := rfl
@[simp] theorem exec_tanhF32 (g u d a la s) : exec (.tanhF32 g u d a la) s = execTanhF32 g u d a la s := rfl
@[simp] theorem exec_sigmF32 (g u d a la s) : exec (.sigmF32 g u d a la) s = execSigmF32 g u d a la s := rfl
@[simp] theorem exec_floorF32 (g u d a la s) : exec (.floorF32 g u d a la) s = execFloorF32 g u d a la s := rfl
@[simp] theorem exec_ceilF32 (g u d a la s) : exec (.ceilF32 g u d a la) s = execCeilF32 g u d a la s := rfl
@[simp] theorem exec_truncF32 (g u d a la s) : exec (.truncF32 g u d a la) s = execTruncF32 g u d a la s := rfl
@[simp] theorem exec_rintF32 (g u d a la s) : exec (.rintF32 g u d a la) s = execRintF32 g u d a la s := rfl
@[simp] theorem exec_classF32 (g u d a la s) : exec (.classF32 g u d a la) s = execClassF32 g u d a la s := rfl
@[simp] theorem exec_wadd (g u d a la s) : exec (.wadd g u d a la) s = execWadd g u d a la s := rfl
@[simp] theorem exec_wrnd (g u d a la s) : exec (.wrnd g u d a la) s = execWrnd g u d a la s := rfl
@[simp] theorem exec_wclr (g u d la s) : exec (.wclr g u d la) s = execWclr g u d la s := rfl
@[simp] theorem exec_cvtF32I8 (g u d a la sel s) : exec (.cvtF32I8 g u d a la sel) s = execCvtF32I8 g u d a la sel s := rfl
@[simp] theorem exec_cvtI8F32 (g u d a la s) : exec (.cvtI8F32 g u d a la) s = execCvtI8F32 g u d a la s := rfl
@[simp] theorem exec_ldN8 (g u d a la bs off s) : exec (.ldN8 g u d a la bs off) s = execLdN8 g u d a la bs off s := rfl
@[simp] theorem exec_ldI8 (g u d a la bs off s) : exec (.ldI8 g u d a la bs off) s = execLdI8 g u d a la bs off s := rfl
@[simp] theorem exec_ldN16 (g u d a la bs off s) : exec (.ldN16 g u d a la bs off) s = execLdN16 g u d a la bs off s := rfl
@[simp] theorem exec_ldI16 (g u d a la bs off s) : exec (.ldI16 g u d a la bs off) s = execLdI16 g u d a la bs off s := rfl
@[simp] theorem exec_ldW (g u d a la bs off s) : exec (.ldW g u d a la bs off) s = execLdW g u d a la bs off s := rfl
@[simp] theorem exec_ldD (g u d a la bs off s) : exec (.ldD g u d a la bs off) s = execLdD g u d a la bs off s := rfl
@[simp] theorem exec_ldQ (g u d a la bs off s) : exec (.ldQ g u d a la bs off) s = execLdQ g u d a la bs off s := rfl
@[simp] theorem exec_ldO (g u d a la bs off s) : exec (.ldO g u d a la bs off) s = execLdO g u d a la bs off s := rfl
@[simp] theorem exec_stB (g d a la bs off s) : exec (.stB g d a la bs off) s = execStB g d a la bs off s := rfl
@[simp] theorem exec_stH (g d a la bs off s) : exec (.stH g d a la bs off) s = execStH g d a la bs off s := rfl
@[simp] theorem exec_stW (g d a la bs off s) : exec (.stW g d a la bs off) s = execStW g d a la bs off s := rfl
@[simp] theorem exec_stD (g d a la bs off s) : exec (.stD g d a la bs off) s = execStD g d a la bs off s := rfl
@[simp] theorem exec_stQ (g d a la bs off s) : exec (.stQ g d a la bs off) s = execStQ g d a la bs off s := rfl
@[simp] theorem exec_stO (g d a la bs off s) : exec (.stO g d a la bs off) s = execStO g d a la bs off s := rfl
@[simp] theorem exec_ldaW (g u d a la bs o s) : exec (.ldaW g u d a la bs o) s = execLdaW g u d a la bs o s := rfl
@[simp] theorem exec_ldaD (g u d a la bs o s) : exec (.ldaD g u d a la bs o) s = execLdaD g u d a la bs o s := rfl
@[simp] theorem exec_ldapW (g u d a la bs o s) : exec (.ldapW g u d a la bs o) s = execLdapW g u d a la bs o s := rfl
@[simp] theorem exec_stlW (g d a la bs o s) : exec (.stlW g d a la bs o) s = execStlW g d a la bs o s := rfl
@[simp] theorem exec_stlD (g d a la bs o s) : exec (.stlD g d a la bs o) s = execStlD g d a la bs o s := rfl
@[simp] theorem exec_ldcW (g u d a la bs off s) : exec (.ldcW g u d a la bs off) s = execLdcW g u d a la bs off s := rfl
@[simp] theorem exec_ldcD (g u d a la bs off s) : exec (.ldcD g u d a la bs off) s = execLdcD g u d a la bs off s := rfl
@[simp] theorem exec_ldvW (g u d a la bs off s) : exec (.ldvW g u d a la bs off) s = execLdvW g u d a la bs off s := rfl
@[simp] theorem exec_ldvD (g u d a la bs off s) : exec (.ldvD g u d a la bs off) s = execLdvD g u d a la bs off s := rfl
@[simp] theorem exec_ldvQ (g u d a la bs off s) : exec (.ldvQ g u d a la bs off) s = execLdvQ g u d a la bs off s := rfl
@[simp] theorem exec_ldvO (g u d a la bs off s) : exec (.ldvO g u d a la bs off) s = execLdvO g u d a la bs off s := rfl
@[simp] theorem exec_ldsW (g u d a la off s) : exec (.ldsW g u d a la off) s = execLdsW g u d a la off s := rfl
@[simp] theorem exec_ldsD (g u d a la off s) : exec (.ldsD g u d a la off) s = execLdsD g u d a la off s := rfl
@[simp] theorem exec_ldsQ (g u d a la off s) : exec (.ldsQ g u d a la off) s = execLdsQ g u d a la off s := rfl
@[simp] theorem exec_ldsO (g u d a la off s) : exec (.ldsO g u d a la off) s = execLdsO g u d a la off s := rfl
@[simp] theorem exec_stsW (g d a la off s) : exec (.stsW g d a la off) s = execStsW g d a la off s := rfl
@[simp] theorem exec_stsD (g d a la off s) : exec (.stsD g d a la off) s = execStsD g d a la off s := rfl
@[simp] theorem exec_stsQ (g d a la off s) : exec (.stsQ g d a la off) s = execStsQ g d a la off s := rfl
@[simp] theorem exec_stsO (g d a la off s) : exec (.stsO g d a la off) s = execStsO g d a la off s := rfl
@[simp] theorem exec_ldfragN (g u d a la off s) : exec (.ldfragN g u d a la off) s = execLdfragN g u d a la off s := rfl
@[simp] theorem exec_ldfragT8 (g u d a la off s) : exec (.ldfragT8 g u d a la off) s = execLdfragT8 g u d a la off s := rfl
@[simp] theorem exec_ldfragT16 (g u d a la off s) : exec (.ldfragT16 g u d a la off) s = execLdfragT16 g u d a la off s := rfl
@[simp] theorem exec_atomAdd (g d a la bs off s) : exec (.atomAdd g d a la bs off) s = execAtomAdd g d a la bs off s := rfl
@[simp] theorem exec_atomMinI32 (g d a la bs off s) : exec (.atomMinI32 g d a la bs off) s = execAtomMinI32 g d a la bs off s := rfl
@[simp] theorem exec_atomMaxI32 (g d a la bs off s) : exec (.atomMaxI32 g d a la bs off) s = execAtomMaxI32 g d a la bs off s := rfl
@[simp] theorem exec_atomMinN32 (g d a la bs off s) : exec (.atomMinN32 g d a la bs off) s = execAtomMinN32 g d a la bs off s := rfl
@[simp] theorem exec_atomMaxN32 (g d a la bs off s) : exec (.atomMaxN32 g d a la bs off) s = execAtomMaxN32 g d a la bs off s := rfl
@[simp] theorem exec_atomAnd (g d a la bs off s) : exec (.atomAnd g d a la bs off) s = execAtomAnd g d a la bs off s := rfl
@[simp] theorem exec_atomOr (g d a la bs off s) : exec (.atomOr g d a la bs off) s = execAtomOr g d a la bs off s := rfl
@[simp] theorem exec_atomXor (g d a la bs off s) : exec (.atomXor g d a la bs off) s = execAtomXor g d a la bs off s := rfl
@[simp] theorem exec_atomXchg (g d a la bs off s) : exec (.atomXchg g d a la bs off) s = execAtomXchg g d a la bs off s := rfl
@[simp] theorem exec_atomCas (g d a la bs off s) : exec (.atomCas g d a la bs off) s = execAtomCas g d a la bs off s := rfl
@[simp] theorem exec_atomIncw (g d a la bs off s) : exec (.atomIncw g d a la bs off) s = execAtomIncw g d a la bs off s := rfl
@[simp] theorem exec_atomAdd64 (g d a la bs off s) : exec (.atomAdd64 g d a la bs off) s = execAtomAdd64 g d a la bs off s := rfl
@[simp] theorem exec_atomCas64 (g d a la bs off s) : exec (.atomCas64 g d a la bs off) s = execAtomCas64 g d a la bs off s := rfl
@[simp] theorem exec_atomFadd (g d a la bs off s) : exec (.atomFadd g d a la bs off) s = execAtomFadd g d a la bs off s := rfl
@[simp] theorem exec_atomWrd (g d a la bs off s) : exec (.atomWrd g d a la bs off) s = execAtomWrd g d a la bs off s := rfl
@[simp] theorem exec_redAdd (g d a la bs off s) : exec (.redAdd g d a la bs off) s = execRedAdd g d a la bs off s := rfl
@[simp] theorem exec_redFadd (g d a la bs off s) : exec (.redFadd g d a la bs off) s = execRedFadd g d a la bs off s := rfl
@[simp] theorem exec_redWadd (g d a la bs off s) : exec (.redWadd g d a la bs off) s = execRedWadd g d a la bs off s := rfl
@[simp] theorem exec_redMaxI32 (g d a la bs off s) : exec (.redMaxI32 g d a la bs off) s = execRedMaxI32 g d a la bs off s := rfl
@[simp] theorem exec_atomsAdd (g d a la off s) : exec (.atomsAdd g d a la off) s = execAtomsAdd g d a la off s := rfl
@[simp] theorem exec_atomsCas (g d a la off s) : exec (.atomsCas g d a la off) s = execAtomsCas g d a la off s := rfl
@[simp] theorem exec_atomsMaxN32 (g d a la off s) : exec (.atomsMaxN32 g d a la off) s = execAtomsMaxN32 g d a la off s := rfl
@[simp] theorem exec_atomsXchg (g d a la off s) : exec (.atomsXchg g d a la off) s = execAtomsXchg g d a la off s := rfl
@[simp] theorem exec_setb (g a la bs s) : exec (.setb g a la bs) s = execSetb g a la bs s := rfl
@[simp] theorem exec_getb (g d la bs s) : exec (.getb g d la bs) s = execGetb g d la bs s := rfl
@[simp] theorem exec_bra (g ofs s) : exec (.bra g ofs) s = execBra g ofs s := rfl
@[simp] theorem exec_brx (g a s) : exec (.brx g a) s = execBrx g a s := rfl
@[simp] theorem exec_call (g d ofs s) : exec (.call g d ofs) s = execCall g d ofs s := rfl
@[simp] theorem exec_callx (g d a s) : exec (.callx g d a) s = execCallx g d a s := rfl
@[simp] theorem exec_ret (g a s) : exec (.ret g a) s = execRet g a s := rfl
@[simp] theorem exec_exit (g s) : exec (.exit g) s = execExit g s := rfl
@[simp] theorem exec_setm (g ofs s) : exec (.setm g ofs) s = execSetm g ofs s := rfl
@[simp] theorem exec_setmx (g a s) : exec (.setmx g a) s = execSetmx g a s := rfl
@[simp] theorem exec_clrm (g s) : exec (.clrm g) s = execClrm g s := rfl
@[simp] theorem exec_yield (g c s) : exec (.yield g c) s = execYield g c s := rfl
@[simp] theorem exec_nap (g c s) : exec (.nap g c) s = execNap g c s := rfl
@[simp] theorem exec_wake (g a s) : exec (.wake g a) s = execWake g a s := rfl
@[simp] theorem exec_rdv (g m s) : exec (.rdv g m) s = execRdv g m s := rfl
@[simp] theorem exec_shflIdx (g d a m n s) : exec (.shflIdx g d a m n) s = execShflIdx g d a m n s := rfl
@[simp] theorem exec_shflXor (g d a m n s) : exec (.shflXor g d a m n) s = execShflXor g d a m n s := rfl
@[simp] theorem exec_shflUp (g d a m n s) : exec (.shflUp g d a m n) s = execShflUp g d a m n s := rfl
@[simp] theorem exec_shflDn (g d a m n s) : exec (.shflDn g d a m n) s = execShflDn g d a m n s := rfl
@[simp] theorem exec_voteAll (g d a m s) : exec (.voteAll g d a m) s = execVoteAll g d a m s := rfl
@[simp] theorem exec_voteAny (g d a m s) : exec (.voteAny g d a m) s = execVoteAny g d a m s := rfl
@[simp] theorem exec_voteBal (g d a m s) : exec (.voteBal g d a m) s = execVoteBal g d a m s := rfl
@[simp] theorem exec_matchAny (g d a m s) : exec (.matchAny g d a m) s = execMatchAny g d a m s := rfl
@[simp] theorem exec_matchAll (g d a m s) : exec (.matchAll g d a m) s = execMatchAll g d a m s := rfl
@[simp] theorem exec_redxAddI32 (g d a m s) : exec (.redxAddI32 g d a m) s = execRedxAddI32 g d a m s := rfl
@[simp] theorem exec_redxMinI32 (g d a m s) : exec (.redxMinI32 g d a m) s = execRedxMinI32 g d a m s := rfl
@[simp] theorem exec_redxMaxI32 (g d a m s) : exec (.redxMaxI32 g d a m) s = execRedxMaxI32 g d a m s := rfl
@[simp] theorem exec_redxMinN32 (g d a m s) : exec (.redxMinN32 g d a m) s = execRedxMinN32 g d a m s := rfl
@[simp] theorem exec_redxMaxN32 (g d a m s) : exec (.redxMaxN32 g d a m) s = execRedxMaxN32 g d a m s := rfl
@[simp] theorem exec_redxAnd (g d a m s) : exec (.redxAnd g d a m) s = execRedxAnd g d a m s := rfl
@[simp] theorem exec_redxOr (g d a m s) : exec (.redxOr g d a m) s = execRedxOr g d a m s := rfl
@[simp] theorem exec_redxXor (g d a m s) : exec (.redxXor g d a m) s = execRedxXor g d a m s := rfl
@[simp] theorem exec_redxFadd (g d a m s) : exec (.redxFadd g d a m) s = execRedxFadd g d a m s := rfl
@[simp] theorem exec_redxFmin (g d a m s) : exec (.redxFmin g d a m) s = execRedxFmin g d a m s := rfl
@[simp] theorem exec_redxFmax (g d a m s) : exec (.redxFmax g d a m) s = execRedxFmax g d a m s := rfl
@[simp] theorem exec_scanxAddI32 (g d a m s) : exec (.scanxAddI32 g d a m) s = execScanxAddI32 g d a m s := rfl
@[simp] theorem exec_scanxFadd (g d a m s) : exec (.scanxFadd g d a m) s = execScanxFadd g d a m s := rfl
@[simp] theorem exec_tbarSync (g bar s) : exec (.tbarSync g bar) s = execTbarSync g bar s := rfl
@[simp] theorem exec_tbarArv (g bar s) : exec (.tbarArv g bar) s = execTbarArv g bar s := rfl
@[simp] theorem exec_tbarWait (g bar s) : exec (.tbarWait g bar) s = execTbarWait g bar s := rfl
@[simp] theorem exec_tbarRed (g d a sub bar hi s) : exec (.tbarRed g d a sub bar hi) s = execTbarRed g d a sub bar hi s := rfl
@[simp] theorem exec_gbarSync (g bar s) : exec (.gbarSync g bar) s = execGbarSync g bar s := rfl
@[simp] theorem exec_gbarArv (g bar s) : exec (.gbarArv g bar) s = execGbarArv g bar s := rfl
@[simp] theorem exec_gbarWait (g bar s) : exec (.gbarWait g bar) s = execGbarWait g bar s := rfl
@[simp] theorem exec_gbarRed (g d a sub bar hi s) : exec (.gbarRed g d a sub bar hi) s = execGbarRed g d a sub bar hi s := rfl
@[simp] theorem exec_fence (g sc s) : exec (.fence g sc) s = execFence g sc s := rfl
@[simp] theorem exec_scopeof (g d a kind s) : exec (.scopeof g d a kind) s = execScopeof g d a kind s := rfl
@[simp] theorem exec_hwaitF (g h ph s) : exec (.hwaitF g h ph) s = execHwaitF g h ph s := rfl
@[simp] theorem exec_hwaitE (g h s) : exec (.hwaitE g h) s = execHwaitE g h s := rfl
@[simp] theorem exec_hsetFill (g h s) : exec (.hsetFill g h) s = execHsetFill g h s := rfl
@[simp] theorem exec_hsetFull (g h s) : exec (.hsetFull g h) s = execHsetFull g h s := rfl
@[simp] theorem exec_hsetDrain (g h s) : exec (.hsetDrain g h) s = execHsetDrain g h s := rfl
@[simp] theorem exec_hsetFree (g h s) : exec (.hsetFree g h) s = execHsetFree g h s := rfl
@[simp] theorem exec_harm (g h c s) : exec (.harm g h c) s = execHarm g h c s := rfl
@[simp] theorem exec_cont (g h w s) : exec (.cont g h w) s = execCont g h w s := rfl
@[simp] theorem exec_qpush (g d q s) : exec (.qpush g d q) s = execQpush g d q s := rfl
@[simp] theorem exec_qpushD (g d q s) : exec (.qpushD g d q) s = execQpushD g d q s := rfl
@[simp] theorem exec_qpop (g d q s) : exec (.qpop g d q) s = execQpop g d q s := rfl
@[simp] theorem exec_qlen (g d q s) : exec (.qlen g d q) s = execQlen g d q s := rfl
@[simp] theorem exec_qpushNb (g d q p s) : exec (.qpushNb g d q p) s = execQpushNb g d q p s := rfl
@[simp] theorem exec_qpopNb (g d q p s) : exec (.qpopNb g d q p) s = execQpopNb g d q p s := rfl
@[simp] theorem exec_cvjoin (g a b s) : exec (.cvjoin g a b) s = execCvjoin g a b s := rfl
@[simp] theorem exec_cvleave (g s) : exec (.cvleave g) s = execCvleave g s := rfl
@[simp] theorem exec_cvsetSl (g a s) : exec (.cvsetSl g a) s = execCvsetSl g a s := rfl
@[simp] theorem exec_cvsetLt (g a s) : exec (.cvsetLt g a) s = execCvsetLt g a s := rfl
@[simp] theorem exec_mmaE4e4 (g x1 x2 x3 tile sb keep la s) : exec (.mmaE4e4 g x1 x2 x3 tile sb keep la) s = execMmaE4e4 g x1 x2 x3 tile sb keep la s := rfl
@[simp] theorem exec_mmaE4e5 (g x1 x2 x3 tile sb keep la s) : exec (.mmaE4e5 g x1 x2 x3 tile sb keep la) s = execMmaE4e5 g x1 x2 x3 tile sb keep la s := rfl
@[simp] theorem exec_mmaE5e4 (g x1 x2 x3 tile sb keep la s) : exec (.mmaE5e4 g x1 x2 x3 tile sb keep la) s = execMmaE5e4 g x1 x2 x3 tile sb keep la s := rfl
@[simp] theorem exec_mmaE5e5 (g x1 x2 x3 tile sb keep la s) : exec (.mmaE5e5 g x1 x2 x3 tile sb keep la) s = execMmaE5e5 g x1 x2 x3 tile sb keep la s := rfl
@[simp] theorem exec_mmaCb4 (g x1 x2 x3 tile sb keep k la s) : exec (.mmaCb4 g x1 x2 x3 tile sb keep k la) s = execMmaCb4 g x1 x2 x3 tile sb keep k la s := rfl
@[simp] theorem exec_mmaBf16 (g x1 x2 tile keep la s) : exec (.mmaBf16 g x1 x2 tile keep la) s = execMmaBf16 g x1 x2 tile keep la s := rfl
@[simp] theorem exec_mmaF16 (g x1 x2 tile keep la s) : exec (.mmaF16 g x1 x2 tile keep la) s = execMmaF16 g x1 x2 tile keep la s := rfl
@[simp] theorem exec_mmaI8 (g x1 x2 tile keep la s) : exec (.mmaI8 g x1 x2 tile keep la) s = execMmaI8 g x1 x2 tile keep la s := rfl
@[simp] theorem exec_mzero (g tile s) : exec (.mzero g tile) s = execMzero g tile s := rfl
@[simp] theorem exec_mload (g afmt x1 x3 sb k la s) : exec (.mload g afmt x1 x3 sb k la) s = execMload g afmt x1 x3 sb k la s := rfl
@[simp] theorem exec_mdrain (g cvt h tile bs x2 x3 la s) : exec (.mdrain g cvt h tile bs x2 x3 la) s = execMdrain g cvt h tile bs x2 x3 la s := rfl
@[simp] theorem exec_mdraina (g h tile bs x2 x3 la s) : exec (.mdraina g h tile bs x2 x3 la) s = execMdraina g h tile bs x2 x3 la s := rfl
@[simp] theorem exec_mdrains (g cvt h tile x1 x3 la s) : exec (.mdrains g cvt h tile x1 x3 la) s = execMdrains g cvt h tile x1 x3 la s := rfl
@[simp] theorem exec_mgang (g x2 s) : exec (.mgang g x2) s = execMgang g x2 s := rfl
@[simp] theorem exec_mopf (g s) : exec (.mopf g) s = execMopf g s := rfl
@[simp] theorem exec_mwait (g s) : exec (.mwait g) s = execMwait g s := rfl
@[simp] theorem exec_mrel (g s) : exec (.mrel g) s = execMrel g s := rfl
@[simp] theorem exec_mcb (g x2 k s) : exec (.mcb g x2 k) s = execMcb g x2 k s := rfl
@[simp] theorem exec_cpyG2s (g h bs x1 x2 x3 la s) : exec (.cpyG2s g h bs x1 x2 x3 la) s = execCpyG2s g h bs x1 x2 x3 la s := rfl
@[simp] theorem exec_cpyG2sT8 (g h bs x1 x2 x3 la s) : exec (.cpyG2sT8 g h bs x1 x2 x3 la) s = execCpyG2sT8 g h bs x1 x2 x3 la s := rfl
@[simp] theorem exec_cpyG2sT16 (g h bs x1 x2 x3 la s) : exec (.cpyG2sT16 g h bs x1 x2 x3 la) s = execCpyG2sT16 g h bs x1 x2 x3 la s := rfl
@[simp] theorem exec_cpyS2g (g h bs x1 x2 x3 la s) : exec (.cpyS2g g h bs x1 x2 x3 la) s = execCpyS2g g h bs x1 x2 x3 la s := rfl
@[simp] theorem exec_cpyS2ga (g h bs x1 x2 x3 la s) : exec (.cpyS2ga g h bs x1 x2 x3 la) s = execCpyS2ga g h bs x1 x2 x3 la s := rfl
@[simp] theorem exec_cpyG2g (g h bs x1 x2 x3 la s) : exec (.cpyG2g g h bs x1 x2 x3 la) s = execCpyG2g g h bs x1 x2 x3 la s := rfl
@[simp] theorem exec_cpyMc (g h bs x1 x2 x3 cmask la s) : exec (.cpyMc g h bs x1 x2 x3 cmask la) s = execCpyMc g h bs x1 x2 x3 cmask la s := rfl
@[simp] theorem exec_cpyS2s (g h x1 x2 x3 la s) : exec (.cpyS2s g h x1 x2 x3 la) s = execCpyS2s g h x1 x2 x3 la s := rfl
@[simp] theorem exec_cpyV2s (g h bs x1 x2 x3 la s) : exec (.cpyV2s g h bs x1 x2 x3 la) s = execCpyV2s g h bs x1 x2 x3 la s := rfl
@[simp] theorem exec_gtrinv (g bs x2 s) : exec (.gtrinv g bs x2) s = execGtrinv g bs x2 s := rfl
@[simp] theorem exec_nmc (g bs x1 x2 la s) : exec (.nmc g bs x1 x2 la) s = execNmc g bs x1 x2 la s := rfl
@[simp] theorem exec_nmwait (g s) : exec (.nmwait g) s = execNmwait g s := rfl
@[simp] theorem exec_cpywait (g s) : exec (.cpywait g) s = execCpywait g s := rfl
@[simp] theorem exec_pghint (g bs x2 x3 s) : exec (.pghint g bs x2 x3) s = execPghint g bs x2 x3 s := rfl
@[simp] theorem exec_trap (g code s) : exec (.trap g code) s = execTrap g code s := rfl
@[simp] theorem exec_bkpt (g code s) : exec (.bkpt g code) s = execBkpt g code s := rfl
@[simp] theorem exec_tretRetry (g s) : exec (.tretRetry g) s = execTretRetry g s := rfl
@[simp] theorem exec_tretSkip (g s) : exec (.tretSkip g) s = execTretSkip g s := rfl
@[simp] theorem exec_clock (g d s) : exec (.clock g d) s = execClock g d s := rfl
@[simp] theorem exec_gtime (g d s) : exec (.gtime g d) s = execGtime g d s := rfl
@[simp] theorem exec_trace (g a ch s) : exec (.trace g a ch) s = execTrace g a ch s := rfl
@[simp] theorem exec_flags (g d mask s) : exec (.flags g d mask) s = execFlags g d mask s := rfl
@[simp] theorem exec_icinv (g s) : exec (.icinv g) s = execIcinv g s := rfl
@[simp] theorem exec_meetHoldTimeout (t s) : exec (.meetHoldTimeout t) s = execMeetHoldTimeout t s := rfl
@[simp] theorem exec_starvationOverride (core lg s) : exec (.starvationOverride core lg) s = execStarvationOverride core lg s := rfl
@[simp] theorem exec_yieldExpiry (t s) : exec (.yieldExpiry t) s = execYieldExpiry t s := rfl
@[simp] theorem exec_breakpointHit (t s) : exec (.breakpointHit t) s = execBreakpointHit t s := rfl
@[simp] theorem exec_loadReturn (r s) : exec (.loadReturn r) s = execLoadReturn r s := rfl
@[simp] theorem exec_storeQueueDrain (core lg s) : exec (.storeQueueDrain core lg) s = execStoreQueueDrain core lg s := rfl
@[simp] theorem exec_straitRead (r s) : exec (.straitRead r) s = execStraitRead r s := rfl
@[simp] theorem exec_straitWrite (q s) : exec (.straitWrite q) s = execStraitWrite q s := rfl
@[simp] theorem exec_straitReply (e s) : exec (.straitReply e) s = execStraitReply e s := rfl
@[simp] theorem exec_atomicService (q s) : exec (.atomicService q) s = execAtomicService q s := rfl
@[simp] theorem exec_promote (r core s) : exec (.promote r core) s = execPromote r core s := rfl
@[simp] theorem exec_sfuResult (w s) : exec (.sfuResult w) s = execSfuResult w s := rfl
@[simp] theorem exec_barrierArrivalCounted (t bar grid s) : exec (.barrierArrivalCounted t bar grid) s = execBarrierArrivalCounted t bar grid s := rfl
@[simp] theorem exec_slewResume (gr bar s) : exec (.slewResume gr bar) s = execSlewResume gr bar s := rfl
@[simp] theorem exec_matrixEngineOperation (core old s) : exec (.matrixEngineOperation core old) s = execMatrixEngineOperation core old s := rfl
@[simp] theorem exec_copyAccept (c s) : exec (.copyAccept c) s = execCopyAccept c s := rfl
@[simp] theorem exec_copyPartWritten (c dst lo hi s) : exec (.copyPartWritten c dst lo hi) s = execCopyPartWritten c dst lo hi s := rfl
@[simp] theorem exec_copyFinish (c s) : exec (.copyFinish c) s = execCopyFinish c s := rfl
@[simp] theorem exec_contSpawn (team k lg depth lane s) : exec (.contSpawn team k lg depth lane) s = execContSpawn team k lg depth lane s := rfl
@[simp] theorem exec_nmcSend (n s) : exec (.nmcSend n) s = execNmcSend n s := rfl
@[simp] theorem exec_nmStep (n s) : exec (.nmStep n) s = execNmStep n s := rfl
@[simp] theorem exec_pageWalk (core page s) : exec (.pageWalk core page) s = execPageWalk core page s := rfl
@[simp] theorem exec_pageServiced (page adr rot s) : exec (.pageServiced page adr rot) s = execPageServiced page adr rot s := rfl
@[simp] theorem exec_pageRefused (page s) : exec (.pageRefused page) s = execPageRefused page s := rfl
@[simp] theorem exec_pageMigration (page rot s) : exec (.pageMigration page rot) s = execPageMigration page rot s := rfl
@[simp] theorem exec_tierMigration (page inward adr s) : exec (.tierMigration page inward adr) s = execTierMigration page inward adr s := rfl
@[simp] theorem exec_queuePerform (q t s) : exec (.queuePerform q t) s = execQueuePerform q t s := rfl
@[simp] theorem exec_trapEntry (t s) : exec (.trapEntry t) s = execTrapEntry t s := rfl
@[simp] theorem exec_teamComplete (team s) : exec (.teamComplete team) s = execTeamComplete team s := rfl
@[simp] theorem exec_gridComplete (gr s) : exec (.gridComplete gr) s = execGridComplete gr s := rfl
@[simp] theorem exec_containment (w s) : exec (.containment w) s = execContainment w s := rfl
@[simp] theorem exec_scrubPass (w s) : exec (.scrubPass w) s = execScrubPass w s := rfl
@[simp] theorem exec_gridPacket (q layers s) : exec (.gridPacket q layers) s = execGridPacket q layers s := rfl
@[simp] theorem exec_waitPacket (q s) : exec (.waitPacket q) s = execWaitPacket q s := rfl
@[simp] theorem exec_waitPoll (q s) : exec (.waitPoll q) s = execWaitPoll q s := rfl
@[simp] theorem exec_kickPacket (q s) : exec (.kickPacket q) s = execKickPacket q s := rfl
@[simp] theorem exec_teamAdmission (gr team cores s) : exec (.teamAdmission gr team cores) s = execTeamAdmission gr team cores s := rfl
@[simp] theorem exec_reserving (gr team layer s) : exec (.reserving gr team layer) s = execReserving gr team layer s := rfl
@[simp] theorem exec_preemption (gr team victim s) : exec (.preemption gr team victim) s = execPreemption gr team victim s := rfl
@[simp] theorem exec_restore (gr team cores s) : exec (.restore gr team cores) s = execRestore gr team cores s := rfl
@[simp] theorem exec_stealRequest (part thief s) : exec (.stealRequest part thief) s = execStealRequest part thief s := rfl
@[simp] theorem exec_classify (gr s) : exec (.classify gr) s = execClassify gr s := rfl
@[simp] theorem exec_thermalMove (part team cores s) : exec (.thermalMove part team cores) s = execThermalMove part team cores s := rfl
@[simp] theorem exec_powerControl (layer watts temp s) : exec (.powerControl layer watts temp) s = execPowerControl layer watts temp s := rfl
@[simp] theorem exec_operatingPointChange (reg s) : exec (.operatingPointChange reg) s = execOperatingPointChange reg s := rfl
@[simp] theorem exec_convoyLapse (c s) : exec (.convoyLapse c) s = execConvoyLapse c s := rfl
@[simp] theorem exec_graphReplayStart (k s) : exec (.graphReplayStart k) s = execGraphReplayStart k s := rfl
@[simp] theorem exec_graphNodeFinish (r n s) : exec (.graphNodeFinish r n) s = execGraphNodeFinish r n s := rfl
@[simp] theorem exec_kick (part val wide s) : exec (.kick part val wide) s = execKick part val wide s := rfl
@[simp] theorem exec_kstatWrite (part val s) : exec (.kstatWrite part val) s = execKstatWrite part val s := rfl
@[simp] theorem exec_partWrite (n val s) : exec (.partWrite n val) s = execPartWrite n val s := rfl
@[simp] theorem exec_regselWrite (val s) : exec (.regselWrite val) s = execRegselWrite val s := rfl
@[simp] theorem exec_lbudgetWrite (n val s) : exec (.lbudgetWrite n val) s = execLbudgetWrite n val s := rfl
@[simp] theorem exec_deverrWrite (val s) : exec (.deverrWrite val) s = execDeverrWrite val s := rfl
@[simp] theorem exec_registerWrite (dvsec off val s) : exec (.registerWrite dvsec off val) s = execRegisterWrite dvsec off val s := rfl
@[simp] theorem exec_moduleReset (s) : exec (.moduleReset) s = execModuleReset s := rfl
@[simp] theorem exec_go (inp s) : exec (.go inp) s = execGo inp s := rfl
@[simp] theorem exec_attgo (s) : exec (.attgo) s = execAttgo s := rfl
@[simp] theorem exec_attestationReportDone (s) : exec (.attestationReportDone) s = execAttestationReportDone s := rfl
@[simp] theorem exec_hostQueuePush (q line s) : exec (.hostQueuePush q line) s = execHostQueuePush q line s := rfl
@[simp] theorem exec_hostQueuePop (q s) : exec (.hostQueuePop q) s = execHostQueuePop q s := rfl
@[simp] theorem exec_hostQueueStatus (q s) : exec (.hostQueueStatus q) s = execHostQueueStatus q s := rfl
@[simp] theorem exec_hostMemAccess (acc s) : exec (.hostMemAccess acc) s = execHostMemAccess acc s := rfl
@[simp] theorem exec_bufinv (q s) : exec (.bufinv q) s = execBufinv q s := rfl
@[simp] theorem exec_xlatinv (q s) : exec (.xlatinv q) s = execXlatinv q s := rfl
@[simp] theorem exec_ownrec (q s) : exec (.ownrec q) s = execOwnrec q s := rfl
@[simp] theorem exec_qdesc (q s) : exec (.qdesc q) s = execQdesc q s := rfl
@[simp] theorem exec_cadload (q s) : exec (.cadload q) s = execCadload q s := rfl
@[simp] theorem exec_cadswitch (q s) : exec (.cadswitch q) s = execCadswitch q s := rfl
@[simp] theorem exec_caddrop (q s) : exec (.caddrop q) s = execCaddrop q s := rfl
@[simp] theorem exec_fmreload (q s) : exec (.fmreload q) s = execFmreload q s := rfl
@[simp] theorem exec_fmreply (q s) : exec (.fmreply q) s = execFmreply q s := rfl
@[simp] theorem exec_manageUnknown (q s) : exec (.manageUnknown q) s = execManageUnknown q s := rfl
@[simp] theorem exec_fmTimeout (fn seqNo s) : exec (.fmTimeout fn seqNo) s = execFmTimeout fn seqNo s := rfl
@[simp] theorem exec_debugConfigWrite (part line ws s) : exec (.debugConfigWrite part line ws) s = execDebugConfigWrite part line ws s := rfl
@[simp] theorem exec_debugStop (part name mode s) : exec (.debugStop part name mode) s = execDebugStop part name mode s := rfl
@[simp] theorem exec_debugResume (part s) : exec (.debugResume part) s = execDebugResume part s := rfl
@[simp] theorem exec_debugStep (part name s) : exec (.debugStep part name) s = execDebugStep part name s := rfl
@[simp] theorem exec_pcntClear (part s) : exec (.pcntClear part) s = execPcntClear part s := rfl
@[simp] theorem exec_sample (part core s) : exec (.sample part core) s = execSample part core s := rfl
@[simp] theorem exec_linkRequest (rq s) : exec (.linkRequest rq) s = execLinkRequest rq s := rfl
@[simp] theorem exec_linkTimeout (w s) : exec (.linkTimeout w) s = execLinkTimeout w s := rfl
@[simp] theorem exec_gateAcknowledgement (q level s) : exec (.gateAcknowledgement q level) s = execGateAcknowledgement q level s := rfl

end Sys2Proof.Machine
end

