-- ==== Sys2Proof/Laws/Issue.lean ====
section
/-! SUPPORT. Every instruction of a thread goes through issue, or through poll: what stands before its own effect is said once there. -/

namespace Sys2Proof.Machine

/-- exec of an instruction is its issue, or its poll, with some effect; or it raises ILLEGAL_OPERAND where its check is LOOKAHEAD (a CPY.MC
whose mask is at fault, R90). -/
def Via (i : Instr) (s : State) : Prop :=
  (∃ e, exec i s = issue i s e) ∨ (∃ e, exec i s = poll i s e) ∨
  ∃ t, getThread s s.cur = some t ∧ t.st = .ready ∧ issueCheck i t = .bad .lookahead ∧ exec i s = raise s t .illegalOperand

theorem via_add (g u d a b) (s : State) : Via (.add g u d a b) s := by
  unfold Via; rw [exec_add]; unfold execAdd; repeat (first | exact .inl ⟨_, rfl⟩ | exact .inr (.inl ⟨_, rfl⟩) | unfold atomsOp | unfold ldsOp | unfold stsOp | unfold sfuUnary | unfold acquireOp | unfold aluA | unfold aluAB | unfold aluABD | unfold aluABDF | unfold aluABF | unfold aluCmp | unfold aluMadw | unfold aluPairs | unfold aluPred | unfold atomicOp | unfold barInstr | unfold barWait | unfold bkptOp | unfold contOp | unfold copyMcOp | unfold copyOp | unfold copyV2sOp | unfold cpywaitOp | unfold cvjoinOp | unfold cvsetOp | unfold fragOp | unfold gangOp | unfold gtrinvOp | unfold handleOp | unfold handleWait | unfold loadOp | unfold mcbOp | unfold mgangOp | unfold mopfOp | unfold movswOp | unfold mrelOp | unfold nmcOp | unfold nmwaitOp | unfold queueOp | unfold rdvOp | unfold releaseOp | unfold scratchOp | unfold sfuIssue | unfold simple | unfold storeOp | unfold streamOp | unfold transferOp | unfold tretOp)

theorem via_sub (g u d a b) (s : State) : Via (.sub g u d a b) s := by
  unfold Via; rw [exec_sub]; unfold execSub; repeat (first | exact .inl ⟨_, rfl⟩ | exact .inr (.inl ⟨_, rfl⟩) | unfold atomsOp | unfold ldsOp | unfold stsOp | unfold sfuUnary | unfold acquireOp | unfold aluA | unfold aluAB | unfold aluABD | unfold aluABDF | unfold aluABF | unfold aluCmp | unfold aluMadw | unfold aluPairs | unfold aluPred | unfold atomicOp | unfold barInstr | unfold barWait | unfold bkptOp | unfold contOp | unfold copyMcOp | unfold copyOp | unfold copyV2sOp | unfold cpywaitOp | unfold cvjoinOp | unfold cvsetOp | unfold fragOp | unfold gangOp | unfold gtrinvOp | unfold handleOp | unfold handleWait | unfold loadOp | unfold mcbOp | unfold mgangOp | unfold mopfOp | unfold movswOp | unfold mrelOp | unfold nmcOp | unfold nmwaitOp | unfold queueOp | unfold rdvOp | unfold releaseOp | unfold scratchOp | unfold sfuIssue | unfold simple | unfold storeOp | unfold streamOp | unfold transferOp | unfold tretOp)

theorem via_mul (g u d a b) (s : State) : Via (.mul g u d a b) s := by
  unfold Via; rw [exec_mul]; unfold execMul; repeat (first | exact .inl ⟨_, rfl⟩ | exact .inr (.inl ⟨_, rfl⟩) | unfold atomsOp | unfold ldsOp | unfold stsOp | unfold sfuUnary | unfold acquireOp | unfold aluA | unfold aluAB | unfold aluABD | unfold aluABDF | unfold aluABF | unfold aluCmp | unfold aluMadw | unfold aluPairs | unfold aluPred | unfold atomicOp | unfold barInstr | unfold barWait | unfold bkptOp | unfold contOp | unfold copyMcOp | unfold copyOp | unfold copyV2sOp | unfold cpywaitOp | unfold cvjoinOp | unfold cvsetOp | unfold fragOp | unfold gangOp | unfold gtrinvOp | unfold handleOp | unfold handleWait | unfold loadOp | unfold mcbOp | unfold mgangOp | unfold mopfOp | unfold movswOp | unfold mrelOp | unfold nmcOp | unfold nmwaitOp | unfold queueOp | unfold rdvOp | unfold releaseOp | unfold scratchOp | unfold sfuIssue | unfold simple | unfold storeOp | unfold streamOp | unfold transferOp | unfold tretOp)

theorem via_mulhI32 (g u d a b) (s : State) : Via (.mulhI32 g u d a b) s := by
  unfold Via; rw [exec_mulhI32]; unfold execMulhI32; repeat (first | exact .inl ⟨_, rfl⟩ | exact .inr (.inl ⟨_, rfl⟩) | unfold atomsOp | unfold ldsOp | unfold stsOp | unfold sfuUnary | unfold acquireOp | unfold aluA | unfold aluAB | unfold aluABD | unfold aluABDF | unfold aluABF | unfold aluCmp | unfold aluMadw | unfold aluPairs | unfold aluPred | unfold atomicOp | unfold barInstr | unfold barWait | unfold bkptOp | unfold contOp | unfold copyMcOp | unfold copyOp | unfold copyV2sOp | unfold cpywaitOp | unfold cvjoinOp | unfold cvsetOp | unfold fragOp | unfold gangOp | unfold gtrinvOp | unfold handleOp | unfold handleWait | unfold loadOp | unfold mcbOp | unfold mgangOp | unfold mopfOp | unfold movswOp | unfold mrelOp | unfold nmcOp | unfold nmwaitOp | unfold queueOp | unfold rdvOp | unfold releaseOp | unfold scratchOp | unfold sfuIssue | unfold simple | unfold storeOp | unfold streamOp | unfold transferOp | unfold tretOp)

theorem via_mulhN32 (g u d a b) (s : State) : Via (.mulhN32 g u d a b) s := by
  unfold Via; rw [exec_mulhN32]; unfold execMulhN32; repeat (first | exact .inl ⟨_, rfl⟩ | exact .inr (.inl ⟨_, rfl⟩) | unfold atomsOp | unfold ldsOp | unfold stsOp | unfold sfuUnary | unfold acquireOp | unfold aluA | unfold aluAB | unfold aluABD | unfold aluABDF | unfold aluABF | unfold aluCmp | unfold aluMadw | unfold aluPairs | unfold aluPred | unfold atomicOp | unfold barInstr | unfold barWait | unfold bkptOp | unfold contOp | unfold copyMcOp | unfold copyOp | unfold copyV2sOp | unfold cpywaitOp | unfold cvjoinOp | unfold cvsetOp | unfold fragOp | unfold gangOp | unfold gtrinvOp | unfold handleOp | unfold handleWait | unfold loadOp | unfold mcbOp | unfold mgangOp | unfold mopfOp | unfold movswOp | unfold mrelOp | unfold nmcOp | unfold nmwaitOp | unfold queueOp | unfold rdvOp | unfold releaseOp | unfold scratchOp | unfold sfuIssue | unfold simple | unfold storeOp | unfold streamOp | unfold transferOp | unfold tretOp)

theorem via_mad (g u d a b) (s : State) : Via (.mad g u d a b) s := by
  unfold Via; rw [exec_mad]; unfold execMad; repeat (first | exact .inl ⟨_, rfl⟩ | exact .inr (.inl ⟨_, rfl⟩) | unfold atomsOp | unfold ldsOp | unfold stsOp | unfold sfuUnary | unfold acquireOp | unfold aluA | unfold aluAB | unfold aluABD | unfold aluABDF | unfold aluABF | unfold aluCmp | unfold aluMadw | unfold aluPairs | unfold aluPred | unfold atomicOp | unfold barInstr | unfold barWait | unfold bkptOp | unfold contOp | unfold copyMcOp | unfold copyOp | unfold copyV2sOp | unfold cpywaitOp | unfold cvjoinOp | unfold cvsetOp | unfold fragOp | unfold gangOp | unfold gtrinvOp | unfold handleOp | unfold handleWait | unfold loadOp | unfold mcbOp | unfold mgangOp | unfold mopfOp | unfold movswOp | unfold mrelOp | unfold nmcOp | unfold nmwaitOp | unfold queueOp | unfold rdvOp | unfold releaseOp | unfold scratchOp | unfold sfuIssue | unfold simple | unfold storeOp | unfold streamOp | unfold transferOp | unfold tretOp)

theorem via_madwI32 (g u d a b) (s : State) : Via (.madwI32 g u d a b) s := by
  unfold Via; rw [exec_madwI32]; unfold execMadwI32; repeat (first | exact .inl ⟨_, rfl⟩ | exact .inr (.inl ⟨_, rfl⟩) | unfold atomsOp | unfold ldsOp | unfold stsOp | unfold sfuUnary | unfold acquireOp | unfold aluA | unfold aluAB | unfold aluABD | unfold aluABDF | unfold aluABF | unfold aluCmp | unfold aluMadw | unfold aluPairs | unfold aluPred | unfold atomicOp | unfold barInstr | unfold barWait | unfold bkptOp | unfold contOp | unfold copyMcOp | unfold copyOp | unfold copyV2sOp | unfold cpywaitOp | unfold cvjoinOp | unfold cvsetOp | unfold fragOp | unfold gangOp | unfold gtrinvOp | unfold handleOp | unfold handleWait | unfold loadOp | unfold mcbOp | unfold mgangOp | unfold mopfOp | unfold movswOp | unfold mrelOp | unfold nmcOp | unfold nmwaitOp | unfold queueOp | unfold rdvOp | unfold releaseOp | unfold scratchOp | unfold sfuIssue | unfold simple | unfold storeOp | unfold streamOp | unfold transferOp | unfold tretOp)

theorem via_madwN32 (g u d a b) (s : State) : Via (.madwN32 g u d a b) s := by
  unfold Via; rw [exec_madwN32]; unfold execMadwN32; repeat (first | exact .inl ⟨_, rfl⟩ | exact .inr (.inl ⟨_, rfl⟩) | unfold atomsOp | unfold ldsOp | unfold stsOp | unfold sfuUnary | unfold acquireOp | unfold aluA | unfold aluAB | unfold aluABD | unfold aluABDF | unfold aluABF | unfold aluCmp | unfold aluMadw | unfold aluPairs | unfold aluPred | unfold atomicOp | unfold barInstr | unfold barWait | unfold bkptOp | unfold contOp | unfold copyMcOp | unfold copyOp | unfold copyV2sOp | unfold cpywaitOp | unfold cvjoinOp | unfold cvsetOp | unfold fragOp | unfold gangOp | unfold gtrinvOp | unfold handleOp | unfold handleWait | unfold loadOp | unfold mcbOp | unfold mgangOp | unfold mopfOp | unfold movswOp | unfold mrelOp | unfold nmcOp | unfold nmwaitOp | unfold queueOp | unfold rdvOp | unfold releaseOp | unfold scratchOp | unfold sfuIssue | unfold simple | unfold storeOp | unfold streamOp | unfold transferOp | unfold tretOp)

theorem via_add64 (g u d a b) (s : State) : Via (.add64 g u d a b) s := by
  unfold Via; rw [exec_add64]; unfold execAdd64; repeat (first | exact .inl ⟨_, rfl⟩ | exact .inr (.inl ⟨_, rfl⟩) | unfold atomsOp | unfold ldsOp | unfold stsOp | unfold sfuUnary | unfold acquireOp | unfold aluA | unfold aluAB | unfold aluABD | unfold aluABDF | unfold aluABF | unfold aluCmp | unfold aluMadw | unfold aluPairs | unfold aluPred | unfold atomicOp | unfold barInstr | unfold barWait | unfold bkptOp | unfold contOp | unfold copyMcOp | unfold copyOp | unfold copyV2sOp | unfold cpywaitOp | unfold cvjoinOp | unfold cvsetOp | unfold fragOp | unfold gangOp | unfold gtrinvOp | unfold handleOp | unfold handleWait | unfold loadOp | unfold mcbOp | unfold mgangOp | unfold mopfOp | unfold movswOp | unfold mrelOp | unfold nmcOp | unfold nmwaitOp | unfold queueOp | unfold rdvOp | unfold releaseOp | unfold scratchOp | unfold sfuIssue | unfold simple | unfold storeOp | unfold streamOp | unfold transferOp | unfold tretOp)

theorem via_sub64 (g u d a b) (s : State) : Via (.sub64 g u d a b) s := by
  unfold Via; rw [exec_sub64]; unfold execSub64; repeat (first | exact .inl ⟨_, rfl⟩ | exact .inr (.inl ⟨_, rfl⟩) | unfold atomsOp | unfold ldsOp | unfold stsOp | unfold sfuUnary | unfold acquireOp | unfold aluA | unfold aluAB | unfold aluABD | unfold aluABDF | unfold aluABF | unfold aluCmp | unfold aluMadw | unfold aluPairs | unfold aluPred | unfold atomicOp | unfold barInstr | unfold barWait | unfold bkptOp | unfold contOp | unfold copyMcOp | unfold copyOp | unfold copyV2sOp | unfold cpywaitOp | unfold cvjoinOp | unfold cvsetOp | unfold fragOp | unfold gangOp | unfold gtrinvOp | unfold handleOp | unfold handleWait | unfold loadOp | unfold mcbOp | unfold mgangOp | unfold mopfOp | unfold movswOp | unfold mrelOp | unfold nmcOp | unfold nmwaitOp | unfold queueOp | unfold rdvOp | unfold releaseOp | unfold scratchOp | unfold sfuIssue | unfold simple | unfold storeOp | unfold streamOp | unfold transferOp | unfold tretOp)

theorem via_addsI32 (g u d a b) (s : State) : Via (.addsI32 g u d a b) s := by
  unfold Via; rw [exec_addsI32]; unfold execAddsI32; repeat (first | exact .inl ⟨_, rfl⟩ | exact .inr (.inl ⟨_, rfl⟩) | unfold atomsOp | unfold ldsOp | unfold stsOp | unfold sfuUnary | unfold acquireOp | unfold aluA | unfold aluAB | unfold aluABD | unfold aluABDF | unfold aluABF | unfold aluCmp | unfold aluMadw | unfold aluPairs | unfold aluPred | unfold atomicOp | unfold barInstr | unfold barWait | unfold bkptOp | unfold contOp | unfold copyMcOp | unfold copyOp | unfold copyV2sOp | unfold cpywaitOp | unfold cvjoinOp | unfold cvsetOp | unfold fragOp | unfold gangOp | unfold gtrinvOp | unfold handleOp | unfold handleWait | unfold loadOp | unfold mcbOp | unfold mgangOp | unfold mopfOp | unfold movswOp | unfold mrelOp | unfold nmcOp | unfold nmwaitOp | unfold queueOp | unfold rdvOp | unfold releaseOp | unfold scratchOp | unfold sfuIssue | unfold simple | unfold storeOp | unfold streamOp | unfold transferOp | unfold tretOp)

theorem via_subsI32 (g u d a b) (s : State) : Via (.subsI32 g u d a b) s := by
  unfold Via; rw [exec_subsI32]; unfold execSubsI32; repeat (first | exact .inl ⟨_, rfl⟩ | exact .inr (.inl ⟨_, rfl⟩) | unfold atomsOp | unfold ldsOp | unfold stsOp | unfold sfuUnary | unfold acquireOp | unfold aluA | unfold aluAB | unfold aluABD | unfold aluABDF | unfold aluABF | unfold aluCmp | unfold aluMadw | unfold aluPairs | unfold aluPred | unfold atomicOp | unfold barInstr | unfold barWait | unfold bkptOp | unfold contOp | unfold copyMcOp | unfold copyOp | unfold copyV2sOp | unfold cpywaitOp | unfold cvjoinOp | unfold cvsetOp | unfold fragOp | unfold gangOp | unfold gtrinvOp | unfold handleOp | unfold handleWait | unfold loadOp | unfold mcbOp | unfold mgangOp | unfold mopfOp | unfold movswOp | unfold mrelOp | unfold nmcOp | unfold nmwaitOp | unfold queueOp | unfold rdvOp | unfold releaseOp | unfold scratchOp | unfold sfuIssue | unfold simple | unfold storeOp | unfold streamOp | unfold transferOp | unfold tretOp)

theorem via_minI32 (g u d a b) (s : State) : Via (.minI32 g u d a b) s := by
  unfold Via; rw [exec_minI32]; unfold execMinI32; repeat (first | exact .inl ⟨_, rfl⟩ | exact .inr (.inl ⟨_, rfl⟩) | unfold atomsOp | unfold ldsOp | unfold stsOp | unfold sfuUnary | unfold acquireOp | unfold aluA | unfold aluAB | unfold aluABD | unfold aluABDF | unfold aluABF | unfold aluCmp | unfold aluMadw | unfold aluPairs | unfold aluPred | unfold atomicOp | unfold barInstr | unfold barWait | unfold bkptOp | unfold contOp | unfold copyMcOp | unfold copyOp | unfold copyV2sOp | unfold cpywaitOp | unfold cvjoinOp | unfold cvsetOp | unfold fragOp | unfold gangOp | unfold gtrinvOp | unfold handleOp | unfold handleWait | unfold loadOp | unfold mcbOp | unfold mgangOp | unfold mopfOp | unfold movswOp | unfold mrelOp | unfold nmcOp | unfold nmwaitOp | unfold queueOp | unfold rdvOp | unfold releaseOp | unfold scratchOp | unfold sfuIssue | unfold simple | unfold storeOp | unfold streamOp | unfold transferOp | unfold tretOp)

theorem via_maxI32 (g u d a b) (s : State) : Via (.maxI32 g u d a b) s := by
  unfold Via; rw [exec_maxI32]; unfold execMaxI32; repeat (first | exact .inl ⟨_, rfl⟩ | exact .inr (.inl ⟨_, rfl⟩) | unfold atomsOp | unfold ldsOp | unfold stsOp | unfold sfuUnary | unfold acquireOp | unfold aluA | unfold aluAB | unfold aluABD | unfold aluABDF | unfold aluABF | unfold aluCmp | unfold aluMadw | unfold aluPairs | unfold aluPred | unfold atomicOp | unfold barInstr | unfold barWait | unfold bkptOp | unfold contOp | unfold copyMcOp | unfold copyOp | unfold copyV2sOp | unfold cpywaitOp | unfold cvjoinOp | unfold cvsetOp | unfold fragOp | unfold gangOp | unfold gtrinvOp | unfold handleOp | unfold handleWait | unfold loadOp | unfold mcbOp | unfold mgangOp | unfold mopfOp | unfold movswOp | unfold mrelOp | unfold nmcOp | unfold nmwaitOp | unfold queueOp | unfold rdvOp | unfold releaseOp | unfold scratchOp | unfold sfuIssue | unfold simple | unfold storeOp | unfold streamOp | unfold transferOp | unfold tretOp)

theorem via_minN32 (g u d a b) (s : State) : Via (.minN32 g u d a b) s := by
  unfold Via; rw [exec_minN32]; unfold execMinN32; repeat (first | exact .inl ⟨_, rfl⟩ | exact .inr (.inl ⟨_, rfl⟩) | unfold atomsOp | unfold ldsOp | unfold stsOp | unfold sfuUnary | unfold acquireOp | unfold aluA | unfold aluAB | unfold aluABD | unfold aluABDF | unfold aluABF | unfold aluCmp | unfold aluMadw | unfold aluPairs | unfold aluPred | unfold atomicOp | unfold barInstr | unfold barWait | unfold bkptOp | unfold contOp | unfold copyMcOp | unfold copyOp | unfold copyV2sOp | unfold cpywaitOp | unfold cvjoinOp | unfold cvsetOp | unfold fragOp | unfold gangOp | unfold gtrinvOp | unfold handleOp | unfold handleWait | unfold loadOp | unfold mcbOp | unfold mgangOp | unfold mopfOp | unfold movswOp | unfold mrelOp | unfold nmcOp | unfold nmwaitOp | unfold queueOp | unfold rdvOp | unfold releaseOp | unfold scratchOp | unfold sfuIssue | unfold simple | unfold storeOp | unfold streamOp | unfold transferOp | unfold tretOp)

theorem via_maxN32 (g u d a b) (s : State) : Via (.maxN32 g u d a b) s := by
  unfold Via; rw [exec_maxN32]; unfold execMaxN32; repeat (first | exact .inl ⟨_, rfl⟩ | exact .inr (.inl ⟨_, rfl⟩) | unfold atomsOp | unfold ldsOp | unfold stsOp | unfold sfuUnary | unfold acquireOp | unfold aluA | unfold aluAB | unfold aluABD | unfold aluABDF | unfold aluABF | unfold aluCmp | unfold aluMadw | unfold aluPairs | unfold aluPred | unfold atomicOp | unfold barInstr | unfold barWait | unfold bkptOp | unfold contOp | unfold copyMcOp | unfold copyOp | unfold copyV2sOp | unfold cpywaitOp | unfold cvjoinOp | unfold cvsetOp | unfold fragOp | unfold gangOp | unfold gtrinvOp | unfold handleOp | unfold handleWait | unfold loadOp | unfold mcbOp | unfold mgangOp | unfold mopfOp | unfold movswOp | unfold mrelOp | unfold nmcOp | unfold nmwaitOp | unfold queueOp | unfold rdvOp | unfold releaseOp | unfold scratchOp | unfold sfuIssue | unfold simple | unfold storeOp | unfold streamOp | unfold transferOp | unfold tretOp)

theorem via_and (g u d a b) (s : State) : Via (.and g u d a b) s := by
  unfold Via; rw [exec_and]; unfold execAnd; repeat (first | exact .inl ⟨_, rfl⟩ | exact .inr (.inl ⟨_, rfl⟩) | unfold atomsOp | unfold ldsOp | unfold stsOp | unfold sfuUnary | unfold acquireOp | unfold aluA | unfold aluAB | unfold aluABD | unfold aluABDF | unfold aluABF | unfold aluCmp | unfold aluMadw | unfold aluPairs | unfold aluPred | unfold atomicOp | unfold barInstr | unfold barWait | unfold bkptOp | unfold contOp | unfold copyMcOp | unfold copyOp | unfold copyV2sOp | unfold cpywaitOp | unfold cvjoinOp | unfold cvsetOp | unfold fragOp | unfold gangOp | unfold gtrinvOp | unfold handleOp | unfold handleWait | unfold loadOp | unfold mcbOp | unfold mgangOp | unfold mopfOp | unfold movswOp | unfold mrelOp | unfold nmcOp | unfold nmwaitOp | unfold queueOp | unfold rdvOp | unfold releaseOp | unfold scratchOp | unfold sfuIssue | unfold simple | unfold storeOp | unfold streamOp | unfold transferOp | unfold tretOp)

theorem via_or (g u d a b) (s : State) : Via (.or g u d a b) s := by
  unfold Via; rw [exec_or]; unfold execOr; repeat (first | exact .inl ⟨_, rfl⟩ | exact .inr (.inl ⟨_, rfl⟩) | unfold atomsOp | unfold ldsOp | unfold stsOp | unfold sfuUnary | unfold acquireOp | unfold aluA | unfold aluAB | unfold aluABD | unfold aluABDF | unfold aluABF | unfold aluCmp | unfold aluMadw | unfold aluPairs | unfold aluPred | unfold atomicOp | unfold barInstr | unfold barWait | unfold bkptOp | unfold contOp | unfold copyMcOp | unfold copyOp | unfold copyV2sOp | unfold cpywaitOp | unfold cvjoinOp | unfold cvsetOp | unfold fragOp | unfold gangOp | unfold gtrinvOp | unfold handleOp | unfold handleWait | unfold loadOp | unfold mcbOp | unfold mgangOp | unfold mopfOp | unfold movswOp | unfold mrelOp | unfold nmcOp | unfold nmwaitOp | unfold queueOp | unfold rdvOp | unfold releaseOp | unfold scratchOp | unfold sfuIssue | unfold simple | unfold storeOp | unfold streamOp | unfold transferOp | unfold tretOp)

theorem via_xor (g u d a b) (s : State) : Via (.xor g u d a b) s := by
  unfold Via; rw [exec_xor]; unfold execXor; repeat (first | exact .inl ⟨_, rfl⟩ | exact .inr (.inl ⟨_, rfl⟩) | unfold atomsOp | unfold ldsOp | unfold stsOp | unfold sfuUnary | unfold acquireOp | unfold aluA | unfold aluAB | unfold aluABD | unfold aluABDF | unfold aluABF | unfold aluCmp | unfold aluMadw | unfold aluPairs | unfold aluPred | unfold atomicOp | unfold barInstr | unfold barWait | unfold bkptOp | unfold contOp | unfold copyMcOp | unfold copyOp | unfold copyV2sOp | unfold cpywaitOp | unfold cvjoinOp | unfold cvsetOp | unfold fragOp | unfold gangOp | unfold gtrinvOp | unfold handleOp | unfold handleWait | unfold loadOp | unfold mcbOp | unfold mgangOp | unfold mopfOp | unfold movswOp | unfold mrelOp | unfold nmcOp | unfold nmwaitOp | unfold queueOp | unfold rdvOp | unfold releaseOp | unfold scratchOp | unfold sfuIssue | unfold simple | unfold storeOp | unfold streamOp | unfold transferOp | unfold tretOp)

theorem via_andn (g u d a b) (s : State) : Via (.andn g u d a b) s := by
  unfold Via; rw [exec_andn]; unfold execAndn; repeat (first | exact .inl ⟨_, rfl⟩ | exact .inr (.inl ⟨_, rfl⟩) | unfold atomsOp | unfold ldsOp | unfold stsOp | unfold sfuUnary | unfold acquireOp | unfold aluA | unfold aluAB | unfold aluABD | unfold aluABDF | unfold aluABF | unfold aluCmp | unfold aluMadw | unfold aluPairs | unfold aluPred | unfold atomicOp | unfold barInstr | unfold barWait | unfold bkptOp | unfold contOp | unfold copyMcOp | unfold copyOp | unfold copyV2sOp | unfold cpywaitOp | unfold cvjoinOp | unfold cvsetOp | unfold fragOp | unfold gangOp | unfold gtrinvOp | unfold handleOp | unfold handleWait | unfold loadOp | unfold mcbOp | unfold mgangOp | unfold mopfOp | unfold movswOp | unfold mrelOp | unfold nmcOp | unfold nmwaitOp | unfold queueOp | unfold rdvOp | unfold releaseOp | unfold scratchOp | unfold sfuIssue | unfold simple | unfold storeOp | unfold streamOp | unfold transferOp | unfold tretOp)

theorem via_shl (g u d a b) (s : State) : Via (.shl g u d a b) s := by
  unfold Via; rw [exec_shl]; unfold execShl; repeat (first | exact .inl ⟨_, rfl⟩ | exact .inr (.inl ⟨_, rfl⟩) | unfold atomsOp | unfold ldsOp | unfold stsOp | unfold sfuUnary | unfold acquireOp | unfold aluA | unfold aluAB | unfold aluABD | unfold aluABDF | unfold aluABF | unfold aluCmp | unfold aluMadw | unfold aluPairs | unfold aluPred | unfold atomicOp | unfold barInstr | unfold barWait | unfold bkptOp | unfold contOp | unfold copyMcOp | unfold copyOp | unfold copyV2sOp | unfold cpywaitOp | unfold cvjoinOp | unfold cvsetOp | unfold fragOp | unfold gangOp | unfold gtrinvOp | unfold handleOp | unfold handleWait | unfold loadOp | unfold mcbOp | unfold mgangOp | unfold mopfOp | unfold movswOp | unfold mrelOp | unfold nmcOp | unfold nmwaitOp | unfold queueOp | unfold rdvOp | unfold releaseOp | unfold scratchOp | unfold sfuIssue | unfold simple | unfold storeOp | unfold streamOp | unfold transferOp | unfold tretOp)

theorem via_shr (g u d a b) (s : State) : Via (.shr g u d a b) s := by
  unfold Via; rw [exec_shr]; unfold execShr; repeat (first | exact .inl ⟨_, rfl⟩ | exact .inr (.inl ⟨_, rfl⟩) | unfold atomsOp | unfold ldsOp | unfold stsOp | unfold sfuUnary | unfold acquireOp | unfold aluA | unfold aluAB | unfold aluABD | unfold aluABDF | unfold aluABF | unfold aluCmp | unfold aluMadw | unfold aluPairs | unfold aluPred | unfold atomicOp | unfold barInstr | unfold barWait | unfold bkptOp | unfold contOp | unfold copyMcOp | unfold copyOp | unfold copyV2sOp | unfold cpywaitOp | unfold cvjoinOp | unfold cvsetOp | unfold fragOp | unfold gangOp | unfold gtrinvOp | unfold handleOp | unfold handleWait | unfold loadOp | unfold mcbOp | unfold mgangOp | unfold mopfOp | unfold movswOp | unfold mrelOp | unfold nmcOp | unfold nmwaitOp | unfold queueOp | unfold rdvOp | unfold releaseOp | unfold scratchOp | unfold sfuIssue | unfold simple | unfold storeOp | unfold streamOp | unfold transferOp | unfold tretOp)

theorem via_sar (g u d a b) (s : State) : Via (.sar g u d a b) s := by
  unfold Via; rw [exec_sar]; unfold execSar; repeat (first | exact .inl ⟨_, rfl⟩ | exact .inr (.inl ⟨_, rfl⟩) | unfold atomsOp | unfold ldsOp | unfold stsOp | unfold sfuUnary | unfold acquireOp | unfold aluA | unfold aluAB | unfold aluABD | unfold aluABDF | unfold aluABF | unfold aluCmp | unfold aluMadw | unfold aluPairs | unfold aluPred | unfold atomicOp | unfold barInstr | unfold barWait | unfold bkptOp | unfold contOp | unfold copyMcOp | unfold copyOp | unfold copyV2sOp | unfold cpywaitOp | unfold cvjoinOp | unfold cvsetOp | unfold fragOp | unfold gangOp | unfold gtrinvOp | unfold handleOp | unfold handleWait | unfold loadOp | unfold mcbOp | unfold mgangOp | unfold mopfOp | unfold movswOp | unfold mrelOp | unfold nmcOp | unfold nmwaitOp | unfold queueOp | unfold rdvOp | unfold releaseOp | unfold scratchOp | unfold sfuIssue | unfold simple | unfold storeOp | unfold streamOp | unfold transferOp | unfold tretOp)

theorem via_popc (g u d a) (s : State) : Via (.popc g u d a) s := by
  unfold Via; rw [exec_popc]; unfold execPopc; repeat (first | exact .inl ⟨_, rfl⟩ | exact .inr (.inl ⟨_, rfl⟩) | unfold atomsOp | unfold ldsOp | unfold stsOp | unfold sfuUnary | unfold acquireOp | unfold aluA | unfold aluAB | unfold aluABD | unfold aluABDF | unfold aluABF | unfold aluCmp | unfold aluMadw | unfold aluPairs | unfold aluPred | unfold atomicOp | unfold barInstr | unfold barWait | unfold bkptOp | unfold contOp | unfold copyMcOp | unfold copyOp | unfold copyV2sOp | unfold cpywaitOp | unfold cvjoinOp | unfold cvsetOp | unfold fragOp | unfold gangOp | unfold gtrinvOp | unfold handleOp | unfold handleWait | unfold loadOp | unfold mcbOp | unfold mgangOp | unfold mopfOp | unfold movswOp | unfold mrelOp | unfold nmcOp | unfold nmwaitOp | unfold queueOp | unfold rdvOp | unfold releaseOp | unfold scratchOp | unfold sfuIssue | unfold simple | unfold storeOp | unfold streamOp | unfold transferOp | unfold tretOp)

theorem via_clz (g u d a) (s : State) : Via (.clz g u d a) s := by
  unfold Via; rw [exec_clz]; unfold execClz; repeat (first | exact .inl ⟨_, rfl⟩ | exact .inr (.inl ⟨_, rfl⟩) | unfold atomsOp | unfold ldsOp | unfold stsOp | unfold sfuUnary | unfold acquireOp | unfold aluA | unfold aluAB | unfold aluABD | unfold aluABDF | unfold aluABF | unfold aluCmp | unfold aluMadw | unfold aluPairs | unfold aluPred | unfold atomicOp | unfold barInstr | unfold barWait | unfold bkptOp | unfold contOp | unfold copyMcOp | unfold copyOp | unfold copyV2sOp | unfold cpywaitOp | unfold cvjoinOp | unfold cvsetOp | unfold fragOp | unfold gangOp | unfold gtrinvOp | unfold handleOp | unfold handleWait | unfold loadOp | unfold mcbOp | unfold mgangOp | unfold mopfOp | unfold movswOp | unfold mrelOp | unfold nmcOp | unfold nmwaitOp | unfold queueOp | unfold rdvOp | unfold releaseOp | unfold scratchOp | unfold sfuIssue | unfold simple | unfold storeOp | unfold streamOp | unfold transferOp | unfold tretOp)

theorem via_brev (g u d a) (s : State) : Via (.brev g u d a) s := by
  unfold Via; rw [exec_brev]; unfold execBrev; repeat (first | exact .inl ⟨_, rfl⟩ | exact .inr (.inl ⟨_, rfl⟩) | unfold atomsOp | unfold ldsOp | unfold stsOp | unfold sfuUnary | unfold acquireOp | unfold aluA | unfold aluAB | unfold aluABD | unfold aluABDF | unfold aluABF | unfold aluCmp | unfold aluMadw | unfold aluPairs | unfold aluPred | unfold atomicOp | unfold barInstr | unfold barWait | unfold bkptOp | unfold contOp | unfold copyMcOp | unfold copyOp | unfold copyV2sOp | unfold cpywaitOp | unfold cvjoinOp | unfold cvsetOp | unfold fragOp | unfold gangOp | unfold gtrinvOp | unfold handleOp | unfold handleWait | unfold loadOp | unfold mcbOp | unfold mgangOp | unfold mopfOp | unfold movswOp | unfold mrelOp | unfold nmcOp | unfold nmwaitOp | unfold queueOp | unfold rdvOp | unfold releaseOp | unfold scratchOp | unfold sfuIssue | unfold simple | unfold storeOp | unfold streamOp | unfold transferOp | unfold tretOp)

theorem via_bfeN32 (g u d a b) (s : State) : Via (.bfeN32 g u d a b) s := by
  unfold Via; rw [exec_bfeN32]; unfold execBfeN32; repeat (first | exact .inl ⟨_, rfl⟩ | exact .inr (.inl ⟨_, rfl⟩) | unfold atomsOp | unfold ldsOp | unfold stsOp | unfold sfuUnary | unfold acquireOp | unfold aluA | unfold aluAB | unfold aluABD | unfold aluABDF | unfold aluABF | unfold aluCmp | unfold aluMadw | unfold aluPairs | unfold aluPred | unfold atomicOp | unfold barInstr | unfold barWait | unfold bkptOp | unfold contOp | unfold copyMcOp | unfold copyOp | unfold copyV2sOp | unfold cpywaitOp | unfold cvjoinOp | unfold cvsetOp | unfold fragOp | unfold gangOp | unfold gtrinvOp | unfold handleOp | unfold handleWait | unfold loadOp | unfold mcbOp | unfold mgangOp | unfold mopfOp | unfold movswOp | unfold mrelOp | unfold nmcOp | unfold nmwaitOp | unfold queueOp | unfold rdvOp | unfold releaseOp | unfold scratchOp | unfold sfuIssue | unfold simple | unfold storeOp | unfold streamOp | unfold transferOp | unfold tretOp)

theorem via_bfeI32 (g u d a b) (s : State) : Via (.bfeI32 g u d a b) s := by
  unfold Via; rw [exec_bfeI32]; unfold execBfeI32; repeat (first | exact .inl ⟨_, rfl⟩ | exact .inr (.inl ⟨_, rfl⟩) | unfold atomsOp | unfold ldsOp | unfold stsOp | unfold sfuUnary | unfold acquireOp | unfold aluA | unfold aluAB | unfold aluABD | unfold aluABDF | unfold aluABF | unfold aluCmp | unfold aluMadw | unfold aluPairs | unfold aluPred | unfold atomicOp | unfold barInstr | unfold barWait | unfold bkptOp | unfold contOp | unfold copyMcOp | unfold copyOp | unfold copyV2sOp | unfold cpywaitOp | unfold cvjoinOp | unfold cvsetOp | unfold fragOp | unfold gangOp | unfold gtrinvOp | unfold handleOp | unfold handleWait | unfold loadOp | unfold mcbOp | unfold mgangOp | unfold mopfOp | unfold movswOp | unfold mrelOp | unfold nmcOp | unfold nmwaitOp | unfold queueOp | unfold rdvOp | unfold releaseOp | unfold scratchOp | unfold sfuIssue | unfold simple | unfold storeOp | unfold streamOp | unfold transferOp | unfold tretOp)

theorem via_bfi (g u d a b) (s : State) : Via (.bfi g u d a b) s := by
  unfold Via; rw [exec_bfi]; unfold execBfi; repeat (first | exact .inl ⟨_, rfl⟩ | exact .inr (.inl ⟨_, rfl⟩) | unfold atomsOp | unfold ldsOp | unfold stsOp | unfold sfuUnary | unfold acquireOp | unfold aluA | unfold aluAB | unfold aluABD | unfold aluABDF | unfold aluABF | unfold aluCmp | unfold aluMadw | unfold aluPairs | unfold aluPred | unfold atomicOp | unfold barInstr | unfold barWait | unfold bkptOp | unfold contOp | unfold copyMcOp | unfold copyOp | unfold copyV2sOp | unfold cpywaitOp | unfold cvjoinOp | unfold cvsetOp | unfold fragOp | unfold gangOp | unfold gtrinvOp | unfold handleOp | unfold handleWait | unfold loadOp | unfold mcbOp | unfold mgangOp | unfold mopfOp | unfold movswOp | unfold mrelOp | unfold nmcOp | unfold nmwaitOp | unfold queueOp | unfold rdvOp | unfold releaseOp | unfold scratchOp | unfold sfuIssue | unfold simple | unfold storeOp | unfold streamOp | unfold transferOp | unfold tretOp)

theorem via_permb (g u d a b) (s : State) : Via (.permb g u d a b) s := by
  unfold Via; rw [exec_permb]; unfold execPermb; repeat (first | exact .inl ⟨_, rfl⟩ | exact .inr (.inl ⟨_, rfl⟩) | unfold atomsOp | unfold ldsOp | unfold stsOp | unfold sfuUnary | unfold acquireOp | unfold aluA | unfold aluAB | unfold aluABD | unfold aluABDF | unfold aluABF | unfold aluCmp | unfold aluMadw | unfold aluPairs | unfold aluPred | unfold atomicOp | unfold barInstr | unfold barWait | unfold bkptOp | unfold contOp | unfold copyMcOp | unfold copyOp | unfold copyV2sOp | unfold cpywaitOp | unfold cvjoinOp | unfold cvsetOp | unfold fragOp | unfold gangOp | unfold gtrinvOp | unfold handleOp | unfold handleWait | unfold loadOp | unfold mcbOp | unfold mgangOp | unfold mopfOp | unfold movswOp | unfold mrelOp | unfold nmcOp | unfold nmwaitOp | unfold queueOp | unfold rdvOp | unfold releaseOp | unfold scratchOp | unfold sfuIssue | unfold simple | unfold storeOp | unfold streamOp | unfold transferOp | unfold tretOp)

theorem via_dot4I8 (g u d a b) (s : State) : Via (.dot4I8 g u d a b) s := by
  unfold Via; rw [exec_dot4I8]; unfold execDot4I8; repeat (first | exact .inl ⟨_, rfl⟩ | exact .inr (.inl ⟨_, rfl⟩) | unfold atomsOp | unfold ldsOp | unfold stsOp | unfold sfuUnary | unfold acquireOp | unfold aluA | unfold aluAB | unfold aluABD | unfold aluABDF | unfold aluABF | unfold aluCmp | unfold aluMadw | unfold aluPairs | unfold aluPred | unfold atomicOp | unfold barInstr | unfold barWait | unfold bkptOp | unfold contOp | unfold copyMcOp | unfold copyOp | unfold copyV2sOp | unfold cpywaitOp | unfold cvjoinOp | unfold cvsetOp | unfold fragOp | unfold gangOp | unfold gtrinvOp | unfold handleOp | unfold handleWait | unfold loadOp | unfold mcbOp | unfold mgangOp | unfold mopfOp | unfold movswOp | unfold mrelOp | unfold nmcOp | unfold nmwaitOp | unfold queueOp | unfold rdvOp | unfold releaseOp | unfold scratchOp | unfold sfuIssue | unfold simple | unfold storeOp | unfold streamOp | unfold transferOp | unfold tretOp)

theorem via_dot4N8 (g u d a b) (s : State) : Via (.dot4N8 g u d a b) s := by
  unfold Via; rw [exec_dot4N8]; unfold execDot4N8; repeat (first | exact .inl ⟨_, rfl⟩ | exact .inr (.inl ⟨_, rfl⟩) | unfold atomsOp | unfold ldsOp | unfold stsOp | unfold sfuUnary | unfold acquireOp | unfold aluA | unfold aluAB | unfold aluABD | unfold aluABDF | unfold aluABF | unfold aluCmp | unfold aluMadw | unfold aluPairs | unfold aluPred | unfold atomicOp | unfold barInstr | unfold barWait | unfold bkptOp | unfold contOp | unfold copyMcOp | unfold copyOp | unfold copyV2sOp | unfold cpywaitOp | unfold cvjoinOp | unfold cvsetOp | unfold fragOp | unfold gangOp | unfold gtrinvOp | unfold handleOp | unfold handleWait | unfold loadOp | unfold mcbOp | unfold mgangOp | unfold mopfOp | unfold movswOp | unfold mrelOp | unfold nmcOp | unfold nmwaitOp | unfold queueOp | unfold rdvOp | unfold releaseOp | unfold scratchOp | unfold sfuIssue | unfold simple | unfold storeOp | unfold streamOp | unfold transferOp | unfold tretOp)

theorem via_setpEq (g u d a b) (s : State) : Via (.setpEq g u d a b) s := by
  unfold Via; rw [exec_setpEq]; unfold execSetpEq; repeat (first | exact .inl ⟨_, rfl⟩ | exact .inr (.inl ⟨_, rfl⟩) | unfold atomsOp | unfold ldsOp | unfold stsOp | unfold sfuUnary | unfold acquireOp | unfold aluA | unfold aluAB | unfold aluABD | unfold aluABDF | unfold aluABF | unfold aluCmp | unfold aluMadw | unfold aluPairs | unfold aluPred | unfold atomicOp | unfold barInstr | unfold barWait | unfold bkptOp | unfold contOp | unfold copyMcOp | unfold copyOp | unfold copyV2sOp | unfold cpywaitOp | unfold cvjoinOp | unfold cvsetOp | unfold fragOp | unfold gangOp | unfold gtrinvOp | unfold handleOp | unfold handleWait | unfold loadOp | unfold mcbOp | unfold mgangOp | unfold mopfOp | unfold movswOp | unfold mrelOp | unfold nmcOp | unfold nmwaitOp | unfold queueOp | unfold rdvOp | unfold releaseOp | unfold scratchOp | unfold sfuIssue | unfold simple | unfold storeOp | unfold streamOp | unfold transferOp | unfold tretOp)

theorem via_setpNe (g u d a b) (s : State) : Via (.setpNe g u d a b) s := by
  unfold Via; rw [exec_setpNe]; unfold execSetpNe; repeat (first | exact .inl ⟨_, rfl⟩ | exact .inr (.inl ⟨_, rfl⟩) | unfold atomsOp | unfold ldsOp | unfold stsOp | unfold sfuUnary | unfold acquireOp | unfold aluA | unfold aluAB | unfold aluABD | unfold aluABDF | unfold aluABF | unfold aluCmp | unfold aluMadw | unfold aluPairs | unfold aluPred | unfold atomicOp | unfold barInstr | unfold barWait | unfold bkptOp | unfold contOp | unfold copyMcOp | unfold copyOp | unfold copyV2sOp | unfold cpywaitOp | unfold cvjoinOp | unfold cvsetOp | unfold fragOp | unfold gangOp | unfold gtrinvOp | unfold handleOp | unfold handleWait | unfold loadOp | unfold mcbOp | unfold mgangOp | unfold mopfOp | unfold movswOp | unfold mrelOp | unfold nmcOp | unfold nmwaitOp | unfold queueOp | unfold rdvOp | unfold releaseOp | unfold scratchOp | unfold sfuIssue | unfold simple | unfold storeOp | unfold streamOp | unfold transferOp | unfold tretOp)

theorem via_setpLtI32 (g u d a b) (s : State) : Via (.setpLtI32 g u d a b) s := by
  unfold Via; rw [exec_setpLtI32]; unfold execSetpLtI32; repeat (first | exact .inl ⟨_, rfl⟩ | exact .inr (.inl ⟨_, rfl⟩) | unfold atomsOp | unfold ldsOp | unfold stsOp | unfold sfuUnary | unfold acquireOp | unfold aluA | unfold aluAB | unfold aluABD | unfold aluABDF | unfold aluABF | unfold aluCmp | unfold aluMadw | unfold aluPairs | unfold aluPred | unfold atomicOp | unfold barInstr | unfold barWait | unfold bkptOp | unfold contOp | unfold copyMcOp | unfold copyOp | unfold copyV2sOp | unfold cpywaitOp | unfold cvjoinOp | unfold cvsetOp | unfold fragOp | unfold gangOp | unfold gtrinvOp | unfold handleOp | unfold handleWait | unfold loadOp | unfold mcbOp | unfold mgangOp | unfold mopfOp | unfold movswOp | unfold mrelOp | unfold nmcOp | unfold nmwaitOp | unfold queueOp | unfold rdvOp | unfold releaseOp | unfold scratchOp | unfold sfuIssue | unfold simple | unfold storeOp | unfold streamOp | unfold transferOp | unfold tretOp)

theorem via_setpLeI32 (g u d a b) (s : State) : Via (.setpLeI32 g u d a b) s := by
  unfold Via; rw [exec_setpLeI32]; unfold execSetpLeI32; repeat (first | exact .inl ⟨_, rfl⟩ | exact .inr (.inl ⟨_, rfl⟩) | unfold atomsOp | unfold ldsOp | unfold stsOp | unfold sfuUnary | unfold acquireOp | unfold aluA | unfold aluAB | unfold aluABD | unfold aluABDF | unfold aluABF | unfold aluCmp | unfold aluMadw | unfold aluPairs | unfold aluPred | unfold atomicOp | unfold barInstr | unfold barWait | unfold bkptOp | unfold contOp | unfold copyMcOp | unfold copyOp | unfold copyV2sOp | unfold cpywaitOp | unfold cvjoinOp | unfold cvsetOp | unfold fragOp | unfold gangOp | unfold gtrinvOp | unfold handleOp | unfold handleWait | unfold loadOp | unfold mcbOp | unfold mgangOp | unfold mopfOp | unfold movswOp | unfold mrelOp | unfold nmcOp | unfold nmwaitOp | unfold queueOp | unfold rdvOp | unfold releaseOp | unfold scratchOp | unfold sfuIssue | unfold simple | unfold storeOp | unfold streamOp | unfold transferOp | unfold tretOp)

theorem via_setpLtN32 (g u d a b) (s : State) : Via (.setpLtN32 g u d a b) s := by
  unfold Via; rw [exec_setpLtN32]; unfold execSetpLtN32; repeat (first | exact .inl ⟨_, rfl⟩ | exact .inr (.inl ⟨_, rfl⟩) | unfold atomsOp | unfold ldsOp | unfold stsOp | unfold sfuUnary | unfold acquireOp | unfold aluA | unfold aluAB | unfold aluABD | unfold aluABDF | unfold aluABF | unfold aluCmp | unfold aluMadw | unfold aluPairs | unfold aluPred | unfold atomicOp | unfold barInstr | unfold barWait | unfold bkptOp | unfold contOp | unfold copyMcOp | unfold copyOp | unfold copyV2sOp | unfold cpywaitOp | unfold cvjoinOp | unfold cvsetOp | unfold fragOp | unfold gangOp | unfold gtrinvOp | unfold handleOp | unfold handleWait | unfold loadOp | unfold mcbOp | unfold mgangOp | unfold mopfOp | unfold movswOp | unfold mrelOp | unfold nmcOp | unfold nmwaitOp | unfold queueOp | unfold rdvOp | unfold releaseOp | unfold scratchOp | unfold sfuIssue | unfold simple | unfold storeOp | unfold streamOp | unfold transferOp | unfold tretOp)

theorem via_setpLeN32 (g u d a b) (s : State) : Via (.setpLeN32 g u d a b) s := by
  unfold Via; rw [exec_setpLeN32]; unfold execSetpLeN32; repeat (first | exact .inl ⟨_, rfl⟩ | exact .inr (.inl ⟨_, rfl⟩) | unfold atomsOp | unfold ldsOp | unfold stsOp | unfold sfuUnary | unfold acquireOp | unfold aluA | unfold aluAB | unfold aluABD | unfold aluABDF | unfold aluABF | unfold aluCmp | unfold aluMadw | unfold aluPairs | unfold aluPred | unfold atomicOp | unfold barInstr | unfold barWait | unfold bkptOp | unfold contOp | unfold copyMcOp | unfold copyOp | unfold copyV2sOp | unfold cpywaitOp | unfold cvjoinOp | unfold cvsetOp | unfold fragOp | unfold gangOp | unfold gtrinvOp | unfold handleOp | unfold handleWait | unfold loadOp | unfold mcbOp | unfold mgangOp | unfold mopfOp | unfold movswOp | unfold mrelOp | unfold nmcOp | unfold nmwaitOp | unfold queueOp | unfold rdvOp | unfold releaseOp | unfold scratchOp | unfold sfuIssue | unfold simple | unfold storeOp | unfold streamOp | unfold transferOp | unfold tretOp)

theorem via_setpEqF32 (g u d a b) (s : State) : Via (.setpEqF32 g u d a b) s := by
  unfold Via; rw [exec_setpEqF32]; unfold execSetpEqF32; repeat (first | exact .inl ⟨_, rfl⟩ | exact .inr (.inl ⟨_, rfl⟩) | unfold atomsOp | unfold ldsOp | unfold stsOp | unfold sfuUnary | unfold acquireOp | unfold aluA | unfold aluAB | unfold aluABD | unfold aluABDF | unfold aluABF | unfold aluCmp | unfold aluMadw | unfold aluPairs | unfold aluPred | unfold atomicOp | unfold barInstr | unfold barWait | unfold bkptOp | unfold contOp | unfold copyMcOp | unfold copyOp | unfold copyV2sOp | unfold cpywaitOp | unfold cvjoinOp | unfold cvsetOp | unfold fragOp | unfold gangOp | unfold gtrinvOp | unfold handleOp | unfold handleWait | unfold loadOp | unfold mcbOp | unfold mgangOp | unfold mopfOp | unfold movswOp | unfold mrelOp | unfold nmcOp | unfold nmwaitOp | unfold queueOp | unfold rdvOp | unfold releaseOp | unfold scratchOp | unfold sfuIssue | unfold simple | unfold storeOp | unfold streamOp | unfold transferOp | unfold tretOp)

theorem via_setpNeF32 (g u d a b) (s : State) : Via (.setpNeF32 g u d a b) s := by
  unfold Via; rw [exec_setpNeF32]; unfold execSetpNeF32; repeat (first | exact .inl ⟨_, rfl⟩ | exact .inr (.inl ⟨_, rfl⟩) | unfold atomsOp | unfold ldsOp | unfold stsOp | unfold sfuUnary | unfold acquireOp | unfold aluA | unfold aluAB | unfold aluABD | unfold aluABDF | unfold aluABF | unfold aluCmp | unfold aluMadw | unfold aluPairs | unfold aluPred | unfold atomicOp | unfold barInstr | unfold barWait | unfold bkptOp | unfold contOp | unfold copyMcOp | unfold copyOp | unfold copyV2sOp | unfold cpywaitOp | unfold cvjoinOp | unfold cvsetOp | unfold fragOp | unfold gangOp | unfold gtrinvOp | unfold handleOp | unfold handleWait | unfold loadOp | unfold mcbOp | unfold mgangOp | unfold mopfOp | unfold movswOp | unfold mrelOp | unfold nmcOp | unfold nmwaitOp | unfold queueOp | unfold rdvOp | unfold releaseOp | unfold scratchOp | unfold sfuIssue | unfold simple | unfold storeOp | unfold streamOp | unfold transferOp | unfold tretOp)

theorem via_setpLtF32 (g u d a b) (s : State) : Via (.setpLtF32 g u d a b) s := by
  unfold Via; rw [exec_setpLtF32]; unfold execSetpLtF32; repeat (first | exact .inl ⟨_, rfl⟩ | exact .inr (.inl ⟨_, rfl⟩) | unfold atomsOp | unfold ldsOp | unfold stsOp | unfold sfuUnary | unfold acquireOp | unfold aluA | unfold aluAB | unfold aluABD | unfold aluABDF | unfold aluABF | unfold aluCmp | unfold aluMadw | unfold aluPairs | unfold aluPred | unfold atomicOp | unfold barInstr | unfold barWait | unfold bkptOp | unfold contOp | unfold copyMcOp | unfold copyOp | unfold copyV2sOp | unfold cpywaitOp | unfold cvjoinOp | unfold cvsetOp | unfold fragOp | unfold gangOp | unfold gtrinvOp | unfold handleOp | unfold handleWait | unfold loadOp | unfold mcbOp | unfold mgangOp | unfold mopfOp | unfold movswOp | unfold mrelOp | unfold nmcOp | unfold nmwaitOp | unfold queueOp | unfold rdvOp | unfold releaseOp | unfold scratchOp | unfold sfuIssue | unfold simple | unfold storeOp | unfold streamOp | unfold transferOp | unfold tretOp)

theorem via_setpLeF32 (g u d a b) (s : State) : Via (.setpLeF32 g u d a b) s := by
  unfold Via; rw [exec_setpLeF32]; unfold execSetpLeF32; repeat (first | exact .inl ⟨_, rfl⟩ | exact .inr (.inl ⟨_, rfl⟩) | unfold atomsOp | unfold ldsOp | unfold stsOp | unfold sfuUnary | unfold acquireOp | unfold aluA | unfold aluAB | unfold aluABD | unfold aluABDF | unfold aluABF | unfold aluCmp | unfold aluMadw | unfold aluPairs | unfold aluPred | unfold atomicOp | unfold barInstr | unfold barWait | unfold bkptOp | unfold contOp | unfold copyMcOp | unfold copyOp | unfold copyV2sOp | unfold cpywaitOp | unfold cvjoinOp | unfold cvsetOp | unfold fragOp | unfold gangOp | unfold gtrinvOp | unfold handleOp | unfold handleWait | unfold loadOp | unfold mcbOp | unfold mgangOp | unfold mopfOp | unfold movswOp | unfold mrelOp | unfold nmcOp | unfold nmwaitOp | unfold queueOp | unfold rdvOp | unfold releaseOp | unfold scratchOp | unfold sfuIssue | unfold simple | unfold storeOp | unfold streamOp | unfold transferOp | unfold tretOp)

theorem via_setpUnF32 (g u d a b) (s : State) : Via (.setpUnF32 g u d a b) s := by
  unfold Via; rw [exec_setpUnF32]; unfold execSetpUnF32; repeat (first | exact .inl ⟨_, rfl⟩ | exact .inr (.inl ⟨_, rfl⟩) | unfold atomsOp | unfold ldsOp | unfold stsOp | unfold sfuUnary | unfold acquireOp | unfold aluA | unfold aluAB | unfold aluABD | unfold aluABDF | unfold aluABF | unfold aluCmp | unfold aluMadw | unfold aluPairs | unfold aluPred | unfold atomicOp | unfold barInstr | unfold barWait | unfold bkptOp | unfold contOp | unfold copyMcOp | unfold copyOp | unfold copyV2sOp | unfold cpywaitOp | unfold cvjoinOp | unfold cvsetOp | unfold fragOp | unfold gangOp | unfold gtrinvOp | unfold handleOp | unfold handleWait | unfold loadOp | unfold mcbOp | unfold mgangOp | unfold mopfOp | unfold movswOp | unfold mrelOp | unfold nmcOp | unfold nmwaitOp | unfold queueOp | unfold rdvOp | unfold releaseOp | unfold scratchOp | unfold sfuIssue | unfold simple | unfold storeOp | unfold streamOp | unfold transferOp | unfold tretOp)

theorem via_sel (g u d a b) (s : State) : Via (.sel g u d a b) s := by
  unfold Via; rw [exec_sel]; unfold execSel; repeat (first | exact .inl ⟨_, rfl⟩ | exact .inr (.inl ⟨_, rfl⟩) | unfold atomsOp | unfold ldsOp | unfold stsOp | unfold sfuUnary | unfold acquireOp | unfold aluA | unfold aluAB | unfold aluABD | unfold aluABDF | unfold aluABF | unfold aluCmp | unfold aluMadw | unfold aluPairs | unfold aluPred | unfold atomicOp | unfold barInstr | unfold barWait | unfold bkptOp | unfold contOp | unfold copyMcOp | unfold copyOp | unfold copyV2sOp | unfold cpywaitOp | unfold cvjoinOp | unfold cvsetOp | unfold fragOp | unfold gangOp | unfold gtrinvOp | unfold handleOp | unfold handleWait | unfold loadOp | unfold mcbOp | unfold mgangOp | unfold mopfOp | unfold movswOp | unfold mrelOp | unfold nmcOp | unfold nmwaitOp | unfold queueOp | unfold rdvOp | unfold releaseOp | unfold scratchOp | unfold sfuIssue | unfold simple | unfold storeOp | unfold streamOp | unfold transferOp | unfold tretOp)

theorem via_pand (g u d a b) (s : State) : Via (.pand g u d a b) s := by
  unfold Via; rw [exec_pand]; unfold execPand; repeat (first | exact .inl ⟨_, rfl⟩ | exact .inr (.inl ⟨_, rfl⟩) | unfold atomsOp | unfold ldsOp | unfold stsOp | unfold sfuUnary | unfold acquireOp | unfold aluA | unfold aluAB | unfold aluABD | unfold aluABDF | unfold aluABF | unfold aluCmp | unfold aluMadw | unfold aluPairs | unfold aluPred | unfold atomicOp | unfold barInstr | unfold barWait | unfold bkptOp | unfold contOp | unfold copyMcOp | unfold copyOp | unfold copyV2sOp | unfold cpywaitOp | unfold cvjoinOp | unfold cvsetOp | unfold fragOp | unfold gangOp | unfold gtrinvOp | unfold handleOp | unfold handleWait | unfold loadOp | unfold mcbOp | unfold mgangOp | unfold mopfOp | unfold movswOp | unfold mrelOp | unfold nmcOp | unfold nmwaitOp | unfold queueOp | unfold rdvOp | unfold releaseOp | unfold scratchOp | unfold sfuIssue | unfold simple | unfold storeOp | unfold streamOp | unfold transferOp | unfold tretOp)

theorem via_por (g u d a b) (s : State) : Via (.por g u d a b) s := by
  unfold Via; rw [exec_por]; unfold execPor; repeat (first | exact .inl ⟨_, rfl⟩ | exact .inr (.inl ⟨_, rfl⟩) | unfold atomsOp | unfold ldsOp | unfold stsOp | unfold sfuUnary | unfold acquireOp | unfold aluA | unfold aluAB | unfold aluABD | unfold aluABDF | unfold aluABF | unfold aluCmp | unfold aluMadw | unfold aluPairs | unfold aluPred | unfold atomicOp | unfold barInstr | unfold barWait | unfold bkptOp | unfold contOp | unfold copyMcOp | unfold copyOp | unfold copyV2sOp | unfold cpywaitOp | unfold cvjoinOp | unfold cvsetOp | unfold fragOp | unfold gangOp | unfold gtrinvOp | unfold handleOp | unfold handleWait | unfold loadOp | unfold mcbOp | unfold mgangOp | unfold mopfOp | unfold movswOp | unfold mrelOp | unfold nmcOp | unfold nmwaitOp | unfold queueOp | unfold rdvOp | unfold releaseOp | unfold scratchOp | unfold sfuIssue | unfold simple | unfold storeOp | unfold streamOp | unfold transferOp | unfold tretOp)

theorem via_pxor (g u d a b) (s : State) : Via (.pxor g u d a b) s := by
  unfold Via; rw [exec_pxor]; unfold execPxor; repeat (first | exact .inl ⟨_, rfl⟩ | exact .inr (.inl ⟨_, rfl⟩) | unfold atomsOp | unfold ldsOp | unfold stsOp | unfold sfuUnary | unfold acquireOp | unfold aluA | unfold aluAB | unfold aluABD | unfold aluABDF | unfold aluABF | unfold aluCmp | unfold aluMadw | unfold aluPairs | unfold aluPred | unfold atomicOp | unfold barInstr | unfold barWait | unfold bkptOp | unfold contOp | unfold copyMcOp | unfold copyOp | unfold copyV2sOp | unfold cpywaitOp | unfold cvjoinOp | unfold cvsetOp | unfold fragOp | unfold gangOp | unfold gtrinvOp | unfold handleOp | unfold handleWait | unfold loadOp | unfold mcbOp | unfold mgangOp | unfold mopfOp | unfold movswOp | unfold mrelOp | unfold nmcOp | unfold nmwaitOp | unfold queueOp | unfold rdvOp | unfold releaseOp | unfold scratchOp | unfold sfuIssue | unfold simple | unfold storeOp | unfold streamOp | unfold transferOp | unfold tretOp)

theorem via_pandn (g u d a b) (s : State) : Via (.pandn g u d a b) s := by
  unfold Via; rw [exec_pandn]; unfold execPandn; repeat (first | exact .inl ⟨_, rfl⟩ | exact .inr (.inl ⟨_, rfl⟩) | unfold atomsOp | unfold ldsOp | unfold stsOp | unfold sfuUnary | unfold acquireOp | unfold aluA | unfold aluAB | unfold aluABD | unfold aluABDF | unfold aluABF | unfold aluCmp | unfold aluMadw | unfold aluPairs | unfold aluPred | unfold atomicOp | unfold barInstr | unfold barWait | unfold bkptOp | unfold contOp | unfold copyMcOp | unfold copyOp | unfold copyV2sOp | unfold cpywaitOp | unfold cvjoinOp | unfold cvsetOp | unfold fragOp | unfold gangOp | unfold gtrinvOp | unfold handleOp | unfold handleWait | unfold loadOp | unfold mcbOp | unfold mgangOp | unfold mopfOp | unfold movswOp | unfold mrelOp | unfold nmcOp | unfold nmwaitOp | unfold queueOp | unfold rdvOp | unfold releaseOp | unfold scratchOp | unfold sfuIssue | unfold simple | unfold storeOp | unfold streamOp | unfold transferOp | unfold tretOp)

theorem via_ppack (g u d a) (s : State) : Via (.ppack g u d a) s := by
  unfold Via; rw [exec_ppack]; unfold execPpack; repeat (first | exact .inl ⟨_, rfl⟩ | exact .inr (.inl ⟨_, rfl⟩) | unfold atomsOp | unfold ldsOp | unfold stsOp | unfold sfuUnary | unfold acquireOp | unfold aluA | unfold aluAB | unfold aluABD | unfold aluABDF | unfold aluABF | unfold aluCmp | unfold aluMadw | unfold aluPairs | unfold aluPred | unfold atomicOp | unfold barInstr | unfold barWait | unfold bkptOp | unfold contOp | unfold copyMcOp | unfold copyOp | unfold copyV2sOp | unfold cpywaitOp | unfold cvjoinOp | unfold cvsetOp | unfold fragOp | unfold gangOp | unfold gtrinvOp | unfold handleOp | unfold handleWait | unfold loadOp | unfold mcbOp | unfold mgangOp | unfold mopfOp | unfold movswOp | unfold mrelOp | unfold nmcOp | unfold nmwaitOp | unfold queueOp | unfold rdvOp | unfold releaseOp | unfold scratchOp | unfold sfuIssue | unfold simple | unfold storeOp | unfold streamOp | unfold transferOp | unfold tretOp)

theorem via_punpack (g u d a) (s : State) : Via (.punpack g u d a) s := by
  unfold Via; rw [exec_punpack]; unfold execPunpack; repeat (first | exact .inl ⟨_, rfl⟩ | exact .inr (.inl ⟨_, rfl⟩) | unfold atomsOp | unfold ldsOp | unfold stsOp | unfold sfuUnary | unfold acquireOp | unfold aluA | unfold aluAB | unfold aluABD | unfold aluABDF | unfold aluABF | unfold aluCmp | unfold aluMadw | unfold aluPairs | unfold aluPred | unfold atomicOp | unfold barInstr | unfold barWait | unfold bkptOp | unfold contOp | unfold copyMcOp | unfold copyOp | unfold copyV2sOp | unfold cpywaitOp | unfold cvjoinOp | unfold cvsetOp | unfold fragOp | unfold gangOp | unfold gtrinvOp | unfold handleOp | unfold handleWait | unfold loadOp | unfold mcbOp | unfold mgangOp | unfold mopfOp | unfold movswOp | unfold mrelOp | unfold nmcOp | unfold nmwaitOp | unfold queueOp | unfold rdvOp | unfold releaseOp | unfold scratchOp | unfold sfuIssue | unfold simple | unfold storeOp | unfold streamOp | unfold transferOp | unfold tretOp)

theorem via_mov (g u d a) (s : State) : Via (.mov g u d a) s := by
  unfold Via; rw [exec_mov]; unfold execMov; repeat (first | exact .inl ⟨_, rfl⟩ | exact .inr (.inl ⟨_, rfl⟩) | unfold atomsOp | unfold ldsOp | unfold stsOp | unfold sfuUnary | unfold acquireOp | unfold aluA | unfold aluAB | unfold aluABD | unfold aluABDF | unfold aluABF | unfold aluCmp | unfold aluMadw | unfold aluPairs | unfold aluPred | unfold atomicOp | unfold barInstr | unfold barWait | unfold bkptOp | unfold contOp | unfold copyMcOp | unfold copyOp | unfold copyV2sOp | unfold cpywaitOp | unfold cvjoinOp | unfold cvsetOp | unfold fragOp | unfold gangOp | unfold gtrinvOp | unfold handleOp | unfold handleWait | unfold loadOp | unfold mcbOp | unfold mgangOp | unfold mopfOp | unfold movswOp | unfold mrelOp | unfold nmcOp | unfold nmwaitOp | unfold queueOp | unfold rdvOp | unfold releaseOp | unfold scratchOp | unfold sfuIssue | unfold simple | unfold storeOp | unfold streamOp | unfold transferOp | unfold tretOp)

theorem via_movi (g u d imm) (s : State) : Via (.movi g u d imm) s := by
  unfold Via; rw [exec_movi]; unfold execMovi; repeat (first | exact .inl ⟨_, rfl⟩ | exact .inr (.inl ⟨_, rfl⟩) | unfold atomsOp | unfold ldsOp | unfold stsOp | unfold sfuUnary | unfold acquireOp | unfold aluA | unfold aluAB | unfold aluABD | unfold aluABDF | unfold aluABF | unfold aluCmp | unfold aluMadw | unfold aluPairs | unfold aluPred | unfold atomicOp | unfold barInstr | unfold barWait | unfold bkptOp | unfold contOp | unfold copyMcOp | unfold copyOp | unfold copyV2sOp | unfold cpywaitOp | unfold cvjoinOp | unfold cvsetOp | unfold fragOp | unfold gangOp | unfold gtrinvOp | unfold handleOp | unfold handleWait | unfold loadOp | unfold mcbOp | unfold mgangOp | unfold mopfOp | unfold movswOp | unfold mrelOp | unfold nmcOp | unfold nmwaitOp | unfold queueOp | unfold rdvOp | unfold releaseOp | unfold scratchOp | unfold sfuIssue | unfold simple | unfold storeOp | unfold streamOp | unfold transferOp | unfold tretOp)

theorem via_moviLiteral (g u d w) (s : State) : Via (.moviLiteral g u d w) s := by
  unfold Via; rw [exec_moviLiteral]; unfold execMoviLiteral; repeat (first | exact .inl ⟨_, rfl⟩ | exact .inr (.inl ⟨_, rfl⟩) | unfold atomsOp | unfold ldsOp | unfold stsOp | unfold sfuUnary | unfold acquireOp | unfold aluA | unfold aluAB | unfold aluABD | unfold aluABDF | unfold aluABF | unfold aluCmp | unfold aluMadw | unfold aluPairs | unfold aluPred | unfold atomicOp | unfold barInstr | unfold barWait | unfold bkptOp | unfold contOp | unfold copyMcOp | unfold copyOp | unfold copyV2sOp | unfold cpywaitOp | unfold cvjoinOp | unfold cvsetOp | unfold fragOp | unfold gangOp | unfold gtrinvOp | unfold handleOp | unfold handleWait | unfold loadOp | unfold mcbOp | unfold mgangOp | unfold mopfOp | unfold movswOp | unfold mrelOp | unfold nmcOp | unfold nmwaitOp | unfold queueOp | unfold rdvOp | unfold releaseOp | unfold scratchOp | unfold sfuIssue | unfold simple | unfold storeOp | unfold streamOp | unfold transferOp | unfold tretOp)

theorem via_fadd (g u d a b) (s : State) : Via (.fadd g u d a b) s := by
  unfold Via; rw [exec_fadd]; unfold execFadd; repeat (first | exact .inl ⟨_, rfl⟩ | exact .inr (.inl ⟨_, rfl⟩) | unfold atomsOp | unfold ldsOp | unfold stsOp | unfold sfuUnary | unfold acquireOp | unfold aluA | unfold aluAB | unfold aluABD | unfold aluABDF | unfold aluABF | unfold aluCmp | unfold aluMadw | unfold aluPairs | unfold aluPred | unfold atomicOp | unfold barInstr | unfold barWait | unfold bkptOp | unfold contOp | unfold copyMcOp | unfold copyOp | unfold copyV2sOp | unfold cpywaitOp | unfold cvjoinOp | unfold cvsetOp | unfold fragOp | unfold gangOp | unfold gtrinvOp | unfold handleOp | unfold handleWait | unfold loadOp | unfold mcbOp | unfold mgangOp | unfold mopfOp | unfold movswOp | unfold mrelOp | unfold nmcOp | unfold nmwaitOp | unfold queueOp | unfold rdvOp | unfold releaseOp | unfold scratchOp | unfold sfuIssue | unfold simple | unfold storeOp | unfold streamOp | unfold transferOp | unfold tretOp)

theorem via_fsub (g u d a b) (s : State) : Via (.fsub g u d a b) s := by
  unfold Via; rw [exec_fsub]; unfold execFsub; repeat (first | exact .inl ⟨_, rfl⟩ | exact .inr (.inl ⟨_, rfl⟩) | unfold atomsOp | unfold ldsOp | unfold stsOp | unfold sfuUnary | unfold acquireOp | unfold aluA | unfold aluAB | unfold aluABD | unfold aluABDF | unfold aluABF | unfold aluCmp | unfold aluMadw | unfold aluPairs | unfold aluPred | unfold atomicOp | unfold barInstr | unfold barWait | unfold bkptOp | unfold contOp | unfold copyMcOp | unfold copyOp | unfold copyV2sOp | unfold cpywaitOp | unfold cvjoinOp | unfold cvsetOp | unfold fragOp | unfold gangOp | unfold gtrinvOp | unfold handleOp | unfold handleWait | unfold loadOp | unfold mcbOp | unfold mgangOp | unfold mopfOp | unfold movswOp | unfold mrelOp | unfold nmcOp | unfold nmwaitOp | unfold queueOp | unfold rdvOp | unfold releaseOp | unfold scratchOp | unfold sfuIssue | unfold simple | unfold storeOp | unfold streamOp | unfold transferOp | unfold tretOp)

theorem via_fmul (g u d a b) (s : State) : Via (.fmul g u d a b) s := by
  unfold Via; rw [exec_fmul]; unfold execFmul; repeat (first | exact .inl ⟨_, rfl⟩ | exact .inr (.inl ⟨_, rfl⟩) | unfold atomsOp | unfold ldsOp | unfold stsOp | unfold sfuUnary | unfold acquireOp | unfold aluA | unfold aluAB | unfold aluABD | unfold aluABDF | unfold aluABF | unfold aluCmp | unfold aluMadw | unfold aluPairs | unfold aluPred | unfold atomicOp | unfold barInstr | unfold barWait | unfold bkptOp | unfold contOp | unfold copyMcOp | unfold copyOp | unfold copyV2sOp | unfold cpywaitOp | unfold cvjoinOp | unfold cvsetOp | unfold fragOp | unfold gangOp | unfold gtrinvOp | unfold handleOp | unfold handleWait | unfold loadOp | unfold mcbOp | unfold mgangOp | unfold mopfOp | unfold movswOp | unfold mrelOp | unfold nmcOp | unfold nmwaitOp | unfold queueOp | unfold rdvOp | unfold releaseOp | unfold scratchOp | unfold sfuIssue | unfold simple | unfold storeOp | unfold streamOp | unfold transferOp | unfold tretOp)

theorem via_ffma (g u d a b) (s : State) : Via (.ffma g u d a b) s := by
  unfold Via; rw [exec_ffma]; unfold execFfma; repeat (first | exact .inl ⟨_, rfl⟩ | exact .inr (.inl ⟨_, rfl⟩) | unfold atomsOp | unfold ldsOp | unfold stsOp | unfold sfuUnary | unfold acquireOp | unfold aluA | unfold aluAB | unfold aluABD | unfold aluABDF | unfold aluABF | unfold aluCmp | unfold aluMadw | unfold aluPairs | unfold aluPred | unfold atomicOp | unfold barInstr | unfold barWait | unfold bkptOp | unfold contOp | unfold copyMcOp | unfold copyOp | unfold copyV2sOp | unfold cpywaitOp | unfold cvjoinOp | unfold cvsetOp | unfold fragOp | unfold gangOp | unfold gtrinvOp | unfold handleOp | unfold handleWait | unfold loadOp | unfold mcbOp | unfold mgangOp | unfold mopfOp | unfold movswOp | unfold mrelOp | unfold nmcOp | unfold nmwaitOp | unfold queueOp | unfold rdvOp | unfold releaseOp | unfold scratchOp | unfold sfuIssue | unfold simple | unfold storeOp | unfold streamOp | unfold transferOp | unfold tretOp)

theorem via_fmin (g u d a b) (s : State) : Via (.fmin g u d a b) s := by
  unfold Via; rw [exec_fmin]; unfold execFmin; repeat (first | exact .inl ⟨_, rfl⟩ | exact .inr (.inl ⟨_, rfl⟩) | unfold atomsOp | unfold ldsOp | unfold stsOp | unfold sfuUnary | unfold acquireOp | unfold aluA | unfold aluAB | unfold aluABD | unfold aluABDF | unfold aluABF | unfold aluCmp | unfold aluMadw | unfold aluPairs | unfold aluPred | unfold atomicOp | unfold barInstr | unfold barWait | unfold bkptOp | unfold contOp | unfold copyMcOp | unfold copyOp | unfold copyV2sOp | unfold cpywaitOp | unfold cvjoinOp | unfold cvsetOp | unfold fragOp | unfold gangOp | unfold gtrinvOp | unfold handleOp | unfold handleWait | unfold loadOp | unfold mcbOp | unfold mgangOp | unfold mopfOp | unfold movswOp | unfold mrelOp | unfold nmcOp | unfold nmwaitOp | unfold queueOp | unfold rdvOp | unfold releaseOp | unfold scratchOp | unfold sfuIssue | unfold simple | unfold storeOp | unfold streamOp | unfold transferOp | unfold tretOp)

theorem via_fmax (g u d a b) (s : State) : Via (.fmax g u d a b) s := by
  unfold Via; rw [exec_fmax]; unfold execFmax; repeat (first | exact .inl ⟨_, rfl⟩ | exact .inr (.inl ⟨_, rfl⟩) | unfold atomsOp | unfold ldsOp | unfold stsOp | unfold sfuUnary | unfold acquireOp | unfold aluA | unfold aluAB | unfold aluABD | unfold aluABDF | unfold aluABF | unfold aluCmp | unfold aluMadw | unfold aluPairs | unfold aluPred | unfold atomicOp | unfold barInstr | unfold barWait | unfold bkptOp | unfold contOp | unfold copyMcOp | unfold copyOp | unfold copyV2sOp | unfold cpywaitOp | unfold cvjoinOp | unfold cvsetOp | unfold fragOp | unfold gangOp | unfold gtrinvOp | unfold handleOp | unfold handleWait | unfold loadOp | unfold mcbOp | unfold mgangOp | unfold mopfOp | unfold movswOp | unfold mrelOp | unfold nmcOp | unfold nmwaitOp | unfold queueOp | unfold rdvOp | unfold releaseOp | unfold scratchOp | unfold sfuIssue | unfold simple | unfold storeOp | unfold streamOp | unfold transferOp | unfold tretOp)

theorem via_hfma2 (g u d a b) (s : State) : Via (.hfma2 g u d a b) s := by
  unfold Via; rw [exec_hfma2]; unfold execHfma2; repeat (first | exact .inl ⟨_, rfl⟩ | exact .inr (.inl ⟨_, rfl⟩) | unfold atomsOp | unfold ldsOp | unfold stsOp | unfold sfuUnary | unfold acquireOp | unfold aluA | unfold aluAB | unfold aluABD | unfold aluABDF | unfold aluABF | unfold aluCmp | unfold aluMadw | unfold aluPairs | unfold aluPred | unfold atomicOp | unfold barInstr | unfold barWait | unfold bkptOp | unfold contOp | unfold copyMcOp | unfold copyOp | unfold copyV2sOp | unfold cpywaitOp | unfold cvjoinOp | unfold cvsetOp | unfold fragOp | unfold gangOp | unfold gtrinvOp | unfold handleOp | unfold handleWait | unfold loadOp | unfold mcbOp | unfold mgangOp | unfold mopfOp | unfold movswOp | unfold mrelOp | unfold nmcOp | unfold nmwaitOp | unfold queueOp | unfold rdvOp | unfold releaseOp | unfold scratchOp | unfold sfuIssue | unfold simple | unfold storeOp | unfold streamOp | unfold transferOp | unfold tretOp)

theorem via_hadd2 (g u d a b) (s : State) : Via (.hadd2 g u d a b) s := by
  unfold Via; rw [exec_hadd2]; unfold execHadd2; repeat (first | exact .inl ⟨_, rfl⟩ | exact .inr (.inl ⟨_, rfl⟩) | unfold atomsOp | unfold ldsOp | unfold stsOp | unfold sfuUnary | unfold acquireOp | unfold aluA | unfold aluAB | unfold aluABD | unfold aluABDF | unfold aluABF | unfold aluCmp | unfold aluMadw | unfold aluPairs | unfold aluPred | unfold atomicOp | unfold barInstr | unfold barWait | unfold bkptOp | unfold contOp | unfold copyMcOp | unfold copyOp | unfold copyV2sOp | unfold cpywaitOp | unfold cvjoinOp | unfold cvsetOp | unfold fragOp | unfold gangOp | unfold gtrinvOp | unfold handleOp | unfold handleWait | unfold loadOp | unfold mcbOp | unfold mgangOp | unfold mopfOp | unfold movswOp | unfold mrelOp | unfold nmcOp | unfold nmwaitOp | unfold queueOp | unfold rdvOp | unfold releaseOp | unfold scratchOp | unfold sfuIssue | unfold simple | unfold storeOp | unfold streamOp | unfold transferOp | unfold tretOp)

theorem via_hmul2 (g u d a b) (s : State) : Via (.hmul2 g u d a b) s := by
  unfold Via; rw [exec_hmul2]; unfold execHmul2; repeat (first | exact .inl ⟨_, rfl⟩ | exact .inr (.inl ⟨_, rfl⟩) | unfold atomsOp | unfold ldsOp | unfold stsOp | unfold sfuUnary | unfold acquireOp | unfold aluA | unfold aluAB | unfold aluABD | unfold aluABDF | unfold aluABF | unfold aluCmp | unfold aluMadw | unfold aluPairs | unfold aluPred | unfold atomicOp | unfold barInstr | unfold barWait | unfold bkptOp | unfold contOp | unfold copyMcOp | unfold copyOp | unfold copyV2sOp | unfold cpywaitOp | unfold cvjoinOp | unfold cvsetOp | unfold fragOp | unfold gangOp | unfold gtrinvOp | unfold handleOp | unfold handleWait | unfold loadOp | unfold mcbOp | unfold mgangOp | unfold mopfOp | unfold movswOp | unfold mrelOp | unfold nmcOp | unfold nmwaitOp | unfold queueOp | unfold rdvOp | unfold releaseOp | unfold scratchOp | unfold sfuIssue | unfold simple | unfold storeOp | unfold streamOp | unfold transferOp | unfold tretOp)

theorem via_bfma2 (g u d a b) (s : State) : Via (.bfma2 g u d a b) s := by
  unfold Via; rw [exec_bfma2]; unfold execBfma2; repeat (first | exact .inl ⟨_, rfl⟩ | exact .inr (.inl ⟨_, rfl⟩) | unfold atomsOp | unfold ldsOp | unfold stsOp | unfold sfuUnary | unfold acquireOp | unfold aluA | unfold aluAB | unfold aluABD | unfold aluABDF | unfold aluABF | unfold aluCmp | unfold aluMadw | unfold aluPairs | unfold aluPred | unfold atomicOp | unfold barInstr | unfold barWait | unfold bkptOp | unfold contOp | unfold copyMcOp | unfold copyOp | unfold copyV2sOp | unfold cpywaitOp | unfold cvjoinOp | unfold cvsetOp | unfold fragOp | unfold gangOp | unfold gtrinvOp | unfold handleOp | unfold handleWait | unfold loadOp | unfold mcbOp | unfold mgangOp | unfold mopfOp | unfold movswOp | unfold mrelOp | unfold nmcOp | unfold nmwaitOp | unfold queueOp | unfold rdvOp | unfold releaseOp | unfold scratchOp | unfold sfuIssue | unfold simple | unfold storeOp | unfold streamOp | unfold transferOp | unfold tretOp)

theorem via_movs (g u d sr) (s : State) : Via (.movs g u d sr) s := by
  unfold Via; rw [exec_movs]; unfold execMovs; repeat (first | exact .inl ⟨_, rfl⟩ | exact .inr (.inl ⟨_, rfl⟩) | unfold atomsOp | unfold ldsOp | unfold stsOp | unfold sfuUnary | unfold acquireOp | unfold aluA | unfold aluAB | unfold aluABD | unfold aluABDF | unfold aluABF | unfold aluCmp | unfold aluMadw | unfold aluPairs | unfold aluPred | unfold atomicOp | unfold barInstr | unfold barWait | unfold bkptOp | unfold contOp | unfold copyMcOp | unfold copyOp | unfold copyV2sOp | unfold cpywaitOp | unfold cvjoinOp | unfold cvsetOp | unfold fragOp | unfold gangOp | unfold gtrinvOp | unfold handleOp | unfold handleWait | unfold loadOp | unfold mcbOp | unfold mgangOp | unfold mopfOp | unfold movswOp | unfold mrelOp | unfold nmcOp | unfold nmwaitOp | unfold queueOp | unfold rdvOp | unfold releaseOp | unfold scratchOp | unfold sfuIssue | unfold simple | unfold storeOp | unfold streamOp | unfold transferOp | unfold tretOp)

theorem via_movsw (g u d sr) (s : State) : Via (.movsw g u d sr) s := by
  unfold Via; rw [exec_movsw]; unfold execMovsw; repeat (first | exact .inl ⟨_, rfl⟩ | exact .inr (.inl ⟨_, rfl⟩) | unfold atomsOp | unfold ldsOp | unfold stsOp | unfold sfuUnary | unfold acquireOp | unfold aluA | unfold aluAB | unfold aluABD | unfold aluABDF | unfold aluABF | unfold aluCmp | unfold aluMadw | unfold aluPairs | unfold aluPred | unfold atomicOp | unfold barInstr | unfold barWait | unfold bkptOp | unfold contOp | unfold copyMcOp | unfold copyOp | unfold copyV2sOp | unfold cpywaitOp | unfold cvjoinOp | unfold cvsetOp | unfold fragOp | unfold gangOp | unfold gtrinvOp | unfold handleOp | unfold handleWait | unfold loadOp | unfold mcbOp | unfold mgangOp | unfold mopfOp | unfold movswOp | unfold mrelOp | unfold nmcOp | unfold nmwaitOp | unfold queueOp | unfold rdvOp | unfold releaseOp | unfold scratchOp | unfold sfuIssue | unfold simple | unfold storeOp | unfold streamOp | unfold transferOp | unfold tretOp)

theorem via_cvtF32I32 (g u d a la) (s : State) : Via (.cvtF32I32 g u d a la) s := by
  unfold Via; rw [exec_cvtF32I32]; unfold execCvtF32I32; repeat (first | exact .inl ⟨_, rfl⟩ | exact .inr (.inl ⟨_, rfl⟩) | unfold atomsOp | unfold ldsOp | unfold stsOp | unfold sfuUnary | unfold acquireOp | unfold aluA | unfold aluAB | unfold aluABD | unfold aluABDF | unfold aluABF | unfold aluCmp | unfold aluMadw | unfold aluPairs | unfold aluPred | unfold atomicOp | unfold barInstr | unfold barWait | unfold bkptOp | unfold contOp | unfold copyMcOp | unfold copyOp | unfold copyV2sOp | unfold cpywaitOp | unfold cvjoinOp | unfold cvsetOp | unfold fragOp | unfold gangOp | unfold gtrinvOp | unfold handleOp | unfold handleWait | unfold loadOp | unfold mcbOp | unfold mgangOp | unfold mopfOp | unfold movswOp | unfold mrelOp | unfold nmcOp | unfold nmwaitOp | unfold queueOp | unfold rdvOp | unfold releaseOp | unfold scratchOp | unfold sfuIssue | unfold simple | unfold storeOp | unfold streamOp | unfold transferOp | unfold tretOp)

theorem via_cvtF32N32 (g u d a la) (s : State) : Via (.cvtF32N32 g u d a la) s := by
  unfold Via; rw [exec_cvtF32N32]; unfold execCvtF32N32; repeat (first | exact .inl ⟨_, rfl⟩ | exact .inr (.inl ⟨_, rfl⟩) | unfold atomsOp | unfold ldsOp | unfold stsOp | unfold sfuUnary | unfold acquireOp | unfold aluA | unfold aluAB | unfold aluABD | unfold aluABDF | unfold aluABF | unfold aluCmp | unfold aluMadw | unfold aluPairs | unfold aluPred | unfold atomicOp | unfold barInstr | unfold barWait | unfold bkptOp | unfold contOp | unfold copyMcOp | unfold copyOp | unfold copyV2sOp | unfold cpywaitOp | unfold cvjoinOp | unfold cvsetOp | unfold fragOp | unfold gangOp | unfold gtrinvOp | unfold handleOp | unfold handleWait | unfold loadOp | unfold mcbOp | unfold mgangOp | unfold mopfOp | unfold movswOp | unfold mrelOp | unfold nmcOp | unfold nmwaitOp | unfold queueOp | unfold rdvOp | unfold releaseOp | unfold scratchOp | unfold sfuIssue | unfold simple | unfold storeOp | unfold streamOp | unfold transferOp | unfold tretOp)

theorem via_cvtI32F32 (g u d a la) (s : State) : Via (.cvtI32F32 g u d a la) s := by
  unfold Via; rw [exec_cvtI32F32]; unfold execCvtI32F32; repeat (first | exact .inl ⟨_, rfl⟩ | exact .inr (.inl ⟨_, rfl⟩) | unfold atomsOp | unfold ldsOp | unfold stsOp | unfold sfuUnary | unfold acquireOp | unfold aluA | unfold aluAB | unfold aluABD | unfold aluABDF | unfold aluABF | unfold aluCmp | unfold aluMadw | unfold aluPairs | unfold aluPred | unfold atomicOp | unfold barInstr | unfold barWait | unfold bkptOp | unfold contOp | unfold copyMcOp | unfold copyOp | unfold copyV2sOp | unfold cpywaitOp | unfold cvjoinOp | unfold cvsetOp | unfold fragOp | unfold gangOp | unfold gtrinvOp | unfold handleOp | unfold handleWait | unfold loadOp | unfold mcbOp | unfold mgangOp | unfold mopfOp | unfold movswOp | unfold mrelOp | unfold nmcOp | unfold nmwaitOp | unfold queueOp | unfold rdvOp | unfold releaseOp | unfold scratchOp | unfold sfuIssue | unfold simple | unfold storeOp | unfold streamOp | unfold transferOp | unfold tretOp)

theorem via_cvtN32F32 (g u d a la) (s : State) : Via (.cvtN32F32 g u d a la) s := by
  unfold Via; rw [exec_cvtN32F32]; unfold execCvtN32F32; repeat (first | exact .inl ⟨_, rfl⟩ | exact .inr (.inl ⟨_, rfl⟩) | unfold atomsOp | unfold ldsOp | unfold stsOp | unfold sfuUnary | unfold acquireOp | unfold aluA | unfold aluAB | unfold aluABD | unfold aluABDF | unfold aluABF | unfold aluCmp | unfold aluMadw | unfold aluPairs | unfold aluPred | unfold atomicOp | unfold barInstr | unfold barWait | unfold bkptOp | unfold contOp | unfold copyMcOp | unfold copyOp | unfold copyV2sOp | unfold cpywaitOp | unfold cvjoinOp | unfold cvsetOp | unfold fragOp | unfold gangOp | unfold gtrinvOp | unfold handleOp | unfold handleWait | unfold loadOp | unfold mcbOp | unfold mgangOp | unfold mopfOp | unfold movswOp | unfold mrelOp | unfold nmcOp | unfold nmwaitOp | unfold queueOp | unfold rdvOp | unfold releaseOp | unfold scratchOp | unfold sfuIssue | unfold simple | unfold storeOp | unfold streamOp | unfold transferOp | unfold tretOp)

theorem via_cvtF16F32 (g u d a la) (s : State) : Via (.cvtF16F32 g u d a la) s := by
  unfold Via; rw [exec_cvtF16F32]; unfold execCvtF16F32; repeat (first | exact .inl ⟨_, rfl⟩ | exact .inr (.inl ⟨_, rfl⟩) | unfold atomsOp | unfold ldsOp | unfold stsOp | unfold sfuUnary | unfold acquireOp | unfold aluA | unfold aluAB | unfold aluABD | unfold aluABDF | unfold aluABF | unfold aluCmp | unfold aluMadw | unfold aluPairs | unfold aluPred | unfold atomicOp | unfold barInstr | unfold barWait | unfold bkptOp | unfold contOp | unfold copyMcOp | unfold copyOp | unfold copyV2sOp | unfold cpywaitOp | unfold cvjoinOp | unfold cvsetOp | unfold fragOp | unfold gangOp | unfold gtrinvOp | unfold handleOp | unfold handleWait | unfold loadOp | unfold mcbOp | unfold mgangOp | unfold mopfOp | unfold movswOp | unfold mrelOp | unfold nmcOp | unfold nmwaitOp | unfold queueOp | unfold rdvOp | unfold releaseOp | unfold scratchOp | unfold sfuIssue | unfold simple | unfold storeOp | unfold streamOp | unfold transferOp | unfold tretOp)

theorem via_cvtBf16F32 (g u d a la) (s : State) : Via (.cvtBf16F32 g u d a la) s := by
  unfold Via; rw [exec_cvtBf16F32]; unfold execCvtBf16F32; repeat (first | exact .inl ⟨_, rfl⟩ | exact .inr (.inl ⟨_, rfl⟩) | unfold atomsOp | unfold ldsOp | unfold stsOp | unfold sfuUnary | unfold acquireOp | unfold aluA | unfold aluAB | unfold aluABD | unfold aluABDF | unfold aluABF | unfold aluCmp | unfold aluMadw | unfold aluPairs | unfold aluPred | unfold atomicOp | unfold barInstr | unfold barWait | unfold bkptOp | unfold contOp | unfold copyMcOp | unfold copyOp | unfold copyV2sOp | unfold cpywaitOp | unfold cvjoinOp | unfold cvsetOp | unfold fragOp | unfold gangOp | unfold gtrinvOp | unfold handleOp | unfold handleWait | unfold loadOp | unfold mcbOp | unfold mgangOp | unfold mopfOp | unfold movswOp | unfold mrelOp | unfold nmcOp | unfold nmwaitOp | unfold queueOp | unfold rdvOp | unfold releaseOp | unfold scratchOp | unfold sfuIssue | unfold simple | unfold storeOp | unfold streamOp | unfold transferOp | unfold tretOp)

theorem via_cvtE4m3F32 (g u d a la) (s : State) : Via (.cvtE4m3F32 g u d a la) s := by
  unfold Via; rw [exec_cvtE4m3F32]; unfold execCvtE4m3F32; repeat (first | exact .inl ⟨_, rfl⟩ | exact .inr (.inl ⟨_, rfl⟩) | unfold atomsOp | unfold ldsOp | unfold stsOp | unfold sfuUnary | unfold acquireOp | unfold aluA | unfold aluAB | unfold aluABD | unfold aluABDF | unfold aluABF | unfold aluCmp | unfold aluMadw | unfold aluPairs | unfold aluPred | unfold atomicOp | unfold barInstr | unfold barWait | unfold bkptOp | unfold contOp | unfold copyMcOp | unfold copyOp | unfold copyV2sOp | unfold cpywaitOp | unfold cvjoinOp | unfold cvsetOp | unfold fragOp | unfold gangOp | unfold gtrinvOp | unfold handleOp | unfold handleWait | unfold loadOp | unfold mcbOp | unfold mgangOp | unfold mopfOp | unfold movswOp | unfold mrelOp | unfold nmcOp | unfold nmwaitOp | unfold queueOp | unfold rdvOp | unfold releaseOp | unfold scratchOp | unfold sfuIssue | unfold simple | unfold storeOp | unfold streamOp | unfold transferOp | unfold tretOp)

theorem via_cvtE5m2F32 (g u d a la) (s : State) : Via (.cvtE5m2F32 g u d a la) s := by
  unfold Via; rw [exec_cvtE5m2F32]; unfold execCvtE5m2F32; repeat (first | exact .inl ⟨_, rfl⟩ | exact .inr (.inl ⟨_, rfl⟩) | unfold atomsOp | unfold ldsOp | unfold stsOp | unfold sfuUnary | unfold acquireOp | unfold aluA | unfold aluAB | unfold aluABD | unfold aluABDF | unfold aluABF | unfold aluCmp | unfold aluMadw | unfold aluPairs | unfold aluPred | unfold atomicOp | unfold barInstr | unfold barWait | unfold bkptOp | unfold contOp | unfold copyMcOp | unfold copyOp | unfold copyV2sOp | unfold cpywaitOp | unfold cvjoinOp | unfold cvsetOp | unfold fragOp | unfold gangOp | unfold gtrinvOp | unfold handleOp | unfold handleWait | unfold loadOp | unfold mcbOp | unfold mgangOp | unfold mopfOp | unfold movswOp | unfold mrelOp | unfold nmcOp | unfold nmwaitOp | unfold queueOp | unfold rdvOp | unfold releaseOp | unfold scratchOp | unfold sfuIssue | unfold simple | unfold storeOp | unfold streamOp | unfold transferOp | unfold tretOp)

theorem via_cvtF32F16 (g u d a la sel) (s : State) : Via (.cvtF32F16 g u d a la sel) s := by
  unfold Via; rw [exec_cvtF32F16]; unfold execCvtF32F16; repeat (first | exact .inl ⟨_, rfl⟩ | exact .inr (.inl ⟨_, rfl⟩) | unfold atomsOp | unfold ldsOp | unfold stsOp | unfold sfuUnary | unfold acquireOp | unfold aluA | unfold aluAB | unfold aluABD | unfold aluABDF | unfold aluABF | unfold aluCmp | unfold aluMadw | unfold aluPairs | unfold aluPred | unfold atomicOp | unfold barInstr | unfold barWait | unfold bkptOp | unfold contOp | unfold copyMcOp | unfold copyOp | unfold copyV2sOp | unfold cpywaitOp | unfold cvjoinOp | unfold cvsetOp | unfold fragOp | unfold gangOp | unfold gtrinvOp | unfold handleOp | unfold handleWait | unfold loadOp | unfold mcbOp | unfold mgangOp | unfold mopfOp | unfold movswOp | unfold mrelOp | unfold nmcOp | unfold nmwaitOp | unfold queueOp | unfold rdvOp | unfold releaseOp | unfold scratchOp | unfold sfuIssue | unfold simple | unfold storeOp | unfold streamOp | unfold transferOp | unfold tretOp)

theorem via_cvtF32Bf16 (g u d a la sel) (s : State) : Via (.cvtF32Bf16 g u d a la sel) s := by
  unfold Via; rw [exec_cvtF32Bf16]; unfold execCvtF32Bf16; repeat (first | exact .inl ⟨_, rfl⟩ | exact .inr (.inl ⟨_, rfl⟩) | unfold atomsOp | unfold ldsOp | unfold stsOp | unfold sfuUnary | unfold acquireOp | unfold aluA | unfold aluAB | unfold aluABD | unfold aluABDF | unfold aluABF | unfold aluCmp | unfold aluMadw | unfold aluPairs | unfold aluPred | unfold atomicOp | unfold barInstr | unfold barWait | unfold bkptOp | unfold contOp | unfold copyMcOp | unfold copyOp | unfold copyV2sOp | unfold cpywaitOp | unfold cvjoinOp | unfold cvsetOp | unfold fragOp | unfold gangOp | unfold gtrinvOp | unfold handleOp | unfold handleWait | unfold loadOp | unfold mcbOp | unfold mgangOp | unfold mopfOp | unfold movswOp | unfold mrelOp | unfold nmcOp | unfold nmwaitOp | unfold queueOp | unfold rdvOp | unfold releaseOp | unfold scratchOp | unfold sfuIssue | unfold simple | unfold storeOp | unfold streamOp | unfold transferOp | unfold tretOp)

theorem via_cvtF32E4m3 (g u d a la sel) (s : State) : Via (.cvtF32E4m3 g u d a la sel) s := by
  unfold Via; rw [exec_cvtF32E4m3]; unfold execCvtF32E4m3; repeat (first | exact .inl ⟨_, rfl⟩ | exact .inr (.inl ⟨_, rfl⟩) | unfold atomsOp | unfold ldsOp | unfold stsOp | unfold sfuUnary | unfold acquireOp | unfold aluA | unfold aluAB | unfold aluABD | unfold aluABDF | unfold aluABF | unfold aluCmp | unfold aluMadw | unfold aluPairs | unfold aluPred | unfold atomicOp | unfold barInstr | unfold barWait | unfold bkptOp | unfold contOp | unfold copyMcOp | unfold copyOp | unfold copyV2sOp | unfold cpywaitOp | unfold cvjoinOp | unfold cvsetOp | unfold fragOp | unfold gangOp | unfold gtrinvOp | unfold handleOp | unfold handleWait | unfold loadOp | unfold mcbOp | unfold mgangOp | unfold mopfOp | unfold movswOp | unfold mrelOp | unfold nmcOp | unfold nmwaitOp | unfold queueOp | unfold rdvOp | unfold releaseOp | unfold scratchOp | unfold sfuIssue | unfold simple | unfold storeOp | unfold streamOp | unfold transferOp | unfold tretOp)

theorem via_cvtF32E5m2 (g u d a la sel) (s : State) : Via (.cvtF32E5m2 g u d a la sel) s := by
  unfold Via; rw [exec_cvtF32E5m2]; unfold execCvtF32E5m2; repeat (first | exact .inl ⟨_, rfl⟩ | exact .inr (.inl ⟨_, rfl⟩) | unfold atomsOp | unfold ldsOp | unfold stsOp | unfold sfuUnary | unfold acquireOp | unfold aluA | unfold aluAB | unfold aluABD | unfold aluABDF | unfold aluABF | unfold aluCmp | unfold aluMadw | unfold aluPairs | unfold aluPred | unfold atomicOp | unfold barInstr | unfold barWait | unfold bkptOp | unfold contOp | unfold copyMcOp | unfold copyOp | unfold copyV2sOp | unfold cpywaitOp | unfold cvjoinOp | unfold cvsetOp | unfold fragOp | unfold gangOp | unfold gtrinvOp | unfold handleOp | unfold handleWait | unfold loadOp | unfold mcbOp | unfold mgangOp | unfold mopfOp | unfold movswOp | unfold mrelOp | unfold nmcOp | unfold nmwaitOp | unfold queueOp | unfold rdvOp | unfold releaseOp | unfold scratchOp | unfold sfuIssue | unfold simple | unfold storeOp | unfold streamOp | unfold transferOp | unfold tretOp)

theorem via_unpk8Cb4 (g u d a la sel) (s : State) : Via (.unpk8Cb4 g u d a la sel) s := by
  unfold Via; rw [exec_unpk8Cb4]; unfold execUnpk8Cb4; repeat (first | exact .inl ⟨_, rfl⟩ | exact .inr (.inl ⟨_, rfl⟩) | unfold atomsOp | unfold ldsOp | unfold stsOp | unfold sfuUnary | unfold acquireOp | unfold aluA | unfold aluAB | unfold aluABD | unfold aluABDF | unfold aluABF | unfold aluCmp | unfold aluMadw | unfold aluPairs | unfold aluPred | unfold atomicOp | unfold barInstr | unfold barWait | unfold bkptOp | unfold contOp | unfold copyMcOp | unfold copyOp | unfold copyV2sOp | unfold cpywaitOp | unfold cvjoinOp | unfold cvsetOp | unfold fragOp | unfold gangOp | unfold gtrinvOp | unfold handleOp | unfold handleWait | unfold loadOp | unfold mcbOp | unfold mgangOp | unfold mopfOp | unfold movswOp | unfold mrelOp | unfold nmcOp | unfold nmwaitOp | unfold queueOp | unfold rdvOp | unfold releaseOp | unfold scratchOp | unfold sfuIssue | unfold simple | unfold storeOp | unfold streamOp | unfold transferOp | unfold tretOp)

theorem via_qntCb4 (g u d a la sel) (s : State) : Via (.qntCb4 g u d a la sel) s := by
  unfold Via; rw [exec_qntCb4]; unfold execQntCb4; repeat (first | exact .inl ⟨_, rfl⟩ | exact .inr (.inl ⟨_, rfl⟩) | unfold atomsOp | unfold ldsOp | unfold stsOp | unfold sfuUnary | unfold acquireOp | unfold aluA | unfold aluAB | unfold aluABD | unfold aluABDF | unfold aluABF | unfold aluCmp | unfold aluMadw | unfold aluPairs | unfold aluPred | unfold atomicOp | unfold barInstr | unfold barWait | unfold bkptOp | unfold contOp | unfold copyMcOp | unfold copyOp | unfold copyV2sOp | unfold cpywaitOp | unfold cvjoinOp | unfold cvsetOp | unfold fragOp | unfold gangOp | unfold gtrinvOp | unfold handleOp | unfold handleWait | unfold loadOp | unfold mcbOp | unfold mgangOp | unfold mopfOp | unfold movswOp | unfold mrelOp | unfold nmcOp | unfold nmwaitOp | unfold queueOp | unfold rdvOp | unfold releaseOp | unfold scratchOp | unfold sfuIssue | unfold simple | unfold storeOp | unfold streamOp | unfold transferOp | unfold tretOp)

theorem via_pk4E4m3 (g u d a la) (s : State) : Via (.pk4E4m3 g u d a la) s := by
  unfold Via; rw [exec_pk4E4m3]; unfold execPk4E4m3; repeat (first | exact .inl ⟨_, rfl⟩ | exact .inr (.inl ⟨_, rfl⟩) | unfold atomsOp | unfold ldsOp | unfold stsOp | unfold sfuUnary | unfold acquireOp | unfold aluA | unfold aluAB | unfold aluABD | unfold aluABDF | unfold aluABF | unfold aluCmp | unfold aluMadw | unfold aluPairs | unfold aluPred | unfold atomicOp | unfold barInstr | unfold barWait | unfold bkptOp | unfold contOp | unfold copyMcOp | unfold copyOp | unfold copyV2sOp | unfold cpywaitOp | unfold cvjoinOp | unfold cvsetOp | unfold fragOp | unfold gangOp | unfold gtrinvOp | unfold handleOp | unfold handleWait | unfold loadOp | unfold mcbOp | unfold mgangOp | unfold mopfOp | unfold movswOp | unfold mrelOp | unfold nmcOp | unfold nmwaitOp | unfold queueOp | unfold rdvOp | unfold releaseOp | unfold scratchOp | unfold sfuIssue | unfold simple | unfold storeOp | unfold streamOp | unfold transferOp | unfold tretOp)

theorem via_pk4E5m2 (g u d a la) (s : State) : Via (.pk4E5m2 g u d a la) s := by
  unfold Via; rw [exec_pk4E5m2]; unfold execPk4E5m2; repeat (first | exact .inl ⟨_, rfl⟩ | exact .inr (.inl ⟨_, rfl⟩) | unfold atomsOp | unfold ldsOp | unfold stsOp | unfold sfuUnary | unfold acquireOp | unfold aluA | unfold aluAB | unfold aluABD | unfold aluABDF | unfold aluABF | unfold aluCmp | unfold aluMadw | unfold aluPairs | unfold aluPred | unfold atomicOp | unfold barInstr | unfold barWait | unfold bkptOp | unfold contOp | unfold copyMcOp | unfold copyOp | unfold copyV2sOp | unfold cpywaitOp | unfold cvjoinOp | unfold cvsetOp | unfold fragOp | unfold gangOp | unfold gtrinvOp | unfold handleOp | unfold handleWait | unfold loadOp | unfold mcbOp | unfold mgangOp | unfold mopfOp | unfold movswOp | unfold mrelOp | unfold nmcOp | unfold nmwaitOp | unfold queueOp | unfold rdvOp | unfold releaseOp | unfold scratchOp | unfold sfuIssue | unfold simple | unfold storeOp | unfold streamOp | unfold transferOp | unfold tretOp)

theorem via_unpk4E4m3 (g u d a la) (s : State) : Via (.unpk4E4m3 g u d a la) s := by
  unfold Via; rw [exec_unpk4E4m3]; unfold execUnpk4E4m3; repeat (first | exact .inl ⟨_, rfl⟩ | exact .inr (.inl ⟨_, rfl⟩) | unfold atomsOp | unfold ldsOp | unfold stsOp | unfold sfuUnary | unfold acquireOp | unfold aluA | unfold aluAB | unfold aluABD | unfold aluABDF | unfold aluABF | unfold aluCmp | unfold aluMadw | unfold aluPairs | unfold aluPred | unfold atomicOp | unfold barInstr | unfold barWait | unfold bkptOp | unfold contOp | unfold copyMcOp | unfold copyOp | unfold copyV2sOp | unfold cpywaitOp | unfold cvjoinOp | unfold cvsetOp | unfold fragOp | unfold gangOp | unfold gtrinvOp | unfold handleOp | unfold handleWait | unfold loadOp | unfold mcbOp | unfold mgangOp | unfold mopfOp | unfold movswOp | unfold mrelOp | unfold nmcOp | unfold nmwaitOp | unfold queueOp | unfold rdvOp | unfold releaseOp | unfold scratchOp | unfold sfuIssue | unfold simple | unfold storeOp | unfold streamOp | unfold transferOp | unfold tretOp)

theorem via_unpk4E5m2 (g u d a la) (s : State) : Via (.unpk4E5m2 g u d a la) s := by
  unfold Via; rw [exec_unpk4E5m2]; unfold execUnpk4E5m2; repeat (first | exact .inl ⟨_, rfl⟩ | exact .inr (.inl ⟨_, rfl⟩) | unfold atomsOp | unfold ldsOp | unfold stsOp | unfold sfuUnary | unfold acquireOp | unfold aluA | unfold aluAB | unfold aluABD | unfold aluABDF | unfold aluABF | unfold aluCmp | unfold aluMadw | unfold aluPairs | unfold aluPred | unfold atomicOp | unfold barInstr | unfold barWait | unfold bkptOp | unfold contOp | unfold copyMcOp | unfold copyOp | unfold copyV2sOp | unfold cpywaitOp | unfold cvjoinOp | unfold cvsetOp | unfold fragOp | unfold gangOp | unfold gtrinvOp | unfold handleOp | unfold handleWait | unfold loadOp | unfold mcbOp | unfold mgangOp | unfold mopfOp | unfold movswOp | unfold mrelOp | unfold nmcOp | unfold nmwaitOp | unfold queueOp | unfold rdvOp | unfold releaseOp | unfold scratchOp | unfold sfuIssue | unfold simple | unfold storeOp | unfold streamOp | unfold transferOp | unfold tretOp)

theorem via_pk2Bf16 (g u d a la) (s : State) : Via (.pk2Bf16 g u d a la) s := by
  unfold Via; rw [exec_pk2Bf16]; unfold execPk2Bf16; repeat (first | exact .inl ⟨_, rfl⟩ | exact .inr (.inl ⟨_, rfl⟩) | unfold atomsOp | unfold ldsOp | unfold stsOp | unfold sfuUnary | unfold acquireOp | unfold aluA | unfold aluAB | unfold aluABD | unfold aluABDF | unfold aluABF | unfold aluCmp | unfold aluMadw | unfold aluPairs | unfold aluPred | unfold atomicOp | unfold barInstr | unfold barWait | unfold bkptOp | unfold contOp | unfold copyMcOp | unfold copyOp | unfold copyV2sOp | unfold cpywaitOp | unfold cvjoinOp | unfold cvsetOp | unfold fragOp | unfold gangOp | unfold gtrinvOp | unfold handleOp | unfold handleWait | unfold loadOp | unfold mcbOp | unfold mgangOp | unfold mopfOp | unfold movswOp | unfold mrelOp | unfold nmcOp | unfold nmwaitOp | unfold queueOp | unfold rdvOp | unfold releaseOp | unfold scratchOp | unfold sfuIssue | unfold simple | unfold storeOp | unfold streamOp | unfold transferOp | unfold tretOp)

theorem via_pk2F16 (g u d a la) (s : State) : Via (.pk2F16 g u d a la) s := by
  unfold Via; rw [exec_pk2F16]; unfold execPk2F16; repeat (first | exact .inl ⟨_, rfl⟩ | exact .inr (.inl ⟨_, rfl⟩) | unfold atomsOp | unfold ldsOp | unfold stsOp | unfold sfuUnary | unfold acquireOp | unfold aluA | unfold aluAB | unfold aluABD | unfold aluABDF | unfold aluABF | unfold aluCmp | unfold aluMadw | unfold aluPairs | unfold aluPred | unfold atomicOp | unfold barInstr | unfold barWait | unfold bkptOp | unfold contOp | unfold copyMcOp | unfold copyOp | unfold copyV2sOp | unfold cpywaitOp | unfold cvjoinOp | unfold cvsetOp | unfold fragOp | unfold gangOp | unfold gtrinvOp | unfold handleOp | unfold handleWait | unfold loadOp | unfold mcbOp | unfold mgangOp | unfold mopfOp | unfold movswOp | unfold mrelOp | unfold nmcOp | unfold nmwaitOp | unfold queueOp | unfold rdvOp | unfold releaseOp | unfold scratchOp | unfold sfuIssue | unfold simple | unfold storeOp | unfold streamOp | unfold transferOp | unfold tretOp)

theorem via_rcpF32 (g u d a la) (s : State) : Via (.rcpF32 g u d a la) s := by
  unfold Via; rw [exec_rcpF32]; unfold execRcpF32; repeat (first | exact .inl ⟨_, rfl⟩ | exact .inr (.inl ⟨_, rfl⟩) | unfold atomsOp | unfold ldsOp | unfold stsOp | unfold sfuUnary | unfold acquireOp | unfold aluA | unfold aluAB | unfold aluABD | unfold aluABDF | unfold aluABF | unfold aluCmp | unfold aluMadw | unfold aluPairs | unfold aluPred | unfold atomicOp | unfold barInstr | unfold barWait | unfold bkptOp | unfold contOp | unfold copyMcOp | unfold copyOp | unfold copyV2sOp | unfold cpywaitOp | unfold cvjoinOp | unfold cvsetOp | unfold fragOp | unfold gangOp | unfold gtrinvOp | unfold handleOp | unfold handleWait | unfold loadOp | unfold mcbOp | unfold mgangOp | unfold mopfOp | unfold movswOp | unfold mrelOp | unfold nmcOp | unfold nmwaitOp | unfold queueOp | unfold rdvOp | unfold releaseOp | unfold scratchOp | unfold sfuIssue | unfold simple | unfold storeOp | unfold streamOp | unfold transferOp | unfold tretOp)

theorem via_rsqF32 (g u d a la) (s : State) : Via (.rsqF32 g u d a la) s := by
  unfold Via; rw [exec_rsqF32]; unfold execRsqF32; repeat (first | exact .inl ⟨_, rfl⟩ | exact .inr (.inl ⟨_, rfl⟩) | unfold atomsOp | unfold ldsOp | unfold stsOp | unfold sfuUnary | unfold acquireOp | unfold aluA | unfold aluAB | unfold aluABD | unfold aluABDF | unfold aluABF | unfold aluCmp | unfold aluMadw | unfold aluPairs | unfold aluPred | unfold atomicOp | unfold barInstr | unfold barWait | unfold bkptOp | unfold contOp | unfold copyMcOp | unfold copyOp | unfold copyV2sOp | unfold cpywaitOp | unfold cvjoinOp | unfold cvsetOp | unfold fragOp | unfold gangOp | unfold gtrinvOp | unfold handleOp | unfold handleWait | unfold loadOp | unfold mcbOp | unfold mgangOp | unfold mopfOp | unfold movswOp | unfold mrelOp | unfold nmcOp | unfold nmwaitOp | unfold queueOp | unfold rdvOp | unfold releaseOp | unfold scratchOp | unfold sfuIssue | unfold simple | unfold storeOp | unfold streamOp | unfold transferOp | unfold tretOp)

theorem via_sqrtF32 (g u d a la) (s : State) : Via (.sqrtF32 g u d a la) s := by
  unfold Via; rw [exec_sqrtF32]; unfold execSqrtF32; repeat (first | exact .inl ⟨_, rfl⟩ | exact .inr (.inl ⟨_, rfl⟩) | unfold atomsOp | unfold ldsOp | unfold stsOp | unfold sfuUnary | unfold acquireOp | unfold aluA | unfold aluAB | unfold aluABD | unfold aluABDF | unfold aluABF | unfold aluCmp | unfold aluMadw | unfold aluPairs | unfold aluPred | unfold atomicOp | unfold barInstr | unfold barWait | unfold bkptOp | unfold contOp | unfold copyMcOp | unfold copyOp | unfold copyV2sOp | unfold cpywaitOp | unfold cvjoinOp | unfold cvsetOp | unfold fragOp | unfold gangOp | unfold gtrinvOp | unfold handleOp | unfold handleWait | unfold loadOp | unfold mcbOp | unfold mgangOp | unfold mopfOp | unfold movswOp | unfold mrelOp | unfold nmcOp | unfold nmwaitOp | unfold queueOp | unfold rdvOp | unfold releaseOp | unfold scratchOp | unfold sfuIssue | unfold simple | unfold storeOp | unfold streamOp | unfold transferOp | unfold tretOp)

theorem via_divF32 (g u d a la) (s : State) : Via (.divF32 g u d a la) s := by
  unfold Via; rw [exec_divF32]; unfold execDivF32; repeat (first | exact .inl ⟨_, rfl⟩ | exact .inr (.inl ⟨_, rfl⟩) | unfold atomsOp | unfold ldsOp | unfold stsOp | unfold sfuUnary | unfold acquireOp | unfold aluA | unfold aluAB | unfold aluABD | unfold aluABDF | unfold aluABF | unfold aluCmp | unfold aluMadw | unfold aluPairs | unfold aluPred | unfold atomicOp | unfold barInstr | unfold barWait | unfold bkptOp | unfold contOp | unfold copyMcOp | unfold copyOp | unfold copyV2sOp | unfold cpywaitOp | unfold cvjoinOp | unfold cvsetOp | unfold fragOp | unfold gangOp | unfold gtrinvOp | unfold handleOp | unfold handleWait | unfold loadOp | unfold mcbOp | unfold mgangOp | unfold mopfOp | unfold movswOp | unfold mrelOp | unfold nmcOp | unfold nmwaitOp | unfold queueOp | unfold rdvOp | unfold releaseOp | unfold scratchOp | unfold sfuIssue | unfold simple | unfold storeOp | unfold streamOp | unfold transferOp | unfold tretOp)

theorem via_exp2F32 (g u d a la) (s : State) : Via (.exp2F32 g u d a la) s := by
  unfold Via; rw [exec_exp2F32]; unfold execExp2F32; repeat (first | exact .inl ⟨_, rfl⟩ | exact .inr (.inl ⟨_, rfl⟩) | unfold atomsOp | unfold ldsOp | unfold stsOp | unfold sfuUnary | unfold acquireOp | unfold aluA | unfold aluAB | unfold aluABD | unfold aluABDF | unfold aluABF | unfold aluCmp | unfold aluMadw | unfold aluPairs | unfold aluPred | unfold atomicOp | unfold barInstr | unfold barWait | unfold bkptOp | unfold contOp | unfold copyMcOp | unfold copyOp | unfold copyV2sOp | unfold cpywaitOp | unfold cvjoinOp | unfold cvsetOp | unfold fragOp | unfold gangOp | unfold gtrinvOp | unfold handleOp | unfold handleWait | unfold loadOp | unfold mcbOp | unfold mgangOp | unfold mopfOp | unfold movswOp | unfold mrelOp | unfold nmcOp | unfold nmwaitOp | unfold queueOp | unfold rdvOp | unfold releaseOp | unfold scratchOp | unfold sfuIssue | unfold simple | unfold storeOp | unfold streamOp | unfold transferOp | unfold tretOp)

theorem via_log2F32 (g u d a la) (s : State) : Via (.log2F32 g u d a la) s := by
  unfold Via; rw [exec_log2F32]; unfold execLog2F32; repeat (first | exact .inl ⟨_, rfl⟩ | exact .inr (.inl ⟨_, rfl⟩) | unfold atomsOp | unfold ldsOp | unfold stsOp | unfold sfuUnary | unfold acquireOp | unfold aluA | unfold aluAB | unfold aluABD | unfold aluABDF | unfold aluABF | unfold aluCmp | unfold aluMadw | unfold aluPairs | unfold aluPred | unfold atomicOp | unfold barInstr | unfold barWait | unfold bkptOp | unfold contOp | unfold copyMcOp | unfold copyOp | unfold copyV2sOp | unfold cpywaitOp | unfold cvjoinOp | unfold cvsetOp | unfold fragOp | unfold gangOp | unfold gtrinvOp | unfold handleOp | unfold handleWait | unfold loadOp | unfold mcbOp | unfold mgangOp | unfold mopfOp | unfold movswOp | unfold mrelOp | unfold nmcOp | unfold nmwaitOp | unfold queueOp | unfold rdvOp | unfold releaseOp | unfold scratchOp | unfold sfuIssue | unfold simple | unfold storeOp | unfold streamOp | unfold transferOp | unfold tretOp)

theorem via_sintF32 (g u d a la) (s : State) : Via (.sintF32 g u d a la) s := by
  unfold Via; rw [exec_sintF32]; unfold execSintF32; repeat (first | exact .inl ⟨_, rfl⟩ | exact .inr (.inl ⟨_, rfl⟩) | unfold atomsOp | unfold ldsOp | unfold stsOp | unfold sfuUnary | unfold acquireOp | unfold aluA | unfold aluAB | unfold aluABD | unfold aluABDF | unfold aluABF | unfold aluCmp | unfold aluMadw | unfold aluPairs | unfold aluPred | unfold atomicOp | unfold barInstr | unfold barWait | unfold bkptOp | unfold contOp | unfold copyMcOp | unfold copyOp | unfold copyV2sOp | unfold cpywaitOp | unfold cvjoinOp | unfold cvsetOp | unfold fragOp | unfold gangOp | unfold gtrinvOp | unfold handleOp | unfold handleWait | unfold loadOp | unfold mcbOp | unfold mgangOp | unfold mopfOp | unfold movswOp | unfold mrelOp | unfold nmcOp | unfold nmwaitOp | unfold queueOp | unfold rdvOp | unfold releaseOp | unfold scratchOp | unfold sfuIssue | unfold simple | unfold storeOp | unfold streamOp | unfold transferOp | unfold tretOp)

theorem via_costF32 (g u d a la) (s : State) : Via (.costF32 g u d a la) s := by
  unfold Via; rw [exec_costF32]; unfold execCostF32; repeat (first | exact .inl ⟨_, rfl⟩ | exact .inr (.inl ⟨_, rfl⟩) | unfold atomsOp | unfold ldsOp | unfold stsOp | unfold sfuUnary | unfold acquireOp | unfold aluA | unfold aluAB | unfold aluABD | unfold aluABDF | unfold aluABF | unfold aluCmp | unfold aluMadw | unfold aluPairs | unfold aluPred | unfold atomicOp | unfold barInstr | unfold barWait | unfold bkptOp | unfold contOp | unfold copyMcOp | unfold copyOp | unfold copyV2sOp | unfold cpywaitOp | unfold cvjoinOp | unfold cvsetOp | unfold fragOp | unfold gangOp | unfold gtrinvOp | unfold handleOp | unfold handleWait | unfold loadOp | unfold mcbOp | unfold mgangOp | unfold mopfOp | unfold movswOp | unfold mrelOp | unfold nmcOp | unfold nmwaitOp | unfold queueOp | unfold rdvOp | unfold releaseOp | unfold scratchOp | unfold sfuIssue | unfold simple | unfold storeOp | unfold streamOp | unfold transferOp | unfold tretOp)

theorem via_tanhF32 (g u d a la) (s : State) : Via (.tanhF32 g u d a la) s := by
  unfold Via; rw [exec_tanhF32]; unfold execTanhF32; repeat (first | exact .inl ⟨_, rfl⟩ | exact .inr (.inl ⟨_, rfl⟩) | unfold atomsOp | unfold ldsOp | unfold stsOp | unfold sfuUnary | unfold acquireOp | unfold aluA | unfold aluAB | unfold aluABD | unfold aluABDF | unfold aluABF | unfold aluCmp | unfold aluMadw | unfold aluPairs | unfold aluPred | unfold atomicOp | unfold barInstr | unfold barWait | unfold bkptOp | unfold contOp | unfold copyMcOp | unfold copyOp | unfold copyV2sOp | unfold cpywaitOp | unfold cvjoinOp | unfold cvsetOp | unfold fragOp | unfold gangOp | unfold gtrinvOp | unfold handleOp | unfold handleWait | unfold loadOp | unfold mcbOp | unfold mgangOp | unfold mopfOp | unfold movswOp | unfold mrelOp | unfold nmcOp | unfold nmwaitOp | unfold queueOp | unfold rdvOp | unfold releaseOp | unfold scratchOp | unfold sfuIssue | unfold simple | unfold storeOp | unfold streamOp | unfold transferOp | unfold tretOp)

theorem via_sigmF32 (g u d a la) (s : State) : Via (.sigmF32 g u d a la) s := by
  unfold Via; rw [exec_sigmF32]; unfold execSigmF32; repeat (first | exact .inl ⟨_, rfl⟩ | exact .inr (.inl ⟨_, rfl⟩) | unfold atomsOp | unfold ldsOp | unfold stsOp | unfold sfuUnary | unfold acquireOp | unfold aluA | unfold aluAB | unfold aluABD | unfold aluABDF | unfold aluABF | unfold aluCmp | unfold aluMadw | unfold aluPairs | unfold aluPred | unfold atomicOp | unfold barInstr | unfold barWait | unfold bkptOp | unfold contOp | unfold copyMcOp | unfold copyOp | unfold copyV2sOp | unfold cpywaitOp | unfold cvjoinOp | unfold cvsetOp | unfold fragOp | unfold gangOp | unfold gtrinvOp | unfold handleOp | unfold handleWait | unfold loadOp | unfold mcbOp | unfold mgangOp | unfold mopfOp | unfold movswOp | unfold mrelOp | unfold nmcOp | unfold nmwaitOp | unfold queueOp | unfold rdvOp | unfold releaseOp | unfold scratchOp | unfold sfuIssue | unfold simple | unfold storeOp | unfold streamOp | unfold transferOp | unfold tretOp)

theorem via_floorF32 (g u d a la) (s : State) : Via (.floorF32 g u d a la) s := by
  unfold Via; rw [exec_floorF32]; unfold execFloorF32; repeat (first | exact .inl ⟨_, rfl⟩ | exact .inr (.inl ⟨_, rfl⟩) | unfold atomsOp | unfold ldsOp | unfold stsOp | unfold sfuUnary | unfold acquireOp | unfold aluA | unfold aluAB | unfold aluABD | unfold aluABDF | unfold aluABF | unfold aluCmp | unfold aluMadw | unfold aluPairs | unfold aluPred | unfold atomicOp | unfold barInstr | unfold barWait | unfold bkptOp | unfold contOp | unfold copyMcOp | unfold copyOp | unfold copyV2sOp | unfold cpywaitOp | unfold cvjoinOp | unfold cvsetOp | unfold fragOp | unfold gangOp | unfold gtrinvOp | unfold handleOp | unfold handleWait | unfold loadOp | unfold mcbOp | unfold mgangOp | unfold mopfOp | unfold movswOp | unfold mrelOp | unfold nmcOp | unfold nmwaitOp | unfold queueOp | unfold rdvOp | unfold releaseOp | unfold scratchOp | unfold sfuIssue | unfold simple | unfold storeOp | unfold streamOp | unfold transferOp | unfold tretOp)

theorem via_ceilF32 (g u d a la) (s : State) : Via (.ceilF32 g u d a la) s := by
  unfold Via; rw [exec_ceilF32]; unfold execCeilF32; repeat (first | exact .inl ⟨_, rfl⟩ | exact .inr (.inl ⟨_, rfl⟩) | unfold atomsOp | unfold ldsOp | unfold stsOp | unfold sfuUnary | unfold acquireOp | unfold aluA | unfold aluAB | unfold aluABD | unfold aluABDF | unfold aluABF | unfold aluCmp | unfold aluMadw | unfold aluPairs | unfold aluPred | unfold atomicOp | unfold barInstr | unfold barWait | unfold bkptOp | unfold contOp | unfold copyMcOp | unfold copyOp | unfold copyV2sOp | unfold cpywaitOp | unfold cvjoinOp | unfold cvsetOp | unfold fragOp | unfold gangOp | unfold gtrinvOp | unfold handleOp | unfold handleWait | unfold loadOp | unfold mcbOp | unfold mgangOp | unfold mopfOp | unfold movswOp | unfold mrelOp | unfold nmcOp | unfold nmwaitOp | unfold queueOp | unfold rdvOp | unfold releaseOp | unfold scratchOp | unfold sfuIssue | unfold simple | unfold storeOp | unfold streamOp | unfold transferOp | unfold tretOp)

theorem via_truncF32 (g u d a la) (s : State) : Via (.truncF32 g u d a la) s := by
  unfold Via; rw [exec_truncF32]; unfold execTruncF32; repeat (first | exact .inl ⟨_, rfl⟩ | exact .inr (.inl ⟨_, rfl⟩) | unfold atomsOp | unfold ldsOp | unfold stsOp | unfold sfuUnary | unfold acquireOp | unfold aluA | unfold aluAB | unfold aluABD | unfold aluABDF | unfold aluABF | unfold aluCmp | unfold aluMadw | unfold aluPairs | unfold aluPred | unfold atomicOp | unfold barInstr | unfold barWait | unfold bkptOp | unfold contOp | unfold copyMcOp | unfold copyOp | unfold copyV2sOp | unfold cpywaitOp | unfold cvjoinOp | unfold cvsetOp | unfold fragOp | unfold gangOp | unfold gtrinvOp | unfold handleOp | unfold handleWait | unfold loadOp | unfold mcbOp | unfold mgangOp | unfold mopfOp | unfold movswOp | unfold mrelOp | unfold nmcOp | unfold nmwaitOp | unfold queueOp | unfold rdvOp | unfold releaseOp | unfold scratchOp | unfold sfuIssue | unfold simple | unfold storeOp | unfold streamOp | unfold transferOp | unfold tretOp)

theorem via_rintF32 (g u d a la) (s : State) : Via (.rintF32 g u d a la) s := by
  unfold Via; rw [exec_rintF32]; unfold execRintF32; repeat (first | exact .inl ⟨_, rfl⟩ | exact .inr (.inl ⟨_, rfl⟩) | unfold atomsOp | unfold ldsOp | unfold stsOp | unfold sfuUnary | unfold acquireOp | unfold aluA | unfold aluAB | unfold aluABD | unfold aluABDF | unfold aluABF | unfold aluCmp | unfold aluMadw | unfold aluPairs | unfold aluPred | unfold atomicOp | unfold barInstr | unfold barWait | unfold bkptOp | unfold contOp | unfold copyMcOp | unfold copyOp | unfold copyV2sOp | unfold cpywaitOp | unfold cvjoinOp | unfold cvsetOp | unfold fragOp | unfold gangOp | unfold gtrinvOp | unfold handleOp | unfold handleWait | unfold loadOp | unfold mcbOp | unfold mgangOp | unfold mopfOp | unfold movswOp | unfold mrelOp | unfold nmcOp | unfold nmwaitOp | unfold queueOp | unfold rdvOp | unfold releaseOp | unfold scratchOp | unfold sfuIssue | unfold simple | unfold storeOp | unfold streamOp | unfold transferOp | unfold tretOp)

theorem via_classF32 (g u d a la) (s : State) : Via (.classF32 g u d a la) s := by
  unfold Via; rw [exec_classF32]; unfold execClassF32; repeat (first | exact .inl ⟨_, rfl⟩ | exact .inr (.inl ⟨_, rfl⟩) | unfold atomsOp | unfold ldsOp | unfold stsOp | unfold sfuUnary | unfold acquireOp | unfold aluA | unfold aluAB | unfold aluABD | unfold aluABDF | unfold aluABF | unfold aluCmp | unfold aluMadw | unfold aluPairs | unfold aluPred | unfold atomicOp | unfold barInstr | unfold barWait | unfold bkptOp | unfold contOp | unfold copyMcOp | unfold copyOp | unfold copyV2sOp | unfold cpywaitOp | unfold cvjoinOp | unfold cvsetOp | unfold fragOp | unfold gangOp | unfold gtrinvOp | unfold handleOp | unfold handleWait | unfold loadOp | unfold mcbOp | unfold mgangOp | unfold mopfOp | unfold movswOp | unfold mrelOp | unfold nmcOp | unfold nmwaitOp | unfold queueOp | unfold rdvOp | unfold releaseOp | unfold scratchOp | unfold sfuIssue | unfold simple | unfold storeOp | unfold streamOp | unfold transferOp | unfold tretOp)

theorem via_wadd (g u d a la) (s : State) : Via (.wadd g u d a la) s := by
  unfold Via; rw [exec_wadd]; unfold execWadd; repeat (first | exact .inl ⟨_, rfl⟩ | exact .inr (.inl ⟨_, rfl⟩) | unfold atomsOp | unfold ldsOp | unfold stsOp | unfold sfuUnary | unfold acquireOp | unfold aluA | unfold aluAB | unfold aluABD | unfold aluABDF | unfold aluABF | unfold aluCmp | unfold aluMadw | unfold aluPairs | unfold aluPred | unfold atomicOp | unfold barInstr | unfold barWait | unfold bkptOp | unfold contOp | unfold copyMcOp | unfold copyOp | unfold copyV2sOp | unfold cpywaitOp | unfold cvjoinOp | unfold cvsetOp | unfold fragOp | unfold gangOp | unfold gtrinvOp | unfold handleOp | unfold handleWait | unfold loadOp | unfold mcbOp | unfold mgangOp | unfold mopfOp | unfold movswOp | unfold mrelOp | unfold nmcOp | unfold nmwaitOp | unfold queueOp | unfold rdvOp | unfold releaseOp | unfold scratchOp | unfold sfuIssue | unfold simple | unfold storeOp | unfold streamOp | unfold transferOp | unfold tretOp)

theorem via_wrnd (g u d a la) (s : State) : Via (.wrnd g u d a la) s := by
  unfold Via; rw [exec_wrnd]; unfold execWrnd; repeat (first | exact .inl ⟨_, rfl⟩ | exact .inr (.inl ⟨_, rfl⟩) | unfold atomsOp | unfold ldsOp | unfold stsOp | unfold sfuUnary | unfold acquireOp | unfold aluA | unfold aluAB | unfold aluABD | unfold aluABDF | unfold aluABF | unfold aluCmp | unfold aluMadw | unfold aluPairs | unfold aluPred | unfold atomicOp | unfold barInstr | unfold barWait | unfold bkptOp | unfold contOp | unfold copyMcOp | unfold copyOp | unfold copyV2sOp | unfold cpywaitOp | unfold cvjoinOp | unfold cvsetOp | unfold fragOp | unfold gangOp | unfold gtrinvOp | unfold handleOp | unfold handleWait | unfold loadOp | unfold mcbOp | unfold mgangOp | unfold mopfOp | unfold movswOp | unfold mrelOp | unfold nmcOp | unfold nmwaitOp | unfold queueOp | unfold rdvOp | unfold releaseOp | unfold scratchOp | unfold sfuIssue | unfold simple | unfold storeOp | unfold streamOp | unfold transferOp | unfold tretOp)

theorem via_wclr (g u d la) (s : State) : Via (.wclr g u d la) s := by
  unfold Via; rw [exec_wclr]; unfold execWclr; repeat (first | exact .inl ⟨_, rfl⟩ | exact .inr (.inl ⟨_, rfl⟩) | unfold atomsOp | unfold ldsOp | unfold stsOp | unfold sfuUnary | unfold acquireOp | unfold aluA | unfold aluAB | unfold aluABD | unfold aluABDF | unfold aluABF | unfold aluCmp | unfold aluMadw | unfold aluPairs | unfold aluPred | unfold atomicOp | unfold barInstr | unfold barWait | unfold bkptOp | unfold contOp | unfold copyMcOp | unfold copyOp | unfold copyV2sOp | unfold cpywaitOp | unfold cvjoinOp | unfold cvsetOp | unfold fragOp | unfold gangOp | unfold gtrinvOp | unfold handleOp | unfold handleWait | unfold loadOp | unfold mcbOp | unfold mgangOp | unfold mopfOp | unfold movswOp | unfold mrelOp | unfold nmcOp | unfold nmwaitOp | unfold queueOp | unfold rdvOp | unfold releaseOp | unfold scratchOp | unfold sfuIssue | unfold simple | unfold storeOp | unfold streamOp | unfold transferOp | unfold tretOp)

theorem via_cvtF32I8 (g u d a la sel) (s : State) : Via (.cvtF32I8 g u d a la sel) s := by
  unfold Via; rw [exec_cvtF32I8]; unfold execCvtF32I8; repeat (first | exact .inl ⟨_, rfl⟩ | exact .inr (.inl ⟨_, rfl⟩) | unfold atomsOp | unfold ldsOp | unfold stsOp | unfold sfuUnary | unfold acquireOp | unfold aluA | unfold aluAB | unfold aluABD | unfold aluABDF | unfold aluABF | unfold aluCmp | unfold aluMadw | unfold aluPairs | unfold aluPred | unfold atomicOp | unfold barInstr | unfold barWait | unfold bkptOp | unfold contOp | unfold copyMcOp | unfold copyOp | unfold copyV2sOp | unfold cpywaitOp | unfold cvjoinOp | unfold cvsetOp | unfold fragOp | unfold gangOp | unfold gtrinvOp | unfold handleOp | unfold handleWait | unfold loadOp | unfold mcbOp | unfold mgangOp | unfold mopfOp | unfold movswOp | unfold mrelOp | unfold nmcOp | unfold nmwaitOp | unfold queueOp | unfold rdvOp | unfold releaseOp | unfold scratchOp | unfold sfuIssue | unfold simple | unfold storeOp | unfold streamOp | unfold transferOp | unfold tretOp)

theorem via_cvtI8F32 (g u d a la) (s : State) : Via (.cvtI8F32 g u d a la) s := by
  unfold Via; rw [exec_cvtI8F32]; unfold execCvtI8F32; repeat (first | exact .inl ⟨_, rfl⟩ | exact .inr (.inl ⟨_, rfl⟩) | unfold atomsOp | unfold ldsOp | unfold stsOp | unfold sfuUnary | unfold acquireOp | unfold aluA | unfold aluAB | unfold aluABD | unfold aluABDF | unfold aluABF | unfold aluCmp | unfold aluMadw | unfold aluPairs | unfold aluPred | unfold atomicOp | unfold barInstr | unfold barWait | unfold bkptOp | unfold contOp | unfold copyMcOp | unfold copyOp | unfold copyV2sOp | unfold cpywaitOp | unfold cvjoinOp | unfold cvsetOp | unfold fragOp | unfold gangOp | unfold gtrinvOp | unfold handleOp | unfold handleWait | unfold loadOp | unfold mcbOp | unfold mgangOp | unfold mopfOp | unfold movswOp | unfold mrelOp | unfold nmcOp | unfold nmwaitOp | unfold queueOp | unfold rdvOp | unfold releaseOp | unfold scratchOp | unfold sfuIssue | unfold simple | unfold storeOp | unfold streamOp | unfold transferOp | unfold tretOp)

theorem via_ldN8 (g u d a la bs off) (s : State) : Via (.ldN8 g u d a la bs off) s := by
  unfold Via; rw [exec_ldN8]; unfold execLdN8; repeat (first | exact .inl ⟨_, rfl⟩ | exact .inr (.inl ⟨_, rfl⟩) | unfold atomsOp | unfold ldsOp | unfold stsOp | unfold sfuUnary | unfold acquireOp | unfold aluA | unfold aluAB | unfold aluABD | unfold aluABDF | unfold aluABF | unfold aluCmp | unfold aluMadw | unfold aluPairs | unfold aluPred | unfold atomicOp | unfold barInstr | unfold barWait | unfold bkptOp | unfold contOp | unfold copyMcOp | unfold copyOp | unfold copyV2sOp | unfold cpywaitOp | unfold cvjoinOp | unfold cvsetOp | unfold fragOp | unfold gangOp | unfold gtrinvOp | unfold handleOp | unfold handleWait | unfold loadOp | unfold mcbOp | unfold mgangOp | unfold mopfOp | unfold movswOp | unfold mrelOp | unfold nmcOp | unfold nmwaitOp | unfold queueOp | unfold rdvOp | unfold releaseOp | unfold scratchOp | unfold sfuIssue | unfold simple | unfold storeOp | unfold streamOp | unfold transferOp | unfold tretOp)

theorem via_ldI8 (g u d a la bs off) (s : State) : Via (.ldI8 g u d a la bs off) s := by
  unfold Via; rw [exec_ldI8]; unfold execLdI8; repeat (first | exact .inl ⟨_, rfl⟩ | exact .inr (.inl ⟨_, rfl⟩) | unfold atomsOp | unfold ldsOp | unfold stsOp | unfold sfuUnary | unfold acquireOp | unfold aluA | unfold aluAB | unfold aluABD | unfold aluABDF | unfold aluABF | unfold aluCmp | unfold aluMadw | unfold aluPairs | unfold aluPred | unfold atomicOp | unfold barInstr | unfold barWait | unfold bkptOp | unfold contOp | unfold copyMcOp | unfold copyOp | unfold copyV2sOp | unfold cpywaitOp | unfold cvjoinOp | unfold cvsetOp | unfold fragOp | unfold gangOp | unfold gtrinvOp | unfold handleOp | unfold handleWait | unfold loadOp | unfold mcbOp | unfold mgangOp | unfold mopfOp | unfold movswOp | unfold mrelOp | unfold nmcOp | unfold nmwaitOp | unfold queueOp | unfold rdvOp | unfold releaseOp | unfold scratchOp | unfold sfuIssue | unfold simple | unfold storeOp | unfold streamOp | unfold transferOp | unfold tretOp)

theorem via_ldN16 (g u d a la bs off) (s : State) : Via (.ldN16 g u d a la bs off) s := by
  unfold Via; rw [exec_ldN16]; unfold execLdN16; repeat (first | exact .inl ⟨_, rfl⟩ | exact .inr (.inl ⟨_, rfl⟩) | unfold atomsOp | unfold ldsOp | unfold stsOp | unfold sfuUnary | unfold acquireOp | unfold aluA | unfold aluAB | unfold aluABD | unfold aluABDF | unfold aluABF | unfold aluCmp | unfold aluMadw | unfold aluPairs | unfold aluPred | unfold atomicOp | unfold barInstr | unfold barWait | unfold bkptOp | unfold contOp | unfold copyMcOp | unfold copyOp | unfold copyV2sOp | unfold cpywaitOp | unfold cvjoinOp | unfold cvsetOp | unfold fragOp | unfold gangOp | unfold gtrinvOp | unfold handleOp | unfold handleWait | unfold loadOp | unfold mcbOp | unfold mgangOp | unfold mopfOp | unfold movswOp | unfold mrelOp | unfold nmcOp | unfold nmwaitOp | unfold queueOp | unfold rdvOp | unfold releaseOp | unfold scratchOp | unfold sfuIssue | unfold simple | unfold storeOp | unfold streamOp | unfold transferOp | unfold tretOp)

theorem via_ldI16 (g u d a la bs off) (s : State) : Via (.ldI16 g u d a la bs off) s := by
  unfold Via; rw [exec_ldI16]; unfold execLdI16; repeat (first | exact .inl ⟨_, rfl⟩ | exact .inr (.inl ⟨_, rfl⟩) | unfold atomsOp | unfold ldsOp | unfold stsOp | unfold sfuUnary | unfold acquireOp | unfold aluA | unfold aluAB | unfold aluABD | unfold aluABDF | unfold aluABF | unfold aluCmp | unfold aluMadw | unfold aluPairs | unfold aluPred | unfold atomicOp | unfold barInstr | unfold barWait | unfold bkptOp | unfold contOp | unfold copyMcOp | unfold copyOp | unfold copyV2sOp | unfold cpywaitOp | unfold cvjoinOp | unfold cvsetOp | unfold fragOp | unfold gangOp | unfold gtrinvOp | unfold handleOp | unfold handleWait | unfold loadOp | unfold mcbOp | unfold mgangOp | unfold mopfOp | unfold movswOp | unfold mrelOp | unfold nmcOp | unfold nmwaitOp | unfold queueOp | unfold rdvOp | unfold releaseOp | unfold scratchOp | unfold sfuIssue | unfold simple | unfold storeOp | unfold streamOp | unfold transferOp | unfold tretOp)

theorem via_ldW (g u d a la bs off) (s : State) : Via (.ldW g u d a la bs off) s := by
  unfold Via; rw [exec_ldW]; unfold execLdW; repeat (first | exact .inl ⟨_, rfl⟩ | exact .inr (.inl ⟨_, rfl⟩) | unfold atomsOp | unfold ldsOp | unfold stsOp | unfold sfuUnary | unfold acquireOp | unfold aluA | unfold aluAB | unfold aluABD | unfold aluABDF | unfold aluABF | unfold aluCmp | unfold aluMadw | unfold aluPairs | unfold aluPred | unfold atomicOp | unfold barInstr | unfold barWait | unfold bkptOp | unfold contOp | unfold copyMcOp | unfold copyOp | unfold copyV2sOp | unfold cpywaitOp | unfold cvjoinOp | unfold cvsetOp | unfold fragOp | unfold gangOp | unfold gtrinvOp | unfold handleOp | unfold handleWait | unfold loadOp | unfold mcbOp | unfold mgangOp | unfold mopfOp | unfold movswOp | unfold mrelOp | unfold nmcOp | unfold nmwaitOp | unfold queueOp | unfold rdvOp | unfold releaseOp | unfold scratchOp | unfold sfuIssue | unfold simple | unfold storeOp | unfold streamOp | unfold transferOp | unfold tretOp)

theorem via_ldD (g u d a la bs off) (s : State) : Via (.ldD g u d a la bs off) s := by
  unfold Via; rw [exec_ldD]; unfold execLdD; repeat (first | exact .inl ⟨_, rfl⟩ | exact .inr (.inl ⟨_, rfl⟩) | unfold atomsOp | unfold ldsOp | unfold stsOp | unfold sfuUnary | unfold acquireOp | unfold aluA | unfold aluAB | unfold aluABD | unfold aluABDF | unfold aluABF | unfold aluCmp | unfold aluMadw | unfold aluPairs | unfold aluPred | unfold atomicOp | unfold barInstr | unfold barWait | unfold bkptOp | unfold contOp | unfold copyMcOp | unfold copyOp | unfold copyV2sOp | unfold cpywaitOp | unfold cvjoinOp | unfold cvsetOp | unfold fragOp | unfold gangOp | unfold gtrinvOp | unfold handleOp | unfold handleWait | unfold loadOp | unfold mcbOp | unfold mgangOp | unfold mopfOp | unfold movswOp | unfold mrelOp | unfold nmcOp | unfold nmwaitOp | unfold queueOp | unfold rdvOp | unfold releaseOp | unfold scratchOp | unfold sfuIssue | unfold simple | unfold storeOp | unfold streamOp | unfold transferOp | unfold tretOp)

theorem via_ldQ (g u d a la bs off) (s : State) : Via (.ldQ g u d a la bs off) s := by
  unfold Via; rw [exec_ldQ]; unfold execLdQ; repeat (first | exact .inl ⟨_, rfl⟩ | exact .inr (.inl ⟨_, rfl⟩) | unfold atomsOp | unfold ldsOp | unfold stsOp | unfold sfuUnary | unfold acquireOp | unfold aluA | unfold aluAB | unfold aluABD | unfold aluABDF | unfold aluABF | unfold aluCmp | unfold aluMadw | unfold aluPairs | unfold aluPred | unfold atomicOp | unfold barInstr | unfold barWait | unfold bkptOp | unfold contOp | unfold copyMcOp | unfold copyOp | unfold copyV2sOp | unfold cpywaitOp | unfold cvjoinOp | unfold cvsetOp | unfold fragOp | unfold gangOp | unfold gtrinvOp | unfold handleOp | unfold handleWait | unfold loadOp | unfold mcbOp | unfold mgangOp | unfold mopfOp | unfold movswOp | unfold mrelOp | unfold nmcOp | unfold nmwaitOp | unfold queueOp | unfold rdvOp | unfold releaseOp | unfold scratchOp | unfold sfuIssue | unfold simple | unfold storeOp | unfold streamOp | unfold transferOp | unfold tretOp)

theorem via_ldO (g u d a la bs off) (s : State) : Via (.ldO g u d a la bs off) s := by
  unfold Via; rw [exec_ldO]; unfold execLdO; repeat (first | exact .inl ⟨_, rfl⟩ | exact .inr (.inl ⟨_, rfl⟩) | unfold atomsOp | unfold ldsOp | unfold stsOp | unfold sfuUnary | unfold acquireOp | unfold aluA | unfold aluAB | unfold aluABD | unfold aluABDF | unfold aluABF | unfold aluCmp | unfold aluMadw | unfold aluPairs | unfold aluPred | unfold atomicOp | unfold barInstr | unfold barWait | unfold bkptOp | unfold contOp | unfold copyMcOp | unfold copyOp | unfold copyV2sOp | unfold cpywaitOp | unfold cvjoinOp | unfold cvsetOp | unfold fragOp | unfold gangOp | unfold gtrinvOp | unfold handleOp | unfold handleWait | unfold loadOp | unfold mcbOp | unfold mgangOp | unfold mopfOp | unfold movswOp | unfold mrelOp | unfold nmcOp | unfold nmwaitOp | unfold queueOp | unfold rdvOp | unfold releaseOp | unfold scratchOp | unfold sfuIssue | unfold simple | unfold storeOp | unfold streamOp | unfold transferOp | unfold tretOp)

theorem via_stB (g d a la bs off) (s : State) : Via (.stB g d a la bs off) s := by
  unfold Via; rw [exec_stB]; unfold execStB; repeat (first | exact .inl ⟨_, rfl⟩ | exact .inr (.inl ⟨_, rfl⟩) | unfold atomsOp | unfold ldsOp | unfold stsOp | unfold sfuUnary | unfold acquireOp | unfold aluA | unfold aluAB | unfold aluABD | unfold aluABDF | unfold aluABF | unfold aluCmp | unfold aluMadw | unfold aluPairs | unfold aluPred | unfold atomicOp | unfold barInstr | unfold barWait | unfold bkptOp | unfold contOp | unfold copyMcOp | unfold copyOp | unfold copyV2sOp | unfold cpywaitOp | unfold cvjoinOp | unfold cvsetOp | unfold fragOp | unfold gangOp | unfold gtrinvOp | unfold handleOp | unfold handleWait | unfold loadOp | unfold mcbOp | unfold mgangOp | unfold mopfOp | unfold movswOp | unfold mrelOp | unfold nmcOp | unfold nmwaitOp | unfold queueOp | unfold rdvOp | unfold releaseOp | unfold scratchOp | unfold sfuIssue | unfold simple | unfold storeOp | unfold streamOp | unfold transferOp | unfold tretOp)

theorem via_stH (g d a la bs off) (s : State) : Via (.stH g d a la bs off) s := by
  unfold Via; rw [exec_stH]; unfold execStH; repeat (first | exact .inl ⟨_, rfl⟩ | exact .inr (.inl ⟨_, rfl⟩) | unfold atomsOp | unfold ldsOp | unfold stsOp | unfold sfuUnary | unfold acquireOp | unfold aluA | unfold aluAB | unfold aluABD | unfold aluABDF | unfold aluABF | unfold aluCmp | unfold aluMadw | unfold aluPairs | unfold aluPred | unfold atomicOp | unfold barInstr | unfold barWait | unfold bkptOp | unfold contOp | unfold copyMcOp | unfold copyOp | unfold copyV2sOp | unfold cpywaitOp | unfold cvjoinOp | unfold cvsetOp | unfold fragOp | unfold gangOp | unfold gtrinvOp | unfold handleOp | unfold handleWait | unfold loadOp | unfold mcbOp | unfold mgangOp | unfold mopfOp | unfold movswOp | unfold mrelOp | unfold nmcOp | unfold nmwaitOp | unfold queueOp | unfold rdvOp | unfold releaseOp | unfold scratchOp | unfold sfuIssue | unfold simple | unfold storeOp | unfold streamOp | unfold transferOp | unfold tretOp)

theorem via_stW (g d a la bs off) (s : State) : Via (.stW g d a la bs off) s := by
  unfold Via; rw [exec_stW]; unfold execStW; repeat (first | exact .inl ⟨_, rfl⟩ | exact .inr (.inl ⟨_, rfl⟩) | unfold atomsOp | unfold ldsOp | unfold stsOp | unfold sfuUnary | unfold acquireOp | unfold aluA | unfold aluAB | unfold aluABD | unfold aluABDF | unfold aluABF | unfold aluCmp | unfold aluMadw | unfold aluPairs | unfold aluPred | unfold atomicOp | unfold barInstr | unfold barWait | unfold bkptOp | unfold contOp | unfold copyMcOp | unfold copyOp | unfold copyV2sOp | unfold cpywaitOp | unfold cvjoinOp | unfold cvsetOp | unfold fragOp | unfold gangOp | unfold gtrinvOp | unfold handleOp | unfold handleWait | unfold loadOp | unfold mcbOp | unfold mgangOp | unfold mopfOp | unfold movswOp | unfold mrelOp | unfold nmcOp | unfold nmwaitOp | unfold queueOp | unfold rdvOp | unfold releaseOp | unfold scratchOp | unfold sfuIssue | unfold simple | unfold storeOp | unfold streamOp | unfold transferOp | unfold tretOp)

theorem via_stD (g d a la bs off) (s : State) : Via (.stD g d a la bs off) s := by
  unfold Via; rw [exec_stD]; unfold execStD; repeat (first | exact .inl ⟨_, rfl⟩ | exact .inr (.inl ⟨_, rfl⟩) | unfold atomsOp | unfold ldsOp | unfold stsOp | unfold sfuUnary | unfold acquireOp | unfold aluA | unfold aluAB | unfold aluABD | unfold aluABDF | unfold aluABF | unfold aluCmp | unfold aluMadw | unfold aluPairs | unfold aluPred | unfold atomicOp | unfold barInstr | unfold barWait | unfold bkptOp | unfold contOp | unfold copyMcOp | unfold copyOp | unfold copyV2sOp | unfold cpywaitOp | unfold cvjoinOp | unfold cvsetOp | unfold fragOp | unfold gangOp | unfold gtrinvOp | unfold handleOp | unfold handleWait | unfold loadOp | unfold mcbOp | unfold mgangOp | unfold mopfOp | unfold movswOp | unfold mrelOp | unfold nmcOp | unfold nmwaitOp | unfold queueOp | unfold rdvOp | unfold releaseOp | unfold scratchOp | unfold sfuIssue | unfold simple | unfold storeOp | unfold streamOp | unfold transferOp | unfold tretOp)

theorem via_stQ (g d a la bs off) (s : State) : Via (.stQ g d a la bs off) s := by
  unfold Via; rw [exec_stQ]; unfold execStQ; repeat (first | exact .inl ⟨_, rfl⟩ | exact .inr (.inl ⟨_, rfl⟩) | unfold atomsOp | unfold ldsOp | unfold stsOp | unfold sfuUnary | unfold acquireOp | unfold aluA | unfold aluAB | unfold aluABD | unfold aluABDF | unfold aluABF | unfold aluCmp | unfold aluMadw | unfold aluPairs | unfold aluPred | unfold atomicOp | unfold barInstr | unfold barWait | unfold bkptOp | unfold contOp | unfold copyMcOp | unfold copyOp | unfold copyV2sOp | unfold cpywaitOp | unfold cvjoinOp | unfold cvsetOp | unfold fragOp | unfold gangOp | unfold gtrinvOp | unfold handleOp | unfold handleWait | unfold loadOp | unfold mcbOp | unfold mgangOp | unfold mopfOp | unfold movswOp | unfold mrelOp | unfold nmcOp | unfold nmwaitOp | unfold queueOp | unfold rdvOp | unfold releaseOp | unfold scratchOp | unfold sfuIssue | unfold simple | unfold storeOp | unfold streamOp | unfold transferOp | unfold tretOp)

theorem via_stO (g d a la bs off) (s : State) : Via (.stO g d a la bs off) s := by
  unfold Via; rw [exec_stO]; unfold execStO; repeat (first | exact .inl ⟨_, rfl⟩ | exact .inr (.inl ⟨_, rfl⟩) | unfold atomsOp | unfold ldsOp | unfold stsOp | unfold sfuUnary | unfold acquireOp | unfold aluA | unfold aluAB | unfold aluABD | unfold aluABDF | unfold aluABF | unfold aluCmp | unfold aluMadw | unfold aluPairs | unfold aluPred | unfold atomicOp | unfold barInstr | unfold barWait | unfold bkptOp | unfold contOp | unfold copyMcOp | unfold copyOp | unfold copyV2sOp | unfold cpywaitOp | unfold cvjoinOp | unfold cvsetOp | unfold fragOp | unfold gangOp | unfold gtrinvOp | unfold handleOp | unfold handleWait | unfold loadOp | unfold mcbOp | unfold mgangOp | unfold mopfOp | unfold movswOp | unfold mrelOp | unfold nmcOp | unfold nmwaitOp | unfold queueOp | unfold rdvOp | unfold releaseOp | unfold scratchOp | unfold sfuIssue | unfold simple | unfold storeOp | unfold streamOp | unfold transferOp | unfold tretOp)

theorem via_ldaW (g u d a la bs o) (s : State) : Via (.ldaW g u d a la bs o) s := by
  unfold Via; rw [exec_ldaW]; unfold execLdaW; repeat (first | exact .inl ⟨_, rfl⟩ | exact .inr (.inl ⟨_, rfl⟩) | unfold atomsOp | unfold ldsOp | unfold stsOp | unfold sfuUnary | unfold acquireOp | unfold aluA | unfold aluAB | unfold aluABD | unfold aluABDF | unfold aluABF | unfold aluCmp | unfold aluMadw | unfold aluPairs | unfold aluPred | unfold atomicOp | unfold barInstr | unfold barWait | unfold bkptOp | unfold contOp | unfold copyMcOp | unfold copyOp | unfold copyV2sOp | unfold cpywaitOp | unfold cvjoinOp | unfold cvsetOp | unfold fragOp | unfold gangOp | unfold gtrinvOp | unfold handleOp | unfold handleWait | unfold loadOp | unfold mcbOp | unfold mgangOp | unfold mopfOp | unfold movswOp | unfold mrelOp | unfold nmcOp | unfold nmwaitOp | unfold queueOp | unfold rdvOp | unfold releaseOp | unfold scratchOp | unfold sfuIssue | unfold simple | unfold storeOp | unfold streamOp | unfold transferOp | unfold tretOp)

theorem via_ldaD (g u d a la bs o) (s : State) : Via (.ldaD g u d a la bs o) s := by
  unfold Via; rw [exec_ldaD]; unfold execLdaD; repeat (first | exact .inl ⟨_, rfl⟩ | exact .inr (.inl ⟨_, rfl⟩) | unfold atomsOp | unfold ldsOp | unfold stsOp | unfold sfuUnary | unfold acquireOp | unfold aluA | unfold aluAB | unfold aluABD | unfold aluABDF | unfold aluABF | unfold aluCmp | unfold aluMadw | unfold aluPairs | unfold aluPred | unfold atomicOp | unfold barInstr | unfold barWait | unfold bkptOp | unfold contOp | unfold copyMcOp | unfold copyOp | unfold copyV2sOp | unfold cpywaitOp | unfold cvjoinOp | unfold cvsetOp | unfold fragOp | unfold gangOp | unfold gtrinvOp | unfold handleOp | unfold handleWait | unfold loadOp | unfold mcbOp | unfold mgangOp | unfold mopfOp | unfold movswOp | unfold mrelOp | unfold nmcOp | unfold nmwaitOp | unfold queueOp | unfold rdvOp | unfold releaseOp | unfold scratchOp | unfold sfuIssue | unfold simple | unfold storeOp | unfold streamOp | unfold transferOp | unfold tretOp)

theorem via_ldapW (g u d a la bs o) (s : State) : Via (.ldapW g u d a la bs o) s := by
  unfold Via; rw [exec_ldapW]; unfold execLdapW; repeat (first | exact .inl ⟨_, rfl⟩ | exact .inr (.inl ⟨_, rfl⟩) | unfold atomsOp | unfold ldsOp | unfold stsOp | unfold sfuUnary | unfold acquireOp | unfold aluA | unfold aluAB | unfold aluABD | unfold aluABDF | unfold aluABF | unfold aluCmp | unfold aluMadw | unfold aluPairs | unfold aluPred | unfold atomicOp | unfold barInstr | unfold barWait | unfold bkptOp | unfold contOp | unfold copyMcOp | unfold copyOp | unfold copyV2sOp | unfold cpywaitOp | unfold cvjoinOp | unfold cvsetOp | unfold fragOp | unfold gangOp | unfold gtrinvOp | unfold handleOp | unfold handleWait | unfold loadOp | unfold mcbOp | unfold mgangOp | unfold mopfOp | unfold movswOp | unfold mrelOp | unfold nmcOp | unfold nmwaitOp | unfold queueOp | unfold rdvOp | unfold releaseOp | unfold scratchOp | unfold sfuIssue | unfold simple | unfold storeOp | unfold streamOp | unfold transferOp | unfold tretOp)

theorem via_stlW (g d a la bs o) (s : State) : Via (.stlW g d a la bs o) s := by
  unfold Via; rw [exec_stlW]; unfold execStlW; repeat (first | exact .inl ⟨_, rfl⟩ | exact .inr (.inl ⟨_, rfl⟩) | unfold atomsOp | unfold ldsOp | unfold stsOp | unfold sfuUnary | unfold acquireOp | unfold aluA | unfold aluAB | unfold aluABD | unfold aluABDF | unfold aluABF | unfold aluCmp | unfold aluMadw | unfold aluPairs | unfold aluPred | unfold atomicOp | unfold barInstr | unfold barWait | unfold bkptOp | unfold contOp | unfold copyMcOp | unfold copyOp | unfold copyV2sOp | unfold cpywaitOp | unfold cvjoinOp | unfold cvsetOp | unfold fragOp | unfold gangOp | unfold gtrinvOp | unfold handleOp | unfold handleWait | unfold loadOp | unfold mcbOp | unfold mgangOp | unfold mopfOp | unfold movswOp | unfold mrelOp | unfold nmcOp | unfold nmwaitOp | unfold queueOp | unfold rdvOp | unfold releaseOp | unfold scratchOp | unfold sfuIssue | unfold simple | unfold storeOp | unfold streamOp | unfold transferOp | unfold tretOp)

theorem via_stlD (g d a la bs o) (s : State) : Via (.stlD g d a la bs o) s := by
  unfold Via; rw [exec_stlD]; unfold execStlD; repeat (first | exact .inl ⟨_, rfl⟩ | exact .inr (.inl ⟨_, rfl⟩) | unfold atomsOp | unfold ldsOp | unfold stsOp | unfold sfuUnary | unfold acquireOp | unfold aluA | unfold aluAB | unfold aluABD | unfold aluABDF | unfold aluABF | unfold aluCmp | unfold aluMadw | unfold aluPairs | unfold aluPred | unfold atomicOp | unfold barInstr | unfold barWait | unfold bkptOp | unfold contOp | unfold copyMcOp | unfold copyOp | unfold copyV2sOp | unfold cpywaitOp | unfold cvjoinOp | unfold cvsetOp | unfold fragOp | unfold gangOp | unfold gtrinvOp | unfold handleOp | unfold handleWait | unfold loadOp | unfold mcbOp | unfold mgangOp | unfold mopfOp | unfold movswOp | unfold mrelOp | unfold nmcOp | unfold nmwaitOp | unfold queueOp | unfold rdvOp | unfold releaseOp | unfold scratchOp | unfold sfuIssue | unfold simple | unfold storeOp | unfold streamOp | unfold transferOp | unfold tretOp)

theorem via_ldcW (g u d a la bs off) (s : State) : Via (.ldcW g u d a la bs off) s := by
  unfold Via; rw [exec_ldcW]; unfold execLdcW; repeat (first | exact .inl ⟨_, rfl⟩ | exact .inr (.inl ⟨_, rfl⟩) | unfold atomsOp | unfold ldsOp | unfold stsOp | unfold sfuUnary | unfold acquireOp | unfold aluA | unfold aluAB | unfold aluABD | unfold aluABDF | unfold aluABF | unfold aluCmp | unfold aluMadw | unfold aluPairs | unfold aluPred | unfold atomicOp | unfold barInstr | unfold barWait | unfold bkptOp | unfold contOp | unfold copyMcOp | unfold copyOp | unfold copyV2sOp | unfold cpywaitOp | unfold cvjoinOp | unfold cvsetOp | unfold fragOp | unfold gangOp | unfold gtrinvOp | unfold handleOp | unfold handleWait | unfold loadOp | unfold mcbOp | unfold mgangOp | unfold mopfOp | unfold movswOp | unfold mrelOp | unfold nmcOp | unfold nmwaitOp | unfold queueOp | unfold rdvOp | unfold releaseOp | unfold scratchOp | unfold sfuIssue | unfold simple | unfold storeOp | unfold streamOp | unfold transferOp | unfold tretOp)

theorem via_ldcD (g u d a la bs off) (s : State) : Via (.ldcD g u d a la bs off) s := by
  unfold Via; rw [exec_ldcD]; unfold execLdcD; repeat (first | exact .inl ⟨_, rfl⟩ | exact .inr (.inl ⟨_, rfl⟩) | unfold atomsOp | unfold ldsOp | unfold stsOp | unfold sfuUnary | unfold acquireOp | unfold aluA | unfold aluAB | unfold aluABD | unfold aluABDF | unfold aluABF | unfold aluCmp | unfold aluMadw | unfold aluPairs | unfold aluPred | unfold atomicOp | unfold barInstr | unfold barWait | unfold bkptOp | unfold contOp | unfold copyMcOp | unfold copyOp | unfold copyV2sOp | unfold cpywaitOp | unfold cvjoinOp | unfold cvsetOp | unfold fragOp | unfold gangOp | unfold gtrinvOp | unfold handleOp | unfold handleWait | unfold loadOp | unfold mcbOp | unfold mgangOp | unfold mopfOp | unfold movswOp | unfold mrelOp | unfold nmcOp | unfold nmwaitOp | unfold queueOp | unfold rdvOp | unfold releaseOp | unfold scratchOp | unfold sfuIssue | unfold simple | unfold storeOp | unfold streamOp | unfold transferOp | unfold tretOp)

theorem via_ldvW (g u d a la bs off) (s : State) : Via (.ldvW g u d a la bs off) s := by
  unfold Via; rw [exec_ldvW]; unfold execLdvW; repeat (first | exact .inl ⟨_, rfl⟩ | exact .inr (.inl ⟨_, rfl⟩) | unfold atomsOp | unfold ldsOp | unfold stsOp | unfold sfuUnary | unfold acquireOp | unfold aluA | unfold aluAB | unfold aluABD | unfold aluABDF | unfold aluABF | unfold aluCmp | unfold aluMadw | unfold aluPairs | unfold aluPred | unfold atomicOp | unfold barInstr | unfold barWait | unfold bkptOp | unfold contOp | unfold copyMcOp | unfold copyOp | unfold copyV2sOp | unfold cpywaitOp | unfold cvjoinOp | unfold cvsetOp | unfold fragOp | unfold gangOp | unfold gtrinvOp | unfold handleOp | unfold handleWait | unfold loadOp | unfold mcbOp | unfold mgangOp | unfold mopfOp | unfold movswOp | unfold mrelOp | unfold nmcOp | unfold nmwaitOp | unfold queueOp | unfold rdvOp | unfold releaseOp | unfold scratchOp | unfold sfuIssue | unfold simple | unfold storeOp | unfold streamOp | unfold transferOp | unfold tretOp)

theorem via_ldvD (g u d a la bs off) (s : State) : Via (.ldvD g u d a la bs off) s := by
  unfold Via; rw [exec_ldvD]; unfold execLdvD; repeat (first | exact .inl ⟨_, rfl⟩ | exact .inr (.inl ⟨_, rfl⟩) | unfold atomsOp | unfold ldsOp | unfold stsOp | unfold sfuUnary | unfold acquireOp | unfold aluA | unfold aluAB | unfold aluABD | unfold aluABDF | unfold aluABF | unfold aluCmp | unfold aluMadw | unfold aluPairs | unfold aluPred | unfold atomicOp | unfold barInstr | unfold barWait | unfold bkptOp | unfold contOp | unfold copyMcOp | unfold copyOp | unfold copyV2sOp | unfold cpywaitOp | unfold cvjoinOp | unfold cvsetOp | unfold fragOp | unfold gangOp | unfold gtrinvOp | unfold handleOp | unfold handleWait | unfold loadOp | unfold mcbOp | unfold mgangOp | unfold mopfOp | unfold movswOp | unfold mrelOp | unfold nmcOp | unfold nmwaitOp | unfold queueOp | unfold rdvOp | unfold releaseOp | unfold scratchOp | unfold sfuIssue | unfold simple | unfold storeOp | unfold streamOp | unfold transferOp | unfold tretOp)

theorem via_ldvQ (g u d a la bs off) (s : State) : Via (.ldvQ g u d a la bs off) s := by
  unfold Via; rw [exec_ldvQ]; unfold execLdvQ; repeat (first | exact .inl ⟨_, rfl⟩ | exact .inr (.inl ⟨_, rfl⟩) | unfold atomsOp | unfold ldsOp | unfold stsOp | unfold sfuUnary | unfold acquireOp | unfold aluA | unfold aluAB | unfold aluABD | unfold aluABDF | unfold aluABF | unfold aluCmp | unfold aluMadw | unfold aluPairs | unfold aluPred | unfold atomicOp | unfold barInstr | unfold barWait | unfold bkptOp | unfold contOp | unfold copyMcOp | unfold copyOp | unfold copyV2sOp | unfold cpywaitOp | unfold cvjoinOp | unfold cvsetOp | unfold fragOp | unfold gangOp | unfold gtrinvOp | unfold handleOp | unfold handleWait | unfold loadOp | unfold mcbOp | unfold mgangOp | unfold mopfOp | unfold movswOp | unfold mrelOp | unfold nmcOp | unfold nmwaitOp | unfold queueOp | unfold rdvOp | unfold releaseOp | unfold scratchOp | unfold sfuIssue | unfold simple | unfold storeOp | unfold streamOp | unfold transferOp | unfold tretOp)

theorem via_ldvO (g u d a la bs off) (s : State) : Via (.ldvO g u d a la bs off) s := by
  unfold Via; rw [exec_ldvO]; unfold execLdvO; repeat (first | exact .inl ⟨_, rfl⟩ | exact .inr (.inl ⟨_, rfl⟩) | unfold atomsOp | unfold ldsOp | unfold stsOp | unfold sfuUnary | unfold acquireOp | unfold aluA | unfold aluAB | unfold aluABD | unfold aluABDF | unfold aluABF | unfold aluCmp | unfold aluMadw | unfold aluPairs | unfold aluPred | unfold atomicOp | unfold barInstr | unfold barWait | unfold bkptOp | unfold contOp | unfold copyMcOp | unfold copyOp | unfold copyV2sOp | unfold cpywaitOp | unfold cvjoinOp | unfold cvsetOp | unfold fragOp | unfold gangOp | unfold gtrinvOp | unfold handleOp | unfold handleWait | unfold loadOp | unfold mcbOp | unfold mgangOp | unfold mopfOp | unfold movswOp | unfold mrelOp | unfold nmcOp | unfold nmwaitOp | unfold queueOp | unfold rdvOp | unfold releaseOp | unfold scratchOp | unfold sfuIssue | unfold simple | unfold storeOp | unfold streamOp | unfold transferOp | unfold tretOp)

theorem via_ldsW (g u d a la off) (s : State) : Via (.ldsW g u d a la off) s := by
  unfold Via; rw [exec_ldsW]; unfold execLdsW; repeat (first | exact .inl ⟨_, rfl⟩ | exact .inr (.inl ⟨_, rfl⟩) | unfold atomsOp | unfold ldsOp | unfold stsOp | unfold sfuUnary | unfold acquireOp | unfold aluA | unfold aluAB | unfold aluABD | unfold aluABDF | unfold aluABF | unfold aluCmp | unfold aluMadw | unfold aluPairs | unfold aluPred | unfold atomicOp | unfold barInstr | unfold barWait | unfold bkptOp | unfold contOp | unfold copyMcOp | unfold copyOp | unfold copyV2sOp | unfold cpywaitOp | unfold cvjoinOp | unfold cvsetOp | unfold fragOp | unfold gangOp | unfold gtrinvOp | unfold handleOp | unfold handleWait | unfold loadOp | unfold mcbOp | unfold mgangOp | unfold mopfOp | unfold movswOp | unfold mrelOp | unfold nmcOp | unfold nmwaitOp | unfold queueOp | unfold rdvOp | unfold releaseOp | unfold scratchOp | unfold sfuIssue | unfold simple | unfold storeOp | unfold streamOp | unfold transferOp | unfold tretOp)

theorem via_ldsD (g u d a la off) (s : State) : Via (.ldsD g u d a la off) s := by
  unfold Via; rw [exec_ldsD]; unfold execLdsD; repeat (first | exact .inl ⟨_, rfl⟩ | exact .inr (.inl ⟨_, rfl⟩) | unfold atomsOp | unfold ldsOp | unfold stsOp | unfold sfuUnary | unfold acquireOp | unfold aluA | unfold aluAB | unfold aluABD | unfold aluABDF | unfold aluABF | unfold aluCmp | unfold aluMadw | unfold aluPairs | unfold aluPred | unfold atomicOp | unfold barInstr | unfold barWait | unfold bkptOp | unfold contOp | unfold copyMcOp | unfold copyOp | unfold copyV2sOp | unfold cpywaitOp | unfold cvjoinOp | unfold cvsetOp | unfold fragOp | unfold gangOp | unfold gtrinvOp | unfold handleOp | unfold handleWait | unfold loadOp | unfold mcbOp | unfold mgangOp | unfold mopfOp | unfold movswOp | unfold mrelOp | unfold nmcOp | unfold nmwaitOp | unfold queueOp | unfold rdvOp | unfold releaseOp | unfold scratchOp | unfold sfuIssue | unfold simple | unfold storeOp | unfold streamOp | unfold transferOp | unfold tretOp)

theorem via_ldsQ (g u d a la off) (s : State) : Via (.ldsQ g u d a la off) s := by
  unfold Via; rw [exec_ldsQ]; unfold execLdsQ; repeat (first | exact .inl ⟨_, rfl⟩ | exact .inr (.inl ⟨_, rfl⟩) | unfold atomsOp | unfold ldsOp | unfold stsOp | unfold sfuUnary | unfold acquireOp | unfold aluA | unfold aluAB | unfold aluABD | unfold aluABDF | unfold aluABF | unfold aluCmp | unfold aluMadw | unfold aluPairs | unfold aluPred | unfold atomicOp | unfold barInstr | unfold barWait | unfold bkptOp | unfold contOp | unfold copyMcOp | unfold copyOp | unfold copyV2sOp | unfold cpywaitOp | unfold cvjoinOp | unfold cvsetOp | unfold fragOp | unfold gangOp | unfold gtrinvOp | unfold handleOp | unfold handleWait | unfold loadOp | unfold mcbOp | unfold mgangOp | unfold mopfOp | unfold movswOp | unfold mrelOp | unfold nmcOp | unfold nmwaitOp | unfold queueOp | unfold rdvOp | unfold releaseOp | unfold scratchOp | unfold sfuIssue | unfold simple | unfold storeOp | unfold streamOp | unfold transferOp | unfold tretOp)

theorem via_ldsO (g u d a la off) (s : State) : Via (.ldsO g u d a la off) s := by
  unfold Via; rw [exec_ldsO]; unfold execLdsO; repeat (first | exact .inl ⟨_, rfl⟩ | exact .inr (.inl ⟨_, rfl⟩) | unfold atomsOp | unfold ldsOp | unfold stsOp | unfold sfuUnary | unfold acquireOp | unfold aluA | unfold aluAB | unfold aluABD | unfold aluABDF | unfold aluABF | unfold aluCmp | unfold aluMadw | unfold aluPairs | unfold aluPred | unfold atomicOp | unfold barInstr | unfold barWait | unfold bkptOp | unfold contOp | unfold copyMcOp | unfold copyOp | unfold copyV2sOp | unfold cpywaitOp | unfold cvjoinOp | unfold cvsetOp | unfold fragOp | unfold gangOp | unfold gtrinvOp | unfold handleOp | unfold handleWait | unfold loadOp | unfold mcbOp | unfold mgangOp | unfold mopfOp | unfold movswOp | unfold mrelOp | unfold nmcOp | unfold nmwaitOp | unfold queueOp | unfold rdvOp | unfold releaseOp | unfold scratchOp | unfold sfuIssue | unfold simple | unfold storeOp | unfold streamOp | unfold transferOp | unfold tretOp)

theorem via_stsW (g d a la off) (s : State) : Via (.stsW g d a la off) s := by
  unfold Via; rw [exec_stsW]; unfold execStsW; repeat (first | exact .inl ⟨_, rfl⟩ | exact .inr (.inl ⟨_, rfl⟩) | unfold atomsOp | unfold ldsOp | unfold stsOp | unfold sfuUnary | unfold acquireOp | unfold aluA | unfold aluAB | unfold aluABD | unfold aluABDF | unfold aluABF | unfold aluCmp | unfold aluMadw | unfold aluPairs | unfold aluPred | unfold atomicOp | unfold barInstr | unfold barWait | unfold bkptOp | unfold contOp | unfold copyMcOp | unfold copyOp | unfold copyV2sOp | unfold cpywaitOp | unfold cvjoinOp | unfold cvsetOp | unfold fragOp | unfold gangOp | unfold gtrinvOp | unfold handleOp | unfold handleWait | unfold loadOp | unfold mcbOp | unfold mgangOp | unfold mopfOp | unfold movswOp | unfold mrelOp | unfold nmcOp | unfold nmwaitOp | unfold queueOp | unfold rdvOp | unfold releaseOp | unfold scratchOp | unfold sfuIssue | unfold simple | unfold storeOp | unfold streamOp | unfold transferOp | unfold tretOp)

theorem via_stsD (g d a la off) (s : State) : Via (.stsD g d a la off) s := by
  unfold Via; rw [exec_stsD]; unfold execStsD; repeat (first | exact .inl ⟨_, rfl⟩ | exact .inr (.inl ⟨_, rfl⟩) | unfold atomsOp | unfold ldsOp | unfold stsOp | unfold sfuUnary | unfold acquireOp | unfold aluA | unfold aluAB | unfold aluABD | unfold aluABDF | unfold aluABF | unfold aluCmp | unfold aluMadw | unfold aluPairs | unfold aluPred | unfold atomicOp | unfold barInstr | unfold barWait | unfold bkptOp | unfold contOp | unfold copyMcOp | unfold copyOp | unfold copyV2sOp | unfold cpywaitOp | unfold cvjoinOp | unfold cvsetOp | unfold fragOp | unfold gangOp | unfold gtrinvOp | unfold handleOp | unfold handleWait | unfold loadOp | unfold mcbOp | unfold mgangOp | unfold mopfOp | unfold movswOp | unfold mrelOp | unfold nmcOp | unfold nmwaitOp | unfold queueOp | unfold rdvOp | unfold releaseOp | unfold scratchOp | unfold sfuIssue | unfold simple | unfold storeOp | unfold streamOp | unfold transferOp | unfold tretOp)

theorem via_stsQ (g d a la off) (s : State) : Via (.stsQ g d a la off) s := by
  unfold Via; rw [exec_stsQ]; unfold execStsQ; repeat (first | exact .inl ⟨_, rfl⟩ | exact .inr (.inl ⟨_, rfl⟩) | unfold atomsOp | unfold ldsOp | unfold stsOp | unfold sfuUnary | unfold acquireOp | unfold aluA | unfold aluAB | unfold aluABD | unfold aluABDF | unfold aluABF | unfold aluCmp | unfold aluMadw | unfold aluPairs | unfold aluPred | unfold atomicOp | unfold barInstr | unfold barWait | unfold bkptOp | unfold contOp | unfold copyMcOp | unfold copyOp | unfold copyV2sOp | unfold cpywaitOp | unfold cvjoinOp | unfold cvsetOp | unfold fragOp | unfold gangOp | unfold gtrinvOp | unfold handleOp | unfold handleWait | unfold loadOp | unfold mcbOp | unfold mgangOp | unfold mopfOp | unfold movswOp | unfold mrelOp | unfold nmcOp | unfold nmwaitOp | unfold queueOp | unfold rdvOp | unfold releaseOp | unfold scratchOp | unfold sfuIssue | unfold simple | unfold storeOp | unfold streamOp | unfold transferOp | unfold tretOp)

theorem via_stsO (g d a la off) (s : State) : Via (.stsO g d a la off) s := by
  unfold Via; rw [exec_stsO]; unfold execStsO; repeat (first | exact .inl ⟨_, rfl⟩ | exact .inr (.inl ⟨_, rfl⟩) | unfold atomsOp | unfold ldsOp | unfold stsOp | unfold sfuUnary | unfold acquireOp | unfold aluA | unfold aluAB | unfold aluABD | unfold aluABDF | unfold aluABF | unfold aluCmp | unfold aluMadw | unfold aluPairs | unfold aluPred | unfold atomicOp | unfold barInstr | unfold barWait | unfold bkptOp | unfold contOp | unfold copyMcOp | unfold copyOp | unfold copyV2sOp | unfold cpywaitOp | unfold cvjoinOp | unfold cvsetOp | unfold fragOp | unfold gangOp | unfold gtrinvOp | unfold handleOp | unfold handleWait | unfold loadOp | unfold mcbOp | unfold mgangOp | unfold mopfOp | unfold movswOp | unfold mrelOp | unfold nmcOp | unfold nmwaitOp | unfold queueOp | unfold rdvOp | unfold releaseOp | unfold scratchOp | unfold sfuIssue | unfold simple | unfold storeOp | unfold streamOp | unfold transferOp | unfold tretOp)

theorem via_ldfragN (g u d a la off) (s : State) : Via (.ldfragN g u d a la off) s := by
  unfold Via; rw [exec_ldfragN]; unfold execLdfragN; repeat (first | exact .inl ⟨_, rfl⟩ | exact .inr (.inl ⟨_, rfl⟩) | unfold atomsOp | unfold ldsOp | unfold stsOp | unfold sfuUnary | unfold acquireOp | unfold aluA | unfold aluAB | unfold aluABD | unfold aluABDF | unfold aluABF | unfold aluCmp | unfold aluMadw | unfold aluPairs | unfold aluPred | unfold atomicOp | unfold barInstr | unfold barWait | unfold bkptOp | unfold contOp | unfold copyMcOp | unfold copyOp | unfold copyV2sOp | unfold cpywaitOp | unfold cvjoinOp | unfold cvsetOp | unfold fragOp | unfold gangOp | unfold gtrinvOp | unfold handleOp | unfold handleWait | unfold loadOp | unfold mcbOp | unfold mgangOp | unfold mopfOp | unfold movswOp | unfold mrelOp | unfold nmcOp | unfold nmwaitOp | unfold queueOp | unfold rdvOp | unfold releaseOp | unfold scratchOp | unfold sfuIssue | unfold simple | unfold storeOp | unfold streamOp | unfold transferOp | unfold tretOp)

theorem via_ldfragT8 (g u d a la off) (s : State) : Via (.ldfragT8 g u d a la off) s := by
  unfold Via; rw [exec_ldfragT8]; unfold execLdfragT8; repeat (first | exact .inl ⟨_, rfl⟩ | exact .inr (.inl ⟨_, rfl⟩) | unfold atomsOp | unfold ldsOp | unfold stsOp | unfold sfuUnary | unfold acquireOp | unfold aluA | unfold aluAB | unfold aluABD | unfold aluABDF | unfold aluABF | unfold aluCmp | unfold aluMadw | unfold aluPairs | unfold aluPred | unfold atomicOp | unfold barInstr | unfold barWait | unfold bkptOp | unfold contOp | unfold copyMcOp | unfold copyOp | unfold copyV2sOp | unfold cpywaitOp | unfold cvjoinOp | unfold cvsetOp | unfold fragOp | unfold gangOp | unfold gtrinvOp | unfold handleOp | unfold handleWait | unfold loadOp | unfold mcbOp | unfold mgangOp | unfold mopfOp | unfold movswOp | unfold mrelOp | unfold nmcOp | unfold nmwaitOp | unfold queueOp | unfold rdvOp | unfold releaseOp | unfold scratchOp | unfold sfuIssue | unfold simple | unfold storeOp | unfold streamOp | unfold transferOp | unfold tretOp)

theorem via_ldfragT16 (g u d a la off) (s : State) : Via (.ldfragT16 g u d a la off) s := by
  unfold Via; rw [exec_ldfragT16]; unfold execLdfragT16; repeat (first | exact .inl ⟨_, rfl⟩ | exact .inr (.inl ⟨_, rfl⟩) | unfold atomsOp | unfold ldsOp | unfold stsOp | unfold sfuUnary | unfold acquireOp | unfold aluA | unfold aluAB | unfold aluABD | unfold aluABDF | unfold aluABF | unfold aluCmp | unfold aluMadw | unfold aluPairs | unfold aluPred | unfold atomicOp | unfold barInstr | unfold barWait | unfold bkptOp | unfold contOp | unfold copyMcOp | unfold copyOp | unfold copyV2sOp | unfold cpywaitOp | unfold cvjoinOp | unfold cvsetOp | unfold fragOp | unfold gangOp | unfold gtrinvOp | unfold handleOp | unfold handleWait | unfold loadOp | unfold mcbOp | unfold mgangOp | unfold mopfOp | unfold movswOp | unfold mrelOp | unfold nmcOp | unfold nmwaitOp | unfold queueOp | unfold rdvOp | unfold releaseOp | unfold scratchOp | unfold sfuIssue | unfold simple | unfold storeOp | unfold streamOp | unfold transferOp | unfold tretOp)

theorem via_atomAdd (g d a la bs off) (s : State) : Via (.atomAdd g d a la bs off) s := by
  unfold Via; rw [exec_atomAdd]; unfold execAtomAdd; repeat (first | exact .inl ⟨_, rfl⟩ | exact .inr (.inl ⟨_, rfl⟩) | unfold atomsOp | unfold ldsOp | unfold stsOp | unfold sfuUnary | unfold acquireOp | unfold aluA | unfold aluAB | unfold aluABD | unfold aluABDF | unfold aluABF | unfold aluCmp | unfold aluMadw | unfold aluPairs | unfold aluPred | unfold atomicOp | unfold barInstr | unfold barWait | unfold bkptOp | unfold contOp | unfold copyMcOp | unfold copyOp | unfold copyV2sOp | unfold cpywaitOp | unfold cvjoinOp | unfold cvsetOp | unfold fragOp | unfold gangOp | unfold gtrinvOp | unfold handleOp | unfold handleWait | unfold loadOp | unfold mcbOp | unfold mgangOp | unfold mopfOp | unfold movswOp | unfold mrelOp | unfold nmcOp | unfold nmwaitOp | unfold queueOp | unfold rdvOp | unfold releaseOp | unfold scratchOp | unfold sfuIssue | unfold simple | unfold storeOp | unfold streamOp | unfold transferOp | unfold tretOp)

theorem via_atomMinI32 (g d a la bs off) (s : State) : Via (.atomMinI32 g d a la bs off) s := by
  unfold Via; rw [exec_atomMinI32]; unfold execAtomMinI32; repeat (first | exact .inl ⟨_, rfl⟩ | exact .inr (.inl ⟨_, rfl⟩) | unfold atomsOp | unfold ldsOp | unfold stsOp | unfold sfuUnary | unfold acquireOp | unfold aluA | unfold aluAB | unfold aluABD | unfold aluABDF | unfold aluABF | unfold aluCmp | unfold aluMadw | unfold aluPairs | unfold aluPred | unfold atomicOp | unfold barInstr | unfold barWait | unfold bkptOp | unfold contOp | unfold copyMcOp | unfold copyOp | unfold copyV2sOp | unfold cpywaitOp | unfold cvjoinOp | unfold cvsetOp | unfold fragOp | unfold gangOp | unfold gtrinvOp | unfold handleOp | unfold handleWait | unfold loadOp | unfold mcbOp | unfold mgangOp | unfold mopfOp | unfold movswOp | unfold mrelOp | unfold nmcOp | unfold nmwaitOp | unfold queueOp | unfold rdvOp | unfold releaseOp | unfold scratchOp | unfold sfuIssue | unfold simple | unfold storeOp | unfold streamOp | unfold transferOp | unfold tretOp)

theorem via_atomMaxI32 (g d a la bs off) (s : State) : Via (.atomMaxI32 g d a la bs off) s := by
  unfold Via; rw [exec_atomMaxI32]; unfold execAtomMaxI32; repeat (first | exact .inl ⟨_, rfl⟩ | exact .inr (.inl ⟨_, rfl⟩) | unfold atomsOp | unfold ldsOp | unfold stsOp | unfold sfuUnary | unfold acquireOp | unfold aluA | unfold aluAB | unfold aluABD | unfold aluABDF | unfold aluABF | unfold aluCmp | unfold aluMadw | unfold aluPairs | unfold aluPred | unfold atomicOp | unfold barInstr | unfold barWait | unfold bkptOp | unfold contOp | unfold copyMcOp | unfold copyOp | unfold copyV2sOp | unfold cpywaitOp | unfold cvjoinOp | unfold cvsetOp | unfold fragOp | unfold gangOp | unfold gtrinvOp | unfold handleOp | unfold handleWait | unfold loadOp | unfold mcbOp | unfold mgangOp | unfold mopfOp | unfold movswOp | unfold mrelOp | unfold nmcOp | unfold nmwaitOp | unfold queueOp | unfold rdvOp | unfold releaseOp | unfold scratchOp | unfold sfuIssue | unfold simple | unfold storeOp | unfold streamOp | unfold transferOp | unfold tretOp)

theorem via_atomMinN32 (g d a la bs off) (s : State) : Via (.atomMinN32 g d a la bs off) s := by
  unfold Via; rw [exec_atomMinN32]; unfold execAtomMinN32; repeat (first | exact .inl ⟨_, rfl⟩ | exact .inr (.inl ⟨_, rfl⟩) | unfold atomsOp | unfold ldsOp | unfold stsOp | unfold sfuUnary | unfold acquireOp | unfold aluA | unfold aluAB | unfold aluABD | unfold aluABDF | unfold aluABF | unfold aluCmp | unfold aluMadw | unfold aluPairs | unfold aluPred | unfold atomicOp | unfold barInstr | unfold barWait | unfold bkptOp | unfold contOp | unfold copyMcOp | unfold copyOp | unfold copyV2sOp | unfold cpywaitOp | unfold cvjoinOp | unfold cvsetOp | unfold fragOp | unfold gangOp | unfold gtrinvOp | unfold handleOp | unfold handleWait | unfold loadOp | unfold mcbOp | unfold mgangOp | unfold mopfOp | unfold movswOp | unfold mrelOp | unfold nmcOp | unfold nmwaitOp | unfold queueOp | unfold rdvOp | unfold releaseOp | unfold scratchOp | unfold sfuIssue | unfold simple | unfold storeOp | unfold streamOp | unfold transferOp | unfold tretOp)

theorem via_atomMaxN32 (g d a la bs off) (s : State) : Via (.atomMaxN32 g d a la bs off) s := by
  unfold Via; rw [exec_atomMaxN32]; unfold execAtomMaxN32; repeat (first | exact .inl ⟨_, rfl⟩ | exact .inr (.inl ⟨_, rfl⟩) | unfold atomsOp | unfold ldsOp | unfold stsOp | unfold sfuUnary | unfold acquireOp | unfold aluA | unfold aluAB | unfold aluABD | unfold aluABDF | unfold aluABF | unfold aluCmp | unfold aluMadw | unfold aluPairs | unfold aluPred | unfold atomicOp | unfold barInstr | unfold barWait | unfold bkptOp | unfold contOp | unfold copyMcOp | unfold copyOp | unfold copyV2sOp | unfold cpywaitOp | unfold cvjoinOp | unfold cvsetOp | unfold fragOp | unfold gangOp | unfold gtrinvOp | unfold handleOp | unfold handleWait | unfold loadOp | unfold mcbOp | unfold mgangOp | unfold mopfOp | unfold movswOp | unfold mrelOp | unfold nmcOp | unfold nmwaitOp | unfold queueOp | unfold rdvOp | unfold releaseOp | unfold scratchOp | unfold sfuIssue | unfold simple | unfold storeOp | unfold streamOp | unfold transferOp | unfold tretOp)

theorem via_atomAnd (g d a la bs off) (s : State) : Via (.atomAnd g d a la bs off) s := by
  unfold Via; rw [exec_atomAnd]; unfold execAtomAnd; repeat (first | exact .inl ⟨_, rfl⟩ | exact .inr (.inl ⟨_, rfl⟩) | unfold atomsOp | unfold ldsOp | unfold stsOp | unfold sfuUnary | unfold acquireOp | unfold aluA | unfold aluAB | unfold aluABD | unfold aluABDF | unfold aluABF | unfold aluCmp | unfold aluMadw | unfold aluPairs | unfold aluPred | unfold atomicOp | unfold barInstr | unfold barWait | unfold bkptOp | unfold contOp | unfold copyMcOp | unfold copyOp | unfold copyV2sOp | unfold cpywaitOp | unfold cvjoinOp | unfold cvsetOp | unfold fragOp | unfold gangOp | unfold gtrinvOp | unfold handleOp | unfold handleWait | unfold loadOp | unfold mcbOp | unfold mgangOp | unfold mopfOp | unfold movswOp | unfold mrelOp | unfold nmcOp | unfold nmwaitOp | unfold queueOp | unfold rdvOp | unfold releaseOp | unfold scratchOp | unfold sfuIssue | unfold simple | unfold storeOp | unfold streamOp | unfold transferOp | unfold tretOp)

theorem via_atomOr (g d a la bs off) (s : State) : Via (.atomOr g d a la bs off) s := by
  unfold Via; rw [exec_atomOr]; unfold execAtomOr; repeat (first | exact .inl ⟨_, rfl⟩ | exact .inr (.inl ⟨_, rfl⟩) | unfold atomsOp | unfold ldsOp | unfold stsOp | unfold sfuUnary | unfold acquireOp | unfold aluA | unfold aluAB | unfold aluABD | unfold aluABDF | unfold aluABF | unfold aluCmp | unfold aluMadw | unfold aluPairs | unfold aluPred | unfold atomicOp | unfold barInstr | unfold barWait | unfold bkptOp | unfold contOp | unfold copyMcOp | unfold copyOp | unfold copyV2sOp | unfold cpywaitOp | unfold cvjoinOp | unfold cvsetOp | unfold fragOp | unfold gangOp | unfold gtrinvOp | unfold handleOp | unfold handleWait | unfold loadOp | unfold mcbOp | unfold mgangOp | unfold mopfOp | unfold movswOp | unfold mrelOp | unfold nmcOp | unfold nmwaitOp | unfold queueOp | unfold rdvOp | unfold releaseOp | unfold scratchOp | unfold sfuIssue | unfold simple | unfold storeOp | unfold streamOp | unfold transferOp | unfold tretOp)

theorem via_atomXor (g d a la bs off) (s : State) : Via (.atomXor g d a la bs off) s := by
  unfold Via; rw [exec_atomXor]; unfold execAtomXor; repeat (first | exact .inl ⟨_, rfl⟩ | exact .inr (.inl ⟨_, rfl⟩) | unfold atomsOp | unfold ldsOp | unfold stsOp | unfold sfuUnary | unfold acquireOp | unfold aluA | unfold aluAB | unfold aluABD | unfold aluABDF | unfold aluABF | unfold aluCmp | unfold aluMadw | unfold aluPairs | unfold aluPred | unfold atomicOp | unfold barInstr | unfold barWait | unfold bkptOp | unfold contOp | unfold copyMcOp | unfold copyOp | unfold copyV2sOp | unfold cpywaitOp | unfold cvjoinOp | unfold cvsetOp | unfold fragOp | unfold gangOp | unfold gtrinvOp | unfold handleOp | unfold handleWait | unfold loadOp | unfold mcbOp | unfold mgangOp | unfold mopfOp | unfold movswOp | unfold mrelOp | unfold nmcOp | unfold nmwaitOp | unfold queueOp | unfold rdvOp | unfold releaseOp | unfold scratchOp | unfold sfuIssue | unfold simple | unfold storeOp | unfold streamOp | unfold transferOp | unfold tretOp)

theorem via_atomXchg (g d a la bs off) (s : State) : Via (.atomXchg g d a la bs off) s := by
  unfold Via; rw [exec_atomXchg]; unfold execAtomXchg; repeat (first | exact .inl ⟨_, rfl⟩ | exact .inr (.inl ⟨_, rfl⟩) | unfold atomsOp | unfold ldsOp | unfold stsOp | unfold sfuUnary | unfold acquireOp | unfold aluA | unfold aluAB | unfold aluABD | unfold aluABDF | unfold aluABF | unfold aluCmp | unfold aluMadw | unfold aluPairs | unfold aluPred | unfold atomicOp | unfold barInstr | unfold barWait | unfold bkptOp | unfold contOp | unfold copyMcOp | unfold copyOp | unfold copyV2sOp | unfold cpywaitOp | unfold cvjoinOp | unfold cvsetOp | unfold fragOp | unfold gangOp | unfold gtrinvOp | unfold handleOp | unfold handleWait | unfold loadOp | unfold mcbOp | unfold mgangOp | unfold mopfOp | unfold movswOp | unfold mrelOp | unfold nmcOp | unfold nmwaitOp | unfold queueOp | unfold rdvOp | unfold releaseOp | unfold scratchOp | unfold sfuIssue | unfold simple | unfold storeOp | unfold streamOp | unfold transferOp | unfold tretOp)

theorem via_atomCas (g d a la bs off) (s : State) : Via (.atomCas g d a la bs off) s := by
  unfold Via; rw [exec_atomCas]; unfold execAtomCas; repeat (first | exact .inl ⟨_, rfl⟩ | exact .inr (.inl ⟨_, rfl⟩) | unfold atomsOp | unfold ldsOp | unfold stsOp | unfold sfuUnary | unfold acquireOp | unfold aluA | unfold aluAB | unfold aluABD | unfold aluABDF | unfold aluABF | unfold aluCmp | unfold aluMadw | unfold aluPairs | unfold aluPred | unfold atomicOp | unfold barInstr | unfold barWait | unfold bkptOp | unfold contOp | unfold copyMcOp | unfold copyOp | unfold copyV2sOp | unfold cpywaitOp | unfold cvjoinOp | unfold cvsetOp | unfold fragOp | unfold gangOp | unfold gtrinvOp | unfold handleOp | unfold handleWait | unfold loadOp | unfold mcbOp | unfold mgangOp | unfold mopfOp | unfold movswOp | unfold mrelOp | unfold nmcOp | unfold nmwaitOp | unfold queueOp | unfold rdvOp | unfold releaseOp | unfold scratchOp | unfold sfuIssue | unfold simple | unfold storeOp | unfold streamOp | unfold transferOp | unfold tretOp)

theorem via_atomIncw (g d a la bs off) (s : State) : Via (.atomIncw g d a la bs off) s := by
  unfold Via; rw [exec_atomIncw]; unfold execAtomIncw; repeat (first | exact .inl ⟨_, rfl⟩ | exact .inr (.inl ⟨_, rfl⟩) | unfold atomsOp | unfold ldsOp | unfold stsOp | unfold sfuUnary | unfold acquireOp | unfold aluA | unfold aluAB | unfold aluABD | unfold aluABDF | unfold aluABF | unfold aluCmp | unfold aluMadw | unfold aluPairs | unfold aluPred | unfold atomicOp | unfold barInstr | unfold barWait | unfold bkptOp | unfold contOp | unfold copyMcOp | unfold copyOp | unfold copyV2sOp | unfold cpywaitOp | unfold cvjoinOp | unfold cvsetOp | unfold fragOp | unfold gangOp | unfold gtrinvOp | unfold handleOp | unfold handleWait | unfold loadOp | unfold mcbOp | unfold mgangOp | unfold mopfOp | unfold movswOp | unfold mrelOp | unfold nmcOp | unfold nmwaitOp | unfold queueOp | unfold rdvOp | unfold releaseOp | unfold scratchOp | unfold sfuIssue | unfold simple | unfold storeOp | unfold streamOp | unfold transferOp | unfold tretOp)

theorem via_atomAdd64 (g d a la bs off) (s : State) : Via (.atomAdd64 g d a la bs off) s := by
  unfold Via; rw [exec_atomAdd64]; unfold execAtomAdd64; repeat (first | exact .inl ⟨_, rfl⟩ | exact .inr (.inl ⟨_, rfl⟩) | unfold atomsOp | unfold ldsOp | unfold stsOp | unfold sfuUnary | unfold acquireOp | unfold aluA | unfold aluAB | unfold aluABD | unfold aluABDF | unfold aluABF | unfold aluCmp | unfold aluMadw | unfold aluPairs | unfold aluPred | unfold atomicOp | unfold barInstr | unfold barWait | unfold bkptOp | unfold contOp | unfold copyMcOp | unfold copyOp | unfold copyV2sOp | unfold cpywaitOp | unfold cvjoinOp | unfold cvsetOp | unfold fragOp | unfold gangOp | unfold gtrinvOp | unfold handleOp | unfold handleWait | unfold loadOp | unfold mcbOp | unfold mgangOp | unfold mopfOp | unfold movswOp | unfold mrelOp | unfold nmcOp | unfold nmwaitOp | unfold queueOp | unfold rdvOp | unfold releaseOp | unfold scratchOp | unfold sfuIssue | unfold simple | unfold storeOp | unfold streamOp | unfold transferOp | unfold tretOp)

theorem via_atomCas64 (g d a la bs off) (s : State) : Via (.atomCas64 g d a la bs off) s := by
  unfold Via; rw [exec_atomCas64]; unfold execAtomCas64; repeat (first | exact .inl ⟨_, rfl⟩ | exact .inr (.inl ⟨_, rfl⟩) | unfold atomsOp | unfold ldsOp | unfold stsOp | unfold sfuUnary | unfold acquireOp | unfold aluA | unfold aluAB | unfold aluABD | unfold aluABDF | unfold aluABF | unfold aluCmp | unfold aluMadw | unfold aluPairs | unfold aluPred | unfold atomicOp | unfold barInstr | unfold barWait | unfold bkptOp | unfold contOp | unfold copyMcOp | unfold copyOp | unfold copyV2sOp | unfold cpywaitOp | unfold cvjoinOp | unfold cvsetOp | unfold fragOp | unfold gangOp | unfold gtrinvOp | unfold handleOp | unfold handleWait | unfold loadOp | unfold mcbOp | unfold mgangOp | unfold mopfOp | unfold movswOp | unfold mrelOp | unfold nmcOp | unfold nmwaitOp | unfold queueOp | unfold rdvOp | unfold releaseOp | unfold scratchOp | unfold sfuIssue | unfold simple | unfold storeOp | unfold streamOp | unfold transferOp | unfold tretOp)

theorem via_atomFadd (g d a la bs off) (s : State) : Via (.atomFadd g d a la bs off) s := by
  unfold Via; rw [exec_atomFadd]; unfold execAtomFadd; repeat (first | exact .inl ⟨_, rfl⟩ | exact .inr (.inl ⟨_, rfl⟩) | unfold atomsOp | unfold ldsOp | unfold stsOp | unfold sfuUnary | unfold acquireOp | unfold aluA | unfold aluAB | unfold aluABD | unfold aluABDF | unfold aluABF | unfold aluCmp | unfold aluMadw | unfold aluPairs | unfold aluPred | unfold atomicOp | unfold barInstr | unfold barWait | unfold bkptOp | unfold contOp | unfold copyMcOp | unfold copyOp | unfold copyV2sOp | unfold cpywaitOp | unfold cvjoinOp | unfold cvsetOp | unfold fragOp | unfold gangOp | unfold gtrinvOp | unfold handleOp | unfold handleWait | unfold loadOp | unfold mcbOp | unfold mgangOp | unfold mopfOp | unfold movswOp | unfold mrelOp | unfold nmcOp | unfold nmwaitOp | unfold queueOp | unfold rdvOp | unfold releaseOp | unfold scratchOp | unfold sfuIssue | unfold simple | unfold storeOp | unfold streamOp | unfold transferOp | unfold tretOp)

theorem via_atomWrd (g d a la bs off) (s : State) : Via (.atomWrd g d a la bs off) s := by
  unfold Via; rw [exec_atomWrd]; unfold execAtomWrd; repeat (first | exact .inl ⟨_, rfl⟩ | exact .inr (.inl ⟨_, rfl⟩) | unfold atomsOp | unfold ldsOp | unfold stsOp | unfold sfuUnary | unfold acquireOp | unfold aluA | unfold aluAB | unfold aluABD | unfold aluABDF | unfold aluABF | unfold aluCmp | unfold aluMadw | unfold aluPairs | unfold aluPred | unfold atomicOp | unfold barInstr | unfold barWait | unfold bkptOp | unfold contOp | unfold copyMcOp | unfold copyOp | unfold copyV2sOp | unfold cpywaitOp | unfold cvjoinOp | unfold cvsetOp | unfold fragOp | unfold gangOp | unfold gtrinvOp | unfold handleOp | unfold handleWait | unfold loadOp | unfold mcbOp | unfold mgangOp | unfold mopfOp | unfold movswOp | unfold mrelOp | unfold nmcOp | unfold nmwaitOp | unfold queueOp | unfold rdvOp | unfold releaseOp | unfold scratchOp | unfold sfuIssue | unfold simple | unfold storeOp | unfold streamOp | unfold transferOp | unfold tretOp)

theorem via_redAdd (g d a la bs off) (s : State) : Via (.redAdd g d a la bs off) s := by
  unfold Via; rw [exec_redAdd]; unfold execRedAdd; repeat (first | exact .inl ⟨_, rfl⟩ | exact .inr (.inl ⟨_, rfl⟩) | unfold atomsOp | unfold ldsOp | unfold stsOp | unfold sfuUnary | unfold acquireOp | unfold aluA | unfold aluAB | unfold aluABD | unfold aluABDF | unfold aluABF | unfold aluCmp | unfold aluMadw | unfold aluPairs | unfold aluPred | unfold atomicOp | unfold barInstr | unfold barWait | unfold bkptOp | unfold contOp | unfold copyMcOp | unfold copyOp | unfold copyV2sOp | unfold cpywaitOp | unfold cvjoinOp | unfold cvsetOp | unfold fragOp | unfold gangOp | unfold gtrinvOp | unfold handleOp | unfold handleWait | unfold loadOp | unfold mcbOp | unfold mgangOp | unfold mopfOp | unfold movswOp | unfold mrelOp | unfold nmcOp | unfold nmwaitOp | unfold queueOp | unfold rdvOp | unfold releaseOp | unfold scratchOp | unfold sfuIssue | unfold simple | unfold storeOp | unfold streamOp | unfold transferOp | unfold tretOp)

theorem via_redFadd (g d a la bs off) (s : State) : Via (.redFadd g d a la bs off) s := by
  unfold Via; rw [exec_redFadd]; unfold execRedFadd; repeat (first | exact .inl ⟨_, rfl⟩ | exact .inr (.inl ⟨_, rfl⟩) | unfold atomsOp | unfold ldsOp | unfold stsOp | unfold sfuUnary | unfold acquireOp | unfold aluA | unfold aluAB | unfold aluABD | unfold aluABDF | unfold aluABF | unfold aluCmp | unfold aluMadw | unfold aluPairs | unfold aluPred | unfold atomicOp | unfold barInstr | unfold barWait | unfold bkptOp | unfold contOp | unfold copyMcOp | unfold copyOp | unfold copyV2sOp | unfold cpywaitOp | unfold cvjoinOp | unfold cvsetOp | unfold fragOp | unfold gangOp | unfold gtrinvOp | unfold handleOp | unfold handleWait | unfold loadOp | unfold mcbOp | unfold mgangOp | unfold mopfOp | unfold movswOp | unfold mrelOp | unfold nmcOp | unfold nmwaitOp | unfold queueOp | unfold rdvOp | unfold releaseOp | unfold scratchOp | unfold sfuIssue | unfold simple | unfold storeOp | unfold streamOp | unfold transferOp | unfold tretOp)

theorem via_redWadd (g d a la bs off) (s : State) : Via (.redWadd g d a la bs off) s := by
  unfold Via; rw [exec_redWadd]; unfold execRedWadd; repeat (first | exact .inl ⟨_, rfl⟩ | exact .inr (.inl ⟨_, rfl⟩) | unfold atomsOp | unfold ldsOp | unfold stsOp | unfold sfuUnary | unfold acquireOp | unfold aluA | unfold aluAB | unfold aluABD | unfold aluABDF | unfold aluABF | unfold aluCmp | unfold aluMadw | unfold aluPairs | unfold aluPred | unfold atomicOp | unfold barInstr | unfold barWait | unfold bkptOp | unfold contOp | unfold copyMcOp | unfold copyOp | unfold copyV2sOp | unfold cpywaitOp | unfold cvjoinOp | unfold cvsetOp | unfold fragOp | unfold gangOp | unfold gtrinvOp | unfold handleOp | unfold handleWait | unfold loadOp | unfold mcbOp | unfold mgangOp | unfold mopfOp | unfold movswOp | unfold mrelOp | unfold nmcOp | unfold nmwaitOp | unfold queueOp | unfold rdvOp | unfold releaseOp | unfold scratchOp | unfold sfuIssue | unfold simple | unfold storeOp | unfold streamOp | unfold transferOp | unfold tretOp)

theorem via_redMaxI32 (g d a la bs off) (s : State) : Via (.redMaxI32 g d a la bs off) s := by
  unfold Via; rw [exec_redMaxI32]; unfold execRedMaxI32; repeat (first | exact .inl ⟨_, rfl⟩ | exact .inr (.inl ⟨_, rfl⟩) | unfold atomsOp | unfold ldsOp | unfold stsOp | unfold sfuUnary | unfold acquireOp | unfold aluA | unfold aluAB | unfold aluABD | unfold aluABDF | unfold aluABF | unfold aluCmp | unfold aluMadw | unfold aluPairs | unfold aluPred | unfold atomicOp | unfold barInstr | unfold barWait | unfold bkptOp | unfold contOp | unfold copyMcOp | unfold copyOp | unfold copyV2sOp | unfold cpywaitOp | unfold cvjoinOp | unfold cvsetOp | unfold fragOp | unfold gangOp | unfold gtrinvOp | unfold handleOp | unfold handleWait | unfold loadOp | unfold mcbOp | unfold mgangOp | unfold mopfOp | unfold movswOp | unfold mrelOp | unfold nmcOp | unfold nmwaitOp | unfold queueOp | unfold rdvOp | unfold releaseOp | unfold scratchOp | unfold sfuIssue | unfold simple | unfold storeOp | unfold streamOp | unfold transferOp | unfold tretOp)

theorem via_atomsAdd (g d a la off) (s : State) : Via (.atomsAdd g d a la off) s := by
  unfold Via; rw [exec_atomsAdd]; unfold execAtomsAdd; repeat (first | exact .inl ⟨_, rfl⟩ | exact .inr (.inl ⟨_, rfl⟩) | unfold atomsOp | unfold ldsOp | unfold stsOp | unfold sfuUnary | unfold acquireOp | unfold aluA | unfold aluAB | unfold aluABD | unfold aluABDF | unfold aluABF | unfold aluCmp | unfold aluMadw | unfold aluPairs | unfold aluPred | unfold atomicOp | unfold barInstr | unfold barWait | unfold bkptOp | unfold contOp | unfold copyMcOp | unfold copyOp | unfold copyV2sOp | unfold cpywaitOp | unfold cvjoinOp | unfold cvsetOp | unfold fragOp | unfold gangOp | unfold gtrinvOp | unfold handleOp | unfold handleWait | unfold loadOp | unfold mcbOp | unfold mgangOp | unfold mopfOp | unfold movswOp | unfold mrelOp | unfold nmcOp | unfold nmwaitOp | unfold queueOp | unfold rdvOp | unfold releaseOp | unfold scratchOp | unfold sfuIssue | unfold simple | unfold storeOp | unfold streamOp | unfold transferOp | unfold tretOp)

theorem via_atomsCas (g d a la off) (s : State) : Via (.atomsCas g d a la off) s := by
  unfold Via; rw [exec_atomsCas]; unfold execAtomsCas; repeat (first | exact .inl ⟨_, rfl⟩ | exact .inr (.inl ⟨_, rfl⟩) | unfold atomsOp | unfold ldsOp | unfold stsOp | unfold sfuUnary | unfold acquireOp | unfold aluA | unfold aluAB | unfold aluABD | unfold aluABDF | unfold aluABF | unfold aluCmp | unfold aluMadw | unfold aluPairs | unfold aluPred | unfold atomicOp | unfold barInstr | unfold barWait | unfold bkptOp | unfold contOp | unfold copyMcOp | unfold copyOp | unfold copyV2sOp | unfold cpywaitOp | unfold cvjoinOp | unfold cvsetOp | unfold fragOp | unfold gangOp | unfold gtrinvOp | unfold handleOp | unfold handleWait | unfold loadOp | unfold mcbOp | unfold mgangOp | unfold mopfOp | unfold movswOp | unfold mrelOp | unfold nmcOp | unfold nmwaitOp | unfold queueOp | unfold rdvOp | unfold releaseOp | unfold scratchOp | unfold sfuIssue | unfold simple | unfold storeOp | unfold streamOp | unfold transferOp | unfold tretOp)

theorem via_atomsMaxN32 (g d a la off) (s : State) : Via (.atomsMaxN32 g d a la off) s := by
  unfold Via; rw [exec_atomsMaxN32]; unfold execAtomsMaxN32; repeat (first | exact .inl ⟨_, rfl⟩ | exact .inr (.inl ⟨_, rfl⟩) | unfold atomsOp | unfold ldsOp | unfold stsOp | unfold sfuUnary | unfold acquireOp | unfold aluA | unfold aluAB | unfold aluABD | unfold aluABDF | unfold aluABF | unfold aluCmp | unfold aluMadw | unfold aluPairs | unfold aluPred | unfold atomicOp | unfold barInstr | unfold barWait | unfold bkptOp | unfold contOp | unfold copyMcOp | unfold copyOp | unfold copyV2sOp | unfold cpywaitOp | unfold cvjoinOp | unfold cvsetOp | unfold fragOp | unfold gangOp | unfold gtrinvOp | unfold handleOp | unfold handleWait | unfold loadOp | unfold mcbOp | unfold mgangOp | unfold mopfOp | unfold movswOp | unfold mrelOp | unfold nmcOp | unfold nmwaitOp | unfold queueOp | unfold rdvOp | unfold releaseOp | unfold scratchOp | unfold sfuIssue | unfold simple | unfold storeOp | unfold streamOp | unfold transferOp | unfold tretOp)

theorem via_atomsXchg (g d a la off) (s : State) : Via (.atomsXchg g d a la off) s := by
  unfold Via; rw [exec_atomsXchg]; unfold execAtomsXchg; repeat (first | exact .inl ⟨_, rfl⟩ | exact .inr (.inl ⟨_, rfl⟩) | unfold atomsOp | unfold ldsOp | unfold stsOp | unfold sfuUnary | unfold acquireOp | unfold aluA | unfold aluAB | unfold aluABD | unfold aluABDF | unfold aluABF | unfold aluCmp | unfold aluMadw | unfold aluPairs | unfold aluPred | unfold atomicOp | unfold barInstr | unfold barWait | unfold bkptOp | unfold contOp | unfold copyMcOp | unfold copyOp | unfold copyV2sOp | unfold cpywaitOp | unfold cvjoinOp | unfold cvsetOp | unfold fragOp | unfold gangOp | unfold gtrinvOp | unfold handleOp | unfold handleWait | unfold loadOp | unfold mcbOp | unfold mgangOp | unfold mopfOp | unfold movswOp | unfold mrelOp | unfold nmcOp | unfold nmwaitOp | unfold queueOp | unfold rdvOp | unfold releaseOp | unfold scratchOp | unfold sfuIssue | unfold simple | unfold storeOp | unfold streamOp | unfold transferOp | unfold tretOp)

theorem via_setb (g a la bs) (s : State) : Via (.setb g a la bs) s := by
  unfold Via; rw [exec_setb]; unfold execSetb; repeat (first | exact .inl ⟨_, rfl⟩ | exact .inr (.inl ⟨_, rfl⟩) | unfold atomsOp | unfold ldsOp | unfold stsOp | unfold sfuUnary | unfold acquireOp | unfold aluA | unfold aluAB | unfold aluABD | unfold aluABDF | unfold aluABF | unfold aluCmp | unfold aluMadw | unfold aluPairs | unfold aluPred | unfold atomicOp | unfold barInstr | unfold barWait | unfold bkptOp | unfold contOp | unfold copyMcOp | unfold copyOp | unfold copyV2sOp | unfold cpywaitOp | unfold cvjoinOp | unfold cvsetOp | unfold fragOp | unfold gangOp | unfold gtrinvOp | unfold handleOp | unfold handleWait | unfold loadOp | unfold mcbOp | unfold mgangOp | unfold mopfOp | unfold movswOp | unfold mrelOp | unfold nmcOp | unfold nmwaitOp | unfold queueOp | unfold rdvOp | unfold releaseOp | unfold scratchOp | unfold sfuIssue | unfold simple | unfold storeOp | unfold streamOp | unfold transferOp | unfold tretOp)

theorem via_getb (g d la bs) (s : State) : Via (.getb g d la bs) s := by
  unfold Via; rw [exec_getb]; unfold execGetb; repeat (first | exact .inl ⟨_, rfl⟩ | exact .inr (.inl ⟨_, rfl⟩) | unfold atomsOp | unfold ldsOp | unfold stsOp | unfold sfuUnary | unfold acquireOp | unfold aluA | unfold aluAB | unfold aluABD | unfold aluABDF | unfold aluABF | unfold aluCmp | unfold aluMadw | unfold aluPairs | unfold aluPred | unfold atomicOp | unfold barInstr | unfold barWait | unfold bkptOp | unfold contOp | unfold copyMcOp | unfold copyOp | unfold copyV2sOp | unfold cpywaitOp | unfold cvjoinOp | unfold cvsetOp | unfold fragOp | unfold gangOp | unfold gtrinvOp | unfold handleOp | unfold handleWait | unfold loadOp | unfold mcbOp | unfold mgangOp | unfold mopfOp | unfold movswOp | unfold mrelOp | unfold nmcOp | unfold nmwaitOp | unfold queueOp | unfold rdvOp | unfold releaseOp | unfold scratchOp | unfold sfuIssue | unfold simple | unfold storeOp | unfold streamOp | unfold transferOp | unfold tretOp)

theorem via_bra (g ofs) (s : State) : Via (.bra g ofs) s := by
  unfold Via; rw [exec_bra]; unfold execBra; repeat (first | exact .inl ⟨_, rfl⟩ | exact .inr (.inl ⟨_, rfl⟩) | unfold atomsOp | unfold ldsOp | unfold stsOp | unfold sfuUnary | unfold acquireOp | unfold aluA | unfold aluAB | unfold aluABD | unfold aluABDF | unfold aluABF | unfold aluCmp | unfold aluMadw | unfold aluPairs | unfold aluPred | unfold atomicOp | unfold barInstr | unfold barWait | unfold bkptOp | unfold contOp | unfold copyMcOp | unfold copyOp | unfold copyV2sOp | unfold cpywaitOp | unfold cvjoinOp | unfold cvsetOp | unfold fragOp | unfold gangOp | unfold gtrinvOp | unfold handleOp | unfold handleWait | unfold loadOp | unfold mcbOp | unfold mgangOp | unfold mopfOp | unfold movswOp | unfold mrelOp | unfold nmcOp | unfold nmwaitOp | unfold queueOp | unfold rdvOp | unfold releaseOp | unfold scratchOp | unfold sfuIssue | unfold simple | unfold storeOp | unfold streamOp | unfold transferOp | unfold tretOp)

theorem via_brx (g a) (s : State) : Via (.brx g a) s := by
  unfold Via; rw [exec_brx]; unfold execBrx; repeat (first | exact .inl ⟨_, rfl⟩ | exact .inr (.inl ⟨_, rfl⟩) | unfold atomsOp | unfold ldsOp | unfold stsOp | unfold sfuUnary | unfold acquireOp | unfold aluA | unfold aluAB | unfold aluABD | unfold aluABDF | unfold aluABF | unfold aluCmp | unfold aluMadw | unfold aluPairs | unfold aluPred | unfold atomicOp | unfold barInstr | unfold barWait | unfold bkptOp | unfold contOp | unfold copyMcOp | unfold copyOp | unfold copyV2sOp | unfold cpywaitOp | unfold cvjoinOp | unfold cvsetOp | unfold fragOp | unfold gangOp | unfold gtrinvOp | unfold handleOp | unfold handleWait | unfold loadOp | unfold mcbOp | unfold mgangOp | unfold mopfOp | unfold movswOp | unfold mrelOp | unfold nmcOp | unfold nmwaitOp | unfold queueOp | unfold rdvOp | unfold releaseOp | unfold scratchOp | unfold sfuIssue | unfold simple | unfold storeOp | unfold streamOp | unfold transferOp | unfold tretOp)

theorem via_call (g d ofs) (s : State) : Via (.call g d ofs) s := by
  unfold Via; rw [exec_call]; unfold execCall; repeat (first | exact .inl ⟨_, rfl⟩ | exact .inr (.inl ⟨_, rfl⟩) | unfold atomsOp | unfold ldsOp | unfold stsOp | unfold sfuUnary | unfold acquireOp | unfold aluA | unfold aluAB | unfold aluABD | unfold aluABDF | unfold aluABF | unfold aluCmp | unfold aluMadw | unfold aluPairs | unfold aluPred | unfold atomicOp | unfold barInstr | unfold barWait | unfold bkptOp | unfold contOp | unfold copyMcOp | unfold copyOp | unfold copyV2sOp | unfold cpywaitOp | unfold cvjoinOp | unfold cvsetOp | unfold fragOp | unfold gangOp | unfold gtrinvOp | unfold handleOp | unfold handleWait | unfold loadOp | unfold mcbOp | unfold mgangOp | unfold mopfOp | unfold movswOp | unfold mrelOp | unfold nmcOp | unfold nmwaitOp | unfold queueOp | unfold rdvOp | unfold releaseOp | unfold scratchOp | unfold sfuIssue | unfold simple | unfold storeOp | unfold streamOp | unfold transferOp | unfold tretOp)

theorem via_callx (g d a) (s : State) : Via (.callx g d a) s := by
  unfold Via; rw [exec_callx]; unfold execCallx; repeat (first | exact .inl ⟨_, rfl⟩ | exact .inr (.inl ⟨_, rfl⟩) | unfold atomsOp | unfold ldsOp | unfold stsOp | unfold sfuUnary | unfold acquireOp | unfold aluA | unfold aluAB | unfold aluABD | unfold aluABDF | unfold aluABF | unfold aluCmp | unfold aluMadw | unfold aluPairs | unfold aluPred | unfold atomicOp | unfold barInstr | unfold barWait | unfold bkptOp | unfold contOp | unfold copyMcOp | unfold copyOp | unfold copyV2sOp | unfold cpywaitOp | unfold cvjoinOp | unfold cvsetOp | unfold fragOp | unfold gangOp | unfold gtrinvOp | unfold handleOp | unfold handleWait | unfold loadOp | unfold mcbOp | unfold mgangOp | unfold mopfOp | unfold movswOp | unfold mrelOp | unfold nmcOp | unfold nmwaitOp | unfold queueOp | unfold rdvOp | unfold releaseOp | unfold scratchOp | unfold sfuIssue | unfold simple | unfold storeOp | unfold streamOp | unfold transferOp | unfold tretOp)

theorem via_ret (g a) (s : State) : Via (.ret g a) s := by
  unfold Via; rw [exec_ret]; unfold execRet; repeat (first | exact .inl ⟨_, rfl⟩ | exact .inr (.inl ⟨_, rfl⟩) | unfold atomsOp | unfold ldsOp | unfold stsOp | unfold sfuUnary | unfold acquireOp | unfold aluA | unfold aluAB | unfold aluABD | unfold aluABDF | unfold aluABF | unfold aluCmp | unfold aluMadw | unfold aluPairs | unfold aluPred | unfold atomicOp | unfold barInstr | unfold barWait | unfold bkptOp | unfold contOp | unfold copyMcOp | unfold copyOp | unfold copyV2sOp | unfold cpywaitOp | unfold cvjoinOp | unfold cvsetOp | unfold fragOp | unfold gangOp | unfold gtrinvOp | unfold handleOp | unfold handleWait | unfold loadOp | unfold mcbOp | unfold mgangOp | unfold mopfOp | unfold movswOp | unfold mrelOp | unfold nmcOp | unfold nmwaitOp | unfold queueOp | unfold rdvOp | unfold releaseOp | unfold scratchOp | unfold sfuIssue | unfold simple | unfold storeOp | unfold streamOp | unfold transferOp | unfold tretOp)

theorem via_exit (g) (s : State) : Via (.exit g) s := by
  unfold Via; rw [exec_exit]; unfold execExit; repeat (first | exact .inl ⟨_, rfl⟩ | exact .inr (.inl ⟨_, rfl⟩) | unfold atomsOp | unfold ldsOp | unfold stsOp | unfold sfuUnary | unfold acquireOp | unfold aluA | unfold aluAB | unfold aluABD | unfold aluABDF | unfold aluABF | unfold aluCmp | unfold aluMadw | unfold aluPairs | unfold aluPred | unfold atomicOp | unfold barInstr | unfold barWait | unfold bkptOp | unfold contOp | unfold copyMcOp | unfold copyOp | unfold copyV2sOp | unfold cpywaitOp | unfold cvjoinOp | unfold cvsetOp | unfold fragOp | unfold gangOp | unfold gtrinvOp | unfold handleOp | unfold handleWait | unfold loadOp | unfold mcbOp | unfold mgangOp | unfold mopfOp | unfold movswOp | unfold mrelOp | unfold nmcOp | unfold nmwaitOp | unfold queueOp | unfold rdvOp | unfold releaseOp | unfold scratchOp | unfold sfuIssue | unfold simple | unfold storeOp | unfold streamOp | unfold transferOp | unfold tretOp)

theorem via_setm (g ofs) (s : State) : Via (.setm g ofs) s := by
  unfold Via; rw [exec_setm]; unfold execSetm; repeat (first | exact .inl ⟨_, rfl⟩ | exact .inr (.inl ⟨_, rfl⟩) | unfold atomsOp | unfold ldsOp | unfold stsOp | unfold sfuUnary | unfold acquireOp | unfold aluA | unfold aluAB | unfold aluABD | unfold aluABDF | unfold aluABF | unfold aluCmp | unfold aluMadw | unfold aluPairs | unfold aluPred | unfold atomicOp | unfold barInstr | unfold barWait | unfold bkptOp | unfold contOp | unfold copyMcOp | unfold copyOp | unfold copyV2sOp | unfold cpywaitOp | unfold cvjoinOp | unfold cvsetOp | unfold fragOp | unfold gangOp | unfold gtrinvOp | unfold handleOp | unfold handleWait | unfold loadOp | unfold mcbOp | unfold mgangOp | unfold mopfOp | unfold movswOp | unfold mrelOp | unfold nmcOp | unfold nmwaitOp | unfold queueOp | unfold rdvOp | unfold releaseOp | unfold scratchOp | unfold sfuIssue | unfold simple | unfold storeOp | unfold streamOp | unfold transferOp | unfold tretOp)

theorem via_setmx (g a) (s : State) : Via (.setmx g a) s := by
  unfold Via; rw [exec_setmx]; unfold execSetmx; repeat (first | exact .inl ⟨_, rfl⟩ | exact .inr (.inl ⟨_, rfl⟩) | unfold atomsOp | unfold ldsOp | unfold stsOp | unfold sfuUnary | unfold acquireOp | unfold aluA | unfold aluAB | unfold aluABD | unfold aluABDF | unfold aluABF | unfold aluCmp | unfold aluMadw | unfold aluPairs | unfold aluPred | unfold atomicOp | unfold barInstr | unfold barWait | unfold bkptOp | unfold contOp | unfold copyMcOp | unfold copyOp | unfold copyV2sOp | unfold cpywaitOp | unfold cvjoinOp | unfold cvsetOp | unfold fragOp | unfold gangOp | unfold gtrinvOp | unfold handleOp | unfold handleWait | unfold loadOp | unfold mcbOp | unfold mgangOp | unfold mopfOp | unfold movswOp | unfold mrelOp | unfold nmcOp | unfold nmwaitOp | unfold queueOp | unfold rdvOp | unfold releaseOp | unfold scratchOp | unfold sfuIssue | unfold simple | unfold storeOp | unfold streamOp | unfold transferOp | unfold tretOp)

theorem via_clrm (g) (s : State) : Via (.clrm g) s := by
  unfold Via; rw [exec_clrm]; unfold execClrm; repeat (first | exact .inl ⟨_, rfl⟩ | exact .inr (.inl ⟨_, rfl⟩) | unfold atomsOp | unfold ldsOp | unfold stsOp | unfold sfuUnary | unfold acquireOp | unfold aluA | unfold aluAB | unfold aluABD | unfold aluABDF | unfold aluABF | unfold aluCmp | unfold aluMadw | unfold aluPairs | unfold aluPred | unfold atomicOp | unfold barInstr | unfold barWait | unfold bkptOp | unfold contOp | unfold copyMcOp | unfold copyOp | unfold copyV2sOp | unfold cpywaitOp | unfold cvjoinOp | unfold cvsetOp | unfold fragOp | unfold gangOp | unfold gtrinvOp | unfold handleOp | unfold handleWait | unfold loadOp | unfold mcbOp | unfold mgangOp | unfold mopfOp | unfold movswOp | unfold mrelOp | unfold nmcOp | unfold nmwaitOp | unfold queueOp | unfold rdvOp | unfold releaseOp | unfold scratchOp | unfold sfuIssue | unfold simple | unfold storeOp | unfold streamOp | unfold transferOp | unfold tretOp)

theorem via_yield (g c) (s : State) : Via (.yield g c) s := by
  unfold Via; rw [exec_yield]; unfold execYield; repeat (first | exact .inl ⟨_, rfl⟩ | exact .inr (.inl ⟨_, rfl⟩) | unfold atomsOp | unfold ldsOp | unfold stsOp | unfold sfuUnary | unfold acquireOp | unfold aluA | unfold aluAB | unfold aluABD | unfold aluABDF | unfold aluABF | unfold aluCmp | unfold aluMadw | unfold aluPairs | unfold aluPred | unfold atomicOp | unfold barInstr | unfold barWait | unfold bkptOp | unfold contOp | unfold copyMcOp | unfold copyOp | unfold copyV2sOp | unfold cpywaitOp | unfold cvjoinOp | unfold cvsetOp | unfold fragOp | unfold gangOp | unfold gtrinvOp | unfold handleOp | unfold handleWait | unfold loadOp | unfold mcbOp | unfold mgangOp | unfold mopfOp | unfold movswOp | unfold mrelOp | unfold nmcOp | unfold nmwaitOp | unfold queueOp | unfold rdvOp | unfold releaseOp | unfold scratchOp | unfold sfuIssue | unfold simple | unfold storeOp | unfold streamOp | unfold transferOp | unfold tretOp)

theorem via_nap (g c) (s : State) : Via (.nap g c) s := by
  unfold Via; rw [exec_nap]; unfold execNap; repeat (first | exact .inl ⟨_, rfl⟩ | exact .inr (.inl ⟨_, rfl⟩) | unfold atomsOp | unfold ldsOp | unfold stsOp | unfold sfuUnary | unfold acquireOp | unfold aluA | unfold aluAB | unfold aluABD | unfold aluABDF | unfold aluABF | unfold aluCmp | unfold aluMadw | unfold aluPairs | unfold aluPred | unfold atomicOp | unfold barInstr | unfold barWait | unfold bkptOp | unfold contOp | unfold copyMcOp | unfold copyOp | unfold copyV2sOp | unfold cpywaitOp | unfold cvjoinOp | unfold cvsetOp | unfold fragOp | unfold gangOp | unfold gtrinvOp | unfold handleOp | unfold handleWait | unfold loadOp | unfold mcbOp | unfold mgangOp | unfold mopfOp | unfold movswOp | unfold mrelOp | unfold nmcOp | unfold nmwaitOp | unfold queueOp | unfold rdvOp | unfold releaseOp | unfold scratchOp | unfold sfuIssue | unfold simple | unfold storeOp | unfold streamOp | unfold transferOp | unfold tretOp)

theorem via_wake (g a) (s : State) : Via (.wake g a) s := by
  unfold Via; rw [exec_wake]; unfold execWake; repeat (first | exact .inl ⟨_, rfl⟩ | exact .inr (.inl ⟨_, rfl⟩) | unfold atomsOp | unfold ldsOp | unfold stsOp | unfold sfuUnary | unfold acquireOp | unfold aluA | unfold aluAB | unfold aluABD | unfold aluABDF | unfold aluABF | unfold aluCmp | unfold aluMadw | unfold aluPairs | unfold aluPred | unfold atomicOp | unfold barInstr | unfold barWait | unfold bkptOp | unfold contOp | unfold copyMcOp | unfold copyOp | unfold copyV2sOp | unfold cpywaitOp | unfold cvjoinOp | unfold cvsetOp | unfold fragOp | unfold gangOp | unfold gtrinvOp | unfold handleOp | unfold handleWait | unfold loadOp | unfold mcbOp | unfold mgangOp | unfold mopfOp | unfold movswOp | unfold mrelOp | unfold nmcOp | unfold nmwaitOp | unfold queueOp | unfold rdvOp | unfold releaseOp | unfold scratchOp | unfold sfuIssue | unfold simple | unfold storeOp | unfold streamOp | unfold transferOp | unfold tretOp)

theorem via_rdv (g m) (s : State) : Via (.rdv g m) s := by
  unfold Via; rw [exec_rdv]; unfold execRdv; repeat (first | exact .inl ⟨_, rfl⟩ | exact .inr (.inl ⟨_, rfl⟩) | unfold atomsOp | unfold ldsOp | unfold stsOp | unfold sfuUnary | unfold acquireOp | unfold aluA | unfold aluAB | unfold aluABD | unfold aluABDF | unfold aluABF | unfold aluCmp | unfold aluMadw | unfold aluPairs | unfold aluPred | unfold atomicOp | unfold barInstr | unfold barWait | unfold bkptOp | unfold contOp | unfold copyMcOp | unfold copyOp | unfold copyV2sOp | unfold cpywaitOp | unfold cvjoinOp | unfold cvsetOp | unfold fragOp | unfold gangOp | unfold gtrinvOp | unfold handleOp | unfold handleWait | unfold loadOp | unfold mcbOp | unfold mgangOp | unfold mopfOp | unfold movswOp | unfold mrelOp | unfold nmcOp | unfold nmwaitOp | unfold queueOp | unfold rdvOp | unfold releaseOp | unfold scratchOp | unfold sfuIssue | unfold simple | unfold storeOp | unfold streamOp | unfold transferOp | unfold tretOp)

theorem via_shflIdx (g d a m n) (s : State) : Via (.shflIdx g d a m n) s := by
  unfold Via; rw [exec_shflIdx]; unfold execShflIdx; repeat (first | exact .inl ⟨_, rfl⟩ | exact .inr (.inl ⟨_, rfl⟩) | unfold atomsOp | unfold ldsOp | unfold stsOp | unfold sfuUnary | unfold acquireOp | unfold aluA | unfold aluAB | unfold aluABD | unfold aluABDF | unfold aluABF | unfold aluCmp | unfold aluMadw | unfold aluPairs | unfold aluPred | unfold atomicOp | unfold barInstr | unfold barWait | unfold bkptOp | unfold contOp | unfold copyMcOp | unfold copyOp | unfold copyV2sOp | unfold cpywaitOp | unfold cvjoinOp | unfold cvsetOp | unfold fragOp | unfold gangOp | unfold gtrinvOp | unfold handleOp | unfold handleWait | unfold loadOp | unfold mcbOp | unfold mgangOp | unfold mopfOp | unfold movswOp | unfold mrelOp | unfold nmcOp | unfold nmwaitOp | unfold queueOp | unfold rdvOp | unfold releaseOp | unfold scratchOp | unfold sfuIssue | unfold simple | unfold storeOp | unfold streamOp | unfold transferOp | unfold tretOp)

theorem via_shflXor (g d a m n) (s : State) : Via (.shflXor g d a m n) s := by
  unfold Via; rw [exec_shflXor]; unfold execShflXor; repeat (first | exact .inl ⟨_, rfl⟩ | exact .inr (.inl ⟨_, rfl⟩) | unfold atomsOp | unfold ldsOp | unfold stsOp | unfold sfuUnary | unfold acquireOp | unfold aluA | unfold aluAB | unfold aluABD | unfold aluABDF | unfold aluABF | unfold aluCmp | unfold aluMadw | unfold aluPairs | unfold aluPred | unfold atomicOp | unfold barInstr | unfold barWait | unfold bkptOp | unfold contOp | unfold copyMcOp | unfold copyOp | unfold copyV2sOp | unfold cpywaitOp | unfold cvjoinOp | unfold cvsetOp | unfold fragOp | unfold gangOp | unfold gtrinvOp | unfold handleOp | unfold handleWait | unfold loadOp | unfold mcbOp | unfold mgangOp | unfold mopfOp | unfold movswOp | unfold mrelOp | unfold nmcOp | unfold nmwaitOp | unfold queueOp | unfold rdvOp | unfold releaseOp | unfold scratchOp | unfold sfuIssue | unfold simple | unfold storeOp | unfold streamOp | unfold transferOp | unfold tretOp)

theorem via_shflUp (g d a m n) (s : State) : Via (.shflUp g d a m n) s := by
  unfold Via; rw [exec_shflUp]; unfold execShflUp; repeat (first | exact .inl ⟨_, rfl⟩ | exact .inr (.inl ⟨_, rfl⟩) | unfold atomsOp | unfold ldsOp | unfold stsOp | unfold sfuUnary | unfold acquireOp | unfold aluA | unfold aluAB | unfold aluABD | unfold aluABDF | unfold aluABF | unfold aluCmp | unfold aluMadw | unfold aluPairs | unfold aluPred | unfold atomicOp | unfold barInstr | unfold barWait | unfold bkptOp | unfold contOp | unfold copyMcOp | unfold copyOp | unfold copyV2sOp | unfold cpywaitOp | unfold cvjoinOp | unfold cvsetOp | unfold fragOp | unfold gangOp | unfold gtrinvOp | unfold handleOp | unfold handleWait | unfold loadOp | unfold mcbOp | unfold mgangOp | unfold mopfOp | unfold movswOp | unfold mrelOp | unfold nmcOp | unfold nmwaitOp | unfold queueOp | unfold rdvOp | unfold releaseOp | unfold scratchOp | unfold sfuIssue | unfold simple | unfold storeOp | unfold streamOp | unfold transferOp | unfold tretOp)

theorem via_shflDn (g d a m n) (s : State) : Via (.shflDn g d a m n) s := by
  unfold Via; rw [exec_shflDn]; unfold execShflDn; repeat (first | exact .inl ⟨_, rfl⟩ | exact .inr (.inl ⟨_, rfl⟩) | unfold atomsOp | unfold ldsOp | unfold stsOp | unfold sfuUnary | unfold acquireOp | unfold aluA | unfold aluAB | unfold aluABD | unfold aluABDF | unfold aluABF | unfold aluCmp | unfold aluMadw | unfold aluPairs | unfold aluPred | unfold atomicOp | unfold barInstr | unfold barWait | unfold bkptOp | unfold contOp | unfold copyMcOp | unfold copyOp | unfold copyV2sOp | unfold cpywaitOp | unfold cvjoinOp | unfold cvsetOp | unfold fragOp | unfold gangOp | unfold gtrinvOp | unfold handleOp | unfold handleWait | unfold loadOp | unfold mcbOp | unfold mgangOp | unfold mopfOp | unfold movswOp | unfold mrelOp | unfold nmcOp | unfold nmwaitOp | unfold queueOp | unfold rdvOp | unfold releaseOp | unfold scratchOp | unfold sfuIssue | unfold simple | unfold storeOp | unfold streamOp | unfold transferOp | unfold tretOp)

theorem via_voteAll (g d a m) (s : State) : Via (.voteAll g d a m) s := by
  unfold Via; rw [exec_voteAll]; unfold execVoteAll; repeat (first | exact .inl ⟨_, rfl⟩ | exact .inr (.inl ⟨_, rfl⟩) | unfold atomsOp | unfold ldsOp | unfold stsOp | unfold sfuUnary | unfold acquireOp | unfold aluA | unfold aluAB | unfold aluABD | unfold aluABDF | unfold aluABF | unfold aluCmp | unfold aluMadw | unfold aluPairs | unfold aluPred | unfold atomicOp | unfold barInstr | unfold barWait | unfold bkptOp | unfold contOp | unfold copyMcOp | unfold copyOp | unfold copyV2sOp | unfold cpywaitOp | unfold cvjoinOp | unfold cvsetOp | unfold fragOp | unfold gangOp | unfold gtrinvOp | unfold handleOp | unfold handleWait | unfold loadOp | unfold mcbOp | unfold mgangOp | unfold mopfOp | unfold movswOp | unfold mrelOp | unfold nmcOp | unfold nmwaitOp | unfold queueOp | unfold rdvOp | unfold releaseOp | unfold scratchOp | unfold sfuIssue | unfold simple | unfold storeOp | unfold streamOp | unfold transferOp | unfold tretOp)

theorem via_voteAny (g d a m) (s : State) : Via (.voteAny g d a m) s := by
  unfold Via; rw [exec_voteAny]; unfold execVoteAny; repeat (first | exact .inl ⟨_, rfl⟩ | exact .inr (.inl ⟨_, rfl⟩) | unfold atomsOp | unfold ldsOp | unfold stsOp | unfold sfuUnary | unfold acquireOp | unfold aluA | unfold aluAB | unfold aluABD | unfold aluABDF | unfold aluABF | unfold aluCmp | unfold aluMadw | unfold aluPairs | unfold aluPred | unfold atomicOp | unfold barInstr | unfold barWait | unfold bkptOp | unfold contOp | unfold copyMcOp | unfold copyOp | unfold copyV2sOp | unfold cpywaitOp | unfold cvjoinOp | unfold cvsetOp | unfold fragOp | unfold gangOp | unfold gtrinvOp | unfold handleOp | unfold handleWait | unfold loadOp | unfold mcbOp | unfold mgangOp | unfold mopfOp | unfold movswOp | unfold mrelOp | unfold nmcOp | unfold nmwaitOp | unfold queueOp | unfold rdvOp | unfold releaseOp | unfold scratchOp | unfold sfuIssue | unfold simple | unfold storeOp | unfold streamOp | unfold transferOp | unfold tretOp)

theorem via_voteBal (g d a m) (s : State) : Via (.voteBal g d a m) s := by
  unfold Via; rw [exec_voteBal]; unfold execVoteBal; repeat (first | exact .inl ⟨_, rfl⟩ | exact .inr (.inl ⟨_, rfl⟩) | unfold atomsOp | unfold ldsOp | unfold stsOp | unfold sfuUnary | unfold acquireOp | unfold aluA | unfold aluAB | unfold aluABD | unfold aluABDF | unfold aluABF | unfold aluCmp | unfold aluMadw | unfold aluPairs | unfold aluPred | unfold atomicOp | unfold barInstr | unfold barWait | unfold bkptOp | unfold contOp | unfold copyMcOp | unfold copyOp | unfold copyV2sOp | unfold cpywaitOp | unfold cvjoinOp | unfold cvsetOp | unfold fragOp | unfold gangOp | unfold gtrinvOp | unfold handleOp | unfold handleWait | unfold loadOp | unfold mcbOp | unfold mgangOp | unfold mopfOp | unfold movswOp | unfold mrelOp | unfold nmcOp | unfold nmwaitOp | unfold queueOp | unfold rdvOp | unfold releaseOp | unfold scratchOp | unfold sfuIssue | unfold simple | unfold storeOp | unfold streamOp | unfold transferOp | unfold tretOp)

theorem via_matchAny (g d a m) (s : State) : Via (.matchAny g d a m) s := by
  unfold Via; rw [exec_matchAny]; unfold execMatchAny; repeat (first | exact .inl ⟨_, rfl⟩ | exact .inr (.inl ⟨_, rfl⟩) | unfold atomsOp | unfold ldsOp | unfold stsOp | unfold sfuUnary | unfold acquireOp | unfold aluA | unfold aluAB | unfold aluABD | unfold aluABDF | unfold aluABF | unfold aluCmp | unfold aluMadw | unfold aluPairs | unfold aluPred | unfold atomicOp | unfold barInstr | unfold barWait | unfold bkptOp | unfold contOp | unfold copyMcOp | unfold copyOp | unfold copyV2sOp | unfold cpywaitOp | unfold cvjoinOp | unfold cvsetOp | unfold fragOp | unfold gangOp | unfold gtrinvOp | unfold handleOp | unfold handleWait | unfold loadOp | unfold mcbOp | unfold mgangOp | unfold mopfOp | unfold movswOp | unfold mrelOp | unfold nmcOp | unfold nmwaitOp | unfold queueOp | unfold rdvOp | unfold releaseOp | unfold scratchOp | unfold sfuIssue | unfold simple | unfold storeOp | unfold streamOp | unfold transferOp | unfold tretOp)

theorem via_matchAll (g d a m) (s : State) : Via (.matchAll g d a m) s := by
  unfold Via; rw [exec_matchAll]; unfold execMatchAll; repeat (first | exact .inl ⟨_, rfl⟩ | exact .inr (.inl ⟨_, rfl⟩) | unfold atomsOp | unfold ldsOp | unfold stsOp | unfold sfuUnary | unfold acquireOp | unfold aluA | unfold aluAB | unfold aluABD | unfold aluABDF | unfold aluABF | unfold aluCmp | unfold aluMadw | unfold aluPairs | unfold aluPred | unfold atomicOp | unfold barInstr | unfold barWait | unfold bkptOp | unfold contOp | unfold copyMcOp | unfold copyOp | unfold copyV2sOp | unfold cpywaitOp | unfold cvjoinOp | unfold cvsetOp | unfold fragOp | unfold gangOp | unfold gtrinvOp | unfold handleOp | unfold handleWait | unfold loadOp | unfold mcbOp | unfold mgangOp | unfold mopfOp | unfold movswOp | unfold mrelOp | unfold nmcOp | unfold nmwaitOp | unfold queueOp | unfold rdvOp | unfold releaseOp | unfold scratchOp | unfold sfuIssue | unfold simple | unfold storeOp | unfold streamOp | unfold transferOp | unfold tretOp)

theorem via_redxAddI32 (g d a m) (s : State) : Via (.redxAddI32 g d a m) s := by
  unfold Via; rw [exec_redxAddI32]; unfold execRedxAddI32; repeat (first | exact .inl ⟨_, rfl⟩ | exact .inr (.inl ⟨_, rfl⟩) | unfold atomsOp | unfold ldsOp | unfold stsOp | unfold sfuUnary | unfold acquireOp | unfold aluA | unfold aluAB | unfold aluABD | unfold aluABDF | unfold aluABF | unfold aluCmp | unfold aluMadw | unfold aluPairs | unfold aluPred | unfold atomicOp | unfold barInstr | unfold barWait | unfold bkptOp | unfold contOp | unfold copyMcOp | unfold copyOp | unfold copyV2sOp | unfold cpywaitOp | unfold cvjoinOp | unfold cvsetOp | unfold fragOp | unfold gangOp | unfold gtrinvOp | unfold handleOp | unfold handleWait | unfold loadOp | unfold mcbOp | unfold mgangOp | unfold mopfOp | unfold movswOp | unfold mrelOp | unfold nmcOp | unfold nmwaitOp | unfold queueOp | unfold rdvOp | unfold releaseOp | unfold scratchOp | unfold sfuIssue | unfold simple | unfold storeOp | unfold streamOp | unfold transferOp | unfold tretOp)

theorem via_redxMinI32 (g d a m) (s : State) : Via (.redxMinI32 g d a m) s := by
  unfold Via; rw [exec_redxMinI32]; unfold execRedxMinI32; repeat (first | exact .inl ⟨_, rfl⟩ | exact .inr (.inl ⟨_, rfl⟩) | unfold atomsOp | unfold ldsOp | unfold stsOp | unfold sfuUnary | unfold acquireOp | unfold aluA | unfold aluAB | unfold aluABD | unfold aluABDF | unfold aluABF | unfold aluCmp | unfold aluMadw | unfold aluPairs | unfold aluPred | unfold atomicOp | unfold barInstr | unfold barWait | unfold bkptOp | unfold contOp | unfold copyMcOp | unfold copyOp | unfold copyV2sOp | unfold cpywaitOp | unfold cvjoinOp | unfold cvsetOp | unfold fragOp | unfold gangOp | unfold gtrinvOp | unfold handleOp | unfold handleWait | unfold loadOp | unfold mcbOp | unfold mgangOp | unfold mopfOp | unfold movswOp | unfold mrelOp | unfold nmcOp | unfold nmwaitOp | unfold queueOp | unfold rdvOp | unfold releaseOp | unfold scratchOp | unfold sfuIssue | unfold simple | unfold storeOp | unfold streamOp | unfold transferOp | unfold tretOp)

theorem via_redxMaxI32 (g d a m) (s : State) : Via (.redxMaxI32 g d a m) s := by
  unfold Via; rw [exec_redxMaxI32]; unfold execRedxMaxI32; repeat (first | exact .inl ⟨_, rfl⟩ | exact .inr (.inl ⟨_, rfl⟩) | unfold atomsOp | unfold ldsOp | unfold stsOp | unfold sfuUnary | unfold acquireOp | unfold aluA | unfold aluAB | unfold aluABD | unfold aluABDF | unfold aluABF | unfold aluCmp | unfold aluMadw | unfold aluPairs | unfold aluPred | unfold atomicOp | unfold barInstr | unfold barWait | unfold bkptOp | unfold contOp | unfold copyMcOp | unfold copyOp | unfold copyV2sOp | unfold cpywaitOp | unfold cvjoinOp | unfold cvsetOp | unfold fragOp | unfold gangOp | unfold gtrinvOp | unfold handleOp | unfold handleWait | unfold loadOp | unfold mcbOp | unfold mgangOp | unfold mopfOp | unfold movswOp | unfold mrelOp | unfold nmcOp | unfold nmwaitOp | unfold queueOp | unfold rdvOp | unfold releaseOp | unfold scratchOp | unfold sfuIssue | unfold simple | unfold storeOp | unfold streamOp | unfold transferOp | unfold tretOp)

theorem via_redxMinN32 (g d a m) (s : State) : Via (.redxMinN32 g d a m) s := by
  unfold Via; rw [exec_redxMinN32]; unfold execRedxMinN32; repeat (first | exact .inl ⟨_, rfl⟩ | exact .inr (.inl ⟨_, rfl⟩) | unfold atomsOp | unfold ldsOp | unfold stsOp | unfold sfuUnary | unfold acquireOp | unfold aluA | unfold aluAB | unfold aluABD | unfold aluABDF | unfold aluABF | unfold aluCmp | unfold aluMadw | unfold aluPairs | unfold aluPred | unfold atomicOp | unfold barInstr | unfold barWait | unfold bkptOp | unfold contOp | unfold copyMcOp | unfold copyOp | unfold copyV2sOp | unfold cpywaitOp | unfold cvjoinOp | unfold cvsetOp | unfold fragOp | unfold gangOp | unfold gtrinvOp | unfold handleOp | unfold handleWait | unfold loadOp | unfold mcbOp | unfold mgangOp | unfold mopfOp | unfold movswOp | unfold mrelOp | unfold nmcOp | unfold nmwaitOp | unfold queueOp | unfold rdvOp | unfold releaseOp | unfold scratchOp | unfold sfuIssue | unfold simple | unfold storeOp | unfold streamOp | unfold transferOp | unfold tretOp)

theorem via_redxMaxN32 (g d a m) (s : State) : Via (.redxMaxN32 g d a m) s := by
  unfold Via; rw [exec_redxMaxN32]; unfold execRedxMaxN32; repeat (first | exact .inl ⟨_, rfl⟩ | exact .inr (.inl ⟨_, rfl⟩) | unfold atomsOp | unfold ldsOp | unfold stsOp | unfold sfuUnary | unfold acquireOp | unfold aluA | unfold aluAB | unfold aluABD | unfold aluABDF | unfold aluABF | unfold aluCmp | unfold aluMadw | unfold aluPairs | unfold aluPred | unfold atomicOp | unfold barInstr | unfold barWait | unfold bkptOp | unfold contOp | unfold copyMcOp | unfold copyOp | unfold copyV2sOp | unfold cpywaitOp | unfold cvjoinOp | unfold cvsetOp | unfold fragOp | unfold gangOp | unfold gtrinvOp | unfold handleOp | unfold handleWait | unfold loadOp | unfold mcbOp | unfold mgangOp | unfold mopfOp | unfold movswOp | unfold mrelOp | unfold nmcOp | unfold nmwaitOp | unfold queueOp | unfold rdvOp | unfold releaseOp | unfold scratchOp | unfold sfuIssue | unfold simple | unfold storeOp | unfold streamOp | unfold transferOp | unfold tretOp)

theorem via_redxAnd (g d a m) (s : State) : Via (.redxAnd g d a m) s := by
  unfold Via; rw [exec_redxAnd]; unfold execRedxAnd; repeat (first | exact .inl ⟨_, rfl⟩ | exact .inr (.inl ⟨_, rfl⟩) | unfold atomsOp | unfold ldsOp | unfold stsOp | unfold sfuUnary | unfold acquireOp | unfold aluA | unfold aluAB | unfold aluABD | unfold aluABDF | unfold aluABF | unfold aluCmp | unfold aluMadw | unfold aluPairs | unfold aluPred | unfold atomicOp | unfold barInstr | unfold barWait | unfold bkptOp | unfold contOp | unfold copyMcOp | unfold copyOp | unfold copyV2sOp | unfold cpywaitOp | unfold cvjoinOp | unfold cvsetOp | unfold fragOp | unfold gangOp | unfold gtrinvOp | unfold handleOp | unfold handleWait | unfold loadOp | unfold mcbOp | unfold mgangOp | unfold mopfOp | unfold movswOp | unfold mrelOp | unfold nmcOp | unfold nmwaitOp | unfold queueOp | unfold rdvOp | unfold releaseOp | unfold scratchOp | unfold sfuIssue | unfold simple | unfold storeOp | unfold streamOp | unfold transferOp | unfold tretOp)

theorem via_redxOr (g d a m) (s : State) : Via (.redxOr g d a m) s := by
  unfold Via; rw [exec_redxOr]; unfold execRedxOr; repeat (first | exact .inl ⟨_, rfl⟩ | exact .inr (.inl ⟨_, rfl⟩) | unfold atomsOp | unfold ldsOp | unfold stsOp | unfold sfuUnary | unfold acquireOp | unfold aluA | unfold aluAB | unfold aluABD | unfold aluABDF | unfold aluABF | unfold aluCmp | unfold aluMadw | unfold aluPairs | unfold aluPred | unfold atomicOp | unfold barInstr | unfold barWait | unfold bkptOp | unfold contOp | unfold copyMcOp | unfold copyOp | unfold copyV2sOp | unfold cpywaitOp | unfold cvjoinOp | unfold cvsetOp | unfold fragOp | unfold gangOp | unfold gtrinvOp | unfold handleOp | unfold handleWait | unfold loadOp | unfold mcbOp | unfold mgangOp | unfold mopfOp | unfold movswOp | unfold mrelOp | unfold nmcOp | unfold nmwaitOp | unfold queueOp | unfold rdvOp | unfold releaseOp | unfold scratchOp | unfold sfuIssue | unfold simple | unfold storeOp | unfold streamOp | unfold transferOp | unfold tretOp)

theorem via_redxXor (g d a m) (s : State) : Via (.redxXor g d a m) s := by
  unfold Via; rw [exec_redxXor]; unfold execRedxXor; repeat (first | exact .inl ⟨_, rfl⟩ | exact .inr (.inl ⟨_, rfl⟩) | unfold atomsOp | unfold ldsOp | unfold stsOp | unfold sfuUnary | unfold acquireOp | unfold aluA | unfold aluAB | unfold aluABD | unfold aluABDF | unfold aluABF | unfold aluCmp | unfold aluMadw | unfold aluPairs | unfold aluPred | unfold atomicOp | unfold barInstr | unfold barWait | unfold bkptOp | unfold contOp | unfold copyMcOp | unfold copyOp | unfold copyV2sOp | unfold cpywaitOp | unfold cvjoinOp | unfold cvsetOp | unfold fragOp | unfold gangOp | unfold gtrinvOp | unfold handleOp | unfold handleWait | unfold loadOp | unfold mcbOp | unfold mgangOp | unfold mopfOp | unfold movswOp | unfold mrelOp | unfold nmcOp | unfold nmwaitOp | unfold queueOp | unfold rdvOp | unfold releaseOp | unfold scratchOp | unfold sfuIssue | unfold simple | unfold storeOp | unfold streamOp | unfold transferOp | unfold tretOp)

theorem via_redxFadd (g d a m) (s : State) : Via (.redxFadd g d a m) s := by
  unfold Via; rw [exec_redxFadd]; unfold execRedxFadd; repeat (first | exact .inl ⟨_, rfl⟩ | exact .inr (.inl ⟨_, rfl⟩) | unfold atomsOp | unfold ldsOp | unfold stsOp | unfold sfuUnary | unfold acquireOp | unfold aluA | unfold aluAB | unfold aluABD | unfold aluABDF | unfold aluABF | unfold aluCmp | unfold aluMadw | unfold aluPairs | unfold aluPred | unfold atomicOp | unfold barInstr | unfold barWait | unfold bkptOp | unfold contOp | unfold copyMcOp | unfold copyOp | unfold copyV2sOp | unfold cpywaitOp | unfold cvjoinOp | unfold cvsetOp | unfold fragOp | unfold gangOp | unfold gtrinvOp | unfold handleOp | unfold handleWait | unfold loadOp | unfold mcbOp | unfold mgangOp | unfold mopfOp | unfold movswOp | unfold mrelOp | unfold nmcOp | unfold nmwaitOp | unfold queueOp | unfold rdvOp | unfold releaseOp | unfold scratchOp | unfold sfuIssue | unfold simple | unfold storeOp | unfold streamOp | unfold transferOp | unfold tretOp)

theorem via_redxFmin (g d a m) (s : State) : Via (.redxFmin g d a m) s := by
  unfold Via; rw [exec_redxFmin]; unfold execRedxFmin; repeat (first | exact .inl ⟨_, rfl⟩ | exact .inr (.inl ⟨_, rfl⟩) | unfold atomsOp | unfold ldsOp | unfold stsOp | unfold sfuUnary | unfold acquireOp | unfold aluA | unfold aluAB | unfold aluABD | unfold aluABDF | unfold aluABF | unfold aluCmp | unfold aluMadw | unfold aluPairs | unfold aluPred | unfold atomicOp | unfold barInstr | unfold barWait | unfold bkptOp | unfold contOp | unfold copyMcOp | unfold copyOp | unfold copyV2sOp | unfold cpywaitOp | unfold cvjoinOp | unfold cvsetOp | unfold fragOp | unfold gangOp | unfold gtrinvOp | unfold handleOp | unfold handleWait | unfold loadOp | unfold mcbOp | unfold mgangOp | unfold mopfOp | unfold movswOp | unfold mrelOp | unfold nmcOp | unfold nmwaitOp | unfold queueOp | unfold rdvOp | unfold releaseOp | unfold scratchOp | unfold sfuIssue | unfold simple | unfold storeOp | unfold streamOp | unfold transferOp | unfold tretOp)

theorem via_redxFmax (g d a m) (s : State) : Via (.redxFmax g d a m) s := by
  unfold Via; rw [exec_redxFmax]; unfold execRedxFmax; repeat (first | exact .inl ⟨_, rfl⟩ | exact .inr (.inl ⟨_, rfl⟩) | unfold atomsOp | unfold ldsOp | unfold stsOp | unfold sfuUnary | unfold acquireOp | unfold aluA | unfold aluAB | unfold aluABD | unfold aluABDF | unfold aluABF | unfold aluCmp | unfold aluMadw | unfold aluPairs | unfold aluPred | unfold atomicOp | unfold barInstr | unfold barWait | unfold bkptOp | unfold contOp | unfold copyMcOp | unfold copyOp | unfold copyV2sOp | unfold cpywaitOp | unfold cvjoinOp | unfold cvsetOp | unfold fragOp | unfold gangOp | unfold gtrinvOp | unfold handleOp | unfold handleWait | unfold loadOp | unfold mcbOp | unfold mgangOp | unfold mopfOp | unfold movswOp | unfold mrelOp | unfold nmcOp | unfold nmwaitOp | unfold queueOp | unfold rdvOp | unfold releaseOp | unfold scratchOp | unfold sfuIssue | unfold simple | unfold storeOp | unfold streamOp | unfold transferOp | unfold tretOp)

theorem via_scanxAddI32 (g d a m) (s : State) : Via (.scanxAddI32 g d a m) s := by
  unfold Via; rw [exec_scanxAddI32]; unfold execScanxAddI32; repeat (first | exact .inl ⟨_, rfl⟩ | exact .inr (.inl ⟨_, rfl⟩) | unfold atomsOp | unfold ldsOp | unfold stsOp | unfold sfuUnary | unfold acquireOp | unfold aluA | unfold aluAB | unfold aluABD | unfold aluABDF | unfold aluABF | unfold aluCmp | unfold aluMadw | unfold aluPairs | unfold aluPred | unfold atomicOp | unfold barInstr | unfold barWait | unfold bkptOp | unfold contOp | unfold copyMcOp | unfold copyOp | unfold copyV2sOp | unfold cpywaitOp | unfold cvjoinOp | unfold cvsetOp | unfold fragOp | unfold gangOp | unfold gtrinvOp | unfold handleOp | unfold handleWait | unfold loadOp | unfold mcbOp | unfold mgangOp | unfold mopfOp | unfold movswOp | unfold mrelOp | unfold nmcOp | unfold nmwaitOp | unfold queueOp | unfold rdvOp | unfold releaseOp | unfold scratchOp | unfold sfuIssue | unfold simple | unfold storeOp | unfold streamOp | unfold transferOp | unfold tretOp)

theorem via_scanxFadd (g d a m) (s : State) : Via (.scanxFadd g d a m) s := by
  unfold Via; rw [exec_scanxFadd]; unfold execScanxFadd; repeat (first | exact .inl ⟨_, rfl⟩ | exact .inr (.inl ⟨_, rfl⟩) | unfold atomsOp | unfold ldsOp | unfold stsOp | unfold sfuUnary | unfold acquireOp | unfold aluA | unfold aluAB | unfold aluABD | unfold aluABDF | unfold aluABF | unfold aluCmp | unfold aluMadw | unfold aluPairs | unfold aluPred | unfold atomicOp | unfold barInstr | unfold barWait | unfold bkptOp | unfold contOp | unfold copyMcOp | unfold copyOp | unfold copyV2sOp | unfold cpywaitOp | unfold cvjoinOp | unfold cvsetOp | unfold fragOp | unfold gangOp | unfold gtrinvOp | unfold handleOp | unfold handleWait | unfold loadOp | unfold mcbOp | unfold mgangOp | unfold mopfOp | unfold movswOp | unfold mrelOp | unfold nmcOp | unfold nmwaitOp | unfold queueOp | unfold rdvOp | unfold releaseOp | unfold scratchOp | unfold sfuIssue | unfold simple | unfold storeOp | unfold streamOp | unfold transferOp | unfold tretOp)

theorem via_tbarSync (g bar) (s : State) : Via (.tbarSync g bar) s := by
  unfold Via; rw [exec_tbarSync]; unfold execTbarSync; repeat (first | exact .inl ⟨_, rfl⟩ | exact .inr (.inl ⟨_, rfl⟩) | unfold atomsOp | unfold ldsOp | unfold stsOp | unfold sfuUnary | unfold acquireOp | unfold aluA | unfold aluAB | unfold aluABD | unfold aluABDF | unfold aluABF | unfold aluCmp | unfold aluMadw | unfold aluPairs | unfold aluPred | unfold atomicOp | unfold barInstr | unfold barWait | unfold bkptOp | unfold contOp | unfold copyMcOp | unfold copyOp | unfold copyV2sOp | unfold cpywaitOp | unfold cvjoinOp | unfold cvsetOp | unfold fragOp | unfold gangOp | unfold gtrinvOp | unfold handleOp | unfold handleWait | unfold loadOp | unfold mcbOp | unfold mgangOp | unfold mopfOp | unfold movswOp | unfold mrelOp | unfold nmcOp | unfold nmwaitOp | unfold queueOp | unfold rdvOp | unfold releaseOp | unfold scratchOp | unfold sfuIssue | unfold simple | unfold storeOp | unfold streamOp | unfold transferOp | unfold tretOp)

theorem via_tbarArv (g bar) (s : State) : Via (.tbarArv g bar) s := by
  unfold Via; rw [exec_tbarArv]; unfold execTbarArv; repeat (first | exact .inl ⟨_, rfl⟩ | exact .inr (.inl ⟨_, rfl⟩) | unfold atomsOp | unfold ldsOp | unfold stsOp | unfold sfuUnary | unfold acquireOp | unfold aluA | unfold aluAB | unfold aluABD | unfold aluABDF | unfold aluABF | unfold aluCmp | unfold aluMadw | unfold aluPairs | unfold aluPred | unfold atomicOp | unfold barInstr | unfold barWait | unfold bkptOp | unfold contOp | unfold copyMcOp | unfold copyOp | unfold copyV2sOp | unfold cpywaitOp | unfold cvjoinOp | unfold cvsetOp | unfold fragOp | unfold gangOp | unfold gtrinvOp | unfold handleOp | unfold handleWait | unfold loadOp | unfold mcbOp | unfold mgangOp | unfold mopfOp | unfold movswOp | unfold mrelOp | unfold nmcOp | unfold nmwaitOp | unfold queueOp | unfold rdvOp | unfold releaseOp | unfold scratchOp | unfold sfuIssue | unfold simple | unfold storeOp | unfold streamOp | unfold transferOp | unfold tretOp)

theorem via_tbarWait (g bar) (s : State) : Via (.tbarWait g bar) s := by
  unfold Via; rw [exec_tbarWait]; unfold execTbarWait; repeat (first | exact .inl ⟨_, rfl⟩ | exact .inr (.inl ⟨_, rfl⟩) | unfold atomsOp | unfold ldsOp | unfold stsOp | unfold sfuUnary | unfold acquireOp | unfold aluA | unfold aluAB | unfold aluABD | unfold aluABDF | unfold aluABF | unfold aluCmp | unfold aluMadw | unfold aluPairs | unfold aluPred | unfold atomicOp | unfold barInstr | unfold barWait | unfold bkptOp | unfold contOp | unfold copyMcOp | unfold copyOp | unfold copyV2sOp | unfold cpywaitOp | unfold cvjoinOp | unfold cvsetOp | unfold fragOp | unfold gangOp | unfold gtrinvOp | unfold handleOp | unfold handleWait | unfold loadOp | unfold mcbOp | unfold mgangOp | unfold mopfOp | unfold movswOp | unfold mrelOp | unfold nmcOp | unfold nmwaitOp | unfold queueOp | unfold rdvOp | unfold releaseOp | unfold scratchOp | unfold sfuIssue | unfold simple | unfold storeOp | unfold streamOp | unfold transferOp | unfold tretOp)

theorem via_tbarRed (g d a sub bar hi) (s : State) : Via (.tbarRed g d a sub bar hi) s := by
  unfold Via; rw [exec_tbarRed]; unfold execTbarRed; repeat (first | exact .inl ⟨_, rfl⟩ | exact .inr (.inl ⟨_, rfl⟩) | unfold atomsOp | unfold ldsOp | unfold stsOp | unfold sfuUnary | unfold acquireOp | unfold aluA | unfold aluAB | unfold aluABD | unfold aluABDF | unfold aluABF | unfold aluCmp | unfold aluMadw | unfold aluPairs | unfold aluPred | unfold atomicOp | unfold barInstr | unfold barWait | unfold bkptOp | unfold contOp | unfold copyMcOp | unfold copyOp | unfold copyV2sOp | unfold cpywaitOp | unfold cvjoinOp | unfold cvsetOp | unfold fragOp | unfold gangOp | unfold gtrinvOp | unfold handleOp | unfold handleWait | unfold loadOp | unfold mcbOp | unfold mgangOp | unfold mopfOp | unfold movswOp | unfold mrelOp | unfold nmcOp | unfold nmwaitOp | unfold queueOp | unfold rdvOp | unfold releaseOp | unfold scratchOp | unfold sfuIssue | unfold simple | unfold storeOp | unfold streamOp | unfold transferOp | unfold tretOp)

theorem via_gbarSync (g bar) (s : State) : Via (.gbarSync g bar) s := by
  unfold Via; rw [exec_gbarSync]; unfold execGbarSync; repeat (first | exact .inl ⟨_, rfl⟩ | exact .inr (.inl ⟨_, rfl⟩) | unfold atomsOp | unfold ldsOp | unfold stsOp | unfold sfuUnary | unfold acquireOp | unfold aluA | unfold aluAB | unfold aluABD | unfold aluABDF | unfold aluABF | unfold aluCmp | unfold aluMadw | unfold aluPairs | unfold aluPred | unfold atomicOp | unfold barInstr | unfold barWait | unfold bkptOp | unfold contOp | unfold copyMcOp | unfold copyOp | unfold copyV2sOp | unfold cpywaitOp | unfold cvjoinOp | unfold cvsetOp | unfold fragOp | unfold gangOp | unfold gtrinvOp | unfold handleOp | unfold handleWait | unfold loadOp | unfold mcbOp | unfold mgangOp | unfold mopfOp | unfold movswOp | unfold mrelOp | unfold nmcOp | unfold nmwaitOp | unfold queueOp | unfold rdvOp | unfold releaseOp | unfold scratchOp | unfold sfuIssue | unfold simple | unfold storeOp | unfold streamOp | unfold transferOp | unfold tretOp)

theorem via_gbarArv (g bar) (s : State) : Via (.gbarArv g bar) s := by
  unfold Via; rw [exec_gbarArv]; unfold execGbarArv; repeat (first | exact .inl ⟨_, rfl⟩ | exact .inr (.inl ⟨_, rfl⟩) | unfold atomsOp | unfold ldsOp | unfold stsOp | unfold sfuUnary | unfold acquireOp | unfold aluA | unfold aluAB | unfold aluABD | unfold aluABDF | unfold aluABF | unfold aluCmp | unfold aluMadw | unfold aluPairs | unfold aluPred | unfold atomicOp | unfold barInstr | unfold barWait | unfold bkptOp | unfold contOp | unfold copyMcOp | unfold copyOp | unfold copyV2sOp | unfold cpywaitOp | unfold cvjoinOp | unfold cvsetOp | unfold fragOp | unfold gangOp | unfold gtrinvOp | unfold handleOp | unfold handleWait | unfold loadOp | unfold mcbOp | unfold mgangOp | unfold mopfOp | unfold movswOp | unfold mrelOp | unfold nmcOp | unfold nmwaitOp | unfold queueOp | unfold rdvOp | unfold releaseOp | unfold scratchOp | unfold sfuIssue | unfold simple | unfold storeOp | unfold streamOp | unfold transferOp | unfold tretOp)

theorem via_gbarWait (g bar) (s : State) : Via (.gbarWait g bar) s := by
  unfold Via; rw [exec_gbarWait]; unfold execGbarWait; repeat (first | exact .inl ⟨_, rfl⟩ | exact .inr (.inl ⟨_, rfl⟩) | unfold atomsOp | unfold ldsOp | unfold stsOp | unfold sfuUnary | unfold acquireOp | unfold aluA | unfold aluAB | unfold aluABD | unfold aluABDF | unfold aluABF | unfold aluCmp | unfold aluMadw | unfold aluPairs | unfold aluPred | unfold atomicOp | unfold barInstr | unfold barWait | unfold bkptOp | unfold contOp | unfold copyMcOp | unfold copyOp | unfold copyV2sOp | unfold cpywaitOp | unfold cvjoinOp | unfold cvsetOp | unfold fragOp | unfold gangOp | unfold gtrinvOp | unfold handleOp | unfold handleWait | unfold loadOp | unfold mcbOp | unfold mgangOp | unfold mopfOp | unfold movswOp | unfold mrelOp | unfold nmcOp | unfold nmwaitOp | unfold queueOp | unfold rdvOp | unfold releaseOp | unfold scratchOp | unfold sfuIssue | unfold simple | unfold storeOp | unfold streamOp | unfold transferOp | unfold tretOp)

theorem via_gbarRed (g d a sub bar hi) (s : State) : Via (.gbarRed g d a sub bar hi) s := by
  unfold Via; rw [exec_gbarRed]; unfold execGbarRed; repeat (first | exact .inl ⟨_, rfl⟩ | exact .inr (.inl ⟨_, rfl⟩) | unfold atomsOp | unfold ldsOp | unfold stsOp | unfold sfuUnary | unfold acquireOp | unfold aluA | unfold aluAB | unfold aluABD | unfold aluABDF | unfold aluABF | unfold aluCmp | unfold aluMadw | unfold aluPairs | unfold aluPred | unfold atomicOp | unfold barInstr | unfold barWait | unfold bkptOp | unfold contOp | unfold copyMcOp | unfold copyOp | unfold copyV2sOp | unfold cpywaitOp | unfold cvjoinOp | unfold cvsetOp | unfold fragOp | unfold gangOp | unfold gtrinvOp | unfold handleOp | unfold handleWait | unfold loadOp | unfold mcbOp | unfold mgangOp | unfold mopfOp | unfold movswOp | unfold mrelOp | unfold nmcOp | unfold nmwaitOp | unfold queueOp | unfold rdvOp | unfold releaseOp | unfold scratchOp | unfold sfuIssue | unfold simple | unfold storeOp | unfold streamOp | unfold transferOp | unfold tretOp)

theorem via_fence (g sc) (s : State) : Via (.fence g sc) s := by
  unfold Via; rw [exec_fence]; unfold execFence; repeat (first | exact .inl ⟨_, rfl⟩ | exact .inr (.inl ⟨_, rfl⟩) | unfold atomsOp | unfold ldsOp | unfold stsOp | unfold sfuUnary | unfold acquireOp | unfold aluA | unfold aluAB | unfold aluABD | unfold aluABDF | unfold aluABF | unfold aluCmp | unfold aluMadw | unfold aluPairs | unfold aluPred | unfold atomicOp | unfold barInstr | unfold barWait | unfold bkptOp | unfold contOp | unfold copyMcOp | unfold copyOp | unfold copyV2sOp | unfold cpywaitOp | unfold cvjoinOp | unfold cvsetOp | unfold fragOp | unfold gangOp | unfold gtrinvOp | unfold handleOp | unfold handleWait | unfold loadOp | unfold mcbOp | unfold mgangOp | unfold mopfOp | unfold movswOp | unfold mrelOp | unfold nmcOp | unfold nmwaitOp | unfold queueOp | unfold rdvOp | unfold releaseOp | unfold scratchOp | unfold sfuIssue | unfold simple | unfold storeOp | unfold streamOp | unfold transferOp | unfold tretOp)

theorem via_scopeof (g d a kind) (s : State) : Via (.scopeof g d a kind) s := by
  unfold Via; rw [exec_scopeof]; unfold execScopeof; repeat (first | exact .inl ⟨_, rfl⟩ | exact .inr (.inl ⟨_, rfl⟩) | unfold atomsOp | unfold ldsOp | unfold stsOp | unfold sfuUnary | unfold acquireOp | unfold aluA | unfold aluAB | unfold aluABD | unfold aluABDF | unfold aluABF | unfold aluCmp | unfold aluMadw | unfold aluPairs | unfold aluPred | unfold atomicOp | unfold barInstr | unfold barWait | unfold bkptOp | unfold contOp | unfold copyMcOp | unfold copyOp | unfold copyV2sOp | unfold cpywaitOp | unfold cvjoinOp | unfold cvsetOp | unfold fragOp | unfold gangOp | unfold gtrinvOp | unfold handleOp | unfold handleWait | unfold loadOp | unfold mcbOp | unfold mgangOp | unfold mopfOp | unfold movswOp | unfold mrelOp | unfold nmcOp | unfold nmwaitOp | unfold queueOp | unfold rdvOp | unfold releaseOp | unfold scratchOp | unfold sfuIssue | unfold simple | unfold storeOp | unfold streamOp | unfold transferOp | unfold tretOp)

theorem via_hwaitF (g h ph) (s : State) : Via (.hwaitF g h ph) s := by
  unfold Via; rw [exec_hwaitF]; unfold execHwaitF; repeat (first | exact .inl ⟨_, rfl⟩ | exact .inr (.inl ⟨_, rfl⟩) | unfold atomsOp | unfold ldsOp | unfold stsOp | unfold sfuUnary | unfold acquireOp | unfold aluA | unfold aluAB | unfold aluABD | unfold aluABDF | unfold aluABF | unfold aluCmp | unfold aluMadw | unfold aluPairs | unfold aluPred | unfold atomicOp | unfold barInstr | unfold barWait | unfold bkptOp | unfold contOp | unfold copyMcOp | unfold copyOp | unfold copyV2sOp | unfold cpywaitOp | unfold cvjoinOp | unfold cvsetOp | unfold fragOp | unfold gangOp | unfold gtrinvOp | unfold handleOp | unfold handleWait | unfold loadOp | unfold mcbOp | unfold mgangOp | unfold mopfOp | unfold movswOp | unfold mrelOp | unfold nmcOp | unfold nmwaitOp | unfold queueOp | unfold rdvOp | unfold releaseOp | unfold scratchOp | unfold sfuIssue | unfold simple | unfold storeOp | unfold streamOp | unfold transferOp | unfold tretOp)

theorem via_hwaitE (g h) (s : State) : Via (.hwaitE g h) s := by
  unfold Via; rw [exec_hwaitE]; unfold execHwaitE; repeat (first | exact .inl ⟨_, rfl⟩ | exact .inr (.inl ⟨_, rfl⟩) | unfold atomsOp | unfold ldsOp | unfold stsOp | unfold sfuUnary | unfold acquireOp | unfold aluA | unfold aluAB | unfold aluABD | unfold aluABDF | unfold aluABF | unfold aluCmp | unfold aluMadw | unfold aluPairs | unfold aluPred | unfold atomicOp | unfold barInstr | unfold barWait | unfold bkptOp | unfold contOp | unfold copyMcOp | unfold copyOp | unfold copyV2sOp | unfold cpywaitOp | unfold cvjoinOp | unfold cvsetOp | unfold fragOp | unfold gangOp | unfold gtrinvOp | unfold handleOp | unfold handleWait | unfold loadOp | unfold mcbOp | unfold mgangOp | unfold mopfOp | unfold movswOp | unfold mrelOp | unfold nmcOp | unfold nmwaitOp | unfold queueOp | unfold rdvOp | unfold releaseOp | unfold scratchOp | unfold sfuIssue | unfold simple | unfold storeOp | unfold streamOp | unfold transferOp | unfold tretOp)

theorem via_hsetFill (g h) (s : State) : Via (.hsetFill g h) s := by
  unfold Via; rw [exec_hsetFill]; unfold execHsetFill; repeat (first | exact .inl ⟨_, rfl⟩ | exact .inr (.inl ⟨_, rfl⟩) | unfold atomsOp | unfold ldsOp | unfold stsOp | unfold sfuUnary | unfold acquireOp | unfold aluA | unfold aluAB | unfold aluABD | unfold aluABDF | unfold aluABF | unfold aluCmp | unfold aluMadw | unfold aluPairs | unfold aluPred | unfold atomicOp | unfold barInstr | unfold barWait | unfold bkptOp | unfold contOp | unfold copyMcOp | unfold copyOp | unfold copyV2sOp | unfold cpywaitOp | unfold cvjoinOp | unfold cvsetOp | unfold fragOp | unfold gangOp | unfold gtrinvOp | unfold handleOp | unfold handleWait | unfold loadOp | unfold mcbOp | unfold mgangOp | unfold mopfOp | unfold movswOp | unfold mrelOp | unfold nmcOp | unfold nmwaitOp | unfold queueOp | unfold rdvOp | unfold releaseOp | unfold scratchOp | unfold sfuIssue | unfold simple | unfold storeOp | unfold streamOp | unfold transferOp | unfold tretOp)

theorem via_hsetFull (g h) (s : State) : Via (.hsetFull g h) s := by
  unfold Via; rw [exec_hsetFull]; unfold execHsetFull; repeat (first | exact .inl ⟨_, rfl⟩ | exact .inr (.inl ⟨_, rfl⟩) | unfold atomsOp | unfold ldsOp | unfold stsOp | unfold sfuUnary | unfold acquireOp | unfold aluA | unfold aluAB | unfold aluABD | unfold aluABDF | unfold aluABF | unfold aluCmp | unfold aluMadw | unfold aluPairs | unfold aluPred | unfold atomicOp | unfold barInstr | unfold barWait | unfold bkptOp | unfold contOp | unfold copyMcOp | unfold copyOp | unfold copyV2sOp | unfold cpywaitOp | unfold cvjoinOp | unfold cvsetOp | unfold fragOp | unfold gangOp | unfold gtrinvOp | unfold handleOp | unfold handleWait | unfold loadOp | unfold mcbOp | unfold mgangOp | unfold mopfOp | unfold movswOp | unfold mrelOp | unfold nmcOp | unfold nmwaitOp | unfold queueOp | unfold rdvOp | unfold releaseOp | unfold scratchOp | unfold sfuIssue | unfold simple | unfold storeOp | unfold streamOp | unfold transferOp | unfold tretOp)

theorem via_hsetDrain (g h) (s : State) : Via (.hsetDrain g h) s := by
  unfold Via; rw [exec_hsetDrain]; unfold execHsetDrain; repeat (first | exact .inl ⟨_, rfl⟩ | exact .inr (.inl ⟨_, rfl⟩) | unfold atomsOp | unfold ldsOp | unfold stsOp | unfold sfuUnary | unfold acquireOp | unfold aluA | unfold aluAB | unfold aluABD | unfold aluABDF | unfold aluABF | unfold aluCmp | unfold aluMadw | unfold aluPairs | unfold aluPred | unfold atomicOp | unfold barInstr | unfold barWait | unfold bkptOp | unfold contOp | unfold copyMcOp | unfold copyOp | unfold copyV2sOp | unfold cpywaitOp | unfold cvjoinOp | unfold cvsetOp | unfold fragOp | unfold gangOp | unfold gtrinvOp | unfold handleOp | unfold handleWait | unfold loadOp | unfold mcbOp | unfold mgangOp | unfold mopfOp | unfold movswOp | unfold mrelOp | unfold nmcOp | unfold nmwaitOp | unfold queueOp | unfold rdvOp | unfold releaseOp | unfold scratchOp | unfold sfuIssue | unfold simple | unfold storeOp | unfold streamOp | unfold transferOp | unfold tretOp)

theorem via_hsetFree (g h) (s : State) : Via (.hsetFree g h) s := by
  unfold Via; rw [exec_hsetFree]; unfold execHsetFree; repeat (first | exact .inl ⟨_, rfl⟩ | exact .inr (.inl ⟨_, rfl⟩) | unfold atomsOp | unfold ldsOp | unfold stsOp | unfold sfuUnary | unfold acquireOp | unfold aluA | unfold aluAB | unfold aluABD | unfold aluABDF | unfold aluABF | unfold aluCmp | unfold aluMadw | unfold aluPairs | unfold aluPred | unfold atomicOp | unfold barInstr | unfold barWait | unfold bkptOp | unfold contOp | unfold copyMcOp | unfold copyOp | unfold copyV2sOp | unfold cpywaitOp | unfold cvjoinOp | unfold cvsetOp | unfold fragOp | unfold gangOp | unfold gtrinvOp | unfold handleOp | unfold handleWait | unfold loadOp | unfold mcbOp | unfold mgangOp | unfold mopfOp | unfold movswOp | unfold mrelOp | unfold nmcOp | unfold nmwaitOp | unfold queueOp | unfold rdvOp | unfold releaseOp | unfold scratchOp | unfold sfuIssue | unfold simple | unfold storeOp | unfold streamOp | unfold transferOp | unfold tretOp)

theorem via_harm (g h c) (s : State) : Via (.harm g h c) s := by
  unfold Via; rw [exec_harm]; unfold execHarm; repeat (first | exact .inl ⟨_, rfl⟩ | exact .inr (.inl ⟨_, rfl⟩) | unfold atomsOp | unfold ldsOp | unfold stsOp | unfold sfuUnary | unfold acquireOp | unfold aluA | unfold aluAB | unfold aluABD | unfold aluABDF | unfold aluABF | unfold aluCmp | unfold aluMadw | unfold aluPairs | unfold aluPred | unfold atomicOp | unfold barInstr | unfold barWait | unfold bkptOp | unfold contOp | unfold copyMcOp | unfold copyOp | unfold copyV2sOp | unfold cpywaitOp | unfold cvjoinOp | unfold cvsetOp | unfold fragOp | unfold gangOp | unfold gtrinvOp | unfold handleOp | unfold handleWait | unfold loadOp | unfold mcbOp | unfold mgangOp | unfold mopfOp | unfold movswOp | unfold mrelOp | unfold nmcOp | unfold nmwaitOp | unfold queueOp | unfold rdvOp | unfold releaseOp | unfold scratchOp | unfold sfuIssue | unfold simple | unfold storeOp | unfold streamOp | unfold transferOp | unfold tretOp)

theorem via_cont (g h w) (s : State) : Via (.cont g h w) s := by
  unfold Via; rw [exec_cont]; unfold execCont; repeat (first | exact .inl ⟨_, rfl⟩ | exact .inr (.inl ⟨_, rfl⟩) | unfold atomsOp | unfold ldsOp | unfold stsOp | unfold sfuUnary | unfold acquireOp | unfold aluA | unfold aluAB | unfold aluABD | unfold aluABDF | unfold aluABF | unfold aluCmp | unfold aluMadw | unfold aluPairs | unfold aluPred | unfold atomicOp | unfold barInstr | unfold barWait | unfold bkptOp | unfold contOp | unfold copyMcOp | unfold copyOp | unfold copyV2sOp | unfold cpywaitOp | unfold cvjoinOp | unfold cvsetOp | unfold fragOp | unfold gangOp | unfold gtrinvOp | unfold handleOp | unfold handleWait | unfold loadOp | unfold mcbOp | unfold mgangOp | unfold mopfOp | unfold movswOp | unfold mrelOp | unfold nmcOp | unfold nmwaitOp | unfold queueOp | unfold rdvOp | unfold releaseOp | unfold scratchOp | unfold sfuIssue | unfold simple | unfold storeOp | unfold streamOp | unfold transferOp | unfold tretOp)

theorem via_qpush (g d q) (s : State) : Via (.qpush g d q) s := by
  unfold Via; rw [exec_qpush]; unfold execQpush; repeat (first | exact .inl ⟨_, rfl⟩ | exact .inr (.inl ⟨_, rfl⟩) | unfold atomsOp | unfold ldsOp | unfold stsOp | unfold sfuUnary | unfold acquireOp | unfold aluA | unfold aluAB | unfold aluABD | unfold aluABDF | unfold aluABF | unfold aluCmp | unfold aluMadw | unfold aluPairs | unfold aluPred | unfold atomicOp | unfold barInstr | unfold barWait | unfold bkptOp | unfold contOp | unfold copyMcOp | unfold copyOp | unfold copyV2sOp | unfold cpywaitOp | unfold cvjoinOp | unfold cvsetOp | unfold fragOp | unfold gangOp | unfold gtrinvOp | unfold handleOp | unfold handleWait | unfold loadOp | unfold mcbOp | unfold mgangOp | unfold mopfOp | unfold movswOp | unfold mrelOp | unfold nmcOp | unfold nmwaitOp | unfold queueOp | unfold rdvOp | unfold releaseOp | unfold scratchOp | unfold sfuIssue | unfold simple | unfold storeOp | unfold streamOp | unfold transferOp | unfold tretOp)

theorem via_qpushD (g d q) (s : State) : Via (.qpushD g d q) s := by
  unfold Via; rw [exec_qpushD]; unfold execQpushD; repeat (first | exact .inl ⟨_, rfl⟩ | exact .inr (.inl ⟨_, rfl⟩) | unfold atomsOp | unfold ldsOp | unfold stsOp | unfold sfuUnary | unfold acquireOp | unfold aluA | unfold aluAB | unfold aluABD | unfold aluABDF | unfold aluABF | unfold aluCmp | unfold aluMadw | unfold aluPairs | unfold aluPred | unfold atomicOp | unfold barInstr | unfold barWait | unfold bkptOp | unfold contOp | unfold copyMcOp | unfold copyOp | unfold copyV2sOp | unfold cpywaitOp | unfold cvjoinOp | unfold cvsetOp | unfold fragOp | unfold gangOp | unfold gtrinvOp | unfold handleOp | unfold handleWait | unfold loadOp | unfold mcbOp | unfold mgangOp | unfold mopfOp | unfold movswOp | unfold mrelOp | unfold nmcOp | unfold nmwaitOp | unfold queueOp | unfold rdvOp | unfold releaseOp | unfold scratchOp | unfold sfuIssue | unfold simple | unfold storeOp | unfold streamOp | unfold transferOp | unfold tretOp)

theorem via_qpop (g d q) (s : State) : Via (.qpop g d q) s := by
  unfold Via; rw [exec_qpop]; unfold execQpop; repeat (first | exact .inl ⟨_, rfl⟩ | exact .inr (.inl ⟨_, rfl⟩) | unfold atomsOp | unfold ldsOp | unfold stsOp | unfold sfuUnary | unfold acquireOp | unfold aluA | unfold aluAB | unfold aluABD | unfold aluABDF | unfold aluABF | unfold aluCmp | unfold aluMadw | unfold aluPairs | unfold aluPred | unfold atomicOp | unfold barInstr | unfold barWait | unfold bkptOp | unfold contOp | unfold copyMcOp | unfold copyOp | unfold copyV2sOp | unfold cpywaitOp | unfold cvjoinOp | unfold cvsetOp | unfold fragOp | unfold gangOp | unfold gtrinvOp | unfold handleOp | unfold handleWait | unfold loadOp | unfold mcbOp | unfold mgangOp | unfold mopfOp | unfold movswOp | unfold mrelOp | unfold nmcOp | unfold nmwaitOp | unfold queueOp | unfold rdvOp | unfold releaseOp | unfold scratchOp | unfold sfuIssue | unfold simple | unfold storeOp | unfold streamOp | unfold transferOp | unfold tretOp)

theorem via_qlen (g d q) (s : State) : Via (.qlen g d q) s := by
  unfold Via; rw [exec_qlen]; unfold execQlen; repeat (first | exact .inl ⟨_, rfl⟩ | exact .inr (.inl ⟨_, rfl⟩) | unfold atomsOp | unfold ldsOp | unfold stsOp | unfold sfuUnary | unfold acquireOp | unfold aluA | unfold aluAB | unfold aluABD | unfold aluABDF | unfold aluABF | unfold aluCmp | unfold aluMadw | unfold aluPairs | unfold aluPred | unfold atomicOp | unfold barInstr | unfold barWait | unfold bkptOp | unfold contOp | unfold copyMcOp | unfold copyOp | unfold copyV2sOp | unfold cpywaitOp | unfold cvjoinOp | unfold cvsetOp | unfold fragOp | unfold gangOp | unfold gtrinvOp | unfold handleOp | unfold handleWait | unfold loadOp | unfold mcbOp | unfold mgangOp | unfold mopfOp | unfold movswOp | unfold mrelOp | unfold nmcOp | unfold nmwaitOp | unfold queueOp | unfold rdvOp | unfold releaseOp | unfold scratchOp | unfold sfuIssue | unfold simple | unfold storeOp | unfold streamOp | unfold transferOp | unfold tretOp)

theorem via_qpushNb (g d q p) (s : State) : Via (.qpushNb g d q p) s := by
  unfold Via; rw [exec_qpushNb]; unfold execQpushNb; repeat (first | exact .inl ⟨_, rfl⟩ | exact .inr (.inl ⟨_, rfl⟩) | unfold atomsOp | unfold ldsOp | unfold stsOp | unfold sfuUnary | unfold acquireOp | unfold aluA | unfold aluAB | unfold aluABD | unfold aluABDF | unfold aluABF | unfold aluCmp | unfold aluMadw | unfold aluPairs | unfold aluPred | unfold atomicOp | unfold barInstr | unfold barWait | unfold bkptOp | unfold contOp | unfold copyMcOp | unfold copyOp | unfold copyV2sOp | unfold cpywaitOp | unfold cvjoinOp | unfold cvsetOp | unfold fragOp | unfold gangOp | unfold gtrinvOp | unfold handleOp | unfold handleWait | unfold loadOp | unfold mcbOp | unfold mgangOp | unfold mopfOp | unfold movswOp | unfold mrelOp | unfold nmcOp | unfold nmwaitOp | unfold queueOp | unfold rdvOp | unfold releaseOp | unfold scratchOp | unfold sfuIssue | unfold simple | unfold storeOp | unfold streamOp | unfold transferOp | unfold tretOp)

theorem via_qpopNb (g d q p) (s : State) : Via (.qpopNb g d q p) s := by
  unfold Via; rw [exec_qpopNb]; unfold execQpopNb; repeat (first | exact .inl ⟨_, rfl⟩ | exact .inr (.inl ⟨_, rfl⟩) | unfold atomsOp | unfold ldsOp | unfold stsOp | unfold sfuUnary | unfold acquireOp | unfold aluA | unfold aluAB | unfold aluABD | unfold aluABDF | unfold aluABF | unfold aluCmp | unfold aluMadw | unfold aluPairs | unfold aluPred | unfold atomicOp | unfold barInstr | unfold barWait | unfold bkptOp | unfold contOp | unfold copyMcOp | unfold copyOp | unfold copyV2sOp | unfold cpywaitOp | unfold cvjoinOp | unfold cvsetOp | unfold fragOp | unfold gangOp | unfold gtrinvOp | unfold handleOp | unfold handleWait | unfold loadOp | unfold mcbOp | unfold mgangOp | unfold mopfOp | unfold movswOp | unfold mrelOp | unfold nmcOp | unfold nmwaitOp | unfold queueOp | unfold rdvOp | unfold releaseOp | unfold scratchOp | unfold sfuIssue | unfold simple | unfold storeOp | unfold streamOp | unfold transferOp | unfold tretOp)

theorem via_cvjoin (g a b) (s : State) : Via (.cvjoin g a b) s := by
  unfold Via; rw [exec_cvjoin]; unfold execCvjoin; repeat (first | exact .inl ⟨_, rfl⟩ | exact .inr (.inl ⟨_, rfl⟩) | unfold atomsOp | unfold ldsOp | unfold stsOp | unfold sfuUnary | unfold acquireOp | unfold aluA | unfold aluAB | unfold aluABD | unfold aluABDF | unfold aluABF | unfold aluCmp | unfold aluMadw | unfold aluPairs | unfold aluPred | unfold atomicOp | unfold barInstr | unfold barWait | unfold bkptOp | unfold contOp | unfold copyMcOp | unfold copyOp | unfold copyV2sOp | unfold cpywaitOp | unfold cvjoinOp | unfold cvsetOp | unfold fragOp | unfold gangOp | unfold gtrinvOp | unfold handleOp | unfold handleWait | unfold loadOp | unfold mcbOp | unfold mgangOp | unfold mopfOp | unfold movswOp | unfold mrelOp | unfold nmcOp | unfold nmwaitOp | unfold queueOp | unfold rdvOp | unfold releaseOp | unfold scratchOp | unfold sfuIssue | unfold simple | unfold storeOp | unfold streamOp | unfold transferOp | unfold tretOp)

theorem via_cvleave (g) (s : State) : Via (.cvleave g) s := by
  unfold Via; rw [exec_cvleave]; unfold execCvleave; repeat (first | exact .inl ⟨_, rfl⟩ | exact .inr (.inl ⟨_, rfl⟩) | unfold atomsOp | unfold ldsOp | unfold stsOp | unfold sfuUnary | unfold acquireOp | unfold aluA | unfold aluAB | unfold aluABD | unfold aluABDF | unfold aluABF | unfold aluCmp | unfold aluMadw | unfold aluPairs | unfold aluPred | unfold atomicOp | unfold barInstr | unfold barWait | unfold bkptOp | unfold contOp | unfold copyMcOp | unfold copyOp | unfold copyV2sOp | unfold cpywaitOp | unfold cvjoinOp | unfold cvsetOp | unfold fragOp | unfold gangOp | unfold gtrinvOp | unfold handleOp | unfold handleWait | unfold loadOp | unfold mcbOp | unfold mgangOp | unfold mopfOp | unfold movswOp | unfold mrelOp | unfold nmcOp | unfold nmwaitOp | unfold queueOp | unfold rdvOp | unfold releaseOp | unfold scratchOp | unfold sfuIssue | unfold simple | unfold storeOp | unfold streamOp | unfold transferOp | unfold tretOp)

theorem via_cvsetSl (g a) (s : State) : Via (.cvsetSl g a) s := by
  unfold Via; rw [exec_cvsetSl]; unfold execCvsetSl; repeat (first | exact .inl ⟨_, rfl⟩ | exact .inr (.inl ⟨_, rfl⟩) | unfold atomsOp | unfold ldsOp | unfold stsOp | unfold sfuUnary | unfold acquireOp | unfold aluA | unfold aluAB | unfold aluABD | unfold aluABDF | unfold aluABF | unfold aluCmp | unfold aluMadw | unfold aluPairs | unfold aluPred | unfold atomicOp | unfold barInstr | unfold barWait | unfold bkptOp | unfold contOp | unfold copyMcOp | unfold copyOp | unfold copyV2sOp | unfold cpywaitOp | unfold cvjoinOp | unfold cvsetOp | unfold fragOp | unfold gangOp | unfold gtrinvOp | unfold handleOp | unfold handleWait | unfold loadOp | unfold mcbOp | unfold mgangOp | unfold mopfOp | unfold movswOp | unfold mrelOp | unfold nmcOp | unfold nmwaitOp | unfold queueOp | unfold rdvOp | unfold releaseOp | unfold scratchOp | unfold sfuIssue | unfold simple | unfold storeOp | unfold streamOp | unfold transferOp | unfold tretOp)

theorem via_cvsetLt (g a) (s : State) : Via (.cvsetLt g a) s := by
  unfold Via; rw [exec_cvsetLt]; unfold execCvsetLt; repeat (first | exact .inl ⟨_, rfl⟩ | exact .inr (.inl ⟨_, rfl⟩) | unfold atomsOp | unfold ldsOp | unfold stsOp | unfold sfuUnary | unfold acquireOp | unfold aluA | unfold aluAB | unfold aluABD | unfold aluABDF | unfold aluABF | unfold aluCmp | unfold aluMadw | unfold aluPairs | unfold aluPred | unfold atomicOp | unfold barInstr | unfold barWait | unfold bkptOp | unfold contOp | unfold copyMcOp | unfold copyOp | unfold copyV2sOp | unfold cpywaitOp | unfold cvjoinOp | unfold cvsetOp | unfold fragOp | unfold gangOp | unfold gtrinvOp | unfold handleOp | unfold handleWait | unfold loadOp | unfold mcbOp | unfold mgangOp | unfold mopfOp | unfold movswOp | unfold mrelOp | unfold nmcOp | unfold nmwaitOp | unfold queueOp | unfold rdvOp | unfold releaseOp | unfold scratchOp | unfold sfuIssue | unfold simple | unfold storeOp | unfold streamOp | unfold transferOp | unfold tretOp)

theorem via_mmaE4e4 (g x1 x2 x3 tile sb keep la) (s : State) : Via (.mmaE4e4 g x1 x2 x3 tile sb keep la) s := by
  unfold Via; rw [exec_mmaE4e4]; unfold execMmaE4e4; repeat (first | exact .inl ⟨_, rfl⟩ | exact .inr (.inl ⟨_, rfl⟩) | unfold atomsOp | unfold ldsOp | unfold stsOp | unfold sfuUnary | unfold acquireOp | unfold aluA | unfold aluAB | unfold aluABD | unfold aluABDF | unfold aluABF | unfold aluCmp | unfold aluMadw | unfold aluPairs | unfold aluPred | unfold atomicOp | unfold barInstr | unfold barWait | unfold bkptOp | unfold contOp | unfold copyMcOp | unfold copyOp | unfold copyV2sOp | unfold cpywaitOp | unfold cvjoinOp | unfold cvsetOp | unfold fragOp | unfold gangOp | unfold gtrinvOp | unfold handleOp | unfold handleWait | unfold loadOp | unfold mcbOp | unfold mgangOp | unfold mopfOp | unfold movswOp | unfold mrelOp | unfold nmcOp | unfold nmwaitOp | unfold queueOp | unfold rdvOp | unfold releaseOp | unfold scratchOp | unfold sfuIssue | unfold simple | unfold storeOp | unfold streamOp | unfold transferOp | unfold tretOp)

theorem via_mmaE4e5 (g x1 x2 x3 tile sb keep la) (s : State) : Via (.mmaE4e5 g x1 x2 x3 tile sb keep la) s := by
  unfold Via; rw [exec_mmaE4e5]; unfold execMmaE4e5; repeat (first | exact .inl ⟨_, rfl⟩ | exact .inr (.inl ⟨_, rfl⟩) | unfold atomsOp | unfold ldsOp | unfold stsOp | unfold sfuUnary | unfold acquireOp | unfold aluA | unfold aluAB | unfold aluABD | unfold aluABDF | unfold aluABF | unfold aluCmp | unfold aluMadw | unfold aluPairs | unfold aluPred | unfold atomicOp | unfold barInstr | unfold barWait | unfold bkptOp | unfold contOp | unfold copyMcOp | unfold copyOp | unfold copyV2sOp | unfold cpywaitOp | unfold cvjoinOp | unfold cvsetOp | unfold fragOp | unfold gangOp | unfold gtrinvOp | unfold handleOp | unfold handleWait | unfold loadOp | unfold mcbOp | unfold mgangOp | unfold mopfOp | unfold movswOp | unfold mrelOp | unfold nmcOp | unfold nmwaitOp | unfold queueOp | unfold rdvOp | unfold releaseOp | unfold scratchOp | unfold sfuIssue | unfold simple | unfold storeOp | unfold streamOp | unfold transferOp | unfold tretOp)

theorem via_mmaE5e4 (g x1 x2 x3 tile sb keep la) (s : State) : Via (.mmaE5e4 g x1 x2 x3 tile sb keep la) s := by
  unfold Via; rw [exec_mmaE5e4]; unfold execMmaE5e4; repeat (first | exact .inl ⟨_, rfl⟩ | exact .inr (.inl ⟨_, rfl⟩) | unfold atomsOp | unfold ldsOp | unfold stsOp | unfold sfuUnary | unfold acquireOp | unfold aluA | unfold aluAB | unfold aluABD | unfold aluABDF | unfold aluABF | unfold aluCmp | unfold aluMadw | unfold aluPairs | unfold aluPred | unfold atomicOp | unfold barInstr | unfold barWait | unfold bkptOp | unfold contOp | unfold copyMcOp | unfold copyOp | unfold copyV2sOp | unfold cpywaitOp | unfold cvjoinOp | unfold cvsetOp | unfold fragOp | unfold gangOp | unfold gtrinvOp | unfold handleOp | unfold handleWait | unfold loadOp | unfold mcbOp | unfold mgangOp | unfold mopfOp | unfold movswOp | unfold mrelOp | unfold nmcOp | unfold nmwaitOp | unfold queueOp | unfold rdvOp | unfold releaseOp | unfold scratchOp | unfold sfuIssue | unfold simple | unfold storeOp | unfold streamOp | unfold transferOp | unfold tretOp)

theorem via_mmaE5e5 (g x1 x2 x3 tile sb keep la) (s : State) : Via (.mmaE5e5 g x1 x2 x3 tile sb keep la) s := by
  unfold Via; rw [exec_mmaE5e5]; unfold execMmaE5e5; repeat (first | exact .inl ⟨_, rfl⟩ | exact .inr (.inl ⟨_, rfl⟩) | unfold atomsOp | unfold ldsOp | unfold stsOp | unfold sfuUnary | unfold acquireOp | unfold aluA | unfold aluAB | unfold aluABD | unfold aluABDF | unfold aluABF | unfold aluCmp | unfold aluMadw | unfold aluPairs | unfold aluPred | unfold atomicOp | unfold barInstr | unfold barWait | unfold bkptOp | unfold contOp | unfold copyMcOp | unfold copyOp | unfold copyV2sOp | unfold cpywaitOp | unfold cvjoinOp | unfold cvsetOp | unfold fragOp | unfold gangOp | unfold gtrinvOp | unfold handleOp | unfold handleWait | unfold loadOp | unfold mcbOp | unfold mgangOp | unfold mopfOp | unfold movswOp | unfold mrelOp | unfold nmcOp | unfold nmwaitOp | unfold queueOp | unfold rdvOp | unfold releaseOp | unfold scratchOp | unfold sfuIssue | unfold simple | unfold storeOp | unfold streamOp | unfold transferOp | unfold tretOp)

theorem via_mmaCb4 (g x1 x2 x3 tile sb keep k la) (s : State) : Via (.mmaCb4 g x1 x2 x3 tile sb keep k la) s := by
  unfold Via; rw [exec_mmaCb4]; unfold execMmaCb4; repeat (first | exact .inl ⟨_, rfl⟩ | exact .inr (.inl ⟨_, rfl⟩) | unfold atomsOp | unfold ldsOp | unfold stsOp | unfold sfuUnary | unfold acquireOp | unfold aluA | unfold aluAB | unfold aluABD | unfold aluABDF | unfold aluABF | unfold aluCmp | unfold aluMadw | unfold aluPairs | unfold aluPred | unfold atomicOp | unfold barInstr | unfold barWait | unfold bkptOp | unfold contOp | unfold copyMcOp | unfold copyOp | unfold copyV2sOp | unfold cpywaitOp | unfold cvjoinOp | unfold cvsetOp | unfold fragOp | unfold gangOp | unfold gtrinvOp | unfold handleOp | unfold handleWait | unfold loadOp | unfold mcbOp | unfold mgangOp | unfold mopfOp | unfold movswOp | unfold mrelOp | unfold nmcOp | unfold nmwaitOp | unfold queueOp | unfold rdvOp | unfold releaseOp | unfold scratchOp | unfold sfuIssue | unfold simple | unfold storeOp | unfold streamOp | unfold transferOp | unfold tretOp)

theorem via_mmaBf16 (g x1 x2 tile keep la) (s : State) : Via (.mmaBf16 g x1 x2 tile keep la) s := by
  unfold Via; rw [exec_mmaBf16]; unfold execMmaBf16; repeat (first | exact .inl ⟨_, rfl⟩ | exact .inr (.inl ⟨_, rfl⟩) | unfold atomsOp | unfold ldsOp | unfold stsOp | unfold sfuUnary | unfold acquireOp | unfold aluA | unfold aluAB | unfold aluABD | unfold aluABDF | unfold aluABF | unfold aluCmp | unfold aluMadw | unfold aluPairs | unfold aluPred | unfold atomicOp | unfold barInstr | unfold barWait | unfold bkptOp | unfold contOp | unfold copyMcOp | unfold copyOp | unfold copyV2sOp | unfold cpywaitOp | unfold cvjoinOp | unfold cvsetOp | unfold fragOp | unfold gangOp | unfold gtrinvOp | unfold handleOp | unfold handleWait | unfold loadOp | unfold mcbOp | unfold mgangOp | unfold mopfOp | unfold movswOp | unfold mrelOp | unfold nmcOp | unfold nmwaitOp | unfold queueOp | unfold rdvOp | unfold releaseOp | unfold scratchOp | unfold sfuIssue | unfold simple | unfold storeOp | unfold streamOp | unfold transferOp | unfold tretOp)

theorem via_mmaF16 (g x1 x2 tile keep la) (s : State) : Via (.mmaF16 g x1 x2 tile keep la) s := by
  unfold Via; rw [exec_mmaF16]; unfold execMmaF16; repeat (first | exact .inl ⟨_, rfl⟩ | exact .inr (.inl ⟨_, rfl⟩) | unfold atomsOp | unfold ldsOp | unfold stsOp | unfold sfuUnary | unfold acquireOp | unfold aluA | unfold aluAB | unfold aluABD | unfold aluABDF | unfold aluABF | unfold aluCmp | unfold aluMadw | unfold aluPairs | unfold aluPred | unfold atomicOp | unfold barInstr | unfold barWait | unfold bkptOp | unfold contOp | unfold copyMcOp | unfold copyOp | unfold copyV2sOp | unfold cpywaitOp | unfold cvjoinOp | unfold cvsetOp | unfold fragOp | unfold gangOp | unfold gtrinvOp | unfold handleOp | unfold handleWait | unfold loadOp | unfold mcbOp | unfold mgangOp | unfold mopfOp | unfold movswOp | unfold mrelOp | unfold nmcOp | unfold nmwaitOp | unfold queueOp | unfold rdvOp | unfold releaseOp | unfold scratchOp | unfold sfuIssue | unfold simple | unfold storeOp | unfold streamOp | unfold transferOp | unfold tretOp)

theorem via_mmaI8 (g x1 x2 tile keep la) (s : State) : Via (.mmaI8 g x1 x2 tile keep la) s := by
  unfold Via; rw [exec_mmaI8]; unfold execMmaI8; repeat (first | exact .inl ⟨_, rfl⟩ | exact .inr (.inl ⟨_, rfl⟩) | unfold atomsOp | unfold ldsOp | unfold stsOp | unfold sfuUnary | unfold acquireOp | unfold aluA | unfold aluAB | unfold aluABD | unfold aluABDF | unfold aluABF | unfold aluCmp | unfold aluMadw | unfold aluPairs | unfold aluPred | unfold atomicOp | unfold barInstr | unfold barWait | unfold bkptOp | unfold contOp | unfold copyMcOp | unfold copyOp | unfold copyV2sOp | unfold cpywaitOp | unfold cvjoinOp | unfold cvsetOp | unfold fragOp | unfold gangOp | unfold gtrinvOp | unfold handleOp | unfold handleWait | unfold loadOp | unfold mcbOp | unfold mgangOp | unfold mopfOp | unfold movswOp | unfold mrelOp | unfold nmcOp | unfold nmwaitOp | unfold queueOp | unfold rdvOp | unfold releaseOp | unfold scratchOp | unfold sfuIssue | unfold simple | unfold storeOp | unfold streamOp | unfold transferOp | unfold tretOp)

theorem via_mzero (g tile) (s : State) : Via (.mzero g tile) s := by
  unfold Via; rw [exec_mzero]; unfold execMzero; repeat (first | exact .inl ⟨_, rfl⟩ | exact .inr (.inl ⟨_, rfl⟩) | unfold atomsOp | unfold ldsOp | unfold stsOp | unfold sfuUnary | unfold acquireOp | unfold aluA | unfold aluAB | unfold aluABD | unfold aluABDF | unfold aluABF | unfold aluCmp | unfold aluMadw | unfold aluPairs | unfold aluPred | unfold atomicOp | unfold barInstr | unfold barWait | unfold bkptOp | unfold contOp | unfold copyMcOp | unfold copyOp | unfold copyV2sOp | unfold cpywaitOp | unfold cvjoinOp | unfold cvsetOp | unfold fragOp | unfold gangOp | unfold gtrinvOp | unfold handleOp | unfold handleWait | unfold loadOp | unfold mcbOp | unfold mgangOp | unfold mopfOp | unfold movswOp | unfold mrelOp | unfold nmcOp | unfold nmwaitOp | unfold queueOp | unfold rdvOp | unfold releaseOp | unfold scratchOp | unfold sfuIssue | unfold simple | unfold storeOp | unfold streamOp | unfold transferOp | unfold tretOp)

theorem via_mload (g afmt x1 x3 sb k la) (s : State) : Via (.mload g afmt x1 x3 sb k la) s := by
  unfold Via; rw [exec_mload]; unfold execMload; repeat (first | exact .inl ⟨_, rfl⟩ | exact .inr (.inl ⟨_, rfl⟩) | unfold atomsOp | unfold ldsOp | unfold stsOp | unfold sfuUnary | unfold acquireOp | unfold aluA | unfold aluAB | unfold aluABD | unfold aluABDF | unfold aluABF | unfold aluCmp | unfold aluMadw | unfold aluPairs | unfold aluPred | unfold atomicOp | unfold barInstr | unfold barWait | unfold bkptOp | unfold contOp | unfold copyMcOp | unfold copyOp | unfold copyV2sOp | unfold cpywaitOp | unfold cvjoinOp | unfold cvsetOp | unfold fragOp | unfold gangOp | unfold gtrinvOp | unfold handleOp | unfold handleWait | unfold loadOp | unfold mcbOp | unfold mgangOp | unfold mopfOp | unfold movswOp | unfold mrelOp | unfold nmcOp | unfold nmwaitOp | unfold queueOp | unfold rdvOp | unfold releaseOp | unfold scratchOp | unfold sfuIssue | unfold simple | unfold storeOp | unfold streamOp | unfold transferOp | unfold tretOp)

theorem via_mdrain (g cvt h tile bs x2 x3 la) (s : State) : Via (.mdrain g cvt h tile bs x2 x3 la) s := by
  unfold Via; rw [exec_mdrain]; unfold execMdrain; repeat (first | exact .inl ⟨_, rfl⟩ | exact .inr (.inl ⟨_, rfl⟩) | unfold atomsOp | unfold ldsOp | unfold stsOp | unfold sfuUnary | unfold acquireOp | unfold aluA | unfold aluAB | unfold aluABD | unfold aluABDF | unfold aluABF | unfold aluCmp | unfold aluMadw | unfold aluPairs | unfold aluPred | unfold atomicOp | unfold barInstr | unfold barWait | unfold bkptOp | unfold contOp | unfold copyMcOp | unfold copyOp | unfold copyV2sOp | unfold cpywaitOp | unfold cvjoinOp | unfold cvsetOp | unfold fragOp | unfold gangOp | unfold gtrinvOp | unfold handleOp | unfold handleWait | unfold loadOp | unfold mcbOp | unfold mgangOp | unfold mopfOp | unfold movswOp | unfold mrelOp | unfold nmcOp | unfold nmwaitOp | unfold queueOp | unfold rdvOp | unfold releaseOp | unfold scratchOp | unfold sfuIssue | unfold simple | unfold storeOp | unfold streamOp | unfold transferOp | unfold tretOp)

theorem via_mdraina (g h tile bs x2 x3 la) (s : State) : Via (.mdraina g h tile bs x2 x3 la) s := by
  unfold Via; rw [exec_mdraina]; unfold execMdraina; repeat (first | exact .inl ⟨_, rfl⟩ | exact .inr (.inl ⟨_, rfl⟩) | unfold atomsOp | unfold ldsOp | unfold stsOp | unfold sfuUnary | unfold acquireOp | unfold aluA | unfold aluAB | unfold aluABD | unfold aluABDF | unfold aluABF | unfold aluCmp | unfold aluMadw | unfold aluPairs | unfold aluPred | unfold atomicOp | unfold barInstr | unfold barWait | unfold bkptOp | unfold contOp | unfold copyMcOp | unfold copyOp | unfold copyV2sOp | unfold cpywaitOp | unfold cvjoinOp | unfold cvsetOp | unfold fragOp | unfold gangOp | unfold gtrinvOp | unfold handleOp | unfold handleWait | unfold loadOp | unfold mcbOp | unfold mgangOp | unfold mopfOp | unfold movswOp | unfold mrelOp | unfold nmcOp | unfold nmwaitOp | unfold queueOp | unfold rdvOp | unfold releaseOp | unfold scratchOp | unfold sfuIssue | unfold simple | unfold storeOp | unfold streamOp | unfold transferOp | unfold tretOp)

theorem via_mdrains (g cvt h tile x1 x3 la) (s : State) : Via (.mdrains g cvt h tile x1 x3 la) s := by
  unfold Via; rw [exec_mdrains]; unfold execMdrains; repeat (first | exact .inl ⟨_, rfl⟩ | exact .inr (.inl ⟨_, rfl⟩) | unfold atomsOp | unfold ldsOp | unfold stsOp | unfold sfuUnary | unfold acquireOp | unfold aluA | unfold aluAB | unfold aluABD | unfold aluABDF | unfold aluABF | unfold aluCmp | unfold aluMadw | unfold aluPairs | unfold aluPred | unfold atomicOp | unfold barInstr | unfold barWait | unfold bkptOp | unfold contOp | unfold copyMcOp | unfold copyOp | unfold copyV2sOp | unfold cpywaitOp | unfold cvjoinOp | unfold cvsetOp | unfold fragOp | unfold gangOp | unfold gtrinvOp | unfold handleOp | unfold handleWait | unfold loadOp | unfold mcbOp | unfold mgangOp | unfold mopfOp | unfold movswOp | unfold mrelOp | unfold nmcOp | unfold nmwaitOp | unfold queueOp | unfold rdvOp | unfold releaseOp | unfold scratchOp | unfold sfuIssue | unfold simple | unfold storeOp | unfold streamOp | unfold transferOp | unfold tretOp)

theorem via_mgang (g x2) (s : State) : Via (.mgang g x2) s := by
  unfold Via; rw [exec_mgang]; unfold execMgang; repeat (first | exact .inl ⟨_, rfl⟩ | exact .inr (.inl ⟨_, rfl⟩) | unfold atomsOp | unfold ldsOp | unfold stsOp | unfold sfuUnary | unfold acquireOp | unfold aluA | unfold aluAB | unfold aluABD | unfold aluABDF | unfold aluABF | unfold aluCmp | unfold aluMadw | unfold aluPairs | unfold aluPred | unfold atomicOp | unfold barInstr | unfold barWait | unfold bkptOp | unfold contOp | unfold copyMcOp | unfold copyOp | unfold copyV2sOp | unfold cpywaitOp | unfold cvjoinOp | unfold cvsetOp | unfold fragOp | unfold gangOp | unfold gtrinvOp | unfold handleOp | unfold handleWait | unfold loadOp | unfold mcbOp | unfold mgangOp | unfold mopfOp | unfold movswOp | unfold mrelOp | unfold nmcOp | unfold nmwaitOp | unfold queueOp | unfold rdvOp | unfold releaseOp | unfold scratchOp | unfold sfuIssue | unfold simple | unfold storeOp | unfold streamOp | unfold transferOp | unfold tretOp)

theorem via_mopf (g) (s : State) : Via (.mopf g) s := by
  unfold Via; rw [exec_mopf]; unfold execMopf; repeat (first | exact .inl ⟨_, rfl⟩ | exact .inr (.inl ⟨_, rfl⟩) | unfold atomsOp | unfold ldsOp | unfold stsOp | unfold sfuUnary | unfold acquireOp | unfold aluA | unfold aluAB | unfold aluABD | unfold aluABDF | unfold aluABF | unfold aluCmp | unfold aluMadw | unfold aluPairs | unfold aluPred | unfold atomicOp | unfold barInstr | unfold barWait | unfold bkptOp | unfold contOp | unfold copyMcOp | unfold copyOp | unfold copyV2sOp | unfold cpywaitOp | unfold cvjoinOp | unfold cvsetOp | unfold fragOp | unfold gangOp | unfold gtrinvOp | unfold handleOp | unfold handleWait | unfold loadOp | unfold mcbOp | unfold mgangOp | unfold mopfOp | unfold movswOp | unfold mrelOp | unfold nmcOp | unfold nmwaitOp | unfold queueOp | unfold rdvOp | unfold releaseOp | unfold scratchOp | unfold sfuIssue | unfold simple | unfold storeOp | unfold streamOp | unfold transferOp | unfold tretOp)

theorem via_mwait (g) (s : State) : Via (.mwait g) s := by
  unfold Via; rw [exec_mwait]; unfold execMwait; repeat (first | exact .inl ⟨_, rfl⟩ | exact .inr (.inl ⟨_, rfl⟩) | unfold atomsOp | unfold ldsOp | unfold stsOp | unfold sfuUnary | unfold acquireOp | unfold aluA | unfold aluAB | unfold aluABD | unfold aluABDF | unfold aluABF | unfold aluCmp | unfold aluMadw | unfold aluPairs | unfold aluPred | unfold atomicOp | unfold barInstr | unfold barWait | unfold bkptOp | unfold contOp | unfold copyMcOp | unfold copyOp | unfold copyV2sOp | unfold cpywaitOp | unfold cvjoinOp | unfold cvsetOp | unfold fragOp | unfold gangOp | unfold gtrinvOp | unfold handleOp | unfold handleWait | unfold loadOp | unfold mcbOp | unfold mgangOp | unfold mopfOp | unfold movswOp | unfold mrelOp | unfold nmcOp | unfold nmwaitOp | unfold queueOp | unfold rdvOp | unfold releaseOp | unfold scratchOp | unfold sfuIssue | unfold simple | unfold storeOp | unfold streamOp | unfold transferOp | unfold tretOp)

theorem via_mrel (g) (s : State) : Via (.mrel g) s := by
  unfold Via; rw [exec_mrel]; unfold execMrel; repeat (first | exact .inl ⟨_, rfl⟩ | exact .inr (.inl ⟨_, rfl⟩) | unfold atomsOp | unfold ldsOp | unfold stsOp | unfold sfuUnary | unfold acquireOp | unfold aluA | unfold aluAB | unfold aluABD | unfold aluABDF | unfold aluABF | unfold aluCmp | unfold aluMadw | unfold aluPairs | unfold aluPred | unfold atomicOp | unfold barInstr | unfold barWait | unfold bkptOp | unfold contOp | unfold copyMcOp | unfold copyOp | unfold copyV2sOp | unfold cpywaitOp | unfold cvjoinOp | unfold cvsetOp | unfold fragOp | unfold gangOp | unfold gtrinvOp | unfold handleOp | unfold handleWait | unfold loadOp | unfold mcbOp | unfold mgangOp | unfold mopfOp | unfold movswOp | unfold mrelOp | unfold nmcOp | unfold nmwaitOp | unfold queueOp | unfold rdvOp | unfold releaseOp | unfold scratchOp | unfold sfuIssue | unfold simple | unfold storeOp | unfold streamOp | unfold transferOp | unfold tretOp)

theorem via_mcb (g x2 k) (s : State) : Via (.mcb g x2 k) s := by
  unfold Via; rw [exec_mcb]; unfold execMcb; repeat (first | exact .inl ⟨_, rfl⟩ | exact .inr (.inl ⟨_, rfl⟩) | unfold atomsOp | unfold ldsOp | unfold stsOp | unfold sfuUnary | unfold acquireOp | unfold aluA | unfold aluAB | unfold aluABD | unfold aluABDF | unfold aluABF | unfold aluCmp | unfold aluMadw | unfold aluPairs | unfold aluPred | unfold atomicOp | unfold barInstr | unfold barWait | unfold bkptOp | unfold contOp | unfold copyMcOp | unfold copyOp | unfold copyV2sOp | unfold cpywaitOp | unfold cvjoinOp | unfold cvsetOp | unfold fragOp | unfold gangOp | unfold gtrinvOp | unfold handleOp | unfold handleWait | unfold loadOp | unfold mcbOp | unfold mgangOp | unfold mopfOp | unfold movswOp | unfold mrelOp | unfold nmcOp | unfold nmwaitOp | unfold queueOp | unfold rdvOp | unfold releaseOp | unfold scratchOp | unfold sfuIssue | unfold simple | unfold storeOp | unfold streamOp | unfold transferOp | unfold tretOp)

theorem via_cpyG2s (g h bs x1 x2 x3 la) (s : State) : Via (.cpyG2s g h bs x1 x2 x3 la) s := by
  unfold Via; rw [exec_cpyG2s]; unfold execCpyG2s; repeat (first | exact .inl ⟨_, rfl⟩ | exact .inr (.inl ⟨_, rfl⟩) | unfold atomsOp | unfold ldsOp | unfold stsOp | unfold sfuUnary | unfold acquireOp | unfold aluA | unfold aluAB | unfold aluABD | unfold aluABDF | unfold aluABF | unfold aluCmp | unfold aluMadw | unfold aluPairs | unfold aluPred | unfold atomicOp | unfold barInstr | unfold barWait | unfold bkptOp | unfold contOp | unfold copyMcOp | unfold copyOp | unfold copyV2sOp | unfold cpywaitOp | unfold cvjoinOp | unfold cvsetOp | unfold fragOp | unfold gangOp | unfold gtrinvOp | unfold handleOp | unfold handleWait | unfold loadOp | unfold mcbOp | unfold mgangOp | unfold mopfOp | unfold movswOp | unfold mrelOp | unfold nmcOp | unfold nmwaitOp | unfold queueOp | unfold rdvOp | unfold releaseOp | unfold scratchOp | unfold sfuIssue | unfold simple | unfold storeOp | unfold streamOp | unfold transferOp | unfold tretOp)

theorem via_cpyG2sT8 (g h bs x1 x2 x3 la) (s : State) : Via (.cpyG2sT8 g h bs x1 x2 x3 la) s := by
  unfold Via; rw [exec_cpyG2sT8]; unfold execCpyG2sT8; repeat (first | exact .inl ⟨_, rfl⟩ | exact .inr (.inl ⟨_, rfl⟩) | unfold atomsOp | unfold ldsOp | unfold stsOp | unfold sfuUnary | unfold acquireOp | unfold aluA | unfold aluAB | unfold aluABD | unfold aluABDF | unfold aluABF | unfold aluCmp | unfold aluMadw | unfold aluPairs | unfold aluPred | unfold atomicOp | unfold barInstr | unfold barWait | unfold bkptOp | unfold contOp | unfold copyMcOp | unfold copyOp | unfold copyV2sOp | unfold cpywaitOp | unfold cvjoinOp | unfold cvsetOp | unfold fragOp | unfold gangOp | unfold gtrinvOp | unfold handleOp | unfold handleWait | unfold loadOp | unfold mcbOp | unfold mgangOp | unfold mopfOp | unfold movswOp | unfold mrelOp | unfold nmcOp | unfold nmwaitOp | unfold queueOp | unfold rdvOp | unfold releaseOp | unfold scratchOp | unfold sfuIssue | unfold simple | unfold storeOp | unfold streamOp | unfold transferOp | unfold tretOp)

theorem via_cpyG2sT16 (g h bs x1 x2 x3 la) (s : State) : Via (.cpyG2sT16 g h bs x1 x2 x3 la) s := by
  unfold Via; rw [exec_cpyG2sT16]; unfold execCpyG2sT16; repeat (first | exact .inl ⟨_, rfl⟩ | exact .inr (.inl ⟨_, rfl⟩) | unfold atomsOp | unfold ldsOp | unfold stsOp | unfold sfuUnary | unfold acquireOp | unfold aluA | unfold aluAB | unfold aluABD | unfold aluABDF | unfold aluABF | unfold aluCmp | unfold aluMadw | unfold aluPairs | unfold aluPred | unfold atomicOp | unfold barInstr | unfold barWait | unfold bkptOp | unfold contOp | unfold copyMcOp | unfold copyOp | unfold copyV2sOp | unfold cpywaitOp | unfold cvjoinOp | unfold cvsetOp | unfold fragOp | unfold gangOp | unfold gtrinvOp | unfold handleOp | unfold handleWait | unfold loadOp | unfold mcbOp | unfold mgangOp | unfold mopfOp | unfold movswOp | unfold mrelOp | unfold nmcOp | unfold nmwaitOp | unfold queueOp | unfold rdvOp | unfold releaseOp | unfold scratchOp | unfold sfuIssue | unfold simple | unfold storeOp | unfold streamOp | unfold transferOp | unfold tretOp)

theorem via_cpyS2g (g h bs x1 x2 x3 la) (s : State) : Via (.cpyS2g g h bs x1 x2 x3 la) s := by
  unfold Via; rw [exec_cpyS2g]; unfold execCpyS2g; repeat (first | exact .inl ⟨_, rfl⟩ | exact .inr (.inl ⟨_, rfl⟩) | unfold atomsOp | unfold ldsOp | unfold stsOp | unfold sfuUnary | unfold acquireOp | unfold aluA | unfold aluAB | unfold aluABD | unfold aluABDF | unfold aluABF | unfold aluCmp | unfold aluMadw | unfold aluPairs | unfold aluPred | unfold atomicOp | unfold barInstr | unfold barWait | unfold bkptOp | unfold contOp | unfold copyMcOp | unfold copyOp | unfold copyV2sOp | unfold cpywaitOp | unfold cvjoinOp | unfold cvsetOp | unfold fragOp | unfold gangOp | unfold gtrinvOp | unfold handleOp | unfold handleWait | unfold loadOp | unfold mcbOp | unfold mgangOp | unfold mopfOp | unfold movswOp | unfold mrelOp | unfold nmcOp | unfold nmwaitOp | unfold queueOp | unfold rdvOp | unfold releaseOp | unfold scratchOp | unfold sfuIssue | unfold simple | unfold storeOp | unfold streamOp | unfold transferOp | unfold tretOp)

theorem via_cpyS2ga (g h bs x1 x2 x3 la) (s : State) : Via (.cpyS2ga g h bs x1 x2 x3 la) s := by
  unfold Via; rw [exec_cpyS2ga]; unfold execCpyS2ga; repeat (first | exact .inl ⟨_, rfl⟩ | exact .inr (.inl ⟨_, rfl⟩) | unfold atomsOp | unfold ldsOp | unfold stsOp | unfold sfuUnary | unfold acquireOp | unfold aluA | unfold aluAB | unfold aluABD | unfold aluABDF | unfold aluABF | unfold aluCmp | unfold aluMadw | unfold aluPairs | unfold aluPred | unfold atomicOp | unfold barInstr | unfold barWait | unfold bkptOp | unfold contOp | unfold copyMcOp | unfold copyOp | unfold copyV2sOp | unfold cpywaitOp | unfold cvjoinOp | unfold cvsetOp | unfold fragOp | unfold gangOp | unfold gtrinvOp | unfold handleOp | unfold handleWait | unfold loadOp | unfold mcbOp | unfold mgangOp | unfold mopfOp | unfold movswOp | unfold mrelOp | unfold nmcOp | unfold nmwaitOp | unfold queueOp | unfold rdvOp | unfold releaseOp | unfold scratchOp | unfold sfuIssue | unfold simple | unfold storeOp | unfold streamOp | unfold transferOp | unfold tretOp)

theorem via_cpyG2g (g h bs x1 x2 x3 la) (s : State) : Via (.cpyG2g g h bs x1 x2 x3 la) s := by
  unfold Via; rw [exec_cpyG2g]; unfold execCpyG2g; repeat (first | exact .inl ⟨_, rfl⟩ | exact .inr (.inl ⟨_, rfl⟩) | unfold atomsOp | unfold ldsOp | unfold stsOp | unfold sfuUnary | unfold acquireOp | unfold aluA | unfold aluAB | unfold aluABD | unfold aluABDF | unfold aluABF | unfold aluCmp | unfold aluMadw | unfold aluPairs | unfold aluPred | unfold atomicOp | unfold barInstr | unfold barWait | unfold bkptOp | unfold contOp | unfold copyMcOp | unfold copyOp | unfold copyV2sOp | unfold cpywaitOp | unfold cvjoinOp | unfold cvsetOp | unfold fragOp | unfold gangOp | unfold gtrinvOp | unfold handleOp | unfold handleWait | unfold loadOp | unfold mcbOp | unfold mgangOp | unfold mopfOp | unfold movswOp | unfold mrelOp | unfold nmcOp | unfold nmwaitOp | unfold queueOp | unfold rdvOp | unfold releaseOp | unfold scratchOp | unfold sfuIssue | unfold simple | unfold storeOp | unfold streamOp | unfold transferOp | unfold tretOp)

theorem via_cpyMc (g h bs x1 x2 x3 cmask la) (s : State) : Via (.cpyMc g h bs x1 x2 x3 cmask la) s := by
  unfold Via
  rw [exec_cpyMc]
  unfold execCpyMc copyMcOp need
  cases h : getThread s s.cur with
  | none => exact .inl ⟨fun _ _ => stuck, by simp [issue, need, h]⟩
  | some t =>
    simp only
    split
    · rename_i hb
      simp only [Bool.and_eq_true, beq_iff_eq] at hb
      exact .inr (.inr ⟨t, rfl, hb.1.2, hb.2, rfl⟩)
    · exact .inl ⟨_, rfl⟩

theorem via_cpyS2s (g h x1 x2 x3 la) (s : State) : Via (.cpyS2s g h x1 x2 x3 la) s := by
  unfold Via; rw [exec_cpyS2s]; unfold execCpyS2s; repeat (first | exact .inl ⟨_, rfl⟩ | exact .inr (.inl ⟨_, rfl⟩) | unfold atomsOp | unfold ldsOp | unfold stsOp | unfold sfuUnary | unfold acquireOp | unfold aluA | unfold aluAB | unfold aluABD | unfold aluABDF | unfold aluABF | unfold aluCmp | unfold aluMadw | unfold aluPairs | unfold aluPred | unfold atomicOp | unfold barInstr | unfold barWait | unfold bkptOp | unfold contOp | unfold copyMcOp | unfold copyOp | unfold copyV2sOp | unfold cpywaitOp | unfold cvjoinOp | unfold cvsetOp | unfold fragOp | unfold gangOp | unfold gtrinvOp | unfold handleOp | unfold handleWait | unfold loadOp | unfold mcbOp | unfold mgangOp | unfold mopfOp | unfold movswOp | unfold mrelOp | unfold nmcOp | unfold nmwaitOp | unfold queueOp | unfold rdvOp | unfold releaseOp | unfold scratchOp | unfold sfuIssue | unfold simple | unfold storeOp | unfold streamOp | unfold transferOp | unfold tretOp)

theorem via_cpyV2s (g h bs x1 x2 x3 la) (s : State) : Via (.cpyV2s g h bs x1 x2 x3 la) s := by
  unfold Via; rw [exec_cpyV2s]; unfold execCpyV2s; repeat (first | exact .inl ⟨_, rfl⟩ | exact .inr (.inl ⟨_, rfl⟩) | unfold atomsOp | unfold ldsOp | unfold stsOp | unfold sfuUnary | unfold acquireOp | unfold aluA | unfold aluAB | unfold aluABD | unfold aluABDF | unfold aluABF | unfold aluCmp | unfold aluMadw | unfold aluPairs | unfold aluPred | unfold atomicOp | unfold barInstr | unfold barWait | unfold bkptOp | unfold contOp | unfold copyMcOp | unfold copyOp | unfold copyV2sOp | unfold cpywaitOp | unfold cvjoinOp | unfold cvsetOp | unfold fragOp | unfold gangOp | unfold gtrinvOp | unfold handleOp | unfold handleWait | unfold loadOp | unfold mcbOp | unfold mgangOp | unfold mopfOp | unfold movswOp | unfold mrelOp | unfold nmcOp | unfold nmwaitOp | unfold queueOp | unfold rdvOp | unfold releaseOp | unfold scratchOp | unfold sfuIssue | unfold simple | unfold storeOp | unfold streamOp | unfold transferOp | unfold tretOp)

theorem via_gtrinv (g bs x2) (s : State) : Via (.gtrinv g bs x2) s := by
  unfold Via; rw [exec_gtrinv]; unfold execGtrinv; repeat (first | exact .inl ⟨_, rfl⟩ | exact .inr (.inl ⟨_, rfl⟩) | unfold atomsOp | unfold ldsOp | unfold stsOp | unfold sfuUnary | unfold acquireOp | unfold aluA | unfold aluAB | unfold aluABD | unfold aluABDF | unfold aluABF | unfold aluCmp | unfold aluMadw | unfold aluPairs | unfold aluPred | unfold atomicOp | unfold barInstr | unfold barWait | unfold bkptOp | unfold contOp | unfold copyMcOp | unfold copyOp | unfold copyV2sOp | unfold cpywaitOp | unfold cvjoinOp | unfold cvsetOp | unfold fragOp | unfold gangOp | unfold gtrinvOp | unfold handleOp | unfold handleWait | unfold loadOp | unfold mcbOp | unfold mgangOp | unfold mopfOp | unfold movswOp | unfold mrelOp | unfold nmcOp | unfold nmwaitOp | unfold queueOp | unfold rdvOp | unfold releaseOp | unfold scratchOp | unfold sfuIssue | unfold simple | unfold storeOp | unfold streamOp | unfold transferOp | unfold tretOp)

theorem via_nmc (g bs x1 x2 la) (s : State) : Via (.nmc g bs x1 x2 la) s := by
  unfold Via; rw [exec_nmc]; unfold execNmc; repeat (first | exact .inl ⟨_, rfl⟩ | exact .inr (.inl ⟨_, rfl⟩) | unfold atomsOp | unfold ldsOp | unfold stsOp | unfold sfuUnary | unfold acquireOp | unfold aluA | unfold aluAB | unfold aluABD | unfold aluABDF | unfold aluABF | unfold aluCmp | unfold aluMadw | unfold aluPairs | unfold aluPred | unfold atomicOp | unfold barInstr | unfold barWait | unfold bkptOp | unfold contOp | unfold copyMcOp | unfold copyOp | unfold copyV2sOp | unfold cpywaitOp | unfold cvjoinOp | unfold cvsetOp | unfold fragOp | unfold gangOp | unfold gtrinvOp | unfold handleOp | unfold handleWait | unfold loadOp | unfold mcbOp | unfold mgangOp | unfold mopfOp | unfold movswOp | unfold mrelOp | unfold nmcOp | unfold nmwaitOp | unfold queueOp | unfold rdvOp | unfold releaseOp | unfold scratchOp | unfold sfuIssue | unfold simple | unfold storeOp | unfold streamOp | unfold transferOp | unfold tretOp)

theorem via_nmwait (g) (s : State) : Via (.nmwait g) s := by
  unfold Via; rw [exec_nmwait]; unfold execNmwait; repeat (first | exact .inl ⟨_, rfl⟩ | exact .inr (.inl ⟨_, rfl⟩) | unfold atomsOp | unfold ldsOp | unfold stsOp | unfold sfuUnary | unfold acquireOp | unfold aluA | unfold aluAB | unfold aluABD | unfold aluABDF | unfold aluABF | unfold aluCmp | unfold aluMadw | unfold aluPairs | unfold aluPred | unfold atomicOp | unfold barInstr | unfold barWait | unfold bkptOp | unfold contOp | unfold copyMcOp | unfold copyOp | unfold copyV2sOp | unfold cpywaitOp | unfold cvjoinOp | unfold cvsetOp | unfold fragOp | unfold gangOp | unfold gtrinvOp | unfold handleOp | unfold handleWait | unfold loadOp | unfold mcbOp | unfold mgangOp | unfold mopfOp | unfold movswOp | unfold mrelOp | unfold nmcOp | unfold nmwaitOp | unfold queueOp | unfold rdvOp | unfold releaseOp | unfold scratchOp | unfold sfuIssue | unfold simple | unfold storeOp | unfold streamOp | unfold transferOp | unfold tretOp)

theorem via_cpywait (g) (s : State) : Via (.cpywait g) s := by
  unfold Via; rw [exec_cpywait]; unfold execCpywait; repeat (first | exact .inl ⟨_, rfl⟩ | exact .inr (.inl ⟨_, rfl⟩) | unfold atomsOp | unfold ldsOp | unfold stsOp | unfold sfuUnary | unfold acquireOp | unfold aluA | unfold aluAB | unfold aluABD | unfold aluABDF | unfold aluABF | unfold aluCmp | unfold aluMadw | unfold aluPairs | unfold aluPred | unfold atomicOp | unfold barInstr | unfold barWait | unfold bkptOp | unfold contOp | unfold copyMcOp | unfold copyOp | unfold copyV2sOp | unfold cpywaitOp | unfold cvjoinOp | unfold cvsetOp | unfold fragOp | unfold gangOp | unfold gtrinvOp | unfold handleOp | unfold handleWait | unfold loadOp | unfold mcbOp | unfold mgangOp | unfold mopfOp | unfold movswOp | unfold mrelOp | unfold nmcOp | unfold nmwaitOp | unfold queueOp | unfold rdvOp | unfold releaseOp | unfold scratchOp | unfold sfuIssue | unfold simple | unfold storeOp | unfold streamOp | unfold transferOp | unfold tretOp)

theorem via_pghint (g bs x2 x3) (s : State) : Via (.pghint g bs x2 x3) s := by
  unfold Via; rw [exec_pghint]; unfold execPghint; repeat (first | exact .inl ⟨_, rfl⟩ | exact .inr (.inl ⟨_, rfl⟩) | unfold atomsOp | unfold ldsOp | unfold stsOp | unfold sfuUnary | unfold acquireOp | unfold aluA | unfold aluAB | unfold aluABD | unfold aluABDF | unfold aluABF | unfold aluCmp | unfold aluMadw | unfold aluPairs | unfold aluPred | unfold atomicOp | unfold barInstr | unfold barWait | unfold bkptOp | unfold contOp | unfold copyMcOp | unfold copyOp | unfold copyV2sOp | unfold cpywaitOp | unfold cvjoinOp | unfold cvsetOp | unfold fragOp | unfold gangOp | unfold gtrinvOp | unfold handleOp | unfold handleWait | unfold loadOp | unfold mcbOp | unfold mgangOp | unfold mopfOp | unfold movswOp | unfold mrelOp | unfold nmcOp | unfold nmwaitOp | unfold queueOp | unfold rdvOp | unfold releaseOp | unfold scratchOp | unfold sfuIssue | unfold simple | unfold storeOp | unfold streamOp | unfold transferOp | unfold tretOp)

theorem via_trap (g code) (s : State) : Via (.trap g code) s := by
  unfold Via; rw [exec_trap]; unfold execTrap; repeat (first | exact .inl ⟨_, rfl⟩ | exact .inr (.inl ⟨_, rfl⟩) | unfold atomsOp | unfold ldsOp | unfold stsOp | unfold sfuUnary | unfold acquireOp | unfold aluA | unfold aluAB | unfold aluABD | unfold aluABDF | unfold aluABF | unfold aluCmp | unfold aluMadw | unfold aluPairs | unfold aluPred | unfold atomicOp | unfold barInstr | unfold barWait | unfold bkptOp | unfold contOp | unfold copyMcOp | unfold copyOp | unfold copyV2sOp | unfold cpywaitOp | unfold cvjoinOp | unfold cvsetOp | unfold fragOp | unfold gangOp | unfold gtrinvOp | unfold handleOp | unfold handleWait | unfold loadOp | unfold mcbOp | unfold mgangOp | unfold mopfOp | unfold movswOp | unfold mrelOp | unfold nmcOp | unfold nmwaitOp | unfold queueOp | unfold rdvOp | unfold releaseOp | unfold scratchOp | unfold sfuIssue | unfold simple | unfold storeOp | unfold streamOp | unfold transferOp | unfold tretOp)

theorem via_bkpt (g code) (s : State) : Via (.bkpt g code) s := by
  unfold Via; rw [exec_bkpt]; unfold execBkpt; repeat (first | exact .inl ⟨_, rfl⟩ | exact .inr (.inl ⟨_, rfl⟩) | unfold atomsOp | unfold ldsOp | unfold stsOp | unfold sfuUnary | unfold acquireOp | unfold aluA | unfold aluAB | unfold aluABD | unfold aluABDF | unfold aluABF | unfold aluCmp | unfold aluMadw | unfold aluPairs | unfold aluPred | unfold atomicOp | unfold barInstr | unfold barWait | unfold bkptOp | unfold contOp | unfold copyMcOp | unfold copyOp | unfold copyV2sOp | unfold cpywaitOp | unfold cvjoinOp | unfold cvsetOp | unfold fragOp | unfold gangOp | unfold gtrinvOp | unfold handleOp | unfold handleWait | unfold loadOp | unfold mcbOp | unfold mgangOp | unfold mopfOp | unfold movswOp | unfold mrelOp | unfold nmcOp | unfold nmwaitOp | unfold queueOp | unfold rdvOp | unfold releaseOp | unfold scratchOp | unfold sfuIssue | unfold simple | unfold storeOp | unfold streamOp | unfold transferOp | unfold tretOp)

theorem via_tretRetry (g) (s : State) : Via (.tretRetry g) s := by
  unfold Via; rw [exec_tretRetry]; unfold execTretRetry; repeat (first | exact .inl ⟨_, rfl⟩ | exact .inr (.inl ⟨_, rfl⟩) | unfold atomsOp | unfold ldsOp | unfold stsOp | unfold sfuUnary | unfold acquireOp | unfold aluA | unfold aluAB | unfold aluABD | unfold aluABDF | unfold aluABF | unfold aluCmp | unfold aluMadw | unfold aluPairs | unfold aluPred | unfold atomicOp | unfold barInstr | unfold barWait | unfold bkptOp | unfold contOp | unfold copyMcOp | unfold copyOp | unfold copyV2sOp | unfold cpywaitOp | unfold cvjoinOp | unfold cvsetOp | unfold fragOp | unfold gangOp | unfold gtrinvOp | unfold handleOp | unfold handleWait | unfold loadOp | unfold mcbOp | unfold mgangOp | unfold mopfOp | unfold movswOp | unfold mrelOp | unfold nmcOp | unfold nmwaitOp | unfold queueOp | unfold rdvOp | unfold releaseOp | unfold scratchOp | unfold sfuIssue | unfold simple | unfold storeOp | unfold streamOp | unfold transferOp | unfold tretOp)

theorem via_tretSkip (g) (s : State) : Via (.tretSkip g) s := by
  unfold Via; rw [exec_tretSkip]; unfold execTretSkip; repeat (first | exact .inl ⟨_, rfl⟩ | exact .inr (.inl ⟨_, rfl⟩) | unfold atomsOp | unfold ldsOp | unfold stsOp | unfold sfuUnary | unfold acquireOp | unfold aluA | unfold aluAB | unfold aluABD | unfold aluABDF | unfold aluABF | unfold aluCmp | unfold aluMadw | unfold aluPairs | unfold aluPred | unfold atomicOp | unfold barInstr | unfold barWait | unfold bkptOp | unfold contOp | unfold copyMcOp | unfold copyOp | unfold copyV2sOp | unfold cpywaitOp | unfold cvjoinOp | unfold cvsetOp | unfold fragOp | unfold gangOp | unfold gtrinvOp | unfold handleOp | unfold handleWait | unfold loadOp | unfold mcbOp | unfold mgangOp | unfold mopfOp | unfold movswOp | unfold mrelOp | unfold nmcOp | unfold nmwaitOp | unfold queueOp | unfold rdvOp | unfold releaseOp | unfold scratchOp | unfold sfuIssue | unfold simple | unfold storeOp | unfold streamOp | unfold transferOp | unfold tretOp)

theorem via_clock (g d) (s : State) : Via (.clock g d) s := by
  unfold Via; rw [exec_clock]; unfold execClock; repeat (first | exact .inl ⟨_, rfl⟩ | exact .inr (.inl ⟨_, rfl⟩) | unfold atomsOp | unfold ldsOp | unfold stsOp | unfold sfuUnary | unfold acquireOp | unfold aluA | unfold aluAB | unfold aluABD | unfold aluABDF | unfold aluABF | unfold aluCmp | unfold aluMadw | unfold aluPairs | unfold aluPred | unfold atomicOp | unfold barInstr | unfold barWait | unfold bkptOp | unfold contOp | unfold copyMcOp | unfold copyOp | unfold copyV2sOp | unfold cpywaitOp | unfold cvjoinOp | unfold cvsetOp | unfold fragOp | unfold gangOp | unfold gtrinvOp | unfold handleOp | unfold handleWait | unfold loadOp | unfold mcbOp | unfold mgangOp | unfold mopfOp | unfold movswOp | unfold mrelOp | unfold nmcOp | unfold nmwaitOp | unfold queueOp | unfold rdvOp | unfold releaseOp | unfold scratchOp | unfold sfuIssue | unfold simple | unfold storeOp | unfold streamOp | unfold transferOp | unfold tretOp)

theorem via_gtime (g d) (s : State) : Via (.gtime g d) s := by
  unfold Via; rw [exec_gtime]; unfold execGtime; repeat (first | exact .inl ⟨_, rfl⟩ | exact .inr (.inl ⟨_, rfl⟩) | unfold atomsOp | unfold ldsOp | unfold stsOp | unfold sfuUnary | unfold acquireOp | unfold aluA | unfold aluAB | unfold aluABD | unfold aluABDF | unfold aluABF | unfold aluCmp | unfold aluMadw | unfold aluPairs | unfold aluPred | unfold atomicOp | unfold barInstr | unfold barWait | unfold bkptOp | unfold contOp | unfold copyMcOp | unfold copyOp | unfold copyV2sOp | unfold cpywaitOp | unfold cvjoinOp | unfold cvsetOp | unfold fragOp | unfold gangOp | unfold gtrinvOp | unfold handleOp | unfold handleWait | unfold loadOp | unfold mcbOp | unfold mgangOp | unfold mopfOp | unfold movswOp | unfold mrelOp | unfold nmcOp | unfold nmwaitOp | unfold queueOp | unfold rdvOp | unfold releaseOp | unfold scratchOp | unfold sfuIssue | unfold simple | unfold storeOp | unfold streamOp | unfold transferOp | unfold tretOp)

theorem via_trace (g a ch) (s : State) : Via (.trace g a ch) s := by
  unfold Via; rw [exec_trace]; unfold execTrace; repeat (first | exact .inl ⟨_, rfl⟩ | exact .inr (.inl ⟨_, rfl⟩) | unfold atomsOp | unfold ldsOp | unfold stsOp | unfold sfuUnary | unfold acquireOp | unfold aluA | unfold aluAB | unfold aluABD | unfold aluABDF | unfold aluABF | unfold aluCmp | unfold aluMadw | unfold aluPairs | unfold aluPred | unfold atomicOp | unfold barInstr | unfold barWait | unfold bkptOp | unfold contOp | unfold copyMcOp | unfold copyOp | unfold copyV2sOp | unfold cpywaitOp | unfold cvjoinOp | unfold cvsetOp | unfold fragOp | unfold gangOp | unfold gtrinvOp | unfold handleOp | unfold handleWait | unfold loadOp | unfold mcbOp | unfold mgangOp | unfold mopfOp | unfold movswOp | unfold mrelOp | unfold nmcOp | unfold nmwaitOp | unfold queueOp | unfold rdvOp | unfold releaseOp | unfold scratchOp | unfold sfuIssue | unfold simple | unfold storeOp | unfold streamOp | unfold transferOp | unfold tretOp)

theorem via_flags (g d mask) (s : State) : Via (.flags g d mask) s := by
  unfold Via; rw [exec_flags]; unfold execFlags; repeat (first | exact .inl ⟨_, rfl⟩ | exact .inr (.inl ⟨_, rfl⟩) | unfold atomsOp | unfold ldsOp | unfold stsOp | unfold sfuUnary | unfold acquireOp | unfold aluA | unfold aluAB | unfold aluABD | unfold aluABDF | unfold aluABF | unfold aluCmp | unfold aluMadw | unfold aluPairs | unfold aluPred | unfold atomicOp | unfold barInstr | unfold barWait | unfold bkptOp | unfold contOp | unfold copyMcOp | unfold copyOp | unfold copyV2sOp | unfold cpywaitOp | unfold cvjoinOp | unfold cvsetOp | unfold fragOp | unfold gangOp | unfold gtrinvOp | unfold handleOp | unfold handleWait | unfold loadOp | unfold mcbOp | unfold mgangOp | unfold mopfOp | unfold movswOp | unfold mrelOp | unfold nmcOp | unfold nmwaitOp | unfold queueOp | unfold rdvOp | unfold releaseOp | unfold scratchOp | unfold sfuIssue | unfold simple | unfold storeOp | unfold streamOp | unfold transferOp | unfold tretOp)

theorem via_icinv (g) (s : State) : Via (.icinv g) s := by
  unfold Via; rw [exec_icinv]; unfold execIcinv; repeat (first | exact .inl ⟨_, rfl⟩ | exact .inr (.inl ⟨_, rfl⟩) | unfold atomsOp | unfold ldsOp | unfold stsOp | unfold sfuUnary | unfold acquireOp | unfold aluA | unfold aluAB | unfold aluABD | unfold aluABDF | unfold aluABF | unfold aluCmp | unfold aluMadw | unfold aluPairs | unfold aluPred | unfold atomicOp | unfold barInstr | unfold barWait | unfold bkptOp | unfold contOp | unfold copyMcOp | unfold copyOp | unfold copyV2sOp | unfold cpywaitOp | unfold cvjoinOp | unfold cvsetOp | unfold fragOp | unfold gangOp | unfold gtrinvOp | unfold handleOp | unfold handleWait | unfold loadOp | unfold mcbOp | unfold mgangOp | unfold mopfOp | unfold movswOp | unfold mrelOp | unfold nmcOp | unfold nmwaitOp | unfold queueOp | unfold rdvOp | unfold releaseOp | unfold scratchOp | unfold sfuIssue | unfold simple | unfold storeOp | unfold streamOp | unfold transferOp | unfold tretOp)

/-- Every instruction of a thread goes through issue or poll. -/
theorem via (i : Instr) (s : State) (hc : (classOf i).isSome = true) : Via i s := by
  cases i with
  | add g u d a b => exact via_add g u d a b s
  | sub g u d a b => exact via_sub g u d a b s
  | mul g u d a b => exact via_mul g u d a b s
  | mulhI32 g u d a b => exact via_mulhI32 g u d a b s
  | mulhN32 g u d a b => exact via_mulhN32 g u d a b s
  | mad g u d a b => exact via_mad g u d a b s
  | madwI32 g u d a b => exact via_madwI32 g u d a b s
  | madwN32 g u d a b => exact via_madwN32 g u d a b s
  | add64 g u d a b => exact via_add64 g u d a b s
  | sub64 g u d a b => exact via_sub64 g u d a b s
  | addsI32 g u d a b => exact via_addsI32 g u d a b s
  | subsI32 g u d a b => exact via_subsI32 g u d a b s
  | minI32 g u d a b => exact via_minI32 g u d a b s
  | maxI32 g u d a b => exact via_maxI32 g u d a b s
  | minN32 g u d a b => exact via_minN32 g u d a b s
  | maxN32 g u d a b => exact via_maxN32 g u d a b s
  | and g u d a b => exact via_and g u d a b s
  | or g u d a b => exact via_or g u d a b s
  | xor g u d a b => exact via_xor g u d a b s
  | andn g u d a b => exact via_andn g u d a b s
  | shl g u d a b => exact via_shl g u d a b s
  | shr g u d a b => exact via_shr g u d a b s
  | sar g u d a b => exact via_sar g u d a b s
  | popc g u d a => exact via_popc g u d a s
  | clz g u d a => exact via_clz g u d a s
  | brev g u d a => exact via_brev g u d a s
  | bfeN32 g u d a b => exact via_bfeN32 g u d a b s
  | bfeI32 g u d a b => exact via_bfeI32 g u d a b s
  | bfi g u d a b => exact via_bfi g u d a b s
  | permb g u d a b => exact via_permb g u d a b s
  | dot4I8 g u d a b => exact via_dot4I8 g u d a b s
  | dot4N8 g u d a b => exact via_dot4N8 g u d a b s
  | setpEq g u d a b => exact via_setpEq g u d a b s
  | setpNe g u d a b => exact via_setpNe g u d a b s
  | setpLtI32 g u d a b => exact via_setpLtI32 g u d a b s
  | setpLeI32 g u d a b => exact via_setpLeI32 g u d a b s
  | setpLtN32 g u d a b => exact via_setpLtN32 g u d a b s
  | setpLeN32 g u d a b => exact via_setpLeN32 g u d a b s
  | setpEqF32 g u d a b => exact via_setpEqF32 g u d a b s
  | setpNeF32 g u d a b => exact via_setpNeF32 g u d a b s
  | setpLtF32 g u d a b => exact via_setpLtF32 g u d a b s
  | setpLeF32 g u d a b => exact via_setpLeF32 g u d a b s
  | setpUnF32 g u d a b => exact via_setpUnF32 g u d a b s
  | sel g u d a b => exact via_sel g u d a b s
  | pand g u d a b => exact via_pand g u d a b s
  | por g u d a b => exact via_por g u d a b s
  | pxor g u d a b => exact via_pxor g u d a b s
  | pandn g u d a b => exact via_pandn g u d a b s
  | ppack g u d a => exact via_ppack g u d a s
  | punpack g u d a => exact via_punpack g u d a s
  | mov g u d a => exact via_mov g u d a s
  | movi g u d imm => exact via_movi g u d imm s
  | moviLiteral g u d w => exact via_moviLiteral g u d w s
  | fadd g u d a b => exact via_fadd g u d a b s
  | fsub g u d a b => exact via_fsub g u d a b s
  | fmul g u d a b => exact via_fmul g u d a b s
  | ffma g u d a b => exact via_ffma g u d a b s
  | fmin g u d a b => exact via_fmin g u d a b s
  | fmax g u d a b => exact via_fmax g u d a b s
  | hfma2 g u d a b => exact via_hfma2 g u d a b s
  | hadd2 g u d a b => exact via_hadd2 g u d a b s
  | hmul2 g u d a b => exact via_hmul2 g u d a b s
  | bfma2 g u d a b => exact via_bfma2 g u d a b s
  | movs g u d sr => exact via_movs g u d sr s
  | movsw g u d sr => exact via_movsw g u d sr s
  | cvtF32I32 g u d a la => exact via_cvtF32I32 g u d a la s
  | cvtF32N32 g u d a la => exact via_cvtF32N32 g u d a la s
  | cvtI32F32 g u d a la => exact via_cvtI32F32 g u d a la s
  | cvtN32F32 g u d a la => exact via_cvtN32F32 g u d a la s
  | cvtF16F32 g u d a la => exact via_cvtF16F32 g u d a la s
  | cvtBf16F32 g u d a la => exact via_cvtBf16F32 g u d a la s
  | cvtE4m3F32 g u d a la => exact via_cvtE4m3F32 g u d a la s
  | cvtE5m2F32 g u d a la => exact via_cvtE5m2F32 g u d a la s
  | cvtF32F16 g u d a la sel => exact via_cvtF32F16 g u d a la sel s
  | cvtF32Bf16 g u d a la sel => exact via_cvtF32Bf16 g u d a la sel s
  | cvtF32E4m3 g u d a la sel => exact via_cvtF32E4m3 g u d a la sel s
  | cvtF32E5m2 g u d a la sel => exact via_cvtF32E5m2 g u d a la sel s
  | unpk8Cb4 g u d a la sel => exact via_unpk8Cb4 g u d a la sel s
  | qntCb4 g u d a la sel => exact via_qntCb4 g u d a la sel s
  | pk4E4m3 g u d a la => exact via_pk4E4m3 g u d a la s
  | pk4E5m2 g u d a la => exact via_pk4E5m2 g u d a la s
  | unpk4E4m3 g u d a la => exact via_unpk4E4m3 g u d a la s
  | unpk4E5m2 g u d a la => exact via_unpk4E5m2 g u d a la s
  | pk2Bf16 g u d a la => exact via_pk2Bf16 g u d a la s
  | pk2F16 g u d a la => exact via_pk2F16 g u d a la s
  | rcpF32 g u d a la => exact via_rcpF32 g u d a la s
  | rsqF32 g u d a la => exact via_rsqF32 g u d a la s
  | sqrtF32 g u d a la => exact via_sqrtF32 g u d a la s
  | divF32 g u d a la => exact via_divF32 g u d a la s
  | exp2F32 g u d a la => exact via_exp2F32 g u d a la s
  | log2F32 g u d a la => exact via_log2F32 g u d a la s
  | sintF32 g u d a la => exact via_sintF32 g u d a la s
  | costF32 g u d a la => exact via_costF32 g u d a la s
  | tanhF32 g u d a la => exact via_tanhF32 g u d a la s
  | sigmF32 g u d a la => exact via_sigmF32 g u d a la s
  | floorF32 g u d a la => exact via_floorF32 g u d a la s
  | ceilF32 g u d a la => exact via_ceilF32 g u d a la s
  | truncF32 g u d a la => exact via_truncF32 g u d a la s
  | rintF32 g u d a la => exact via_rintF32 g u d a la s
  | classF32 g u d a la => exact via_classF32 g u d a la s
  | wadd g u d a la => exact via_wadd g u d a la s
  | wrnd g u d a la => exact via_wrnd g u d a la s
  | wclr g u d la => exact via_wclr g u d la s
  | cvtF32I8 g u d a la sel => exact via_cvtF32I8 g u d a la sel s
  | cvtI8F32 g u d a la => exact via_cvtI8F32 g u d a la s
  | ldN8 g u d a la bs off => exact via_ldN8 g u d a la bs off s
  | ldI8 g u d a la bs off => exact via_ldI8 g u d a la bs off s
  | ldN16 g u d a la bs off => exact via_ldN16 g u d a la bs off s
  | ldI16 g u d a la bs off => exact via_ldI16 g u d a la bs off s
  | ldW g u d a la bs off => exact via_ldW g u d a la bs off s
  | ldD g u d a la bs off => exact via_ldD g u d a la bs off s
  | ldQ g u d a la bs off => exact via_ldQ g u d a la bs off s
  | ldO g u d a la bs off => exact via_ldO g u d a la bs off s
  | stB g d a la bs off => exact via_stB g d a la bs off s
  | stH g d a la bs off => exact via_stH g d a la bs off s
  | stW g d a la bs off => exact via_stW g d a la bs off s
  | stD g d a la bs off => exact via_stD g d a la bs off s
  | stQ g d a la bs off => exact via_stQ g d a la bs off s
  | stO g d a la bs off => exact via_stO g d a la bs off s
  | ldaW g u d a la bs o => exact via_ldaW g u d a la bs o s
  | ldaD g u d a la bs o => exact via_ldaD g u d a la bs o s
  | ldapW g u d a la bs o => exact via_ldapW g u d a la bs o s
  | stlW g d a la bs o => exact via_stlW g d a la bs o s
  | stlD g d a la bs o => exact via_stlD g d a la bs o s
  | ldcW g u d a la bs off => exact via_ldcW g u d a la bs off s
  | ldcD g u d a la bs off => exact via_ldcD g u d a la bs off s
  | ldvW g u d a la bs off => exact via_ldvW g u d a la bs off s
  | ldvD g u d a la bs off => exact via_ldvD g u d a la bs off s
  | ldvQ g u d a la bs off => exact via_ldvQ g u d a la bs off s
  | ldvO g u d a la bs off => exact via_ldvO g u d a la bs off s
  | ldsW g u d a la off => exact via_ldsW g u d a la off s
  | ldsD g u d a la off => exact via_ldsD g u d a la off s
  | ldsQ g u d a la off => exact via_ldsQ g u d a la off s
  | ldsO g u d a la off => exact via_ldsO g u d a la off s
  | stsW g d a la off => exact via_stsW g d a la off s
  | stsD g d a la off => exact via_stsD g d a la off s
  | stsQ g d a la off => exact via_stsQ g d a la off s
  | stsO g d a la off => exact via_stsO g d a la off s
  | ldfragN g u d a la off => exact via_ldfragN g u d a la off s
  | ldfragT8 g u d a la off => exact via_ldfragT8 g u d a la off s
  | ldfragT16 g u d a la off => exact via_ldfragT16 g u d a la off s
  | atomAdd g d a la bs off => exact via_atomAdd g d a la bs off s
  | atomMinI32 g d a la bs off => exact via_atomMinI32 g d a la bs off s
  | atomMaxI32 g d a la bs off => exact via_atomMaxI32 g d a la bs off s
  | atomMinN32 g d a la bs off => exact via_atomMinN32 g d a la bs off s
  | atomMaxN32 g d a la bs off => exact via_atomMaxN32 g d a la bs off s
  | atomAnd g d a la bs off => exact via_atomAnd g d a la bs off s
  | atomOr g d a la bs off => exact via_atomOr g d a la bs off s
  | atomXor g d a la bs off => exact via_atomXor g d a la bs off s
  | atomXchg g d a la bs off => exact via_atomXchg g d a la bs off s
  | atomCas g d a la bs off => exact via_atomCas g d a la bs off s
  | atomIncw g d a la bs off => exact via_atomIncw g d a la bs off s
  | atomAdd64 g d a la bs off => exact via_atomAdd64 g d a la bs off s
  | atomCas64 g d a la bs off => exact via_atomCas64 g d a la bs off s
  | atomFadd g d a la bs off => exact via_atomFadd g d a la bs off s
  | atomWrd g d a la bs off => exact via_atomWrd g d a la bs off s
  | redAdd g d a la bs off => exact via_redAdd g d a la bs off s
  | redFadd g d a la bs off => exact via_redFadd g d a la bs off s
  | redWadd g d a la bs off => exact via_redWadd g d a la bs off s
  | redMaxI32 g d a la bs off => exact via_redMaxI32 g d a la bs off s
  | atomsAdd g d a la off => exact via_atomsAdd g d a la off s
  | atomsCas g d a la off => exact via_atomsCas g d a la off s
  | atomsMaxN32 g d a la off => exact via_atomsMaxN32 g d a la off s
  | atomsXchg g d a la off => exact via_atomsXchg g d a la off s
  | setb g a la bs => exact via_setb g a la bs s
  | getb g d la bs => exact via_getb g d la bs s
  | bra g ofs => exact via_bra g ofs s
  | brx g a => exact via_brx g a s
  | call g d ofs => exact via_call g d ofs s
  | callx g d a => exact via_callx g d a s
  | ret g a => exact via_ret g a s
  | exit g => exact via_exit g s
  | setm g ofs => exact via_setm g ofs s
  | setmx g a => exact via_setmx g a s
  | clrm g => exact via_clrm g s
  | yield g c => exact via_yield g c s
  | nap g c => exact via_nap g c s
  | wake g a => exact via_wake g a s
  | rdv g m => exact via_rdv g m s
  | shflIdx g d a m n => exact via_shflIdx g d a m n s
  | shflXor g d a m n => exact via_shflXor g d a m n s
  | shflUp g d a m n => exact via_shflUp g d a m n s
  | shflDn g d a m n => exact via_shflDn g d a m n s
  | voteAll g d a m => exact via_voteAll g d a m s
  | voteAny g d a m => exact via_voteAny g d a m s
  | voteBal g d a m => exact via_voteBal g d a m s
  | matchAny g d a m => exact via_matchAny g d a m s
  | matchAll g d a m => exact via_matchAll g d a m s
  | redxAddI32 g d a m => exact via_redxAddI32 g d a m s
  | redxMinI32 g d a m => exact via_redxMinI32 g d a m s
  | redxMaxI32 g d a m => exact via_redxMaxI32 g d a m s
  | redxMinN32 g d a m => exact via_redxMinN32 g d a m s
  | redxMaxN32 g d a m => exact via_redxMaxN32 g d a m s
  | redxAnd g d a m => exact via_redxAnd g d a m s
  | redxOr g d a m => exact via_redxOr g d a m s
  | redxXor g d a m => exact via_redxXor g d a m s
  | redxFadd g d a m => exact via_redxFadd g d a m s
  | redxFmin g d a m => exact via_redxFmin g d a m s
  | redxFmax g d a m => exact via_redxFmax g d a m s
  | scanxAddI32 g d a m => exact via_scanxAddI32 g d a m s
  | scanxFadd g d a m => exact via_scanxFadd g d a m s
  | tbarSync g bar => exact via_tbarSync g bar s
  | tbarArv g bar => exact via_tbarArv g bar s
  | tbarWait g bar => exact via_tbarWait g bar s
  | tbarRed g d a sub bar hi => exact via_tbarRed g d a sub bar hi s
  | gbarSync g bar => exact via_gbarSync g bar s
  | gbarArv g bar => exact via_gbarArv g bar s
  | gbarWait g bar => exact via_gbarWait g bar s
  | gbarRed g d a sub bar hi => exact via_gbarRed g d a sub bar hi s
  | fence g sc => exact via_fence g sc s
  | scopeof g d a kind => exact via_scopeof g d a kind s
  | hwaitF g h ph => exact via_hwaitF g h ph s
  | hwaitE g h => exact via_hwaitE g h s
  | hsetFill g h => exact via_hsetFill g h s
  | hsetFull g h => exact via_hsetFull g h s
  | hsetDrain g h => exact via_hsetDrain g h s
  | hsetFree g h => exact via_hsetFree g h s
  | harm g h c => exact via_harm g h c s
  | cont g h w => exact via_cont g h w s
  | qpush g d q => exact via_qpush g d q s
  | qpushD g d q => exact via_qpushD g d q s
  | qpop g d q => exact via_qpop g d q s
  | qlen g d q => exact via_qlen g d q s
  | qpushNb g d q p => exact via_qpushNb g d q p s
  | qpopNb g d q p => exact via_qpopNb g d q p s
  | cvjoin g a b => exact via_cvjoin g a b s
  | cvleave g => exact via_cvleave g s
  | cvsetSl g a => exact via_cvsetSl g a s
  | cvsetLt g a => exact via_cvsetLt g a s
  | mmaE4e4 g x1 x2 x3 tile sb keep la => exact via_mmaE4e4 g x1 x2 x3 tile sb keep la s
  | mmaE4e5 g x1 x2 x3 tile sb keep la => exact via_mmaE4e5 g x1 x2 x3 tile sb keep la s
  | mmaE5e4 g x1 x2 x3 tile sb keep la => exact via_mmaE5e4 g x1 x2 x3 tile sb keep la s
  | mmaE5e5 g x1 x2 x3 tile sb keep la => exact via_mmaE5e5 g x1 x2 x3 tile sb keep la s
  | mmaCb4 g x1 x2 x3 tile sb keep k la => exact via_mmaCb4 g x1 x2 x3 tile sb keep k la s
  | mmaBf16 g x1 x2 tile keep la => exact via_mmaBf16 g x1 x2 tile keep la s
  | mmaF16 g x1 x2 tile keep la => exact via_mmaF16 g x1 x2 tile keep la s
  | mmaI8 g x1 x2 tile keep la => exact via_mmaI8 g x1 x2 tile keep la s
  | mzero g tile => exact via_mzero g tile s
  | mload g afmt x1 x3 sb k la => exact via_mload g afmt x1 x3 sb k la s
  | mdrain g cvt h tile bs x2 x3 la => exact via_mdrain g cvt h tile bs x2 x3 la s
  | mdraina g h tile bs x2 x3 la => exact via_mdraina g h tile bs x2 x3 la s
  | mdrains g cvt h tile x1 x3 la => exact via_mdrains g cvt h tile x1 x3 la s
  | mgang g x2 => exact via_mgang g x2 s
  | mopf g => exact via_mopf g s
  | mwait g => exact via_mwait g s
  | mrel g => exact via_mrel g s
  | mcb g x2 k => exact via_mcb g x2 k s
  | cpyG2s g h bs x1 x2 x3 la => exact via_cpyG2s g h bs x1 x2 x3 la s
  | cpyG2sT8 g h bs x1 x2 x3 la => exact via_cpyG2sT8 g h bs x1 x2 x3 la s
  | cpyG2sT16 g h bs x1 x2 x3 la => exact via_cpyG2sT16 g h bs x1 x2 x3 la s
  | cpyS2g g h bs x1 x2 x3 la => exact via_cpyS2g g h bs x1 x2 x3 la s
  | cpyS2ga g h bs x1 x2 x3 la => exact via_cpyS2ga g h bs x1 x2 x3 la s
  | cpyG2g g h bs x1 x2 x3 la => exact via_cpyG2g g h bs x1 x2 x3 la s
  | cpyMc g h bs x1 x2 x3 cmask la => exact via_cpyMc g h bs x1 x2 x3 cmask la s
  | cpyS2s g h x1 x2 x3 la => exact via_cpyS2s g h x1 x2 x3 la s
  | cpyV2s g h bs x1 x2 x3 la => exact via_cpyV2s g h bs x1 x2 x3 la s
  | gtrinv g bs x2 => exact via_gtrinv g bs x2 s
  | nmc g bs x1 x2 la => exact via_nmc g bs x1 x2 la s
  | nmwait g => exact via_nmwait g s
  | cpywait g => exact via_cpywait g s
  | pghint g bs x2 x3 => exact via_pghint g bs x2 x3 s
  | trap g code => exact via_trap g code s
  | bkpt g code => exact via_bkpt g code s
  | tretRetry g => exact via_tretRetry g s
  | tretSkip g => exact via_tretSkip g s
  | clock g d => exact via_clock g d s
  | gtime g d => exact via_gtime g d s
  | trace g a ch => exact via_trace g a ch s
  | flags g d mask => exact via_flags g d mask s
  | icinv g => exact via_icinv g s
  | meetHoldTimeout t => exact absurd hc (by simp [classOf])
  | starvationOverride core lg => exact absurd hc (by simp [classOf])
  | yieldExpiry t => exact absurd hc (by simp [classOf])
  | breakpointHit t => exact absurd hc (by simp [classOf])
  | loadReturn r => exact absurd hc (by simp [classOf])
  | storeQueueDrain core lg => exact absurd hc (by simp [classOf])
  | straitRead r => exact absurd hc (by simp [classOf])
  | straitWrite q => exact absurd hc (by simp [classOf])
  | straitReply e => exact absurd hc (by simp [classOf])
  | atomicService q => exact absurd hc (by simp [classOf])
  | promote r core => exact absurd hc (by simp [classOf])
  | sfuResult w => exact absurd hc (by simp [classOf])
  | barrierArrivalCounted t bar grid => exact absurd hc (by simp [classOf])
  | slewResume gr bar => exact absurd hc (by simp [classOf])
  | matrixEngineOperation core old => exact absurd hc (by simp [classOf])
  | copyAccept c => exact absurd hc (by simp [classOf])
  | copyPartWritten c dst lo hi => exact absurd hc (by simp [classOf])
  | copyFinish c => exact absurd hc (by simp [classOf])
  | contSpawn team k lg depth lane => exact absurd hc (by simp [classOf])
  | nmcSend n => exact absurd hc (by simp [classOf])
  | nmStep n => exact absurd hc (by simp [classOf])
  | pageWalk core page => exact absurd hc (by simp [classOf])
  | pageServiced page adr rot => exact absurd hc (by simp [classOf])
  | pageRefused page => exact absurd hc (by simp [classOf])
  | pageMigration page rot => exact absurd hc (by simp [classOf])
  | tierMigration page inward adr => exact absurd hc (by simp [classOf])
  | queuePerform q t => exact absurd hc (by simp [classOf])
  | trapEntry t => exact absurd hc (by simp [classOf])
  | teamComplete team => exact absurd hc (by simp [classOf])
  | gridComplete gr => exact absurd hc (by simp [classOf])
  | containment w => exact absurd hc (by simp [classOf])
  | scrubPass w => exact absurd hc (by simp [classOf])
  | gridPacket q layers => exact absurd hc (by simp [classOf])
  | waitPacket q => exact absurd hc (by simp [classOf])
  | waitPoll q => exact absurd hc (by simp [classOf])
  | kickPacket q => exact absurd hc (by simp [classOf])
  | teamAdmission gr team cores => exact absurd hc (by simp [classOf])
  | reserving gr team layer => exact absurd hc (by simp [classOf])
  | preemption gr team victim => exact absurd hc (by simp [classOf])
  | restore gr team cores => exact absurd hc (by simp [classOf])
  | stealRequest part thief => exact absurd hc (by simp [classOf])
  | classify gr => exact absurd hc (by simp [classOf])
  | thermalMove part team cores => exact absurd hc (by simp [classOf])
  | powerControl layer watts temp => exact absurd hc (by simp [classOf])
  | operatingPointChange reg => exact absurd hc (by simp [classOf])
  | convoyLapse c => exact absurd hc (by simp [classOf])
  | graphReplayStart k => exact absurd hc (by simp [classOf])
  | graphNodeFinish r n => exact absurd hc (by simp [classOf])
  | kick part val wide => exact absurd hc (by simp [classOf])
  | kstatWrite part val => exact absurd hc (by simp [classOf])
  | partWrite n val => exact absurd hc (by simp [classOf])
  | regselWrite val => exact absurd hc (by simp [classOf])
  | lbudgetWrite n val => exact absurd hc (by simp [classOf])
  | deverrWrite val => exact absurd hc (by simp [classOf])
  | registerWrite dvsec off val => exact absurd hc (by simp [classOf])
  | moduleReset  => exact absurd hc (by simp [classOf])
  | go inp => exact absurd hc (by simp [classOf])
  | attgo  => exact absurd hc (by simp [classOf])
  | attestationReportDone  => exact absurd hc (by simp [classOf])
  | hostQueuePush q line => exact absurd hc (by simp [classOf])
  | hostQueuePop q => exact absurd hc (by simp [classOf])
  | hostQueueStatus q => exact absurd hc (by simp [classOf])
  | hostMemAccess acc => exact absurd hc (by simp [classOf])
  | bufinv q => exact absurd hc (by simp [classOf])
  | xlatinv q => exact absurd hc (by simp [classOf])
  | ownrec q => exact absurd hc (by simp [classOf])
  | qdesc q => exact absurd hc (by simp [classOf])
  | cadload q => exact absurd hc (by simp [classOf])
  | cadswitch q => exact absurd hc (by simp [classOf])
  | caddrop q => exact absurd hc (by simp [classOf])
  | fmreload q => exact absurd hc (by simp [classOf])
  | fmreply q => exact absurd hc (by simp [classOf])
  | manageUnknown q => exact absurd hc (by simp [classOf])
  | fmTimeout fn seqNo => exact absurd hc (by simp [classOf])
  | debugConfigWrite part line ws => exact absurd hc (by simp [classOf])
  | debugStop part name mode => exact absurd hc (by simp [classOf])
  | debugResume part => exact absurd hc (by simp [classOf])
  | debugStep part name => exact absurd hc (by simp [classOf])
  | pcntClear part => exact absurd hc (by simp [classOf])
  | sample part core => exact absurd hc (by simp [classOf])
  | linkRequest rq => exact absurd hc (by simp [classOf])
  | linkTimeout w => exact absurd hc (by simp [classOf])
  | gateAcknowledgement q level => exact absurd hc (by simp [classOf])

/-- A READY thread's poll is an issue. -/
theorem poll_ready {i : Instr} {s : State} {t : Thread} {e : State → Thread → Out} (h : getThread s s.cur = some t) (hr : t.st = .ready) :
    poll i s e = issue i s e := by
  simp [poll, issue, need, h, hr]

/-- The instruction of a READY thread is issued, where its check is not LOOKAHEAD. -/
theorem exec_issue {i : Instr} {s : State} {t : Thread} (hc : (classOf i).isSome = true) (h : getThread s s.cur = some t)
    (hr : t.st = .ready) (hl : issueCheck i t ≠ .bad .lookahead) : ∃ e, exec i s = issue i s e := by
  rcases via i s hc with ⟨e, he⟩ | ⟨e, he⟩ | ⟨u, hu, -, hb, -⟩
  · exact ⟨e, he⟩
  · exact ⟨e, by rw [he, poll_ready h hr]⟩
  · exact absurd hb (by rwa [Option.some.inj (h.symm.trans hu)] at hl)

end Sys2Proof.Machine
end

