-- ==== Sys2Proof/Laws/Ops.lean ====
section
/-! SUPPORT. What the shared operations of Machine/Ops.lean do, said once for each: issue, retire, raise, need, whenOk, poll. -/

namespace Sys2Proof.Machine

open Sys2Proof.Safety

@[simp] theorem need_some {α : Type} (a : α) (f : α → Out) : need (some a) f = f a := rfl
@[simp] theorem need_none {α : Type} (f : α → Out) : need none f = stuck := rfl
@[simp] theorem whenOk_true (o : Out) : whenOk true o = o := rfl
@[simp] theorem whenOk_false (o : Out) : whenOk false o = stuck := rfl

theorem need_next {α : Type} {o : Option α} {f : α → Out} {r : State} (h : need o f = .next r) : ∃ a, o = some a ∧ f a = .next r := by
  cases o with
  | none => cases h
  | some a => exact ⟨a, rfl, h⟩

theorem whenOk_next {c : Bool} {o : Out} {r : State} (h : whenOk c o = .next r) : c = true ∧ o = .next r := by
  cases c with
  | false => cases h
  | true => exact ⟨rfl, h⟩

/-- An instruction that issues has its effect. -/
theorem issue_of_issues {i : Instr} {s : State} {t : Thread} (h : Issues i s t) (eff : State → Thread → Out) :
    issue i s eff = eff s (issued s t) := by
  obtain ⟨h1, h2, h3⟩ := h
  simp [issue, h1, h2, h3, whenOk]

/-- An instruction on its own thread alone completes at once. -/
theorem simple_of_issues {i : Instr} {s : State} {t : Thread} (h : Issues i s t) (f : Thread → Thread) :
    simple i s f = .next (retire i s (f (issued s t))) := issue_of_issues h _

/-- A polled instruction that issues for the first time has its effect on the thread as issued. -/
theorem poll_of_issues {i : Instr} {s : State} {t : Thread} (h : Issues i s t) (eff : State → Thread → Out) :
    poll i s eff = eff s (issued s t) := by
  have h1 := h.1
  have h2 := h.2.1
  rw [poll, h1, need_some, h2, if_neg (by simp)]
  exact issue_of_issues h eff

/-- Everything that the issue of an instruction can do when it answers a next state. -/
theorem issue_cases {i : Instr} {s r : State} {eff : State → Thread → Out} (h : issue i s eff = .next r) :
    ∃ t, getThread s s.cur = some t ∧ t.st = .ready ∧
      ((issueCheck i t = .ok ∧ eff s (issued s t) = .next r) ∨
       (issueCheck i t = .skip ∧ r = retire i s (issued s t)) ∨
       (issueCheck i t = .wait ∧ r = { s with stall := true }) ∨
       (∃ f, issueCheck i t = .late f ∧ r = putThread s (faulted t f)) ∨
       (∃ c, issueCheck i t = .bad c ∧ r = putThread s (faulted t { code := c, tpc := t.pc }))) := by
  obtain ⟨t, h1, h⟩ := need_next h
  obtain ⟨h2, h⟩ := whenOk_next h
  refine ⟨t, h1, by simpa using h2, ?_⟩
  split at h <;> rename_i hc
  · exact .inl ⟨hc, h⟩
  · cases h; exact .inr (.inl ⟨hc, rfl⟩)
  · cases h; exact .inr (.inr (.inl ⟨hc, rfl⟩))
  · cases h; exact .inr (.inr (.inr (.inl ⟨_, hc, rfl⟩)))
  · cases h; exact .inr (.inr (.inr (.inr ⟨_, hc, rfl⟩)))

theorem getThread_key {s : State} {k : Nat} {t : Thread} (h : getThread s k = some t) : t.key = k := by
  have := List.find?_some h
  simpa using this

theorem find_put_self (l : List Thread) (t u : Thread) (h : (l.find? fun x => x.key == t.key) = some u) :
    ((l.map fun x => if x.key == t.key then t else x).find? fun x => x.key == t.key) = some t := by
  induction l with
  | nil => cases h
  | cons x xs ih =>
    rw [List.map_cons]
    cases hx : x.key == t.key
    · rw [List.find?_cons, hx] at h
      rw [List.find?_cons, if_neg (by simp), hx]
      exact ih h
    · rw [if_pos rfl, List.find?_cons, beq_self_eq_true]

theorem find_put_other (l : List Thread) (t : Thread) (k : Nat) (h : k ≠ t.key) :
    ((l.map fun x => if x.key == t.key then t else x).find? fun x => x.key == k) = l.find? fun x => x.key == k := by
  induction l with
  | nil => rfl
  | cons x xs ih =>
    rw [List.map_cons, List.find?_cons, List.find?_cons]
    cases hx : x.key == t.key
    · rw [if_neg (by simp), ih]
    · have h1 : (x.key == k) = false := by
        have := eq_of_beq hx
        simpa [this] using fun e => h e.symm
      have h2 : (t.key == k) = false := by simpa using fun e => h e.symm
      rw [if_pos rfl, h1, h2]
      exact ih

/-- A thread put back is found under its key. -/
theorem getThread_putThread_self {s : State} {t u : Thread} (h : getThread s t.key = some u) :
    getThread (putThread s t) t.key = some t := find_put_self s.threads t u h

/-- Other threads stay as they were. -/
theorem getThread_putThread_other {s : State} {t : Thread} {k : Nat} (h : k ≠ t.key) :
    getThread (putThread s t) k = getThread s k := find_put_other s.threads t k h

end Sys2Proof.Machine
end

