-- ==== Sys2Proof/Laws/Regs.lean ====
section
/-! SUPPORT. Registers, taint and predicates: what reads as before after a write, and what does not. -/

namespace Sys2Proof.Machine

theorem getD_putAt_self {α : Type} (d : α) (l : List α) (n : Nat) (x : α) : (putAt d l n x).getD n d = x := by
  induction l generalizing n with
  | nil =>
    induction n with
    | zero => rfl
    | succ n ih => simpa [putAt] using ih
  | cons y l ih =>
    cases n with
    | zero => rfl
    | succ n => simpa [putAt] using ih n

theorem getD_putAt_other {α : Type} (d : α) (l : List α) (n k : Nat) (x : α) (h : k ≠ n) : (putAt d l n x).getD k d = l.getD k d := by
  induction l generalizing n k with
  | nil =>
    induction n generalizing k with
    | zero =>
      cases k with
      | zero => exact absurd rfl h
      | succ k => simp [putAt]
    | succ n ih =>
      cases k with
      | zero => simp [putAt]
      | succ k => simpa [putAt] using ih k (by omega)
  | cons y l ih =>
    cases n with
    | zero =>
      cases k with
      | zero => exact absurd rfl h
      | succ k => simp [putAt]
    | succ n =>
      cases k with
      | zero => simp [putAt]
      | succ k => simpa [putAt] using ih n k (by omega)

/-- A write within a list is the library's. -/
theorem putAt_eq_set {α : Type} (d : α) (l : List α) (n : Nat) (x : α) (h : n < l.length) : putAt d l n x = l.set n x := by
  induction l generalizing n with
  | nil => exact absurd h (Nat.not_lt_zero _)
  | cons y l ih =>
    cases n with
    | zero => rfl
    | succ n => simpa [putAt] using ih n (by simpa using h)

@[simp] theorem rdV_wrV_self (t : Thread) (r : Nat) (x : Word) (m : Bool) : rdV (wrV t r x m) r = x := getD_putAt_self _ _ _ _
@[simp] theorem rdTaint_wrV_self (t : Thread) (r : Nat) (x : Word) (m : Bool) : rdTaint (wrV t r x m) r = m := getD_putAt_self _ _ _ _
theorem rdV_wrV_other (t : Thread) (r k : Nat) (x : Word) (m : Bool) (h : k ≠ r) : rdV (wrV t r x m) k = rdV t k :=
  getD_putAt_other _ _ _ _ _ h
theorem rdTaint_wrV_other (t : Thread) (r k : Nat) (x : Word) (m : Bool) (h : k ≠ r) : rdTaint (wrV t r x m) k = rdTaint t k :=
  getD_putAt_other _ _ _ _ _ h

/-- A run of registers written leaves every other register as it was. -/
theorem wrMany_frame (xs : List Word) (t : Thread) (r k : Nat) (m : Bool) (h : k < r ∨ r + xs.length ≤ k) :
    rdV (wrMany t r m xs) k = rdV t k ∧ rdTaint (wrMany t r m xs) k = rdTaint t k := by
  induction xs generalizing t r with
  | nil => exact ⟨rfl, rfl⟩
  | cons x xs ih =>
    have hk : k ≠ r := by simp only [List.length_cons] at h; omega
    have := ih (wrV t r x m) (r + 1) (by simp only [List.length_cons] at h; omega)
    simp only [wrMany]
    rw [this.1, this.2, rdV_wrV_other _ _ _ _ _ hk, rdTaint_wrV_other _ _ _ _ _ hk]
    exact ⟨rfl, rfl⟩

/-- What a run of registers reads after it is written. -/
theorem wrMany_read (xs : List Word) (t : Thread) (r i : Nat) (m : Bool) (h : i < xs.length) :
    rdV (wrMany t r m xs) (r + i) = xs.getD i 0 ∧ rdTaint (wrMany t r m xs) (r + i) = m := by
  induction xs generalizing t r i with
  | nil => exact absurd h (Nat.not_lt_zero _)
  | cons x xs ih =>
    cases i with
    | zero =>
      have := wrMany_frame xs (wrV t r x m) (r + 1) r m (by omega)
      simp only [wrMany, Nat.add_zero]
      rw [this.1, this.2, rdV_wrV_self, rdTaint_wrV_self]
      exact ⟨rfl, rfl⟩
    | succ i =>
      have := ih (wrV t r x m) (r + 1) i (by simpa using h)
      have e : r + (i + 1) = r + 1 + i := by omega
      simp only [wrMany, e, List.getD_cons_succ]
      exact this

/-- Everything of a thread but its general registers and their taint is as before. -/
theorem wrMany_rest (xs : List Word) (t : Thread) (r : Nat) (m : Bool) :
    wrMany t r m xs = { t with v := (wrMany t r m xs).v, vt := (wrMany t r m xs).vt } := by
  induction xs generalizing t r with
  | nil => rfl
  | cons x xs ih =>
    simp only [wrMany]
    rw [ih]
    rfl

theorem rdP_zero (t : Thread) : rdP t 0 = true := rfl

/-- p0 reads 1, and a write to it is discarded; a write to another predicate writes it alone. -/
theorem rdP_wrP (t : Thread) (d i : Nat) (x : Bool) (hd : d < 128) (hi : i < 128) :
    rdP (wrP t d x) i = if i = 0 then true else if i = d then x else rdP t i := by
  by_cases h0 : i = 0
  · subst h0; rfl
  rw [if_neg h0]
  by_cases hz : d = 0
  · subst hz
    simp [wrP, h0]
  have hbit : (BitVec.ofNat 128 (2 ^ d)).getLsbD i = decide (i = d) := by
    rw [BitVec.getLsbD_ofNat]
    simp only [hi, decide_true, Bool.true_and, Nat.testBit_two_pow]
    exact decide_eq_decide.2 ⟨Eq.symm, Eq.symm⟩
  have hz' : (d == 0) = false := by simpa using hz
  have h0' : (i == 0) = false := by simpa using h0
  cases x <;> by_cases he : i = d <;> simp [wrP, rdP, hz', h0', hbit, he, hi]
  all_goals simp_all

end Sys2Proof.Machine
end

