-- ==== Sys2Proof/Laws/Run.lean ====
section
/-! SUPPORT. What the schedule can do, said once: an empty schedule always answers a next state, and no step of the machine ends in
notEnabled. -/

namespace Sys2Proof.Machine

/-- A device step in its phase answers a next state where it may be taken. -/
theorem stepDevice_of_mayStep {s : State} {i : Instr} (h : mayStep s i = true) : ∃ r, stepDevice s i = .next r := by
  obtain ⟨h1, h2⟩ : canHappen s i = true ∧ phaseFree s (phaseOf s i) = true := by simpa [mayStep] using h
  unfold canHappen at h1
  split at h1
  · next r hr => exact ⟨r, by simp [stepDevice, h2, whenOk, hr]⟩
  · cases h1

theorem mayStep_of_firstStep {s : State} {p : Nat → Bool} {steps : List Instr} {i : Instr} (h : firstStep s p steps = some i) :
    mayStep s i = true := by
  have found : (p (phaseOf s i) && mayStep s i) = true := List.find?_some (p := fun i => p (phaseOf s i) && mayStep s i) h
  exact (Bool.and_eq_true_iff.1 found).2

theorem firstOf_next {s : State} {early late : Option Instr} (turn : Option State) (he : ∀ i, early = some i → mayStep s i = true)
    (hl : ∀ i, late = some i → mayStep s i = true) : ∃ r, firstOf s early turn late = .next r := by
  rcases early with _ | i
  · rcases turn with _ | r
    · rcases late with _ | i
      · exact ⟨_, rfl⟩
      · exact stepDevice_of_mayStep (hl i rfl)
    · exact ⟨r, rfl⟩
  · exact stepDevice_of_mayStep (he i rfl)

/-- With an empty schedule there is always something that the machine does, if only a clock. -/
theorem stepAuto_next (s : State) : ∃ r, stepAuto s = .next r := by
  simp only [stepAuto]
  split
  · next h =>
    obtain ⟨hb, hi⟩ : booting s = true ∧ s.regs.bootIn.isSome = true := by simpa using h
    obtain ⟨inp, hi⟩ := Option.isSome_iff_exists.1 hi
    exact ⟨_, by simp [bootStep, need, whenOk, hb, hi]; rfl⟩
  · exact firstOf_next _ (fun _ h => mayStep_of_firstStep h) (fun _ h => mayStep_of_firstStep h)

/-- What follows a step is a next state exactly where the step is one. -/
theorem settled_cases (s : State) (o : Out) : (∃ r, settled s o = .next r) ∨ settled s o = o := by
  cases o with
  | next r => exact .inl ⟨_, rfl⟩
  | fault f => exact .inr rfl
  | refused f => exact .inr rfl

theorem passOver_ne (s : State) (o : Out) : passOver s o ≠ .fault .notEnabled := by
  rcases o with r | f | f
  · simp [passOver]
  · cases f <;> simp [passOver]
  · simp [passOver]

/-- No step of the machine ends because the schedule named something that cannot happen (R6, R441). -/
theorem step_ne_notEnabled (s : State) : step s ≠ .fault .notEnabled := by
  have settled_ne {s : State} {o : Out} (h : o ≠ .fault .notEnabled) : settled s o ≠ .fault .notEnabled := by
    rcases settled_cases s o with ⟨r, hr⟩ | hr
    · rw [hr]; simp
    · rwa [hr]
  unfold step runStep
  refine settled_ne ?_
  split
  · exact passOver_ne _ _
  · split
    · obtain ⟨r, hr⟩ := stepAuto_next { s with stall := false }
      rw [hr]; simp
    · exact passOver_ne _ _

end Sys2Proof.Machine
end

