-- ==== Sys2Proof/Laws/State.lean ====
section
/-! SUPPORT. What each update of the state leaves in each field, so that no proof unfolds a record update. -/

namespace Sys2Proof.Machine

@[simp] theorem withMem_clock (s : State) (f : MemSys → MemSys) : (withMem s f).clock = s.clock := rfl
@[simp] theorem withMem_threads (s : State) (f : MemSys → MemSys) : (withMem s f).threads = s.threads := rfl
@[simp] theorem withMem_disp (s : State) (f : MemSys → MemSys) : (withMem s f).disp = s.disp := rfl
@[simp] theorem withMem_mem (s : State) (f : MemSys → MemSys) : (withMem s f).mem = f s.mem := rfl
@[simp] theorem withMem_eng (s : State) (f : MemSys → MemSys) : (withMem s f).eng = s.eng := rfl
@[simp] theorem withMem_regs (s : State) (f : MemSys → MemSys) : (withMem s f).regs = s.regs := rfl
@[simp] theorem withMem_debugs (s : State) (f : MemSys → MemSys) : (withMem s f).debugs = s.debugs := rfl
@[simp] theorem withMem_power (s : State) (f : MemSys → MemSys) : (withMem s f).power = s.power := rfl
@[simp] theorem withMem_cur (s : State) (f : MemSys → MemSys) : (withMem s f).cur = s.cur := rfl
@[simp] theorem withMem_fused (s : State) (f : MemSys → MemSys) : (withMem s f).fused = s.fused := rfl
@[simp] theorem withMem_picked (s : State) (f : MemSys → MemSys) : (withMem s f).picked = s.picked := rfl
@[simp] theorem withMem_sched (s : State) (f : MemSys → MemSys) : (withMem s f).sched = s.sched := rfl
@[simp] theorem withMem_free (s : State) (f : MemSys → MemSys) : (withMem s f).free = s.free := rfl
@[simp] theorem withMem_stall (s : State) (f : MemSys → MemSys) : (withMem s f).stall = s.stall := rfl
@[simp] theorem withMem_ulead (s : State) (f : MemSys → MemSys) : (withMem s f).ulead = s.ulead := rfl
@[simp] theorem withMem_ureq (s : State) (f : MemSys → MemSys) : (withMem s f).ureq = s.ureq := rfl
@[simp] theorem withMem_phase (s : State) (f : MemSys → MemSys) : (withMem s f).phase = s.phase := rfl
@[simp] theorem withMem_ready (s : State) (f : MemSys → MemSys) : (withMem s f).ready = s.ready := rfl
@[simp] theorem withMem_looks (s : State) (f : MemSys → MemSys) : (withMem s f).looks = s.looks := rfl
@[simp] theorem withMem_banked (s : State) (f : MemSys → MemSys) : (withMem s f).banked = s.banked := rfl
@[simp] theorem withMem_slacks (s : State) (f : MemSys → MemSys) : (withMem s f).slacks = s.slacks := rfl
@[simp] theorem withMem_hostOut (s : State) (f : MemSys → MemSys) : (withMem s f).hostOut = s.hostOut := rfl

@[simp] theorem withEng_clock (s : State) (f : Engines → Engines) : (withEng s f).clock = s.clock := rfl
@[simp] theorem withEng_threads (s : State) (f : Engines → Engines) : (withEng s f).threads = s.threads := rfl
@[simp] theorem withEng_disp (s : State) (f : Engines → Engines) : (withEng s f).disp = s.disp := rfl
@[simp] theorem withEng_mem (s : State) (f : Engines → Engines) : (withEng s f).mem = s.mem := rfl
@[simp] theorem withEng_eng (s : State) (f : Engines → Engines) : (withEng s f).eng = f s.eng := rfl
@[simp] theorem withEng_regs (s : State) (f : Engines → Engines) : (withEng s f).regs = s.regs := rfl
@[simp] theorem withEng_debugs (s : State) (f : Engines → Engines) : (withEng s f).debugs = s.debugs := rfl
@[simp] theorem withEng_power (s : State) (f : Engines → Engines) : (withEng s f).power = s.power := rfl
@[simp] theorem withEng_cur (s : State) (f : Engines → Engines) : (withEng s f).cur = s.cur := rfl
@[simp] theorem withEng_fused (s : State) (f : Engines → Engines) : (withEng s f).fused = s.fused := rfl
@[simp] theorem withEng_picked (s : State) (f : Engines → Engines) : (withEng s f).picked = s.picked := rfl
@[simp] theorem withEng_sched (s : State) (f : Engines → Engines) : (withEng s f).sched = s.sched := rfl
@[simp] theorem withEng_free (s : State) (f : Engines → Engines) : (withEng s f).free = s.free := rfl
@[simp] theorem withEng_stall (s : State) (f : Engines → Engines) : (withEng s f).stall = s.stall := rfl
@[simp] theorem withEng_ulead (s : State) (f : Engines → Engines) : (withEng s f).ulead = s.ulead := rfl
@[simp] theorem withEng_ureq (s : State) (f : Engines → Engines) : (withEng s f).ureq = s.ureq := rfl
@[simp] theorem withEng_phase (s : State) (f : Engines → Engines) : (withEng s f).phase = s.phase := rfl
@[simp] theorem withEng_ready (s : State) (f : Engines → Engines) : (withEng s f).ready = s.ready := rfl
@[simp] theorem withEng_looks (s : State) (f : Engines → Engines) : (withEng s f).looks = s.looks := rfl
@[simp] theorem withEng_banked (s : State) (f : Engines → Engines) : (withEng s f).banked = s.banked := rfl
@[simp] theorem withEng_slacks (s : State) (f : Engines → Engines) : (withEng s f).slacks = s.slacks := rfl
@[simp] theorem withEng_hostOut (s : State) (f : Engines → Engines) : (withEng s f).hostOut = s.hostOut := rfl

@[simp] theorem withDisp_clock (s : State) (f : Dispatcher → Dispatcher) : (withDisp s f).clock = s.clock := rfl
@[simp] theorem withDisp_threads (s : State) (f : Dispatcher → Dispatcher) : (withDisp s f).threads = s.threads := rfl
@[simp] theorem withDisp_disp (s : State) (f : Dispatcher → Dispatcher) : (withDisp s f).disp = f s.disp := rfl
@[simp] theorem withDisp_mem (s : State) (f : Dispatcher → Dispatcher) : (withDisp s f).mem = s.mem := rfl
@[simp] theorem withDisp_eng (s : State) (f : Dispatcher → Dispatcher) : (withDisp s f).eng = s.eng := rfl
@[simp] theorem withDisp_regs (s : State) (f : Dispatcher → Dispatcher) : (withDisp s f).regs = s.regs := rfl
@[simp] theorem withDisp_debugs (s : State) (f : Dispatcher → Dispatcher) : (withDisp s f).debugs = s.debugs := rfl
@[simp] theorem withDisp_power (s : State) (f : Dispatcher → Dispatcher) : (withDisp s f).power = s.power := rfl
@[simp] theorem withDisp_cur (s : State) (f : Dispatcher → Dispatcher) : (withDisp s f).cur = s.cur := rfl
@[simp] theorem withDisp_fused (s : State) (f : Dispatcher → Dispatcher) : (withDisp s f).fused = s.fused := rfl
@[simp] theorem withDisp_picked (s : State) (f : Dispatcher → Dispatcher) : (withDisp s f).picked = s.picked := rfl
@[simp] theorem withDisp_sched (s : State) (f : Dispatcher → Dispatcher) : (withDisp s f).sched = s.sched := rfl
@[simp] theorem withDisp_free (s : State) (f : Dispatcher → Dispatcher) : (withDisp s f).free = s.free := rfl
@[simp] theorem withDisp_stall (s : State) (f : Dispatcher → Dispatcher) : (withDisp s f).stall = s.stall := rfl
@[simp] theorem withDisp_ulead (s : State) (f : Dispatcher → Dispatcher) : (withDisp s f).ulead = s.ulead := rfl
@[simp] theorem withDisp_ureq (s : State) (f : Dispatcher → Dispatcher) : (withDisp s f).ureq = s.ureq := rfl
@[simp] theorem withDisp_phase (s : State) (f : Dispatcher → Dispatcher) : (withDisp s f).phase = s.phase := rfl
@[simp] theorem withDisp_ready (s : State) (f : Dispatcher → Dispatcher) : (withDisp s f).ready = s.ready := rfl
@[simp] theorem withDisp_looks (s : State) (f : Dispatcher → Dispatcher) : (withDisp s f).looks = s.looks := rfl
@[simp] theorem withDisp_banked (s : State) (f : Dispatcher → Dispatcher) : (withDisp s f).banked = s.banked := rfl
@[simp] theorem withDisp_slacks (s : State) (f : Dispatcher → Dispatcher) : (withDisp s f).slacks = s.slacks := rfl
@[simp] theorem withDisp_hostOut (s : State) (f : Dispatcher → Dispatcher) : (withDisp s f).hostOut = s.hostOut := rfl

@[simp] theorem withRegs_clock (s : State) (f : Regs → Regs) : (withRegs s f).clock = s.clock := rfl
@[simp] theorem withRegs_threads (s : State) (f : Regs → Regs) : (withRegs s f).threads = s.threads := rfl
@[simp] theorem withRegs_disp (s : State) (f : Regs → Regs) : (withRegs s f).disp = s.disp := rfl
@[simp] theorem withRegs_mem (s : State) (f : Regs → Regs) : (withRegs s f).mem = s.mem := rfl
@[simp] theorem withRegs_eng (s : State) (f : Regs → Regs) : (withRegs s f).eng = s.eng := rfl
@[simp] theorem withRegs_regs (s : State) (f : Regs → Regs) : (withRegs s f).regs = f s.regs := rfl
@[simp] theorem withRegs_debugs (s : State) (f : Regs → Regs) : (withRegs s f).debugs = s.debugs := rfl
@[simp] theorem withRegs_power (s : State) (f : Regs → Regs) : (withRegs s f).power = s.power := rfl
@[simp] theorem withRegs_cur (s : State) (f : Regs → Regs) : (withRegs s f).cur = s.cur := rfl
@[simp] theorem withRegs_fused (s : State) (f : Regs → Regs) : (withRegs s f).fused = s.fused := rfl
@[simp] theorem withRegs_picked (s : State) (f : Regs → Regs) : (withRegs s f).picked = s.picked := rfl
@[simp] theorem withRegs_sched (s : State) (f : Regs → Regs) : (withRegs s f).sched = s.sched := rfl
@[simp] theorem withRegs_free (s : State) (f : Regs → Regs) : (withRegs s f).free = s.free := rfl
@[simp] theorem withRegs_stall (s : State) (f : Regs → Regs) : (withRegs s f).stall = s.stall := rfl
@[simp] theorem withRegs_ulead (s : State) (f : Regs → Regs) : (withRegs s f).ulead = s.ulead := rfl
@[simp] theorem withRegs_ureq (s : State) (f : Regs → Regs) : (withRegs s f).ureq = s.ureq := rfl
@[simp] theorem withRegs_phase (s : State) (f : Regs → Regs) : (withRegs s f).phase = s.phase := rfl
@[simp] theorem withRegs_ready (s : State) (f : Regs → Regs) : (withRegs s f).ready = s.ready := rfl
@[simp] theorem withRegs_looks (s : State) (f : Regs → Regs) : (withRegs s f).looks = s.looks := rfl
@[simp] theorem withRegs_banked (s : State) (f : Regs → Regs) : (withRegs s f).banked = s.banked := rfl
@[simp] theorem withRegs_slacks (s : State) (f : Regs → Regs) : (withRegs s f).slacks = s.slacks := rfl
@[simp] theorem withRegs_hostOut (s : State) (f : Regs → Regs) : (withRegs s f).hostOut = s.hostOut := rfl

@[simp] theorem putThread_clock (s : State) (t : Thread) : (putThread s t).clock = s.clock := rfl
@[simp] theorem putThread_threads (s : State) (t : Thread) : (putThread s t).threads = mapIf (fun u => u.key == t.key) (fun _ => t) s.threads := rfl
@[simp] theorem putThread_disp (s : State) (t : Thread) : (putThread s t).disp = s.disp := rfl
@[simp] theorem putThread_mem (s : State) (t : Thread) : (putThread s t).mem = s.mem := rfl
@[simp] theorem putThread_eng (s : State) (t : Thread) : (putThread s t).eng = s.eng := rfl
@[simp] theorem putThread_regs (s : State) (t : Thread) : (putThread s t).regs = s.regs := rfl
@[simp] theorem putThread_debugs (s : State) (t : Thread) : (putThread s t).debugs = s.debugs := rfl
@[simp] theorem putThread_power (s : State) (t : Thread) : (putThread s t).power = s.power := rfl
@[simp] theorem putThread_cur (s : State) (t : Thread) : (putThread s t).cur = s.cur := rfl
@[simp] theorem putThread_fused (s : State) (t : Thread) : (putThread s t).fused = s.fused := rfl
@[simp] theorem putThread_picked (s : State) (t : Thread) : (putThread s t).picked = s.picked := rfl
@[simp] theorem putThread_sched (s : State) (t : Thread) : (putThread s t).sched = s.sched := rfl
@[simp] theorem putThread_free (s : State) (t : Thread) : (putThread s t).free = s.free := rfl
@[simp] theorem putThread_stall (s : State) (t : Thread) : (putThread s t).stall = s.stall := rfl
@[simp] theorem putThread_ulead (s : State) (t : Thread) : (putThread s t).ulead = s.ulead := rfl
@[simp] theorem putThread_ureq (s : State) (t : Thread) : (putThread s t).ureq = s.ureq := rfl
@[simp] theorem putThread_phase (s : State) (t : Thread) : (putThread s t).phase = s.phase := rfl
@[simp] theorem putThread_ready (s : State) (t : Thread) : (putThread s t).ready = s.ready := rfl
@[simp] theorem putThread_looks (s : State) (t : Thread) : (putThread s t).looks = s.looks := rfl
@[simp] theorem putThread_banked (s : State) (t : Thread) : (putThread s t).banked = s.banked := rfl
@[simp] theorem putThread_slacks (s : State) (t : Thread) : (putThread s t).slacks = s.slacks := rfl
@[simp] theorem putThread_hostOut (s : State) (t : Thread) : (putThread s t).hostOut = s.hostOut := rfl

@[simp] theorem mapThreads_clock (s : State) (p : Thread → Bool) (f : Thread → Thread) : (mapThreads s p f).clock = s.clock := rfl
@[simp] theorem mapThreads_threads (s : State) (p : Thread → Bool) (f : Thread → Thread) : (mapThreads s p f).threads = mapIf p f s.threads := rfl
@[simp] theorem mapThreads_disp (s : State) (p : Thread → Bool) (f : Thread → Thread) : (mapThreads s p f).disp = s.disp := rfl
@[simp] theorem mapThreads_mem (s : State) (p : Thread → Bool) (f : Thread → Thread) : (mapThreads s p f).mem = s.mem := rfl
@[simp] theorem mapThreads_eng (s : State) (p : Thread → Bool) (f : Thread → Thread) : (mapThreads s p f).eng = s.eng := rfl
@[simp] theorem mapThreads_regs (s : State) (p : Thread → Bool) (f : Thread → Thread) : (mapThreads s p f).regs = s.regs := rfl
@[simp] theorem mapThreads_debugs (s : State) (p : Thread → Bool) (f : Thread → Thread) : (mapThreads s p f).debugs = s.debugs := rfl
@[simp] theorem mapThreads_power (s : State) (p : Thread → Bool) (f : Thread → Thread) : (mapThreads s p f).power = s.power := rfl
@[simp] theorem mapThreads_cur (s : State) (p : Thread → Bool) (f : Thread → Thread) : (mapThreads s p f).cur = s.cur := rfl
@[simp] theorem mapThreads_fused (s : State) (p : Thread → Bool) (f : Thread → Thread) : (mapThreads s p f).fused = s.fused := rfl
@[simp] theorem mapThreads_picked (s : State) (p : Thread → Bool) (f : Thread → Thread) : (mapThreads s p f).picked = s.picked := rfl
@[simp] theorem mapThreads_sched (s : State) (p : Thread → Bool) (f : Thread → Thread) : (mapThreads s p f).sched = s.sched := rfl
@[simp] theorem mapThreads_free (s : State) (p : Thread → Bool) (f : Thread → Thread) : (mapThreads s p f).free = s.free := rfl
@[simp] theorem mapThreads_stall (s : State) (p : Thread → Bool) (f : Thread → Thread) : (mapThreads s p f).stall = s.stall := rfl
@[simp] theorem mapThreads_ulead (s : State) (p : Thread → Bool) (f : Thread → Thread) : (mapThreads s p f).ulead = s.ulead := rfl
@[simp] theorem mapThreads_ureq (s : State) (p : Thread → Bool) (f : Thread → Thread) : (mapThreads s p f).ureq = s.ureq := rfl
@[simp] theorem mapThreads_phase (s : State) (p : Thread → Bool) (f : Thread → Thread) : (mapThreads s p f).phase = s.phase := rfl
@[simp] theorem mapThreads_ready (s : State) (p : Thread → Bool) (f : Thread → Thread) : (mapThreads s p f).ready = s.ready := rfl
@[simp] theorem mapThreads_looks (s : State) (p : Thread → Bool) (f : Thread → Thread) : (mapThreads s p f).looks = s.looks := rfl
@[simp] theorem mapThreads_banked (s : State) (p : Thread → Bool) (f : Thread → Thread) : (mapThreads s p f).banked = s.banked := rfl
@[simp] theorem mapThreads_slacks (s : State) (p : Thread → Bool) (f : Thread → Thread) : (mapThreads s p f).slacks = s.slacks := rfl
@[simp] theorem mapThreads_hostOut (s : State) (p : Thread → Bool) (f : Thread → Thread) : (mapThreads s p f).hostOut = s.hostOut := rfl

@[simp] theorem putGrid_clock (s : State) (g : Grid) : (putGrid s g).clock = s.clock := rfl
@[simp] theorem putGrid_threads (s : State) (g : Grid) : (putGrid s g).threads = s.threads := rfl
@[simp] theorem putGrid_disp (s : State) (g : Grid) : (putGrid s g).disp = { s.disp with grids := mapIf (fun x => x.id == g.id) (fun _ => g) s.disp.grids } := rfl
@[simp] theorem putGrid_mem (s : State) (g : Grid) : (putGrid s g).mem = s.mem := rfl
@[simp] theorem putGrid_eng (s : State) (g : Grid) : (putGrid s g).eng = s.eng := rfl
@[simp] theorem putGrid_regs (s : State) (g : Grid) : (putGrid s g).regs = s.regs := rfl
@[simp] theorem putGrid_debugs (s : State) (g : Grid) : (putGrid s g).debugs = s.debugs := rfl
@[simp] theorem putGrid_power (s : State) (g : Grid) : (putGrid s g).power = s.power := rfl
@[simp] theorem putGrid_cur (s : State) (g : Grid) : (putGrid s g).cur = s.cur := rfl
@[simp] theorem putGrid_fused (s : State) (g : Grid) : (putGrid s g).fused = s.fused := rfl
@[simp] theorem putGrid_picked (s : State) (g : Grid) : (putGrid s g).picked = s.picked := rfl
@[simp] theorem putGrid_sched (s : State) (g : Grid) : (putGrid s g).sched = s.sched := rfl
@[simp] theorem putGrid_free (s : State) (g : Grid) : (putGrid s g).free = s.free := rfl
@[simp] theorem putGrid_stall (s : State) (g : Grid) : (putGrid s g).stall = s.stall := rfl
@[simp] theorem putGrid_ulead (s : State) (g : Grid) : (putGrid s g).ulead = s.ulead := rfl
@[simp] theorem putGrid_ureq (s : State) (g : Grid) : (putGrid s g).ureq = s.ureq := rfl
@[simp] theorem putGrid_phase (s : State) (g : Grid) : (putGrid s g).phase = s.phase := rfl
@[simp] theorem putGrid_ready (s : State) (g : Grid) : (putGrid s g).ready = s.ready := rfl
@[simp] theorem putGrid_looks (s : State) (g : Grid) : (putGrid s g).looks = s.looks := rfl
@[simp] theorem putGrid_banked (s : State) (g : Grid) : (putGrid s g).banked = s.banked := rfl
@[simp] theorem putGrid_slacks (s : State) (g : Grid) : (putGrid s g).slacks = s.slacks := rfl
@[simp] theorem putGrid_hostOut (s : State) (g : Grid) : (putGrid s g).hostOut = s.hostOut := rfl

@[simp] theorem putTeam_clock (s : State) (m : Team) : (putTeam s m).clock = s.clock := rfl
@[simp] theorem putTeam_threads (s : State) (m : Team) : (putTeam s m).threads = s.threads := rfl
@[simp] theorem putTeam_disp (s : State) (m : Team) : (putTeam s m).disp = { s.disp with teams := mapIf (fun x => x.key == m.key) (fun _ => m) s.disp.teams } := rfl
@[simp] theorem putTeam_mem (s : State) (m : Team) : (putTeam s m).mem = s.mem := rfl
@[simp] theorem putTeam_eng (s : State) (m : Team) : (putTeam s m).eng = s.eng := rfl
@[simp] theorem putTeam_regs (s : State) (m : Team) : (putTeam s m).regs = s.regs := rfl
@[simp] theorem putTeam_debugs (s : State) (m : Team) : (putTeam s m).debugs = s.debugs := rfl
@[simp] theorem putTeam_power (s : State) (m : Team) : (putTeam s m).power = s.power := rfl
@[simp] theorem putTeam_cur (s : State) (m : Team) : (putTeam s m).cur = s.cur := rfl
@[simp] theorem putTeam_fused (s : State) (m : Team) : (putTeam s m).fused = s.fused := rfl
@[simp] theorem putTeam_picked (s : State) (m : Team) : (putTeam s m).picked = s.picked := rfl
@[simp] theorem putTeam_sched (s : State) (m : Team) : (putTeam s m).sched = s.sched := rfl
@[simp] theorem putTeam_free (s : State) (m : Team) : (putTeam s m).free = s.free := rfl
@[simp] theorem putTeam_stall (s : State) (m : Team) : (putTeam s m).stall = s.stall := rfl
@[simp] theorem putTeam_ulead (s : State) (m : Team) : (putTeam s m).ulead = s.ulead := rfl
@[simp] theorem putTeam_ureq (s : State) (m : Team) : (putTeam s m).ureq = s.ureq := rfl
@[simp] theorem putTeam_phase (s : State) (m : Team) : (putTeam s m).phase = s.phase := rfl
@[simp] theorem putTeam_ready (s : State) (m : Team) : (putTeam s m).ready = s.ready := rfl
@[simp] theorem putTeam_looks (s : State) (m : Team) : (putTeam s m).looks = s.looks := rfl
@[simp] theorem putTeam_banked (s : State) (m : Team) : (putTeam s m).banked = s.banked := rfl
@[simp] theorem putTeam_slacks (s : State) (m : Team) : (putTeam s m).slacks = s.slacks := rfl
@[simp] theorem putTeam_hostOut (s : State) (m : Team) : (putTeam s m).hostOut = s.hostOut := rfl

@[simp] theorem bump_clock (s : State) : (bump s).clock = s.clock := rfl
@[simp] theorem bump_threads (s : State) : (bump s).threads = s.threads := rfl
@[simp] theorem bump_disp (s : State) : (bump s).disp = s.disp := rfl
@[simp] theorem bump_mem (s : State) : (bump s).mem = { s.mem with seq := s.mem.seq + 1 } := rfl
@[simp] theorem bump_eng (s : State) : (bump s).eng = s.eng := rfl
@[simp] theorem bump_regs (s : State) : (bump s).regs = s.regs := rfl
@[simp] theorem bump_debugs (s : State) : (bump s).debugs = s.debugs := rfl
@[simp] theorem bump_power (s : State) : (bump s).power = s.power := rfl
@[simp] theorem bump_cur (s : State) : (bump s).cur = s.cur := rfl
@[simp] theorem bump_fused (s : State) : (bump s).fused = s.fused := rfl
@[simp] theorem bump_picked (s : State) : (bump s).picked = s.picked := rfl
@[simp] theorem bump_sched (s : State) : (bump s).sched = s.sched := rfl
@[simp] theorem bump_free (s : State) : (bump s).free = s.free := rfl
@[simp] theorem bump_stall (s : State) : (bump s).stall = s.stall := rfl
@[simp] theorem bump_ulead (s : State) : (bump s).ulead = s.ulead := rfl
@[simp] theorem bump_ureq (s : State) : (bump s).ureq = s.ureq := rfl
@[simp] theorem bump_phase (s : State) : (bump s).phase = s.phase := rfl
@[simp] theorem bump_ready (s : State) : (bump s).ready = s.ready := rfl
@[simp] theorem bump_looks (s : State) : (bump s).looks = s.looks := rfl
@[simp] theorem bump_banked (s : State) : (bump s).banked = s.banked := rfl
@[simp] theorem bump_slacks (s : State) : (bump s).slacks = s.slacks := rfl
@[simp] theorem bump_hostOut (s : State) : (bump s).hostOut = s.hostOut := rfl

@[simp] theorem withDebug_clock (s : State) (part : Nat) (f : Debug → Debug) : (withDebug s part f).clock = s.clock := rfl
@[simp] theorem withDebug_threads (s : State) (part : Nat) (f : Debug → Debug) : (withDebug s part f).threads = s.threads := rfl
@[simp] theorem withDebug_disp (s : State) (part : Nat) (f : Debug → Debug) : (withDebug s part f).disp = s.disp := rfl
@[simp] theorem withDebug_mem (s : State) (part : Nat) (f : Debug → Debug) : (withDebug s part f).mem = s.mem := rfl
@[simp] theorem withDebug_eng (s : State) (part : Nat) (f : Debug → Debug) : (withDebug s part f).eng = s.eng := rfl
@[simp] theorem withDebug_regs (s : State) (part : Nat) (f : Debug → Debug) : (withDebug s part f).regs = s.regs := rfl
@[simp] theorem withDebug_debugs (s : State) (part : Nat) (f : Debug → Debug) : (withDebug s part f).debugs = s.debugs.mapIdx fun i d => if i == part then f d else d := rfl
@[simp] theorem withDebug_power (s : State) (part : Nat) (f : Debug → Debug) : (withDebug s part f).power = s.power := rfl
@[simp] theorem withDebug_cur (s : State) (part : Nat) (f : Debug → Debug) : (withDebug s part f).cur = s.cur := rfl
@[simp] theorem withDebug_fused (s : State) (part : Nat) (f : Debug → Debug) : (withDebug s part f).fused = s.fused := rfl
@[simp] theorem withDebug_picked (s : State) (part : Nat) (f : Debug → Debug) : (withDebug s part f).picked = s.picked := rfl
@[simp] theorem withDebug_sched (s : State) (part : Nat) (f : Debug → Debug) : (withDebug s part f).sched = s.sched := rfl
@[simp] theorem withDebug_free (s : State) (part : Nat) (f : Debug → Debug) : (withDebug s part f).free = s.free := rfl
@[simp] theorem withDebug_stall (s : State) (part : Nat) (f : Debug → Debug) : (withDebug s part f).stall = s.stall := rfl
@[simp] theorem withDebug_ulead (s : State) (part : Nat) (f : Debug → Debug) : (withDebug s part f).ulead = s.ulead := rfl
@[simp] theorem withDebug_ureq (s : State) (part : Nat) (f : Debug → Debug) : (withDebug s part f).ureq = s.ureq := rfl
@[simp] theorem withDebug_phase (s : State) (part : Nat) (f : Debug → Debug) : (withDebug s part f).phase = s.phase := rfl
@[simp] theorem withDebug_ready (s : State) (part : Nat) (f : Debug → Debug) : (withDebug s part f).ready = s.ready := rfl
@[simp] theorem withDebug_looks (s : State) (part : Nat) (f : Debug → Debug) : (withDebug s part f).looks = s.looks := rfl
@[simp] theorem withDebug_banked (s : State) (part : Nat) (f : Debug → Debug) : (withDebug s part f).banked = s.banked := rfl
@[simp] theorem withDebug_slacks (s : State) (part : Nat) (f : Debug → Debug) : (withDebug s part f).slacks = s.slacks := rfl
@[simp] theorem withDebug_hostOut (s : State) (part : Nat) (f : Debug → Debug) : (withDebug s part f).hostOut = s.hostOut := rfl

@[simp] theorem countPart_clock (s : State) (part k n : Nat) : (countPart s part k n).clock = s.clock := rfl
@[simp] theorem countPart_threads (s : State) (part k n : Nat) : (countPart s part k n).threads = s.threads := rfl
@[simp] theorem countPart_disp (s : State) (part k n : Nat) : (countPart s part k n).disp = s.disp := rfl
@[simp] theorem countPart_mem (s : State) (part k n : Nat) : (countPart s part k n).mem = s.mem := rfl
@[simp] theorem countPart_eng (s : State) (part k n : Nat) : (countPart s part k n).eng = s.eng := rfl
@[simp] theorem countPart_regs (s : State) (part k n : Nat) : (countPart s part k n).regs = s.regs := rfl
@[simp] theorem countPart_debugs (s : State) (part k n : Nat) : (countPart s part k n).debugs = s.debugs.mapIdx fun i d => if i == part then { d with pcnt := putAt 0 d.pcnt k ((d.pcnt.getD k 0 + n) % 2 ^ 64) } else d := rfl
@[simp] theorem countPart_power (s : State) (part k n : Nat) : (countPart s part k n).power = s.power := rfl
@[simp] theorem countPart_cur (s : State) (part k n : Nat) : (countPart s part k n).cur = s.cur := rfl
@[simp] theorem countPart_fused (s : State) (part k n : Nat) : (countPart s part k n).fused = s.fused := rfl
@[simp] theorem countPart_picked (s : State) (part k n : Nat) : (countPart s part k n).picked = s.picked := rfl
@[simp] theorem countPart_sched (s : State) (part k n : Nat) : (countPart s part k n).sched = s.sched := rfl
@[simp] theorem countPart_free (s : State) (part k n : Nat) : (countPart s part k n).free = s.free := rfl
@[simp] theorem countPart_stall (s : State) (part k n : Nat) : (countPart s part k n).stall = s.stall := rfl
@[simp] theorem countPart_ulead (s : State) (part k n : Nat) : (countPart s part k n).ulead = s.ulead := rfl
@[simp] theorem countPart_ureq (s : State) (part k n : Nat) : (countPart s part k n).ureq = s.ureq := rfl
@[simp] theorem countPart_phase (s : State) (part k n : Nat) : (countPart s part k n).phase = s.phase := rfl
@[simp] theorem countPart_ready (s : State) (part k n : Nat) : (countPart s part k n).ready = s.ready := rfl
@[simp] theorem countPart_looks (s : State) (part k n : Nat) : (countPart s part k n).looks = s.looks := rfl
@[simp] theorem countPart_banked (s : State) (part k n : Nat) : (countPart s part k n).banked = s.banked := rfl
@[simp] theorem countPart_slacks (s : State) (part k n : Nat) : (countPart s part k n).slacks = s.slacks := rfl
@[simp] theorem countPart_hostOut (s : State) (part k n : Nat) : (countPart s part k n).hostOut = s.hostOut := rfl

@[simp] theorem unitGo_clock (s : State) (u : UnitId) : (unitGo s u).clock = s.clock := rfl
@[simp] theorem unitGo_threads (s : State) (u : UnitId) : (unitGo s u).threads = s.threads := rfl
@[simp] theorem unitGo_disp (s : State) (u : UnitId) : (unitGo s u).disp = s.disp := rfl
@[simp] theorem unitGo_mem (s : State) (u : UnitId) : (unitGo s u).mem = { s.mem with parks := dropIf (fun x => x.unit == u) s.mem.parks } := rfl
@[simp] theorem unitGo_eng (s : State) (u : UnitId) : (unitGo s u).eng = s.eng := rfl
@[simp] theorem unitGo_regs (s : State) (u : UnitId) : (unitGo s u).regs = s.regs := rfl
@[simp] theorem unitGo_debugs (s : State) (u : UnitId) : (unitGo s u).debugs = s.debugs := rfl
@[simp] theorem unitGo_power (s : State) (u : UnitId) : (unitGo s u).power = s.power := rfl
@[simp] theorem unitGo_cur (s : State) (u : UnitId) : (unitGo s u).cur = s.cur := rfl
@[simp] theorem unitGo_fused (s : State) (u : UnitId) : (unitGo s u).fused = s.fused := rfl
@[simp] theorem unitGo_picked (s : State) (u : UnitId) : (unitGo s u).picked = s.picked := rfl
@[simp] theorem unitGo_sched (s : State) (u : UnitId) : (unitGo s u).sched = s.sched := rfl
@[simp] theorem unitGo_free (s : State) (u : UnitId) : (unitGo s u).free = s.free := rfl
@[simp] theorem unitGo_stall (s : State) (u : UnitId) : (unitGo s u).stall = s.stall := rfl
@[simp] theorem unitGo_ulead (s : State) (u : UnitId) : (unitGo s u).ulead = s.ulead := rfl
@[simp] theorem unitGo_ureq (s : State) (u : UnitId) : (unitGo s u).ureq = s.ureq := rfl
@[simp] theorem unitGo_phase (s : State) (u : UnitId) : (unitGo s u).phase = s.phase := rfl
@[simp] theorem unitGo_ready (s : State) (u : UnitId) : (unitGo s u).ready = s.ready := rfl
@[simp] theorem unitGo_looks (s : State) (u : UnitId) : (unitGo s u).looks = s.looks := rfl
@[simp] theorem unitGo_banked (s : State) (u : UnitId) : (unitGo s u).banked = s.banked := rfl
@[simp] theorem unitGo_slacks (s : State) (u : UnitId) : (unitGo s u).slacks = s.slacks := rfl
@[simp] theorem unitGo_hostOut (s : State) (u : UnitId) : (unitGo s u).hostOut = s.hostOut := rfl

@[simp] theorem unitPark_clock (s : State) (u : UnitId) (p : PageKey) : (unitPark s u p).clock = s.clock := rfl
@[simp] theorem unitPark_threads (s : State) (u : UnitId) (p : PageKey) : (unitPark s u p).threads = s.threads := rfl
@[simp] theorem unitPark_disp (s : State) (u : UnitId) (p : PageKey) : (unitPark s u p).disp = s.disp := rfl
@[simp] theorem unitPark_mem (s : State) (u : UnitId) (p : PageKey) : (unitPark s u p).mem = { s.mem with parks := s.mem.parks ++ [{ page := p, unit := u }] } := rfl
@[simp] theorem unitPark_eng (s : State) (u : UnitId) (p : PageKey) : (unitPark s u p).eng = s.eng := rfl
@[simp] theorem unitPark_regs (s : State) (u : UnitId) (p : PageKey) : (unitPark s u p).regs = s.regs := rfl
@[simp] theorem unitPark_debugs (s : State) (u : UnitId) (p : PageKey) : (unitPark s u p).debugs = s.debugs := rfl
@[simp] theorem unitPark_power (s : State) (u : UnitId) (p : PageKey) : (unitPark s u p).power = s.power := rfl
@[simp] theorem unitPark_cur (s : State) (u : UnitId) (p : PageKey) : (unitPark s u p).cur = s.cur := rfl
@[simp] theorem unitPark_fused (s : State) (u : UnitId) (p : PageKey) : (unitPark s u p).fused = s.fused := rfl
@[simp] theorem unitPark_picked (s : State) (u : UnitId) (p : PageKey) : (unitPark s u p).picked = s.picked := rfl
@[simp] theorem unitPark_sched (s : State) (u : UnitId) (p : PageKey) : (unitPark s u p).sched = s.sched := rfl
@[simp] theorem unitPark_free (s : State) (u : UnitId) (p : PageKey) : (unitPark s u p).free = s.free := rfl
@[simp] theorem unitPark_stall (s : State) (u : UnitId) (p : PageKey) : (unitPark s u p).stall = s.stall := rfl
@[simp] theorem unitPark_ulead (s : State) (u : UnitId) (p : PageKey) : (unitPark s u p).ulead = s.ulead := rfl
@[simp] theorem unitPark_ureq (s : State) (u : UnitId) (p : PageKey) : (unitPark s u p).ureq = s.ureq := rfl
@[simp] theorem unitPark_phase (s : State) (u : UnitId) (p : PageKey) : (unitPark s u p).phase = s.phase := rfl
@[simp] theorem unitPark_ready (s : State) (u : UnitId) (p : PageKey) : (unitPark s u p).ready = s.ready := rfl
@[simp] theorem unitPark_looks (s : State) (u : UnitId) (p : PageKey) : (unitPark s u p).looks = s.looks := rfl
@[simp] theorem unitPark_banked (s : State) (u : UnitId) (p : PageKey) : (unitPark s u p).banked = s.banked := rfl
@[simp] theorem unitPark_slacks (s : State) (u : UnitId) (p : PageKey) : (unitPark s u p).slacks = s.slacks := rfl
@[simp] theorem unitPark_hostOut (s : State) (u : UnitId) (p : PageKey) : (unitPark s u p).hostOut = s.hostOut := rfl

@[simp] theorem setL1_clock (s : State) (core : Nat) (ls : List L1Line) : (setL1 s core ls).clock = s.clock := rfl
@[simp] theorem setL1_threads (s : State) (core : Nat) (ls : List L1Line) : (setL1 s core ls).threads = s.threads := rfl
@[simp] theorem setL1_disp (s : State) (core : Nat) (ls : List L1Line) : (setL1 s core ls).disp = s.disp := rfl
@[simp] theorem setL1_mem (s : State) (core : Nat) (ls : List L1Line) : (setL1 s core ls).mem = { s.mem with l1 := assocSet s.mem.l1 core ls } := rfl
@[simp] theorem setL1_eng (s : State) (core : Nat) (ls : List L1Line) : (setL1 s core ls).eng = s.eng := rfl
@[simp] theorem setL1_regs (s : State) (core : Nat) (ls : List L1Line) : (setL1 s core ls).regs = s.regs := rfl
@[simp] theorem setL1_debugs (s : State) (core : Nat) (ls : List L1Line) : (setL1 s core ls).debugs = s.debugs := rfl
@[simp] theorem setL1_power (s : State) (core : Nat) (ls : List L1Line) : (setL1 s core ls).power = s.power := rfl
@[simp] theorem setL1_cur (s : State) (core : Nat) (ls : List L1Line) : (setL1 s core ls).cur = s.cur := rfl
@[simp] theorem setL1_fused (s : State) (core : Nat) (ls : List L1Line) : (setL1 s core ls).fused = s.fused := rfl
@[simp] theorem setL1_picked (s : State) (core : Nat) (ls : List L1Line) : (setL1 s core ls).picked = s.picked := rfl
@[simp] theorem setL1_sched (s : State) (core : Nat) (ls : List L1Line) : (setL1 s core ls).sched = s.sched := rfl
@[simp] theorem setL1_free (s : State) (core : Nat) (ls : List L1Line) : (setL1 s core ls).free = s.free := rfl
@[simp] theorem setL1_stall (s : State) (core : Nat) (ls : List L1Line) : (setL1 s core ls).stall = s.stall := rfl
@[simp] theorem setL1_ulead (s : State) (core : Nat) (ls : List L1Line) : (setL1 s core ls).ulead = s.ulead := rfl
@[simp] theorem setL1_ureq (s : State) (core : Nat) (ls : List L1Line) : (setL1 s core ls).ureq = s.ureq := rfl
@[simp] theorem setL1_phase (s : State) (core : Nat) (ls : List L1Line) : (setL1 s core ls).phase = s.phase := rfl
@[simp] theorem setL1_ready (s : State) (core : Nat) (ls : List L1Line) : (setL1 s core ls).ready = s.ready := rfl
@[simp] theorem setL1_looks (s : State) (core : Nat) (ls : List L1Line) : (setL1 s core ls).looks = s.looks := rfl
@[simp] theorem setL1_banked (s : State) (core : Nat) (ls : List L1Line) : (setL1 s core ls).banked = s.banked := rfl
@[simp] theorem setL1_slacks (s : State) (core : Nat) (ls : List L1Line) : (setL1 s core ls).slacks = s.slacks := rfl
@[simp] theorem setL1_hostOut (s : State) (core : Nat) (ls : List L1Line) : (setL1 s core ls).hostOut = s.hostOut := rfl

@[simp] theorem dropQ_clock (s : State) (q : Question) : (dropQ s q).clock = s.clock := rfl
@[simp] theorem dropQ_threads (s : State) (q : Question) : (dropQ s q).threads = s.threads := rfl
@[simp] theorem dropQ_disp (s : State) (q : Question) : (dropQ s q).disp = { s.disp with openQs := dropIf (fun x => x.what == q) s.disp.openQs } := rfl
@[simp] theorem dropQ_mem (s : State) (q : Question) : (dropQ s q).mem = s.mem := rfl
@[simp] theorem dropQ_eng (s : State) (q : Question) : (dropQ s q).eng = s.eng := rfl
@[simp] theorem dropQ_regs (s : State) (q : Question) : (dropQ s q).regs = s.regs := rfl
@[simp] theorem dropQ_debugs (s : State) (q : Question) : (dropQ s q).debugs = s.debugs := rfl
@[simp] theorem dropQ_power (s : State) (q : Question) : (dropQ s q).power = s.power := rfl
@[simp] theorem dropQ_cur (s : State) (q : Question) : (dropQ s q).cur = s.cur := rfl
@[simp] theorem dropQ_fused (s : State) (q : Question) : (dropQ s q).fused = s.fused := rfl
@[simp] theorem dropQ_picked (s : State) (q : Question) : (dropQ s q).picked = s.picked := rfl
@[simp] theorem dropQ_sched (s : State) (q : Question) : (dropQ s q).sched = s.sched := rfl
@[simp] theorem dropQ_free (s : State) (q : Question) : (dropQ s q).free = s.free := rfl
@[simp] theorem dropQ_stall (s : State) (q : Question) : (dropQ s q).stall = s.stall := rfl
@[simp] theorem dropQ_ulead (s : State) (q : Question) : (dropQ s q).ulead = s.ulead := rfl
@[simp] theorem dropQ_ureq (s : State) (q : Question) : (dropQ s q).ureq = s.ureq := rfl
@[simp] theorem dropQ_phase (s : State) (q : Question) : (dropQ s q).phase = s.phase := rfl
@[simp] theorem dropQ_ready (s : State) (q : Question) : (dropQ s q).ready = s.ready := rfl
@[simp] theorem dropQ_looks (s : State) (q : Question) : (dropQ s q).looks = s.looks := rfl
@[simp] theorem dropQ_banked (s : State) (q : Question) : (dropQ s q).banked = s.banked := rfl
@[simp] theorem dropQ_slacks (s : State) (q : Question) : (dropQ s q).slacks = s.slacks := rfl
@[simp] theorem dropQ_hostOut (s : State) (q : Question) : (dropQ s q).hostOut = s.hostOut := rfl

@[simp] theorem setKstat_clock (s : State) (part bits : Nat) : (setKstat s part bits).clock = s.clock := rfl
@[simp] theorem setKstat_threads (s : State) (part bits : Nat) : (setKstat s part bits).threads = s.threads := rfl
@[simp] theorem setKstat_disp (s : State) (part bits : Nat) : (setKstat s part bits).disp = s.disp := rfl
@[simp] theorem setKstat_mem (s : State) (part bits : Nat) : (setKstat s part bits).mem = s.mem := rfl
@[simp] theorem setKstat_eng (s : State) (part bits : Nat) : (setKstat s part bits).eng = s.eng := rfl
@[simp] theorem setKstat_regs (s : State) (part bits : Nat) : (setKstat s part bits).regs = { s.regs with kstat := putAt 0 s.regs.kstat part (s.regs.kstat.getD part 0 ||| bits) } := rfl
@[simp] theorem setKstat_debugs (s : State) (part bits : Nat) : (setKstat s part bits).debugs = s.debugs := rfl
@[simp] theorem setKstat_power (s : State) (part bits : Nat) : (setKstat s part bits).power = s.power := rfl
@[simp] theorem setKstat_cur (s : State) (part bits : Nat) : (setKstat s part bits).cur = s.cur := rfl
@[simp] theorem setKstat_fused (s : State) (part bits : Nat) : (setKstat s part bits).fused = s.fused := rfl
@[simp] theorem setKstat_picked (s : State) (part bits : Nat) : (setKstat s part bits).picked = s.picked := rfl
@[simp] theorem setKstat_sched (s : State) (part bits : Nat) : (setKstat s part bits).sched = s.sched := rfl
@[simp] theorem setKstat_free (s : State) (part bits : Nat) : (setKstat s part bits).free = s.free := rfl
@[simp] theorem setKstat_stall (s : State) (part bits : Nat) : (setKstat s part bits).stall = s.stall := rfl
@[simp] theorem setKstat_ulead (s : State) (part bits : Nat) : (setKstat s part bits).ulead = s.ulead := rfl
@[simp] theorem setKstat_ureq (s : State) (part bits : Nat) : (setKstat s part bits).ureq = s.ureq := rfl
@[simp] theorem setKstat_phase (s : State) (part bits : Nat) : (setKstat s part bits).phase = s.phase := rfl
@[simp] theorem setKstat_ready (s : State) (part bits : Nat) : (setKstat s part bits).ready = s.ready := rfl
@[simp] theorem setKstat_looks (s : State) (part bits : Nat) : (setKstat s part bits).looks = s.looks := rfl
@[simp] theorem setKstat_banked (s : State) (part bits : Nat) : (setKstat s part bits).banked = s.banked := rfl
@[simp] theorem setKstat_slacks (s : State) (part bits : Nat) : (setKstat s part bits).slacks = s.slacks := rfl
@[simp] theorem setKstat_hostOut (s : State) (part bits : Nat) : (setKstat s part bits).hostOut = s.hostOut := rfl

@[simp] theorem setDeverr_clock (s : State) (bits : Nat) : (setDeverr s bits).clock = s.clock := rfl
@[simp] theorem setDeverr_threads (s : State) (bits : Nat) : (setDeverr s bits).threads = s.threads := rfl
@[simp] theorem setDeverr_disp (s : State) (bits : Nat) : (setDeverr s bits).disp = s.disp := rfl
@[simp] theorem setDeverr_mem (s : State) (bits : Nat) : (setDeverr s bits).mem = s.mem := rfl
@[simp] theorem setDeverr_eng (s : State) (bits : Nat) : (setDeverr s bits).eng = s.eng := rfl
@[simp] theorem setDeverr_regs (s : State) (bits : Nat) : (setDeverr s bits).regs = { s.regs with deverr := s.regs.deverr ||| bits } := rfl
@[simp] theorem setDeverr_debugs (s : State) (bits : Nat) : (setDeverr s bits).debugs = s.debugs := rfl
@[simp] theorem setDeverr_power (s : State) (bits : Nat) : (setDeverr s bits).power = s.power := rfl
@[simp] theorem setDeverr_cur (s : State) (bits : Nat) : (setDeverr s bits).cur = s.cur := rfl
@[simp] theorem setDeverr_fused (s : State) (bits : Nat) : (setDeverr s bits).fused = s.fused := rfl
@[simp] theorem setDeverr_picked (s : State) (bits : Nat) : (setDeverr s bits).picked = s.picked := rfl
@[simp] theorem setDeverr_sched (s : State) (bits : Nat) : (setDeverr s bits).sched = s.sched := rfl
@[simp] theorem setDeverr_free (s : State) (bits : Nat) : (setDeverr s bits).free = s.free := rfl
@[simp] theorem setDeverr_stall (s : State) (bits : Nat) : (setDeverr s bits).stall = s.stall := rfl
@[simp] theorem setDeverr_ulead (s : State) (bits : Nat) : (setDeverr s bits).ulead = s.ulead := rfl
@[simp] theorem setDeverr_ureq (s : State) (bits : Nat) : (setDeverr s bits).ureq = s.ureq := rfl
@[simp] theorem setDeverr_phase (s : State) (bits : Nat) : (setDeverr s bits).phase = s.phase := rfl
@[simp] theorem setDeverr_ready (s : State) (bits : Nat) : (setDeverr s bits).ready = s.ready := rfl
@[simp] theorem setDeverr_looks (s : State) (bits : Nat) : (setDeverr s bits).looks = s.looks := rfl
@[simp] theorem setDeverr_banked (s : State) (bits : Nat) : (setDeverr s bits).banked = s.banked := rfl
@[simp] theorem setDeverr_slacks (s : State) (bits : Nat) : (setDeverr s bits).slacks = s.slacks := rfl
@[simp] theorem setDeverr_hostOut (s : State) (bits : Nat) : (setDeverr s bits).hostOut = s.hostOut := rfl

@[simp] theorem findUe_clock (s : State) (hs : List Nat) : (findUe s hs).clock = s.clock := rfl
@[simp] theorem findUe_threads (s : State) (hs : List Nat) : (findUe s hs).threads = s.threads := rfl
@[simp] theorem findUe_disp (s : State) (hs : List Nat) : (findUe s hs).disp = s.disp := rfl
@[simp] theorem findUe_eng (s : State) (hs : List Nat) : (findUe s hs).eng = s.eng := rfl
@[simp] theorem findUe_regs (s : State) (hs : List Nat) : (findUe s hs).regs = s.regs := rfl
@[simp] theorem findUe_debugs (s : State) (hs : List Nat) : (findUe s hs).debugs = s.debugs := rfl
@[simp] theorem findUe_power (s : State) (hs : List Nat) : (findUe s hs).power = s.power := rfl
@[simp] theorem findUe_cur (s : State) (hs : List Nat) : (findUe s hs).cur = s.cur := rfl
@[simp] theorem findUe_fused (s : State) (hs : List Nat) : (findUe s hs).fused = s.fused := rfl
@[simp] theorem findUe_picked (s : State) (hs : List Nat) : (findUe s hs).picked = s.picked := rfl
@[simp] theorem findUe_sched (s : State) (hs : List Nat) : (findUe s hs).sched = s.sched := rfl
@[simp] theorem findUe_free (s : State) (hs : List Nat) : (findUe s hs).free = s.free := rfl
@[simp] theorem findUe_stall (s : State) (hs : List Nat) : (findUe s hs).stall = s.stall := rfl
@[simp] theorem findUe_ulead (s : State) (hs : List Nat) : (findUe s hs).ulead = s.ulead := rfl
@[simp] theorem findUe_ureq (s : State) (hs : List Nat) : (findUe s hs).ureq = s.ureq := rfl
@[simp] theorem findUe_phase (s : State) (hs : List Nat) : (findUe s hs).phase = s.phase := rfl
@[simp] theorem findUe_ready (s : State) (hs : List Nat) : (findUe s hs).ready = s.ready := rfl
@[simp] theorem findUe_looks (s : State) (hs : List Nat) : (findUe s hs).looks = s.looks := rfl
@[simp] theorem findUe_banked (s : State) (hs : List Nat) : (findUe s hs).banked = s.banked := rfl
@[simp] theorem findUe_slacks (s : State) (hs : List Nat) : (findUe s hs).slacks = s.slacks := rfl
@[simp] theorem findUe_hostOut (s : State) (hs : List Nat) : (findUe s hs).hostOut = s.hostOut := rfl

@[simp] theorem bootFail_clock (s : State) (code : Nat) : (bootFail s code).clock = s.clock := rfl
@[simp] theorem bootFail_threads (s : State) (code : Nat) : (bootFail s code).threads = s.threads := rfl
@[simp] theorem bootFail_disp (s : State) (code : Nat) : (bootFail s code).disp = s.disp := rfl
@[simp] theorem bootFail_mem (s : State) (code : Nat) : (bootFail s code).mem = s.mem := rfl
@[simp] theorem bootFail_eng (s : State) (code : Nat) : (bootFail s code).eng = s.eng := rfl
@[simp] theorem bootFail_regs (s : State) (code : Nat) : (bootFail s code).regs = { s.regs with state := 15, err := code } := rfl
@[simp] theorem bootFail_debugs (s : State) (code : Nat) : (bootFail s code).debugs = s.debugs := rfl
@[simp] theorem bootFail_power (s : State) (code : Nat) : (bootFail s code).power = s.power := rfl
@[simp] theorem bootFail_cur (s : State) (code : Nat) : (bootFail s code).cur = s.cur := rfl
@[simp] theorem bootFail_fused (s : State) (code : Nat) : (bootFail s code).fused = s.fused := rfl
@[simp] theorem bootFail_picked (s : State) (code : Nat) : (bootFail s code).picked = s.picked := rfl
@[simp] theorem bootFail_sched (s : State) (code : Nat) : (bootFail s code).sched = s.sched := rfl
@[simp] theorem bootFail_free (s : State) (code : Nat) : (bootFail s code).free = s.free := rfl
@[simp] theorem bootFail_stall (s : State) (code : Nat) : (bootFail s code).stall = s.stall := rfl
@[simp] theorem bootFail_ulead (s : State) (code : Nat) : (bootFail s code).ulead = s.ulead := rfl
@[simp] theorem bootFail_ureq (s : State) (code : Nat) : (bootFail s code).ureq = s.ureq := rfl
@[simp] theorem bootFail_phase (s : State) (code : Nat) : (bootFail s code).phase = s.phase := rfl
@[simp] theorem bootFail_ready (s : State) (code : Nat) : (bootFail s code).ready = s.ready := rfl
@[simp] theorem bootFail_looks (s : State) (code : Nat) : (bootFail s code).looks = s.looks := rfl
@[simp] theorem bootFail_banked (s : State) (code : Nat) : (bootFail s code).banked = s.banked := rfl
@[simp] theorem bootFail_slacks (s : State) (code : Nat) : (bootFail s code).slacks = s.slacks := rfl
@[simp] theorem bootFail_hostOut (s : State) (code : Nat) : (bootFail s code).hostOut = s.hostOut := rfl

theorem settleLayers_eq (s : State) : ∃ q, settleLayers s = { s with regs := q } := ⟨_, rfl⟩
@[simp] theorem settleLayers_clock (s : State) : (settleLayers s).clock = s.clock := by obtain ⟨q, h⟩ := settleLayers_eq s; rw [h]
@[simp] theorem settleLayers_threads (s : State) : (settleLayers s).threads = s.threads := by obtain ⟨q, h⟩ := settleLayers_eq s; rw [h]
@[simp] theorem settleLayers_disp (s : State) : (settleLayers s).disp = s.disp := by obtain ⟨q, h⟩ := settleLayers_eq s; rw [h]
@[simp] theorem settleLayers_mem (s : State) : (settleLayers s).mem = s.mem := by obtain ⟨q, h⟩ := settleLayers_eq s; rw [h]
@[simp] theorem settleLayers_eng (s : State) : (settleLayers s).eng = s.eng := by obtain ⟨q, h⟩ := settleLayers_eq s; rw [h]
@[simp] theorem settleLayers_debugs (s : State) : (settleLayers s).debugs = s.debugs := by obtain ⟨q, h⟩ := settleLayers_eq s; rw [h]
@[simp] theorem settleLayers_power (s : State) : (settleLayers s).power = s.power := by obtain ⟨q, h⟩ := settleLayers_eq s; rw [h]
@[simp] theorem settleLayers_cur (s : State) : (settleLayers s).cur = s.cur := by obtain ⟨q, h⟩ := settleLayers_eq s; rw [h]
@[simp] theorem settleLayers_fused (s : State) : (settleLayers s).fused = s.fused := by obtain ⟨q, h⟩ := settleLayers_eq s; rw [h]
@[simp] theorem settleLayers_picked (s : State) : (settleLayers s).picked = s.picked := by obtain ⟨q, h⟩ := settleLayers_eq s; rw [h]
@[simp] theorem settleLayers_sched (s : State) : (settleLayers s).sched = s.sched := by obtain ⟨q, h⟩ := settleLayers_eq s; rw [h]
@[simp] theorem settleLayers_free (s : State) : (settleLayers s).free = s.free := by obtain ⟨q, h⟩ := settleLayers_eq s; rw [h]
@[simp] theorem settleLayers_stall (s : State) : (settleLayers s).stall = s.stall := by obtain ⟨q, h⟩ := settleLayers_eq s; rw [h]
@[simp] theorem settleLayers_ulead (s : State) : (settleLayers s).ulead = s.ulead := by obtain ⟨q, h⟩ := settleLayers_eq s; rw [h]
@[simp] theorem settleLayers_ureq (s : State) : (settleLayers s).ureq = s.ureq := by obtain ⟨q, h⟩ := settleLayers_eq s; rw [h]
@[simp] theorem settleLayers_phase (s : State) : (settleLayers s).phase = s.phase := by obtain ⟨q, h⟩ := settleLayers_eq s; rw [h]
@[simp] theorem settleLayers_ready (s : State) : (settleLayers s).ready = s.ready := by obtain ⟨q, h⟩ := settleLayers_eq s; rw [h]
@[simp] theorem settleLayers_looks (s : State) : (settleLayers s).looks = s.looks := by obtain ⟨q, h⟩ := settleLayers_eq s; rw [h]
@[simp] theorem settleLayers_banked (s : State) : (settleLayers s).banked = s.banked := by obtain ⟨q, h⟩ := settleLayers_eq s; rw [h]
@[simp] theorem settleLayers_slacks (s : State) : (settleLayers s).slacks = s.slacks := by obtain ⟨q, h⟩ := settleLayers_eq s; rw [h]
@[simp] theorem settleLayers_hostOut (s : State) : (settleLayers s).hostOut = s.hostOut := by obtain ⟨q, h⟩ := settleLayers_eq s; rw [h]

@[simp] theorem answer_clock (s : State) (ws : List Word) : (answer s ws).clock = s.clock := rfl
@[simp] theorem answer_threads (s : State) (ws : List Word) : (answer s ws).threads = s.threads := rfl
@[simp] theorem answer_disp (s : State) (ws : List Word) : (answer s ws).disp = s.disp := rfl
@[simp] theorem answer_mem (s : State) (ws : List Word) : (answer s ws).mem = s.mem := rfl
@[simp] theorem answer_eng (s : State) (ws : List Word) : (answer s ws).eng = s.eng := rfl
@[simp] theorem answer_regs (s : State) (ws : List Word) : (answer s ws).regs = s.regs := rfl
@[simp] theorem answer_debugs (s : State) (ws : List Word) : (answer s ws).debugs = s.debugs := rfl
@[simp] theorem answer_power (s : State) (ws : List Word) : (answer s ws).power = s.power := rfl
@[simp] theorem answer_cur (s : State) (ws : List Word) : (answer s ws).cur = s.cur := rfl
@[simp] theorem answer_fused (s : State) (ws : List Word) : (answer s ws).fused = s.fused := rfl
@[simp] theorem answer_picked (s : State) (ws : List Word) : (answer s ws).picked = s.picked := rfl
@[simp] theorem answer_sched (s : State) (ws : List Word) : (answer s ws).sched = s.sched := rfl
@[simp] theorem answer_free (s : State) (ws : List Word) : (answer s ws).free = s.free := rfl
@[simp] theorem answer_stall (s : State) (ws : List Word) : (answer s ws).stall = s.stall := rfl
@[simp] theorem answer_ulead (s : State) (ws : List Word) : (answer s ws).ulead = s.ulead := rfl
@[simp] theorem answer_ureq (s : State) (ws : List Word) : (answer s ws).ureq = s.ureq := rfl
@[simp] theorem answer_phase (s : State) (ws : List Word) : (answer s ws).phase = s.phase := rfl
@[simp] theorem answer_ready (s : State) (ws : List Word) : (answer s ws).ready = s.ready := rfl
@[simp] theorem answer_looks (s : State) (ws : List Word) : (answer s ws).looks = s.looks := rfl
@[simp] theorem answer_banked (s : State) (ws : List Word) : (answer s ws).banked = s.banked := rfl
@[simp] theorem answer_slacks (s : State) (ws : List Word) : (answer s ws).slacks = s.slacks := rfl
@[simp] theorem answer_hostOut (s : State) (ws : List Word) : (answer s ws).hostOut = ws := rfl

@[simp] theorem advance_key (t : Thread) (n : Nat) : (advance t n).key = t.key := rfl
@[simp] theorem advance_grid (t : Thread) (n : Nat) : (advance t n).grid = t.grid := rfl
@[simp] theorem advance_team (t : Thread) (n : Nat) : (advance t n).team = t.team := rfl
@[simp] theorem advance_teamIdx (t : Thread) (n : Nat) : (advance t n).teamIdx = t.teamIdx := rfl
@[simp] theorem advance_tid (t : Thread) (n : Nat) : (advance t n).tid = t.tid := rfl
@[simp] theorem advance_lane (t : Thread) (n : Nat) : (advance t n).lane = t.lane := rfl
@[simp] theorem advance_grp (t : Thread) (n : Nat) : (advance t n).grp = t.grp := rfl
@[simp] theorem advance_role (t : Thread) (n : Nat) : (advance t n).role = t.role := rfl
@[simp] theorem advance_kind (t : Thread) (n : Nat) : (advance t n).kind = t.kind := rfl
@[simp] theorem advance_budget (t : Thread) (n : Nat) : (advance t n).budget = t.budget := rfl
@[simp] theorem advance_core (t : Thread) (n : Nat) : (advance t n).core = t.core := rfl
@[simp] theorem advance_tcore (t : Thread) (n : Nat) : (advance t n).tcore = t.tcore := rfl
@[simp] theorem advance_lg (t : Thread) (n : Nat) : (advance t n).lg = t.lg := rfl
@[simp] theorem advance_depth (t : Thread) (n : Nat) : (advance t n).depth = t.depth := rfl
@[simp] theorem advance_isCont (t : Thread) (n : Nat) : (advance t n).isCont = t.isCont := rfl
@[simp] theorem advance_pc (t : Thread) (n : Nat) : (advance t n).pc = t.pc + n := rfl
@[simp] theorem advance_clause (t : Thread) (n : Nat) : (advance t n).clause = t.clause.bind fun c => if c.stop ≤ t.pc + n then none else some c := rfl
@[simp] theorem advance_meet (t : Thread) (n : Nat) : (advance t n).meet = t.meet := rfl
@[simp] theorem advance_mhb (t : Thread) (n : Nat) : (advance t n).mhb = t.mhb := rfl
@[simp] theorem advance_rmode (t : Thread) (n : Nat) : (advance t n).rmode = t.rmode := rfl
@[simp] theorem advance_flags (t : Thread) (n : Nat) : (advance t n).flags = t.flags := rfl
@[simp] theorem advance_v (t : Thread) (n : Nat) : (advance t n).v = t.v := rfl
@[simp] theorem advance_vt (t : Thread) (n : Nat) : (advance t n).vt = t.vt := rfl
@[simp] theorem advance_p (t : Thread) (n : Nat) : (advance t n).p = t.p := rfl
@[simp] theorem advance_b (t : Thread) (n : Nat) : (advance t n).b = t.b := rfl
@[simp] theorem advance_bt (t : Thread) (n : Nat) : (advance t n).bt = t.bt := rfl
@[simp] theorem advance_mgang (t : Thread) (n : Nat) : (advance t n).mgang = t.mgang := rfl
@[simp] theorem advance_gangCount (t : Thread) (n : Nat) : (advance t n).gangCount = t.gangCount := rfl
@[simp] theorem advance_cv (t : Thread) (n : Nat) : (advance t n).cv = t.cv := rfl
@[simp] theorem advance_cvStamp (t : Thread) (n : Nat) : (advance t n).cvStamp = t.cvStamp := rfl
@[simp] theorem advance_cvmrg (t : Thread) (n : Nat) : (advance t n).cvmrg = t.cvmrg := rfl
@[simp] theorem advance_cvsolo (t : Thread) (n : Nat) : (advance t n).cvsolo = t.cvsolo := rfl
@[simp] theorem advance_tcause (t : Thread) (n : Nat) : (advance t n).tcause = t.tcause := rfl
@[simp] theorem advance_tpc (t : Thread) (n : Nat) : (advance t n).tpc = t.tpc := rfl
@[simp] theorem advance_taddrl (t : Thread) (n : Nat) : (advance t n).taddrl = t.taddrl := rfl
@[simp] theorem advance_taddrh (t : Thread) (n : Nat) : (advance t n).taddrh = t.taddrh := rfl
@[simp] theorem advance_tmask (t : Thread) (n : Nat) : (advance t n).tmask = t.tmask := rfl
@[simp] theorem advance_tvec (t : Thread) (n : Nat) : (advance t n).tvec = t.tvec := rfl
@[simp] theorem advance_inHandler (t : Thread) (n : Nat) : (advance t n).inHandler = t.inHandler := rfl
@[simp] theorem advance_nowhere (t : Thread) (n : Nat) : (advance t n).nowhere = t.nowhere := rfl
@[simp] theorem advance_wake (t : Thread) (n : Nat) : (advance t n).wake = t.wake := rfl
@[simp] theorem advance_st (t : Thread) (n : Nat) : (advance t n).st = t.st := rfl
@[simp] theorem advance_stopped (t : Thread) (n : Nat) : (advance t n).stopped = t.stopped := rfl
@[simp] theorem advance_stopAsk (t : Thread) (n : Nat) : (advance t n).stopAsk = t.stopAsk := rfl
@[simp] theorem advance_stepping (t : Thread) (n : Nat) : (advance t n).stepping = t.stepping := rfl
@[simp] theorem advance_skipBrk (t : Thread) (n : Nat) : (advance t n).skipBrk = t.skipBrk := rfl
@[simp] theorem advance_meetDone (t : Thread) (n : Nat) : (advance t n).meetDone = t.meetDone := rfl
@[simp] theorem advance_fresh (t : Thread) (n : Nat) : (advance t n).fresh = t.fresh := rfl
@[simp] theorem advance_stepped (t : Thread) (n : Nat) : (advance t n).stepped = t.stepped := rfl
@[simp] theorem advance_blen (t : Thread) (n : Nat) : (advance t n).blen = t.blen := rfl
@[simp] theorem advance_windows (t : Thread) (n : Nat) : (advance t n).windows = t.windows := rfl
@[simp] theorem advance_outMem (t : Thread) (n : Nat) : (advance t n).outMem = t.outMem := rfl
@[simp] theorem advance_outMatrix (t : Thread) (n : Nat) : (advance t n).outMatrix = t.outMatrix := rfl
@[simp] theorem advance_outCopy (t : Thread) (n : Nat) : (advance t n).outCopy = t.outCopy := rfl
@[simp] theorem advance_outSfu (t : Thread) (n : Nat) : (advance t n).outSfu = t.outSfu := rfl
@[simp] theorem advance_acquires (t : Thread) (n : Nat) : (advance t n).acquires = t.acquires := rfl
@[simp] theorem advance_arrT (t : Thread) (n : Nat) : (advance t n).arrT = t.arrT := rfl
@[simp] theorem advance_pendT (t : Thread) (n : Nat) : (advance t n).pendT = t.pendT := rfl
@[simp] theorem advance_arrG (t : Thread) (n : Nat) : (advance t n).arrG = t.arrG := rfl
@[simp] theorem advance_pendG (t : Thread) (n : Nat) : (advance t n).pendG = t.pendG := rfl
@[simp] theorem advance_contSkipT (t : Thread) (n : Nat) : (advance t n).contSkipT = t.contSkipT := rfl
@[simp] theorem advance_contSkipG (t : Thread) (n : Nat) : (advance t n).contSkipG = t.contSkipG := rfl
@[simp] theorem advance_mopf (t : Thread) (n : Nat) : (advance t n).mopf = t.mopf := rfl
@[simp] theorem advance_created (t : Thread) (n : Nat) : (advance t n).created = t.created := rfl
@[simp] theorem advance_lastIssue (t : Thread) (n : Nat) : (advance t n).lastIssue = t.lastIssue := rfl
@[simp] theorem advance_issuePc (t : Thread) (n : Nat) : (advance t n).issuePc = t.issuePc := rfl
@[simp] theorem advance_readySince (t : Thread) (n : Nat) : (advance t n).readySince = t.readySince := rfl

@[simp] theorem faulted_key (t : Thread) (f : FaultInfo) : (faulted t f).key = t.key := rfl
@[simp] theorem faulted_grid (t : Thread) (f : FaultInfo) : (faulted t f).grid = t.grid := rfl
@[simp] theorem faulted_team (t : Thread) (f : FaultInfo) : (faulted t f).team = t.team := rfl
@[simp] theorem faulted_teamIdx (t : Thread) (f : FaultInfo) : (faulted t f).teamIdx = t.teamIdx := rfl
@[simp] theorem faulted_tid (t : Thread) (f : FaultInfo) : (faulted t f).tid = t.tid := rfl
@[simp] theorem faulted_lane (t : Thread) (f : FaultInfo) : (faulted t f).lane = t.lane := rfl
@[simp] theorem faulted_grp (t : Thread) (f : FaultInfo) : (faulted t f).grp = t.grp := rfl
@[simp] theorem faulted_role (t : Thread) (f : FaultInfo) : (faulted t f).role = t.role := rfl
@[simp] theorem faulted_kind (t : Thread) (f : FaultInfo) : (faulted t f).kind = t.kind := rfl
@[simp] theorem faulted_budget (t : Thread) (f : FaultInfo) : (faulted t f).budget = t.budget := rfl
@[simp] theorem faulted_core (t : Thread) (f : FaultInfo) : (faulted t f).core = t.core := rfl
@[simp] theorem faulted_tcore (t : Thread) (f : FaultInfo) : (faulted t f).tcore = t.tcore := rfl
@[simp] theorem faulted_lg (t : Thread) (f : FaultInfo) : (faulted t f).lg = t.lg := rfl
@[simp] theorem faulted_depth (t : Thread) (f : FaultInfo) : (faulted t f).depth = t.depth := rfl
@[simp] theorem faulted_isCont (t : Thread) (f : FaultInfo) : (faulted t f).isCont = t.isCont := rfl
@[simp] theorem faulted_pc (t : Thread) (f : FaultInfo) : (faulted t f).pc = t.pc := rfl
@[simp] theorem faulted_clause (t : Thread) (f : FaultInfo) : (faulted t f).clause = t.clause := rfl
@[simp] theorem faulted_meet (t : Thread) (f : FaultInfo) : (faulted t f).meet = t.meet := rfl
@[simp] theorem faulted_mhb (t : Thread) (f : FaultInfo) : (faulted t f).mhb = t.mhb := rfl
@[simp] theorem faulted_rmode (t : Thread) (f : FaultInfo) : (faulted t f).rmode = t.rmode := rfl
@[simp] theorem faulted_flags (t : Thread) (f : FaultInfo) : (faulted t f).flags = t.flags := rfl
@[simp] theorem faulted_v (t : Thread) (f : FaultInfo) : (faulted t f).v = t.v := rfl
@[simp] theorem faulted_vt (t : Thread) (f : FaultInfo) : (faulted t f).vt = t.vt := rfl
@[simp] theorem faulted_p (t : Thread) (f : FaultInfo) : (faulted t f).p = t.p := rfl
@[simp] theorem faulted_b (t : Thread) (f : FaultInfo) : (faulted t f).b = t.b := rfl
@[simp] theorem faulted_bt (t : Thread) (f : FaultInfo) : (faulted t f).bt = t.bt := rfl
@[simp] theorem faulted_mgang (t : Thread) (f : FaultInfo) : (faulted t f).mgang = t.mgang := rfl
@[simp] theorem faulted_gangCount (t : Thread) (f : FaultInfo) : (faulted t f).gangCount = t.gangCount := rfl
@[simp] theorem faulted_cv (t : Thread) (f : FaultInfo) : (faulted t f).cv = t.cv := rfl
@[simp] theorem faulted_cvStamp (t : Thread) (f : FaultInfo) : (faulted t f).cvStamp = t.cvStamp := rfl
@[simp] theorem faulted_cvmrg (t : Thread) (f : FaultInfo) : (faulted t f).cvmrg = t.cvmrg := rfl
@[simp] theorem faulted_cvsolo (t : Thread) (f : FaultInfo) : (faulted t f).cvsolo = t.cvsolo := rfl
@[simp] theorem faulted_tcause (t : Thread) (f : FaultInfo) : (faulted t f).tcause = t.tcause := rfl
@[simp] theorem faulted_tpc (t : Thread) (f : FaultInfo) : (faulted t f).tpc = t.tpc := rfl
@[simp] theorem faulted_taddrl (t : Thread) (f : FaultInfo) : (faulted t f).taddrl = t.taddrl := rfl
@[simp] theorem faulted_taddrh (t : Thread) (f : FaultInfo) : (faulted t f).taddrh = t.taddrh := rfl
@[simp] theorem faulted_tmask (t : Thread) (f : FaultInfo) : (faulted t f).tmask = t.tmask := rfl
@[simp] theorem faulted_tvec (t : Thread) (f : FaultInfo) : (faulted t f).tvec = t.tvec := rfl
@[simp] theorem faulted_inHandler (t : Thread) (f : FaultInfo) : (faulted t f).inHandler = t.inHandler := rfl
@[simp] theorem faulted_nowhere (t : Thread) (f : FaultInfo) : (faulted t f).nowhere = t.nowhere := rfl
@[simp] theorem faulted_wake (t : Thread) (f : FaultInfo) : (faulted t f).wake = t.wake := rfl
@[simp] theorem faulted_st (t : Thread) (f : FaultInfo) : (faulted t f).st = .trapping f := rfl
@[simp] theorem faulted_stopped (t : Thread) (f : FaultInfo) : (faulted t f).stopped = t.stopped := rfl
@[simp] theorem faulted_stopAsk (t : Thread) (f : FaultInfo) : (faulted t f).stopAsk = t.stopAsk := rfl
@[simp] theorem faulted_stepping (t : Thread) (f : FaultInfo) : (faulted t f).stepping = t.stepping := rfl
@[simp] theorem faulted_skipBrk (t : Thread) (f : FaultInfo) : (faulted t f).skipBrk = t.skipBrk := rfl
@[simp] theorem faulted_meetDone (t : Thread) (f : FaultInfo) : (faulted t f).meetDone = t.meetDone := rfl
@[simp] theorem faulted_fresh (t : Thread) (f : FaultInfo) : (faulted t f).fresh = t.fresh := rfl
@[simp] theorem faulted_stepped (t : Thread) (f : FaultInfo) : (faulted t f).stepped = t.stepped := rfl
@[simp] theorem faulted_blen (t : Thread) (f : FaultInfo) : (faulted t f).blen = t.blen := rfl
@[simp] theorem faulted_windows (t : Thread) (f : FaultInfo) : (faulted t f).windows = t.windows := rfl
@[simp] theorem faulted_outMem (t : Thread) (f : FaultInfo) : (faulted t f).outMem = t.outMem := rfl
@[simp] theorem faulted_outMatrix (t : Thread) (f : FaultInfo) : (faulted t f).outMatrix = t.outMatrix := rfl
@[simp] theorem faulted_outCopy (t : Thread) (f : FaultInfo) : (faulted t f).outCopy = t.outCopy := rfl
@[simp] theorem faulted_outSfu (t : Thread) (f : FaultInfo) : (faulted t f).outSfu = t.outSfu := rfl
@[simp] theorem faulted_acquires (t : Thread) (f : FaultInfo) : (faulted t f).acquires = t.acquires := rfl
@[simp] theorem faulted_arrT (t : Thread) (f : FaultInfo) : (faulted t f).arrT = t.arrT := rfl
@[simp] theorem faulted_pendT (t : Thread) (f : FaultInfo) : (faulted t f).pendT = t.pendT := rfl
@[simp] theorem faulted_arrG (t : Thread) (f : FaultInfo) : (faulted t f).arrG = t.arrG := rfl
@[simp] theorem faulted_pendG (t : Thread) (f : FaultInfo) : (faulted t f).pendG = t.pendG := rfl
@[simp] theorem faulted_contSkipT (t : Thread) (f : FaultInfo) : (faulted t f).contSkipT = t.contSkipT := rfl
@[simp] theorem faulted_contSkipG (t : Thread) (f : FaultInfo) : (faulted t f).contSkipG = t.contSkipG := rfl
@[simp] theorem faulted_mopf (t : Thread) (f : FaultInfo) : (faulted t f).mopf = t.mopf := rfl
@[simp] theorem faulted_created (t : Thread) (f : FaultInfo) : (faulted t f).created = t.created := rfl
@[simp] theorem faulted_lastIssue (t : Thread) (f : FaultInfo) : (faulted t f).lastIssue = t.lastIssue := rfl
@[simp] theorem faulted_issuePc (t : Thread) (f : FaultInfo) : (faulted t f).issuePc = t.issuePc := rfl
@[simp] theorem faulted_readySince (t : Thread) (f : FaultInfo) : (faulted t f).readySince = t.readySince := rfl

@[simp] theorem wrP_key (t : Thread) (d : Nat) (x : Bool) : (wrP t d x).key = t.key := by unfold wrP; split <;> rfl
@[simp] theorem wrP_grid (t : Thread) (d : Nat) (x : Bool) : (wrP t d x).grid = t.grid := by unfold wrP; split <;> rfl
@[simp] theorem wrP_team (t : Thread) (d : Nat) (x : Bool) : (wrP t d x).team = t.team := by unfold wrP; split <;> rfl
@[simp] theorem wrP_teamIdx (t : Thread) (d : Nat) (x : Bool) : (wrP t d x).teamIdx = t.teamIdx := by unfold wrP; split <;> rfl
@[simp] theorem wrP_tid (t : Thread) (d : Nat) (x : Bool) : (wrP t d x).tid = t.tid := by unfold wrP; split <;> rfl
@[simp] theorem wrP_lane (t : Thread) (d : Nat) (x : Bool) : (wrP t d x).lane = t.lane := by unfold wrP; split <;> rfl
@[simp] theorem wrP_grp (t : Thread) (d : Nat) (x : Bool) : (wrP t d x).grp = t.grp := by unfold wrP; split <;> rfl
@[simp] theorem wrP_role (t : Thread) (d : Nat) (x : Bool) : (wrP t d x).role = t.role := by unfold wrP; split <;> rfl
@[simp] theorem wrP_kind (t : Thread) (d : Nat) (x : Bool) : (wrP t d x).kind = t.kind := by unfold wrP; split <;> rfl
@[simp] theorem wrP_budget (t : Thread) (d : Nat) (x : Bool) : (wrP t d x).budget = t.budget := by unfold wrP; split <;> rfl
@[simp] theorem wrP_core (t : Thread) (d : Nat) (x : Bool) : (wrP t d x).core = t.core := by unfold wrP; split <;> rfl
@[simp] theorem wrP_tcore (t : Thread) (d : Nat) (x : Bool) : (wrP t d x).tcore = t.tcore := by unfold wrP; split <;> rfl
@[simp] theorem wrP_lg (t : Thread) (d : Nat) (x : Bool) : (wrP t d x).lg = t.lg := by unfold wrP; split <;> rfl
@[simp] theorem wrP_depth (t : Thread) (d : Nat) (x : Bool) : (wrP t d x).depth = t.depth := by unfold wrP; split <;> rfl
@[simp] theorem wrP_isCont (t : Thread) (d : Nat) (x : Bool) : (wrP t d x).isCont = t.isCont := by unfold wrP; split <;> rfl
@[simp] theorem wrP_pc (t : Thread) (d : Nat) (x : Bool) : (wrP t d x).pc = t.pc := by unfold wrP; split <;> rfl
@[simp] theorem wrP_clause (t : Thread) (d : Nat) (x : Bool) : (wrP t d x).clause = t.clause := by unfold wrP; split <;> rfl
@[simp] theorem wrP_meet (t : Thread) (d : Nat) (x : Bool) : (wrP t d x).meet = t.meet := by unfold wrP; split <;> rfl
@[simp] theorem wrP_mhb (t : Thread) (d : Nat) (x : Bool) : (wrP t d x).mhb = t.mhb := by unfold wrP; split <;> rfl
@[simp] theorem wrP_rmode (t : Thread) (d : Nat) (x : Bool) : (wrP t d x).rmode = t.rmode := by unfold wrP; split <;> rfl
@[simp] theorem wrP_flags (t : Thread) (d : Nat) (x : Bool) : (wrP t d x).flags = t.flags := by unfold wrP; split <;> rfl
@[simp] theorem wrP_v (t : Thread) (d : Nat) (x : Bool) : (wrP t d x).v = t.v := by unfold wrP; split <;> rfl
@[simp] theorem wrP_vt (t : Thread) (d : Nat) (x : Bool) : (wrP t d x).vt = t.vt := by unfold wrP; split <;> rfl
@[simp] theorem wrP_b (t : Thread) (d : Nat) (x : Bool) : (wrP t d x).b = t.b := by unfold wrP; split <;> rfl
@[simp] theorem wrP_bt (t : Thread) (d : Nat) (x : Bool) : (wrP t d x).bt = t.bt := by unfold wrP; split <;> rfl
@[simp] theorem wrP_mgang (t : Thread) (d : Nat) (x : Bool) : (wrP t d x).mgang = t.mgang := by unfold wrP; split <;> rfl
@[simp] theorem wrP_gangCount (t : Thread) (d : Nat) (x : Bool) : (wrP t d x).gangCount = t.gangCount := by unfold wrP; split <;> rfl
@[simp] theorem wrP_cv (t : Thread) (d : Nat) (x : Bool) : (wrP t d x).cv = t.cv := by unfold wrP; split <;> rfl
@[simp] theorem wrP_cvStamp (t : Thread) (d : Nat) (x : Bool) : (wrP t d x).cvStamp = t.cvStamp := by unfold wrP; split <;> rfl
@[simp] theorem wrP_cvmrg (t : Thread) (d : Nat) (x : Bool) : (wrP t d x).cvmrg = t.cvmrg := by unfold wrP; split <;> rfl
@[simp] theorem wrP_cvsolo (t : Thread) (d : Nat) (x : Bool) : (wrP t d x).cvsolo = t.cvsolo := by unfold wrP; split <;> rfl
@[simp] theorem wrP_tcause (t : Thread) (d : Nat) (x : Bool) : (wrP t d x).tcause = t.tcause := by unfold wrP; split <;> rfl
@[simp] theorem wrP_tpc (t : Thread) (d : Nat) (x : Bool) : (wrP t d x).tpc = t.tpc := by unfold wrP; split <;> rfl
@[simp] theorem wrP_taddrl (t : Thread) (d : Nat) (x : Bool) : (wrP t d x).taddrl = t.taddrl := by unfold wrP; split <;> rfl
@[simp] theorem wrP_taddrh (t : Thread) (d : Nat) (x : Bool) : (wrP t d x).taddrh = t.taddrh := by unfold wrP; split <;> rfl
@[simp] theorem wrP_tmask (t : Thread) (d : Nat) (x : Bool) : (wrP t d x).tmask = t.tmask := by unfold wrP; split <;> rfl
@[simp] theorem wrP_tvec (t : Thread) (d : Nat) (x : Bool) : (wrP t d x).tvec = t.tvec := by unfold wrP; split <;> rfl
@[simp] theorem wrP_inHandler (t : Thread) (d : Nat) (x : Bool) : (wrP t d x).inHandler = t.inHandler := by unfold wrP; split <;> rfl
@[simp] theorem wrP_nowhere (t : Thread) (d : Nat) (x : Bool) : (wrP t d x).nowhere = t.nowhere := by unfold wrP; split <;> rfl
@[simp] theorem wrP_wake (t : Thread) (d : Nat) (x : Bool) : (wrP t d x).wake = t.wake := by unfold wrP; split <;> rfl
@[simp] theorem wrP_st (t : Thread) (d : Nat) (x : Bool) : (wrP t d x).st = t.st := by unfold wrP; split <;> rfl
@[simp] theorem wrP_stopped (t : Thread) (d : Nat) (x : Bool) : (wrP t d x).stopped = t.stopped := by unfold wrP; split <;> rfl
@[simp] theorem wrP_stopAsk (t : Thread) (d : Nat) (x : Bool) : (wrP t d x).stopAsk = t.stopAsk := by unfold wrP; split <;> rfl
@[simp] theorem wrP_stepping (t : Thread) (d : Nat) (x : Bool) : (wrP t d x).stepping = t.stepping := by unfold wrP; split <;> rfl
@[simp] theorem wrP_skipBrk (t : Thread) (d : Nat) (x : Bool) : (wrP t d x).skipBrk = t.skipBrk := by unfold wrP; split <;> rfl
@[simp] theorem wrP_meetDone (t : Thread) (d : Nat) (x : Bool) : (wrP t d x).meetDone = t.meetDone := by unfold wrP; split <;> rfl
@[simp] theorem wrP_fresh (t : Thread) (d : Nat) (x : Bool) : (wrP t d x).fresh = t.fresh := by unfold wrP; split <;> rfl
@[simp] theorem wrP_stepped (t : Thread) (d : Nat) (x : Bool) : (wrP t d x).stepped = t.stepped := by unfold wrP; split <;> rfl
@[simp] theorem wrP_blen (t : Thread) (d : Nat) (x : Bool) : (wrP t d x).blen = t.blen := by unfold wrP; split <;> rfl
@[simp] theorem wrP_windows (t : Thread) (d : Nat) (x : Bool) : (wrP t d x).windows = t.windows := by unfold wrP; split <;> rfl
@[simp] theorem wrP_outMem (t : Thread) (d : Nat) (x : Bool) : (wrP t d x).outMem = t.outMem := by unfold wrP; split <;> rfl
@[simp] theorem wrP_outMatrix (t : Thread) (d : Nat) (x : Bool) : (wrP t d x).outMatrix = t.outMatrix := by unfold wrP; split <;> rfl
@[simp] theorem wrP_outCopy (t : Thread) (d : Nat) (x : Bool) : (wrP t d x).outCopy = t.outCopy := by unfold wrP; split <;> rfl
@[simp] theorem wrP_outSfu (t : Thread) (d : Nat) (x : Bool) : (wrP t d x).outSfu = t.outSfu := by unfold wrP; split <;> rfl
@[simp] theorem wrP_acquires (t : Thread) (d : Nat) (x : Bool) : (wrP t d x).acquires = t.acquires := by unfold wrP; split <;> rfl
@[simp] theorem wrP_arrT (t : Thread) (d : Nat) (x : Bool) : (wrP t d x).arrT = t.arrT := by unfold wrP; split <;> rfl
@[simp] theorem wrP_pendT (t : Thread) (d : Nat) (x : Bool) : (wrP t d x).pendT = t.pendT := by unfold wrP; split <;> rfl
@[simp] theorem wrP_arrG (t : Thread) (d : Nat) (x : Bool) : (wrP t d x).arrG = t.arrG := by unfold wrP; split <;> rfl
@[simp] theorem wrP_pendG (t : Thread) (d : Nat) (x : Bool) : (wrP t d x).pendG = t.pendG := by unfold wrP; split <;> rfl
@[simp] theorem wrP_contSkipT (t : Thread) (d : Nat) (x : Bool) : (wrP t d x).contSkipT = t.contSkipT := by unfold wrP; split <;> rfl
@[simp] theorem wrP_contSkipG (t : Thread) (d : Nat) (x : Bool) : (wrP t d x).contSkipG = t.contSkipG := by unfold wrP; split <;> rfl
@[simp] theorem wrP_mopf (t : Thread) (d : Nat) (x : Bool) : (wrP t d x).mopf = t.mopf := by unfold wrP; split <;> rfl
@[simp] theorem wrP_created (t : Thread) (d : Nat) (x : Bool) : (wrP t d x).created = t.created := by unfold wrP; split <;> rfl
@[simp] theorem wrP_lastIssue (t : Thread) (d : Nat) (x : Bool) : (wrP t d x).lastIssue = t.lastIssue := by unfold wrP; split <;> rfl
@[simp] theorem wrP_issuePc (t : Thread) (d : Nat) (x : Bool) : (wrP t d x).issuePc = t.issuePc := by unfold wrP; split <;> rfl
@[simp] theorem wrP_readySince (t : Thread) (d : Nat) (x : Bool) : (wrP t d x).readySince = t.readySince := by unfold wrP; split <;> rfl

@[simp] theorem wrV_key (t : Thread) (d : Nat) (x : Word) (m : Bool) : (wrV t d x m).key = t.key := rfl
@[simp] theorem wrV_grid (t : Thread) (d : Nat) (x : Word) (m : Bool) : (wrV t d x m).grid = t.grid := rfl
@[simp] theorem wrV_team (t : Thread) (d : Nat) (x : Word) (m : Bool) : (wrV t d x m).team = t.team := rfl
@[simp] theorem wrV_teamIdx (t : Thread) (d : Nat) (x : Word) (m : Bool) : (wrV t d x m).teamIdx = t.teamIdx := rfl
@[simp] theorem wrV_tid (t : Thread) (d : Nat) (x : Word) (m : Bool) : (wrV t d x m).tid = t.tid := rfl
@[simp] theorem wrV_lane (t : Thread) (d : Nat) (x : Word) (m : Bool) : (wrV t d x m).lane = t.lane := rfl
@[simp] theorem wrV_grp (t : Thread) (d : Nat) (x : Word) (m : Bool) : (wrV t d x m).grp = t.grp := rfl
@[simp] theorem wrV_role (t : Thread) (d : Nat) (x : Word) (m : Bool) : (wrV t d x m).role = t.role := rfl
@[simp] theorem wrV_kind (t : Thread) (d : Nat) (x : Word) (m : Bool) : (wrV t d x m).kind = t.kind := rfl
@[simp] theorem wrV_budget (t : Thread) (d : Nat) (x : Word) (m : Bool) : (wrV t d x m).budget = t.budget := rfl
@[simp] theorem wrV_core (t : Thread) (d : Nat) (x : Word) (m : Bool) : (wrV t d x m).core = t.core := rfl
@[simp] theorem wrV_tcore (t : Thread) (d : Nat) (x : Word) (m : Bool) : (wrV t d x m).tcore = t.tcore := rfl
@[simp] theorem wrV_lg (t : Thread) (d : Nat) (x : Word) (m : Bool) : (wrV t d x m).lg = t.lg := rfl
@[simp] theorem wrV_depth (t : Thread) (d : Nat) (x : Word) (m : Bool) : (wrV t d x m).depth = t.depth := rfl
@[simp] theorem wrV_isCont (t : Thread) (d : Nat) (x : Word) (m : Bool) : (wrV t d x m).isCont = t.isCont := rfl
@[simp] theorem wrV_pc (t : Thread) (d : Nat) (x : Word) (m : Bool) : (wrV t d x m).pc = t.pc := rfl
@[simp] theorem wrV_clause (t : Thread) (d : Nat) (x : Word) (m : Bool) : (wrV t d x m).clause = t.clause := rfl
@[simp] theorem wrV_meet (t : Thread) (d : Nat) (x : Word) (m : Bool) : (wrV t d x m).meet = t.meet := rfl
@[simp] theorem wrV_mhb (t : Thread) (d : Nat) (x : Word) (m : Bool) : (wrV t d x m).mhb = t.mhb := rfl
@[simp] theorem wrV_rmode (t : Thread) (d : Nat) (x : Word) (m : Bool) : (wrV t d x m).rmode = t.rmode := rfl
@[simp] theorem wrV_flags (t : Thread) (d : Nat) (x : Word) (m : Bool) : (wrV t d x m).flags = t.flags := rfl
@[simp] theorem wrV_p (t : Thread) (d : Nat) (x : Word) (m : Bool) : (wrV t d x m).p = t.p := rfl
@[simp] theorem wrV_b (t : Thread) (d : Nat) (x : Word) (m : Bool) : (wrV t d x m).b = t.b := rfl
@[simp] theorem wrV_bt (t : Thread) (d : Nat) (x : Word) (m : Bool) : (wrV t d x m).bt = t.bt := rfl
@[simp] theorem wrV_mgang (t : Thread) (d : Nat) (x : Word) (m : Bool) : (wrV t d x m).mgang = t.mgang := rfl
@[simp] theorem wrV_gangCount (t : Thread) (d : Nat) (x : Word) (m : Bool) : (wrV t d x m).gangCount = t.gangCount := rfl
@[simp] theorem wrV_cv (t : Thread) (d : Nat) (x : Word) (m : Bool) : (wrV t d x m).cv = t.cv := rfl
@[simp] theorem wrV_cvStamp (t : Thread) (d : Nat) (x : Word) (m : Bool) : (wrV t d x m).cvStamp = t.cvStamp := rfl
@[simp] theorem wrV_cvmrg (t : Thread) (d : Nat) (x : Word) (m : Bool) : (wrV t d x m).cvmrg = t.cvmrg := rfl
@[simp] theorem wrV_cvsolo (t : Thread) (d : Nat) (x : Word) (m : Bool) : (wrV t d x m).cvsolo = t.cvsolo := rfl
@[simp] theorem wrV_tcause (t : Thread) (d : Nat) (x : Word) (m : Bool) : (wrV t d x m).tcause = t.tcause := rfl
@[simp] theorem wrV_tpc (t : Thread) (d : Nat) (x : Word) (m : Bool) : (wrV t d x m).tpc = t.tpc := rfl
@[simp] theorem wrV_taddrl (t : Thread) (d : Nat) (x : Word) (m : Bool) : (wrV t d x m).taddrl = t.taddrl := rfl
@[simp] theorem wrV_taddrh (t : Thread) (d : Nat) (x : Word) (m : Bool) : (wrV t d x m).taddrh = t.taddrh := rfl
@[simp] theorem wrV_tmask (t : Thread) (d : Nat) (x : Word) (m : Bool) : (wrV t d x m).tmask = t.tmask := rfl
@[simp] theorem wrV_tvec (t : Thread) (d : Nat) (x : Word) (m : Bool) : (wrV t d x m).tvec = t.tvec := rfl
@[simp] theorem wrV_inHandler (t : Thread) (d : Nat) (x : Word) (m : Bool) : (wrV t d x m).inHandler = t.inHandler := rfl
@[simp] theorem wrV_nowhere (t : Thread) (d : Nat) (x : Word) (m : Bool) : (wrV t d x m).nowhere = t.nowhere := rfl
@[simp] theorem wrV_wake (t : Thread) (d : Nat) (x : Word) (m : Bool) : (wrV t d x m).wake = t.wake := rfl
@[simp] theorem wrV_st (t : Thread) (d : Nat) (x : Word) (m : Bool) : (wrV t d x m).st = t.st := rfl
@[simp] theorem wrV_stopped (t : Thread) (d : Nat) (x : Word) (m : Bool) : (wrV t d x m).stopped = t.stopped := rfl
@[simp] theorem wrV_stopAsk (t : Thread) (d : Nat) (x : Word) (m : Bool) : (wrV t d x m).stopAsk = t.stopAsk := rfl
@[simp] theorem wrV_stepping (t : Thread) (d : Nat) (x : Word) (m : Bool) : (wrV t d x m).stepping = t.stepping := rfl
@[simp] theorem wrV_skipBrk (t : Thread) (d : Nat) (x : Word) (m : Bool) : (wrV t d x m).skipBrk = t.skipBrk := rfl
@[simp] theorem wrV_meetDone (t : Thread) (d : Nat) (x : Word) (m : Bool) : (wrV t d x m).meetDone = t.meetDone := rfl
@[simp] theorem wrV_fresh (t : Thread) (d : Nat) (x : Word) (m : Bool) : (wrV t d x m).fresh = t.fresh := rfl
@[simp] theorem wrV_stepped (t : Thread) (d : Nat) (x : Word) (m : Bool) : (wrV t d x m).stepped = t.stepped := rfl
@[simp] theorem wrV_blen (t : Thread) (d : Nat) (x : Word) (m : Bool) : (wrV t d x m).blen = t.blen := rfl
@[simp] theorem wrV_windows (t : Thread) (d : Nat) (x : Word) (m : Bool) : (wrV t d x m).windows = t.windows := rfl
@[simp] theorem wrV_outMem (t : Thread) (d : Nat) (x : Word) (m : Bool) : (wrV t d x m).outMem = t.outMem := rfl
@[simp] theorem wrV_outMatrix (t : Thread) (d : Nat) (x : Word) (m : Bool) : (wrV t d x m).outMatrix = t.outMatrix := rfl
@[simp] theorem wrV_outCopy (t : Thread) (d : Nat) (x : Word) (m : Bool) : (wrV t d x m).outCopy = t.outCopy := rfl
@[simp] theorem wrV_outSfu (t : Thread) (d : Nat) (x : Word) (m : Bool) : (wrV t d x m).outSfu = t.outSfu := rfl
@[simp] theorem wrV_acquires (t : Thread) (d : Nat) (x : Word) (m : Bool) : (wrV t d x m).acquires = t.acquires := rfl
@[simp] theorem wrV_arrT (t : Thread) (d : Nat) (x : Word) (m : Bool) : (wrV t d x m).arrT = t.arrT := rfl
@[simp] theorem wrV_pendT (t : Thread) (d : Nat) (x : Word) (m : Bool) : (wrV t d x m).pendT = t.pendT := rfl
@[simp] theorem wrV_arrG (t : Thread) (d : Nat) (x : Word) (m : Bool) : (wrV t d x m).arrG = t.arrG := rfl
@[simp] theorem wrV_pendG (t : Thread) (d : Nat) (x : Word) (m : Bool) : (wrV t d x m).pendG = t.pendG := rfl
@[simp] theorem wrV_contSkipT (t : Thread) (d : Nat) (x : Word) (m : Bool) : (wrV t d x m).contSkipT = t.contSkipT := rfl
@[simp] theorem wrV_contSkipG (t : Thread) (d : Nat) (x : Word) (m : Bool) : (wrV t d x m).contSkipG = t.contSkipG := rfl
@[simp] theorem wrV_mopf (t : Thread) (d : Nat) (x : Word) (m : Bool) : (wrV t d x m).mopf = t.mopf := rfl
@[simp] theorem wrV_created (t : Thread) (d : Nat) (x : Word) (m : Bool) : (wrV t d x m).created = t.created := rfl
@[simp] theorem wrV_lastIssue (t : Thread) (d : Nat) (x : Word) (m : Bool) : (wrV t d x m).lastIssue = t.lastIssue := rfl
@[simp] theorem wrV_issuePc (t : Thread) (d : Nat) (x : Word) (m : Bool) : (wrV t d x m).issuePc = t.issuePc := rfl
@[simp] theorem wrV_readySince (t : Thread) (d : Nat) (x : Word) (m : Bool) : (wrV t d x m).readySince = t.readySince := rfl

@[simp] theorem orFlags_key (t : Thread) (b : Nat) : (orFlags t b).key = t.key := rfl
@[simp] theorem orFlags_grid (t : Thread) (b : Nat) : (orFlags t b).grid = t.grid := rfl
@[simp] theorem orFlags_team (t : Thread) (b : Nat) : (orFlags t b).team = t.team := rfl
@[simp] theorem orFlags_teamIdx (t : Thread) (b : Nat) : (orFlags t b).teamIdx = t.teamIdx := rfl
@[simp] theorem orFlags_tid (t : Thread) (b : Nat) : (orFlags t b).tid = t.tid := rfl
@[simp] theorem orFlags_lane (t : Thread) (b : Nat) : (orFlags t b).lane = t.lane := rfl
@[simp] theorem orFlags_grp (t : Thread) (b : Nat) : (orFlags t b).grp = t.grp := rfl
@[simp] theorem orFlags_role (t : Thread) (b : Nat) : (orFlags t b).role = t.role := rfl
@[simp] theorem orFlags_kind (t : Thread) (b : Nat) : (orFlags t b).kind = t.kind := rfl
@[simp] theorem orFlags_budget (t : Thread) (b : Nat) : (orFlags t b).budget = t.budget := rfl
@[simp] theorem orFlags_core (t : Thread) (b : Nat) : (orFlags t b).core = t.core := rfl
@[simp] theorem orFlags_tcore (t : Thread) (b : Nat) : (orFlags t b).tcore = t.tcore := rfl
@[simp] theorem orFlags_lg (t : Thread) (b : Nat) : (orFlags t b).lg = t.lg := rfl
@[simp] theorem orFlags_depth (t : Thread) (b : Nat) : (orFlags t b).depth = t.depth := rfl
@[simp] theorem orFlags_isCont (t : Thread) (b : Nat) : (orFlags t b).isCont = t.isCont := rfl
@[simp] theorem orFlags_pc (t : Thread) (b : Nat) : (orFlags t b).pc = t.pc := rfl
@[simp] theorem orFlags_clause (t : Thread) (b : Nat) : (orFlags t b).clause = t.clause := rfl
@[simp] theorem orFlags_meet (t : Thread) (b : Nat) : (orFlags t b).meet = t.meet := rfl
@[simp] theorem orFlags_mhb (t : Thread) (b : Nat) : (orFlags t b).mhb = t.mhb := rfl
@[simp] theorem orFlags_rmode (t : Thread) (b : Nat) : (orFlags t b).rmode = t.rmode := rfl
@[simp] theorem orFlags_v (t : Thread) (b : Nat) : (orFlags t b).v = t.v := rfl
@[simp] theorem orFlags_vt (t : Thread) (b : Nat) : (orFlags t b).vt = t.vt := rfl
@[simp] theorem orFlags_p (t : Thread) (b : Nat) : (orFlags t b).p = t.p := rfl
@[simp] theorem orFlags_b (t : Thread) (b : Nat) : (orFlags t b).b = t.b := rfl
@[simp] theorem orFlags_bt (t : Thread) (b : Nat) : (orFlags t b).bt = t.bt := rfl
@[simp] theorem orFlags_mgang (t : Thread) (b : Nat) : (orFlags t b).mgang = t.mgang := rfl
@[simp] theorem orFlags_gangCount (t : Thread) (b : Nat) : (orFlags t b).gangCount = t.gangCount := rfl
@[simp] theorem orFlags_cv (t : Thread) (b : Nat) : (orFlags t b).cv = t.cv := rfl
@[simp] theorem orFlags_cvStamp (t : Thread) (b : Nat) : (orFlags t b).cvStamp = t.cvStamp := rfl
@[simp] theorem orFlags_cvmrg (t : Thread) (b : Nat) : (orFlags t b).cvmrg = t.cvmrg := rfl
@[simp] theorem orFlags_cvsolo (t : Thread) (b : Nat) : (orFlags t b).cvsolo = t.cvsolo := rfl
@[simp] theorem orFlags_tcause (t : Thread) (b : Nat) : (orFlags t b).tcause = t.tcause := rfl
@[simp] theorem orFlags_tpc (t : Thread) (b : Nat) : (orFlags t b).tpc = t.tpc := rfl
@[simp] theorem orFlags_taddrl (t : Thread) (b : Nat) : (orFlags t b).taddrl = t.taddrl := rfl
@[simp] theorem orFlags_taddrh (t : Thread) (b : Nat) : (orFlags t b).taddrh = t.taddrh := rfl
@[simp] theorem orFlags_tmask (t : Thread) (b : Nat) : (orFlags t b).tmask = t.tmask := rfl
@[simp] theorem orFlags_tvec (t : Thread) (b : Nat) : (orFlags t b).tvec = t.tvec := rfl
@[simp] theorem orFlags_inHandler (t : Thread) (b : Nat) : (orFlags t b).inHandler = t.inHandler := rfl
@[simp] theorem orFlags_nowhere (t : Thread) (b : Nat) : (orFlags t b).nowhere = t.nowhere := rfl
@[simp] theorem orFlags_wake (t : Thread) (b : Nat) : (orFlags t b).wake = t.wake := rfl
@[simp] theorem orFlags_st (t : Thread) (b : Nat) : (orFlags t b).st = t.st := rfl
@[simp] theorem orFlags_stopped (t : Thread) (b : Nat) : (orFlags t b).stopped = t.stopped := rfl
@[simp] theorem orFlags_stopAsk (t : Thread) (b : Nat) : (orFlags t b).stopAsk = t.stopAsk := rfl
@[simp] theorem orFlags_stepping (t : Thread) (b : Nat) : (orFlags t b).stepping = t.stepping := rfl
@[simp] theorem orFlags_skipBrk (t : Thread) (b : Nat) : (orFlags t b).skipBrk = t.skipBrk := rfl
@[simp] theorem orFlags_meetDone (t : Thread) (b : Nat) : (orFlags t b).meetDone = t.meetDone := rfl
@[simp] theorem orFlags_fresh (t : Thread) (b : Nat) : (orFlags t b).fresh = t.fresh := rfl
@[simp] theorem orFlags_stepped (t : Thread) (b : Nat) : (orFlags t b).stepped = t.stepped := rfl
@[simp] theorem orFlags_blen (t : Thread) (b : Nat) : (orFlags t b).blen = t.blen := rfl
@[simp] theorem orFlags_windows (t : Thread) (b : Nat) : (orFlags t b).windows = t.windows := rfl
@[simp] theorem orFlags_outMem (t : Thread) (b : Nat) : (orFlags t b).outMem = t.outMem := rfl
@[simp] theorem orFlags_outMatrix (t : Thread) (b : Nat) : (orFlags t b).outMatrix = t.outMatrix := rfl
@[simp] theorem orFlags_outCopy (t : Thread) (b : Nat) : (orFlags t b).outCopy = t.outCopy := rfl
@[simp] theorem orFlags_outSfu (t : Thread) (b : Nat) : (orFlags t b).outSfu = t.outSfu := rfl
@[simp] theorem orFlags_acquires (t : Thread) (b : Nat) : (orFlags t b).acquires = t.acquires := rfl
@[simp] theorem orFlags_arrT (t : Thread) (b : Nat) : (orFlags t b).arrT = t.arrT := rfl
@[simp] theorem orFlags_pendT (t : Thread) (b : Nat) : (orFlags t b).pendT = t.pendT := rfl
@[simp] theorem orFlags_arrG (t : Thread) (b : Nat) : (orFlags t b).arrG = t.arrG := rfl
@[simp] theorem orFlags_pendG (t : Thread) (b : Nat) : (orFlags t b).pendG = t.pendG := rfl
@[simp] theorem orFlags_contSkipT (t : Thread) (b : Nat) : (orFlags t b).contSkipT = t.contSkipT := rfl
@[simp] theorem orFlags_contSkipG (t : Thread) (b : Nat) : (orFlags t b).contSkipG = t.contSkipG := rfl
@[simp] theorem orFlags_mopf (t : Thread) (b : Nat) : (orFlags t b).mopf = t.mopf := rfl
@[simp] theorem orFlags_created (t : Thread) (b : Nat) : (orFlags t b).created = t.created := rfl
@[simp] theorem orFlags_lastIssue (t : Thread) (b : Nat) : (orFlags t b).lastIssue = t.lastIssue := rfl
@[simp] theorem orFlags_issuePc (t : Thread) (b : Nat) : (orFlags t b).issuePc = t.issuePc := rfl
@[simp] theorem orFlags_readySince (t : Thread) (b : Nat) : (orFlags t b).readySince = t.readySince := rfl

end Sys2Proof.Machine
end

