-- ==== Sys2Proof/Tests/Slice0.lean ====
section
/-! SUPPORT. The model's own tests: ill-formed instructions, words written out from the spec's encodings, single steps with results
from the spec, and for every statement a state and operands that meet its hypotheses. -/

namespace Sys2Proof.Tests

open Sys2Proof.Machine Sys2Proof.Safety

noncomputable section

set_option Elab.async false

/-! ### Small states -/

/-- A thread of key 0 inside a clause of eight bytes, at its first instruction. -/
def thr (kind cls : Nat) : Thread :=
  { key := 0, grid := 1, team := 0, teamIdx := 0, tid := 0, lane := 0, grp := 0, role := 0, kind := kind, budget := 128, core := 0
    tcore := 0, lg := 0, depth := 0, pc := 4, clause := some { hdr := 0, cls := cls, gw := 0, stop := 8 } }

/-- A machine of one grid and one team, with these threads. -/
def mk (ts : List Thread) : State :=
  let s := placeCode State.reset 1 []
  { s with threads := ts, fused := [] }

/-- A thread with word x in v1, word y in v2, word z in v3. -/
def withV (t : Thread) (x y z : Word) : Thread := { t with v := [0, x, y, z] }

theorem issues_all {l : List Instr} {s : State} {t : Thread} (h1 : getThread s s.cur = some t) (h2 : t.st = .ready)
    (h3 : ∀ i ∈ l, issueCheck i t = .ok) : ∀ i ∈ l, Issues i s t := fun i hi => ⟨h1, h2, h3 i hi⟩

/-! ### Decoding: one word of each opcode, written out from the prefix (R88), the formats (R91 to R101) and the opcode maps (R103).
The guard is `!p5`; D, A and B are 81, 44 and 99; LA is 11, BS 5, a handle 37, a queue 165, a tile 2. -/

theorem test_decode_alu_1 : ∀ p ∈ ([(0x03B45663, none, .add ⟨true, 5⟩ true 81 44 (.reg 99)),
    (0x07B45600, (some 0x9ABCDEF0), .sub ⟨true, 5⟩ true 81 44 (.lit 0x9ABCDEF0)),
    (0x0BB45663, none, .mul ⟨true, 5⟩ true 81 44 (.reg 99)),
    (0x0FB45600, (some 0x9ABCDEF0), .mulhI32 ⟨true, 5⟩ true 81 44 (.lit 0x9ABCDEF0)),
    (0x13B45663, none, .mulhN32 ⟨true, 5⟩ true 81 44 (.reg 99)),
    (0x17B45600, (some 0x9ABCDEF0), .mad ⟨true, 5⟩ true 81 44 (.lit 0x9ABCDEF0)),
    (0x1BB45663, none, .madwI32 ⟨true, 5⟩ true 81 44 (.reg 99)),
    (0x1FB45600, (some 0x9ABCDEF0), .madwN32 ⟨true, 5⟩ true 81 44 (.lit 0x9ABCDEF0)),
    (0x23B45663, none, .add64 ⟨true, 5⟩ true 81 44 99), (0x27B45663, none, .sub64 ⟨true, 5⟩ true 81 44 99),
    (0x2BB45663, none, .addsI32 ⟨true, 5⟩ true 81 44 (.reg 99)),
    (0x2FB45600, (some 0x9ABCDEF0), .subsI32 ⟨true, 5⟩ true 81 44 (.lit 0x9ABCDEF0)),
    (0x33B45663, none, .minI32 ⟨true, 5⟩ true 81 44 (.reg 99)),
    (0x37B45600, (some 0x9ABCDEF0), .maxI32 ⟨true, 5⟩ true 81 44 (.lit 0x9ABCDEF0)),
    (0x3BB45663, none, .minN32 ⟨true, 5⟩ true 81 44 (.reg 99)),
    (0x3FB45600, (some 0x9ABCDEF0), .maxN32 ⟨true, 5⟩ true 81 44 (.lit 0x9ABCDEF0)),
    (0x43B45663, none, .and ⟨true, 5⟩ true 81 44 (.reg 99)),
    (0x47B45600, (some 0x9ABCDEF0), .or ⟨true, 5⟩ true 81 44 (.lit 0x9ABCDEF0)),
    (0x4BB45663, none, .xor ⟨true, 5⟩ true 81 44 (.reg 99)),
    (0x4FB45600, (some 0x9ABCDEF0), .andn ⟨true, 5⟩ true 81 44 (.lit 0x9ABCDEF0)),
    (0x53B45663, none, .shl ⟨true, 5⟩ true 81 44 (.reg 99)),
    (0x57B45600, (some 0x9ABCDEF0), .shr ⟨true, 5⟩ true 81 44 (.lit 0x9ABCDEF0))] : List (Nat × Option Nat × Instr)),
    decode 0 p.1 p.2.1 = .ok p.2.2 := by decide +kernel

theorem test_decode_alu_2 : ∀ p ∈ ([(0x5BB45663, none, .sar ⟨true, 5⟩ true 81 44 (.reg 99)), (0x5FB45600, none, .popc ⟨true, 5⟩ true 81 44),
    (0x63B45600, none, .clz ⟨true, 5⟩ true 81 44), (0x67B45600, none, .brev ⟨true, 5⟩ true 81 44),
    (0x6BB45663, none, .bfeN32 ⟨true, 5⟩ true 81 44 (.reg 99)),
    (0x6FB45600, (some 0x9ABCDEF0), .bfeI32 ⟨true, 5⟩ true 81 44 (.lit 0x9ABCDEF0)),
    (0x73B45663, none, .bfi ⟨true, 5⟩ true 81 44 (.reg 99)),
    (0x77B45600, (some 0x9ABCDEF0), .permb ⟨true, 5⟩ true 81 44 (.lit 0x9ABCDEF0)),
    (0x7BB45663, none, .dot4I8 ⟨true, 5⟩ true 81 44 (.reg 99)),
    (0x7FB45600, (some 0x9ABCDEF0), .dot4N8 ⟨true, 5⟩ true 81 44 (.lit 0x9ABCDEF0)),
    (0x83B45663, none, .setpEq ⟨true, 5⟩ true 81 44 (.reg 99)),
    (0x87B45600, (some 0x9ABCDEF0), .setpNe ⟨true, 5⟩ true 81 44 (.lit 0x9ABCDEF0)),
    (0x8BB45663, none, .setpLtI32 ⟨true, 5⟩ true 81 44 (.reg 99)),
    (0x8FB45600, (some 0x9ABCDEF0), .setpLeI32 ⟨true, 5⟩ true 81 44 (.lit 0x9ABCDEF0)),
    (0x93B45663, none, .setpLtN32 ⟨true, 5⟩ true 81 44 (.reg 99)),
    (0x97B45600, (some 0x9ABCDEF0), .setpLeN32 ⟨true, 5⟩ true 81 44 (.lit 0x9ABCDEF0)),
    (0x9BB45663, none, .setpEqF32 ⟨true, 5⟩ true 81 44 (.reg 99)),
    (0x9FB45600, (some 0x9ABCDEF0), .setpNeF32 ⟨true, 5⟩ true 81 44 (.lit 0x9ABCDEF0)),
    (0xA3B45663, none, .setpLtF32 ⟨true, 5⟩ true 81 44 (.reg 99)),
    (0xA7B45600, (some 0x9ABCDEF0), .setpLeF32 ⟨true, 5⟩ true 81 44 (.lit 0x9ABCDEF0)),
    (0xABB45663, none, .setpUnF32 ⟨true, 5⟩ true 81 44 (.reg 99)),
    (0xAFB45600, (some 0x9ABCDEF0), .sel ⟨true, 5⟩ true 81 44 (.lit 0x9ABCDEF0))] : List (Nat × Option Nat × Instr)),
    decode 0 p.1 p.2.1 = .ok p.2.2 := by decide +kernel

theorem test_decode_alu_3 : ∀ p ∈ ([(0xB3B45663, none, .pand ⟨true, 5⟩ true 81 44 99), (0xB7B45663, none, .por ⟨true, 5⟩ true 81 44 99),
    (0xBBB45663, none, .pxor ⟨true, 5⟩ true 81 44 99), (0xBFB45663, none, .pandn ⟨true, 5⟩ true 81 44 99),
    (0xC3B45600, none, .ppack ⟨true, 5⟩ true 81 44), (0xC7B45600, none, .punpack ⟨true, 5⟩ true 81 44),
    (0xCBB45600, none, .mov ⟨true, 5⟩ true 81 44), (0xCFB46B3D, none, .movi ⟨true, 5⟩ true 81 0x2B3D),
    (0xCFB44000, (some 0x9ABCDEF0), .moviLiteral ⟨true, 5⟩ true 81 0x9ABCDEF0),
    (0xD3B45663, none, .fadd ⟨true, 5⟩ true 81 44 (.reg 99)),
    (0xD7B45600, (some 0x9ABCDEF0), .fsub ⟨true, 5⟩ true 81 44 (.lit 0x9ABCDEF0)),
    (0xDBB45663, none, .fmul ⟨true, 5⟩ true 81 44 (.reg 99)),
    (0xDFB45600, (some 0x9ABCDEF0), .ffma ⟨true, 5⟩ true 81 44 (.lit 0x9ABCDEF0)),
    (0xE3B45663, none, .fmin ⟨true, 5⟩ true 81 44 (.reg 99)),
    (0xE7B45600, (some 0x9ABCDEF0), .fmax ⟨true, 5⟩ true 81 44 (.lit 0x9ABCDEF0)),
    (0xEBB45663, none, .hfma2 ⟨true, 5⟩ true 81 44 (.reg 99)),
    (0xEFB45600, (some 0x9ABCDEF0), .hadd2 ⟨true, 5⟩ true 81 44 (.lit 0x9ABCDEF0)),
    (0xF3B45663, none, .hmul2 ⟨true, 5⟩ true 81 44 (.reg 99)),
    (0xF7B45600, (some 0x9ABCDEF0), .bfma2 ⟨true, 5⟩ true 81 44 (.lit 0x9ABCDEF0)),
    (0xFBB46B3D, none, .movs ⟨true, 5⟩ true 81 0x2B3D), (0xFFB46B3D, none, .movsw ⟨true, 5⟩ true 81 0x2B3D)] : List (Nat × Option Nat × Instr)),
    decode 0 p.1 p.2.1 = .ok p.2.2 := by decide +kernel

theorem test_decode_sfu_1 : ∀ p ∈ ([(0x03B45658, none, .cvtF32I32 ⟨true, 5⟩ true 81 44 11), (0x07B45658, none, .cvtF32N32 ⟨true, 5⟩ true 81 44 11),
    (0x0BB45658, none, .cvtI32F32 ⟨true, 5⟩ true 81 44 11), (0x0FB45658, none, .cvtN32F32 ⟨true, 5⟩ true 81 44 11),
    (0x13B45658, none, .cvtF16F32 ⟨true, 5⟩ true 81 44 11), (0x17B45658, none, .cvtBf16F32 ⟨true, 5⟩ true 81 44 11),
    (0x1BB45658, none, .cvtE4m3F32 ⟨true, 5⟩ true 81 44 11), (0x1FB45658, none, .cvtE5m2F32 ⟨true, 5⟩ true 81 44 11),
    (0x23B45659, none, .cvtF32F16 ⟨true, 5⟩ true 81 44 11 1), (0x27B45659, none, .cvtF32Bf16 ⟨true, 5⟩ true 81 44 11 1),
    (0x2BB4565A, none, .cvtF32E4m3 ⟨true, 5⟩ true 81 44 11 2), (0x2FB4565A, none, .cvtF32E5m2 ⟨true, 5⟩ true 81 44 11 2),
    (0x33B4565D, none, .unpk8Cb4 ⟨true, 5⟩ true 81 44 11 5), (0x37B4565D, none, .qntCb4 ⟨true, 5⟩ true 81 44 11 5),
    (0x3BB45658, none, .pk4E4m3 ⟨true, 5⟩ true 81 44 11), (0x3FB45658, none, .pk4E5m2 ⟨true, 5⟩ true 81 44 11),
    (0x43B45658, none, .unpk4E4m3 ⟨true, 5⟩ true 81 44 11), (0x47B45658, none, .unpk4E5m2 ⟨true, 5⟩ true 81 44 11),
    (0x4BB45658, none, .pk2Bf16 ⟨true, 5⟩ true 81 44 11), (0x4FB45658, none, .pk2F16 ⟨true, 5⟩ true 81 44 11),
    (0x53B45658, none, .rcpF32 ⟨true, 5⟩ true 81 44 11), (0x57B45658, none, .rsqF32 ⟨true, 5⟩ true 81 44 11)] : List (Nat × Option Nat × Instr)),
    decode 5 p.1 p.2.1 = .ok p.2.2 := by decide +kernel

theorem test_decode_sfu_2 : ∀ p ∈ ([(0x5BB45658, none, .sqrtF32 ⟨true, 5⟩ true 81 44 11), (0x5FB45658, none, .divF32 ⟨true, 5⟩ true 81 44 11),
    (0x63B45658, none, .exp2F32 ⟨true, 5⟩ true 81 44 11), (0x67B45658, none, .log2F32 ⟨true, 5⟩ true 81 44 11),
    (0x6BB45658, none, .sintF32 ⟨true, 5⟩ true 81 44 11), (0x6FB45658, none, .costF32 ⟨true, 5⟩ true 81 44 11),
    (0x73B45658, none, .tanhF32 ⟨true, 5⟩ true 81 44 11), (0x77B45658, none, .sigmF32 ⟨true, 5⟩ true 81 44 11),
    (0x7BB45658, none, .floorF32 ⟨true, 5⟩ true 81 44 11), (0x7FB45658, none, .ceilF32 ⟨true, 5⟩ true 81 44 11),
    (0x83B45658, none, .truncF32 ⟨true, 5⟩ true 81 44 11), (0x87B45658, none, .rintF32 ⟨true, 5⟩ true 81 44 11),
    (0x8BB45658, none, .classF32 ⟨true, 5⟩ true 81 44 11), (0x8FB45658, none, .wadd ⟨true, 5⟩ true 81 44 11),
    (0x93B45658, none, .wrnd ⟨true, 5⟩ true 81 44 11), (0x97B44058, none, .wclr ⟨true, 5⟩ true 81 11),
    (0x9BB4565A, none, .cvtF32I8 ⟨true, 5⟩ true 81 44 11 2), (0x9FB45658, none, .cvtI8F32 ⟨true, 5⟩ true 81 44 11)] : List (Nat × Option Nat × Instr)),
    decode 5 p.1 p.2.1 = .ok p.2.2 := by decide +kernel

theorem test_decode_mem_1 : ∀ p ∈ ([(0x03B4565D, none, .ldN8 ⟨true, 5⟩ true 81 44 11 5 none),
    (0x07B4565D, (some 0xFFFFFFFC), .ldI8 ⟨true, 5⟩ true 81 44 11 5 (some 0xFFFFFFFC)),
    (0x0BB4565D, none, .ldN16 ⟨true, 5⟩ true 81 44 11 5 none),
    (0x0FB4565D, (some 0xFFFFFFFC), .ldI16 ⟨true, 5⟩ true 81 44 11 5 (some 0xFFFFFFFC)),
    (0x13B4565D, none, .ldW ⟨true, 5⟩ true 81 44 11 5 none),
    (0x17B4565D, (some 0xFFFFFFFC), .ldD ⟨true, 5⟩ true 81 44 11 5 (some 0xFFFFFFFC)),
    (0x1BB4565D, none, .ldQ ⟨true, 5⟩ true 81 44 11 5 none),
    (0x1FB4565D, (some 0xFFFFFFFC), .ldO ⟨true, 5⟩ true 81 44 11 5 (some 0xFFFFFFFC)),
    (0x21B4565D, none, .stB ⟨true, 5⟩ 81 44 11 5 none),
    (0x25B4565D, (some 0xFFFFFFFC), .stH ⟨true, 5⟩ 81 44 11 5 (some 0xFFFFFFFC)),
    (0x29B4565D, none, .stW ⟨true, 5⟩ 81 44 11 5 none),
    (0x2DB4565D, (some 0xFFFFFFFC), .stD ⟨true, 5⟩ 81 44 11 5 (some 0xFFFFFFFC)),
    (0x31B4565D, none, .stQ ⟨true, 5⟩ 81 44 11 5 none),
    (0x35B4565D, (some 0xFFFFFFFC), .stO ⟨true, 5⟩ 81 44 11 5 (some 0xFFFFFFFC)),
    (0x3BB4565D, (some 0xFFFFE005), .ldaW ⟨true, 5⟩ true 81 44 11 5 ⟨0xFFFFE, false, 0, 5⟩),
    (0x3FB4565D, (some 0xFFFFECD0), .ldaD ⟨true, 5⟩ true 81 44 11 5 ⟨0xFFFFE, true, 77, 0⟩),
    (0x43B4565D, (some 0xFFFFE005), .ldapW ⟨true, 5⟩ true 81 44 11 5 ⟨0xFFFFE, false, 0, 5⟩),
    (0x45B4565D, (some 0xFFFFECD0), .stlW ⟨true, 5⟩ 81 44 11 5 ⟨0xFFFFE, true, 77, 0⟩),
    (0x49B4565D, (some 0xFFFFE005), .stlD ⟨true, 5⟩ 81 44 11 5 ⟨0xFFFFE, false, 0, 5⟩),
    (0x4FB4565D, (some 0xFFFFFFFC), .ldcW ⟨true, 5⟩ true 81 44 11 5 (some 0xFFFFFFFC)),
    (0x53B4565D, none, .ldcD ⟨true, 5⟩ true 81 44 11 5 none),
    (0x57B4565D, (some 0xFFFFFFFC), .ldvW ⟨true, 5⟩ true 81 44 11 5 (some 0xFFFFFFFC))] : List (Nat × Option Nat × Instr)),
    decode 1 p.1 p.2.1 = .ok p.2.2 := by decide +kernel

theorem test_decode_mem_2 : ∀ p ∈ ([(0x5BB4565D, none, .ldvD ⟨true, 5⟩ true 81 44 11 5 none),
    (0x5FB4565D, (some 0xFFFFFFFC), .ldvQ ⟨true, 5⟩ true 81 44 11 5 (some 0xFFFFFFFC)),
    (0x63B4565D, none, .ldvO ⟨true, 5⟩ true 81 44 11 5 none),
    (0x67B45658, (some 0xFFFFFFFC), .ldsW ⟨true, 5⟩ true 81 44 11 (some 0xFFFFFFFC)),
    (0x6BB45658, none, .ldsD ⟨true, 5⟩ true 81 44 11 none),
    (0x6FB45658, (some 0xFFFFFFFC), .ldsQ ⟨true, 5⟩ true 81 44 11 (some 0xFFFFFFFC)),
    (0x73B45658, none, .ldsO ⟨true, 5⟩ true 81 44 11 none),
    (0x75B45658, (some 0xFFFFFFFC), .stsW ⟨true, 5⟩ 81 44 11 (some 0xFFFFFFFC)),
    (0x79B45658, none, .stsD ⟨true, 5⟩ 81 44 11 none),
    (0x7DB45658, (some 0xFFFFFFFC), .stsQ ⟨true, 5⟩ 81 44 11 (some 0xFFFFFFFC)),
    (0x81B45658, none, .stsO ⟨true, 5⟩ 81 44 11 none),
    (0x87B45658, (some 0xFFFFFFFC), .ldfragN ⟨true, 5⟩ true 81 44 11 (some 0xFFFFFFFC)),
    (0x8BB45658, none, .ldfragT8 ⟨true, 5⟩ true 81 44 11 none),
    (0x8FB45658, (some 0xFFFFFFFC), .ldfragT16 ⟨true, 5⟩ true 81 44 11 (some 0xFFFFFFFC)),
    (0x91B4565D, none, .atomAdd ⟨true, 5⟩ 81 44 11 5 none),
    (0x95B4565D, (some 0xFFFFFFFC), .atomMinI32 ⟨true, 5⟩ 81 44 11 5 (some 0xFFFFFFFC)),
    (0x99B4565D, none, .atomMaxI32 ⟨true, 5⟩ 81 44 11 5 none),
    (0x9DB4565D, (some 0xFFFFFFFC), .atomMinN32 ⟨true, 5⟩ 81 44 11 5 (some 0xFFFFFFFC)),
    (0xA1B4565D, none, .atomMaxN32 ⟨true, 5⟩ 81 44 11 5 none),
    (0xA5B4565D, (some 0xFFFFFFFC), .atomAnd ⟨true, 5⟩ 81 44 11 5 (some 0xFFFFFFFC)),
    (0xA9B4565D, none, .atomOr ⟨true, 5⟩ 81 44 11 5 none),
    (0xADB4565D, (some 0xFFFFFFFC), .atomXor ⟨true, 5⟩ 81 44 11 5 (some 0xFFFFFFFC))] : List (Nat × Option Nat × Instr)),
    decode 1 p.1 p.2.1 = .ok p.2.2 := by decide +kernel

theorem test_decode_mem_3 : ∀ p ∈ ([(0xB1B4565D, none, .atomXchg ⟨true, 5⟩ 81 44 11 5 none),
    (0xB5B4565D, (some 0xFFFFFFFC), .atomCas ⟨true, 5⟩ 81 44 11 5 (some 0xFFFFFFFC)),
    (0xB9B4565D, none, .atomIncw ⟨true, 5⟩ 81 44 11 5 none),
    (0xBDB4565D, (some 0xFFFFFFFC), .atomAdd64 ⟨true, 5⟩ 81 44 11 5 (some 0xFFFFFFFC)),
    (0xC1B4565D, none, .atomCas64 ⟨true, 5⟩ 81 44 11 5 none),
    (0xC5B4565D, (some 0xFFFFFFFC), .atomFadd ⟨true, 5⟩ 81 44 11 5 (some 0xFFFFFFFC)),
    (0xC9B4565D, none, .atomWrd ⟨true, 5⟩ 81 44 11 5 none),
    (0xCDB4565D, (some 0xFFFFFFFC), .redAdd ⟨true, 5⟩ 81 44 11 5 (some 0xFFFFFFFC)),
    (0xD1B4565D, none, .redFadd ⟨true, 5⟩ 81 44 11 5 none),
    (0xD5B4565D, (some 0xFFFFFFFC), .redWadd ⟨true, 5⟩ 81 44 11 5 (some 0xFFFFFFFC)),
    (0xD9B4565D, none, .redMaxI32 ⟨true, 5⟩ 81 44 11 5 none),
    (0xDDB45658, (some 0xFFFFFFFC), .atomsAdd ⟨true, 5⟩ 81 44 11 (some 0xFFFFFFFC)),
    (0xE1B45658, none, .atomsCas ⟨true, 5⟩ 81 44 11 none),
    (0xE5B45658, (some 0xFFFFFFFC), .atomsMaxN32 ⟨true, 5⟩ 81 44 11 (some 0xFFFFFFFC)),
    (0xE9B45658, none, .atomsXchg ⟨true, 5⟩ 81 44 11 none), (0xEDA0165D, none, .setb ⟨true, 5⟩ 44 11 5),
    (0xF1B4405D, none, .getb ⟨true, 5⟩ 81 11 5)] : List (Nat × Option Nat × Instr)),
    decode 1 p.1 p.2.1 = .ok p.2.2 := by decide +kernel

theorem test_decode_ctrl_1 : ∀ p ∈ ([(0x01B2345A, none, .bra ⟨true, 5⟩ 0x12345A), (0x05A01600, none, .brx ⟨true, 5⟩ 44),
    (0x09B47FF9, none, .call ⟨true, 5⟩ 81 0x3FF9), (0x0DB45600, none, .callx ⟨true, 5⟩ 81 44),
    (0x11A01600, none, .ret ⟨true, 5⟩ 44), (0x15A00000, none, .exit ⟨true, 5⟩), (0x19B2345A, none, .setm ⟨true, 5⟩ 0x12345A),
    (0x1DA01600, none, .setmx ⟨true, 5⟩ 44), (0x21A00000, none, .clrm ⟨true, 5⟩),
    (0x25A00000, (some 32), .yield ⟨true, 5⟩ (.lit 0x20)), (0x29A01600, none, .nap ⟨true, 5⟩ (.reg 44)),
    (0x2DA01600, none, .wake ⟨true, 5⟩ 44), (0x31A00063, none, .rdv ⟨true, 5⟩ 99),
    (0x35B45663, (some 0x8000004D), .shflIdx ⟨true, 5⟩ 81 44 99 (.reg 77)),
    (0x39B45663, (some 29), .shflXor ⟨true, 5⟩ 81 44 99 (.imm 29)),
    (0x3DB45663, (some 0x8000004D), .shflUp ⟨true, 5⟩ 81 44 99 (.reg 77)),
    (0x41B45663, (some 29), .shflDn ⟨true, 5⟩ 81 44 99 (.imm 29)), (0x45B45663, none, .voteAll ⟨true, 5⟩ 81 44 99),
    (0x49B45663, none, .voteAny ⟨true, 5⟩ 81 44 99), (0x4DB45663, none, .voteBal ⟨true, 5⟩ 81 44 99),
    (0x51B45663, none, .matchAny ⟨true, 5⟩ 81 44 99), (0x55B45663, none, .matchAll ⟨true, 5⟩ 81 44 99)] : List (Nat × Option Nat × Instr)),
    decode 4 p.1 p.2.1 = .ok p.2.2 := by decide +kernel

theorem test_decode_ctrl_2 : ∀ p ∈ ([(0x59B45663, none, .redxAddI32 ⟨true, 5⟩ 81 44 99), (0x5DB45663, none, .redxMinI32 ⟨true, 5⟩ 81 44 99),
    (0x61B45663, none, .redxMaxI32 ⟨true, 5⟩ 81 44 99), (0x65B45663, none, .redxMinN32 ⟨true, 5⟩ 81 44 99),
    (0x69B45663, none, .redxMaxN32 ⟨true, 5⟩ 81 44 99), (0x6DB45663, none, .redxAnd ⟨true, 5⟩ 81 44 99),
    (0x71B45663, none, .redxOr ⟨true, 5⟩ 81 44 99), (0x75B45663, none, .redxXor ⟨true, 5⟩ 81 44 99),
    (0x79B45663, none, .redxFadd ⟨true, 5⟩ 81 44 99), (0x7DB45663, none, .redxFmin ⟨true, 5⟩ 81 44 99),
    (0x81B45663, none, .redxFmax ⟨true, 5⟩ 81 44 99), (0x85B45663, none, .scanxAddI32 ⟨true, 5⟩ 81 44 99),
    (0x89B45663, none, .scanxFadd ⟨true, 5⟩ 81 44 99), (0x8DA00006, none, .tbarSync ⟨true, 5⟩ 6),
    (0x91A00006, none, .tbarArv ⟨true, 5⟩ 6), (0x95A00006, none, .tbarWait ⟨true, 5⟩ 6),
    (0x99B45626, (some 1), .tbarRed ⟨true, 5⟩ 81 44 2 6 (some true)), (0x9DA00006, none, .gbarSync ⟨true, 5⟩ 6),
    (0xA1A00006, none, .gbarArv ⟨true, 5⟩ 6), (0xA5A00006, none, .gbarWait ⟨true, 5⟩ 6),
    (0xA9B45626, none, .gbarRed ⟨true, 5⟩ 81 44 2 6 none), (0xADA026C0, none, .fence ⟨true, 5⟩ ⟨77, true, 0⟩)] : List (Nat × Option Nat × Instr)),
    decode 4 p.1 p.2.1 = .ok p.2.2 := by decide +kernel

theorem test_decode_ctrl_3 : ∀ p ∈ ([(0xB1B45602, none, .scopeof ⟨true, 5⟩ 81 44 2), (0xB5A02580, none, .hwaitF ⟨true, 5⟩ 37 true),
    (0xB9A02500, none, .hwaitE ⟨true, 5⟩ 37), (0xBDA02500, none, .hsetFill ⟨true, 5⟩ 37),
    (0xC1A02500, none, .hsetFull ⟨true, 5⟩ 37), (0xC5A02500, none, .hsetDrain ⟨true, 5⟩ 37),
    (0xC9A02500, none, .hsetFree ⟨true, 5⟩ 37), (0xCDA02563, none, .harm ⟨true, 5⟩ 37 99),
    (0xD1A02500, (some 0xFFFFFFF0), .cont ⟨true, 5⟩ 37 0xFFFFFFF0), (0xD5B46580, none, .qpush ⟨true, 5⟩ 81 165),
    (0xD9B46580, none, .qpushD ⟨true, 5⟩ 81 165), (0xDDB46580, none, .qpop ⟨true, 5⟩ 81 165),
    (0xE1B46580, none, .qlen ⟨true, 5⟩ 81 165), (0xE5B46580, (some 99), .qpushNb ⟨true, 5⟩ 81 165 99),
    (0xE9B46580, (some 99), .qpopNb ⟨true, 5⟩ 81 165 99), (0xEDA01663, none, .cvjoin ⟨true, 5⟩ 44 99),
    (0xF1A00000, none, .cvleave ⟨true, 5⟩), (0xF5A01600, none, .cvsetSl ⟨true, 5⟩ 44), (0xF5A01601, none, .cvsetLt ⟨true, 5⟩ 44)] : List (Nat × Option Nat × Instr)),
    decode 4 p.1 p.2.1 = .ok p.2.2 := by decide +kernel

theorem test_decode_matrix : ∀ p ∈ ([(0x01B45663, (some 0x16B), .mmaE4e4 ⟨true, 5⟩ 81 44 99 2 1 true 11),
    (0x05B45663, (some 0x16B), .mmaE4e5 ⟨true, 5⟩ 81 44 99 2 1 true 11),
    (0x09B45663, (some 0x16B), .mmaE5e4 ⟨true, 5⟩ 81 44 99 2 1 true 11),
    (0x0DB45663, (some 0x16B), .mmaE5e5 ⟨true, 5⟩ 81 44 99 2 1 true 11),
    (0x11B45663, (some 0xA0016B), .mmaCb4 ⟨true, 5⟩ 81 44 99 2 1 true 5 11),
    (0x15B45600, (some 0x12B), .mmaBf16 ⟨true, 5⟩ 81 44 2 true 11), (0x19B45600, (some 0x12B), .mmaF16 ⟨true, 5⟩ 81 44 2 true 11),
    (0x1DB45600, (some 0x12B), .mmaI8 ⟨true, 5⟩ 81 44 2 true 11), (0x21A00000, (some 32), .mzero ⟨true, 5⟩ 2),
    (0x25B44063, (some 0x2A0004B), .mload ⟨true, 5⟩ .cb4 81 99 1 5 11),
    (0x29A01663, (some 0xA5A2B), .mdrain ⟨true, 5⟩ .f16 37 2 5 44 99 11),
    (0x2DA01663, (some 0x25A2B), .mdraina ⟨true, 5⟩ 37 2 5 44 99 11),
    (0x31B44063, (some 0xA502B), .mdrains ⟨true, 5⟩ .f16 37 2 81 99 11), (0x35A01600, (some 0), .mgang ⟨true, 5⟩ 44),
    (0x39A00000, (some 0), .mopf ⟨true, 5⟩), (0x3DA00000, (some 0), .mwait ⟨true, 5⟩), (0x41A00000, (some 0), .mrel ⟨true, 5⟩),
    (0x45A01600, (some 0xA00000), .mcb ⟨true, 5⟩ 44 5)] : List (Nat × Option Nat × Instr)),
    decode 2 p.1 p.2.1 = .ok p.2.2 := by decide +kernel

theorem test_decode_copy : ∀ p ∈ ([(0x01B45663, (some 0x165B), .cpyG2s ⟨true, 5⟩ 37 5 81 44 99 11),
    (0x05B45663, (some 0x165B), .cpyG2sT8 ⟨true, 5⟩ 37 5 81 44 99 11),
    (0x09B45663, (some 0x165B), .cpyG2sT16 ⟨true, 5⟩ 37 5 81 44 99 11),
    (0x0DB45663, (some 0x165B), .cpyS2g ⟨true, 5⟩ 37 5 81 44 99 11),
    (0x11B45663, (some 0x165B), .cpyS2ga ⟨true, 5⟩ 37 5 81 44 99 11),
    (0x15B45663, (some 0x165B), .cpyG2g ⟨true, 5⟩ 37 5 81 44 99 11),
    (0x19B45663, (some 0x14B65B), .cpyMc ⟨true, 5⟩ 37 5 81 44 99 165 11),
    (0x1DB45663, (some 0x25B), .cpyS2s ⟨true, 5⟩ 37 81 44 99 11), (0x21B45663, (some 0x165B), .cpyV2s ⟨true, 5⟩ 37 5 81 44 99 11),
    (0x25A01600, (some 0x1400), .gtrinv ⟨true, 5⟩ 5 44), (0x29B45600, (some 0x140B), .nmc ⟨true, 5⟩ 5 81 44 11),
    (0x2DA00000, (some 0), .nmwait ⟨true, 5⟩), (0x31A00000, (some 0), .cpywait ⟨true, 5⟩),
    (0x35A01663, (some 0x1400), .pghint ⟨true, 5⟩ 5 44 99)] : List (Nat × Option Nat × Instr)),
    decode 3 p.1 p.2.1 = .ok p.2.2 := by decide +kernel

theorem test_decode_sys : ∀ p ∈ ([(0x01A00063, none, .trap ⟨true, 5⟩ 99), (0x05A00063, none, .bkpt ⟨true, 5⟩ 99), (0x09A00000, none, .tretRetry ⟨true, 5⟩),
    (0x09A00001, none, .tretSkip ⟨true, 5⟩), (0x0DB40000, none, .clock ⟨true, 5⟩ 80), (0x11B40000, none, .gtime ⟨true, 5⟩ 80),
    (0x15A01663, none, .trace ⟨true, 5⟩ 44 99), (0x19B4402B, none, .flags ⟨true, 5⟩ 81 0x2B),
    (0x1DA00000, none, .icinv ⟨true, 5⟩)] : List (Nat × Option Nat × Instr)),
    decode 6 p.1 p.2.1 = .ok p.2.2 := by decide +kernel

/-! ### Ill-formed instructions: for each check of WellFormed a term that it refuses (R88, R92, R94, R96, R98, R99, R31) -/

theorem test_illformed_guard : wellFormed (.add ⟨true, 0⟩ false 3 1 (.reg 2)) = false ∧ wellFormed (.add ⟨true, 1⟩ false 3 1 (.reg 2)) = true := by
  decide +kernel

theorem test_illformed_alignment : (∀ i ∈ ([.add64 {} false 3 2 4, .add64 {} false 4 3 6, .madwI32 {} false 5 2 (.reg 6), .ldD {} false 5 2 0 0 none,
    .ldQ {} false 6 2 0 0 none, .ldO {} false 4 2 0 0 none, .stO {} 12 2 0 0 none, .atomCas64 {} 6 2 0 0 none, .getb {} 3 0 0, .setb {} 3 0 0,
    .qpush {} 4 0, .qpushD {} 8 0, .nmc {} 0 4 1 0, .clock {} 3, .gtime {} 5] : List Instr), wellFormed i = false) ∧
    (∀ i ∈ ([.add64 {} false 4 2 6, .madwI32 {} false 6 2 (.reg 6), .ldO {} false 8 2 0 0 none, .atomCas64 {} 8 2 0 0 none, .setb {} 2 0 0,
    .qpushD {} 16 0, .clock {} 4, .gtime {} 4] : List Instr), wellFormed i = true) := by decide +kernel

theorem test_illformed_span : (∀ i ∈ ([.ppack {} false 3 97, .punpack {} false 97 3, .wclr {} false 118 0, .wadd {} false 118 1 0,
    .pk4E4m3 {} false 0 125 0, .divF32 {} false 0 127 0, .qntCb4 {} false 0 121 0 0, .atomWrd {} 120 2 0 0 none] : List Instr), wellFormed i = false) ∧
    (∀ i ∈ ([.ppack {} false 3 96, .punpack {} false 96 3, .wclr {} false 117 0, .divF32 {} false 0 126 0, .qntCb4 {} false 0 120 0 0] : List Instr),
    wellFormed i = true) := by decide +kernel

theorem test_illformed_limits : ∀ i ∈ ([.movs {} false 3 0x3FFF, .movsw {} false 3 0x3FFF, .movsw {} false 3 0, .ldaW {} false 3 2 0 0 ⟨0, true, 7, 1⟩,
    .ldaW {} false 3 2 0 0 ⟨0, false, 7, 1⟩, .stlW {} 3 2 0 0 ⟨0, false, 0, 7⟩, .fence {} ⟨7, true, 1⟩, .fence {} ⟨7, false, 1⟩, .fence {} ⟨0, false, 7⟩,
    .tbarSync {} 15, .gbarSync {} 8, .tbarRed {} 3 1 3 0 (some true), .gbarRed {} 3 1 3 0 (some true), .mload {} .bf16 8 1 0 0 0, .mload {} .i8 8 0 1 0 0,
    .mload {} .e4m3 8 1 0 1 0, .cpyMc {} 0 0 1 2 3 0 0] : List Instr), wellFormed i = false := by decide +kernel

/-! ### One step of an ALU instruction: its register D and FLAGS, with v1 to v3 given -/

/-- Register r and FLAGS of the thread after one exec, with x, y, z in v1, v2, v3. -/
def after (i : Instr) (x y z : Word) (r : Nat) : Option (Word × Nat) :=
  match exec i (mk [withV (thr 1 0) x y z]) with
  | .next s => (getThread s 0).map fun t => (rdV t r, t.flags)
  | _ => none

/-- Predicate p of the thread after one exec. -/
def afterP (i : Instr) (x y : Word) (p : Nat) : Option Bool :=
  match exec i (mk [withV (thr 1 0) x y 0]) with
  | .next s => (getThread s 0).map fun t => rdP t p
  | _ => none

-- R115, R116: sums and products modulo 2^32; the upper word of the signed and of the unsigned product of −1 by 2
theorem test_add_wraps : after (.add {} false 3 1 (.reg 2)) 0xFFFFFFFF 2 0 3 = some (1, 0) := by decide +kernel
theorem test_sub_order : after (.sub {} false 3 1 (.reg 2)) 5 7 0 3 = some (0xFFFFFFFE, 0) := by decide +kernel
theorem test_mulh_signs : after (.mulhI32 {} false 3 1 (.reg 2)) 0xFFFFFFFF 2 0 3 = some (0xFFFFFFFF, 0) ∧
    after (.mulhN32 {} false 3 1 (.reg 2)) 0xFFFFFFFF 2 0 3 = some (1, 0) := by decide +kernel
theorem test_mad_destination_is_source : after (.mad {} false 1 1 (.reg 1)) 3 0 0 1 = some (12, 0) := by decide +kernel
theorem test_madw_low : after (.madwN32 {} false 2 1 (.lit 0xFFFFFFFF)) 0xFFFFFFFF 1 1 2 = some (2, 0) ∧
    after (.madwN32 {} false 2 1 (.lit 0xFFFFFFFF)) 0xFFFFFFFF 1 1 3 = some (0xFFFFFFFF, 0) := by decide +kernel
theorem test_add64_carries : after (.add64 {} false 2 0 2) 0 0xFFFFFFFF 7 3 = some (7, 0) ∧
    after (.add64 {} false 2 2 2) 0 0x80000000 0 3 = some (1, 0) := by decide +kernel
-- R117: clamped, with SATD (bit 4 of FLAGS by its own rule)
theorem test_adds_clamps : after (.addsI32 {} false 3 1 (.reg 2)) 0x7FFFFFFF 1 0 3 = some (0x7FFFFFFF, fSATD) ∧
    after (.subsI32 {} false 3 1 (.reg 2)) 0x80000000 1 0 3 = some (0x80000000, fSATD) := by decide +kernel
-- R118: a count of 32 or more, read whole
theorem test_shift_counts : after (.shl {} false 3 1 (.reg 2)) 1 32 0 3 = some (0, 0) ∧ after (.shr {} false 3 1 (.reg 2)) 0x80000000 31 0 3 = some (1, 0) ∧
    after (.sar {} false 3 1 (.reg 2)) 0x80000000 100 0 3 = some (0xFFFFFFFF, 0) := by decide +kernel
theorem test_andn_order : after (.andn {} false 3 1 (.reg 2)) 0xF0F0 0xFF00 0 3 = some (0x00F0, 0) := by decide +kernel
-- R119: counts and reversal
theorem test_counts : after (.popc {} false 3 1) 0xF000000F 0 0 3 = some (8, 0) ∧ after (.clz {} false 3 1) 0 0 0 3 = some (32, 0) ∧
    after (.clz {} false 3 1) 0x00010000 0 0 3 = some (15, 0) ∧ after (.brev {} false 3 1) 0x00000003 0 0 3 = some (0xC0000000, 0) := by decide +kernel
-- R120, R121: pos = 28 with len = 8 keeps 4 bits
theorem test_bit_fields : after (.bfeN32 {} false 3 1 (.lit 0x081C)) 0xA0000000 0 0 3 = some (10, 0) ∧
    after (.bfeI32 {} false 3 1 (.lit 0x081C)) 0xA0000000 0 0 3 = some (0xFFFFFFFA, 0) ∧
    after (.bfi {} false 3 1 (.lit 0x0408)) 0xFFF 0 0 3 = some (0xF00, 0) := by decide +kernel
-- R122, R123: bytes 0 to 3 are of A and 4 to 7 of the old D; bit 3 copies the sign
theorem test_permb : after (.permb {} false 3 1 (.lit 0xB430)) 0x80112233 0 0xAABBCCDD 3 = some (0xFFDD8033, 0) := by decide +kernel
theorem test_dot4_signs : after (.dot4I8 {} false 3 1 (.reg 2)) 0x000000FF 0x00000002 10 3 = some (8, 0) ∧
    after (.dot4N8 {} false 3 1 (.reg 2)) 0x000000FF 0x00000002 10 3 = some (520, 0) := by decide +kernel
-- R124: signed and unsigned order; an F32 NaN is unordered and −0 equals +0
theorem test_setp : afterP (.setpLtI32 {} false 5 1 (.reg 2)) 0x80000000 1 5 = some true ∧
    afterP (.setpLtN32 {} false 5 1 (.reg 2)) 0x80000000 1 5 = some false ∧
    afterP (.setpEqF32 {} false 5 1 (.reg 2)) 0x80000000 0 5 = some true ∧ afterP (.setpNeF32 {} false 5 1 (.reg 2)) 0x7FC00000 0x7FC00000 5 = some true ∧
    afterP (.setpEq {} false 0 1 (.reg 2)) 1 2 0 = some true := by decide +kernel
-- R89, R127: a guard that does not pass skips ADD, and turns SEL to B
theorem test_guard : after (.add ⟨false, 1⟩ false 3 1 (.reg 2)) 1 2 9 3 = some (9, 0) ∧ after (.add ⟨true, 1⟩ false 3 1 (.reg 2)) 1 2 9 3 = some (3, 0) ∧
    after (.sel ⟨false, 1⟩ false 3 1 (.reg 2)) 7 8 9 3 = some (8, 0) := by decide +kernel
theorem test_movi_sign : after (.movi {} false 3 0x3FFF) 0 0 0 3 = some (0xFFFFFFFF, 0) := by decide +kernel
-- R58 to R60: 1 + 2^-24 ties to even; the largest number doubled overflows with OVFL and INEX; 1.5 × 1.5 = 2.25
theorem test_float_rounding : after (.fadd {} false 3 1 (.lit 0x33800000)) 0x3F800000 0 0 3 = some (0x3F800000, fINEX) ∧
    after (.fadd {} false 3 1 (.reg 2)) 0x7F7FFFFF 0x7F7FFFFF 0 3 = some (0x7F800000, fOVFL ||| fINEX) ∧
    after (.fmul {} false 3 1 (.reg 2)) 0x3FC00000 0x3FC00000 0 3 = some (0x40100000, 0) ∧
    after (.fsub {} false 3 1 (.reg 2)) 0x7F800000 0x7F800000 0 3 = some (0x7FC00000, fINVL) := by decide +kernel
-- FFMA rounds once: (1 + 2^-23)^2 − (1 + 2^-22) = 2^-46
theorem test_ffma_fused : after (.ffma {} false 3 1 (.reg 2)) 0x3F800001 0x3F800001 0xBF800002 3 = some (0x28800000, 0) := by decide +kernel
-- R131: a number is chosen over a NaN, and −0 is below +0
theorem test_fmin : after (.fmin {} false 3 1 (.reg 2)) 0x7FC00000 0x3F800000 0 3 = some (0x3F800000, 0) ∧
    after (.fmin {} false 3 1 (.reg 2)) 0 0x80000000 0 3 = some (0x80000000, 0) := by decide +kernel
-- packed halves: 1 + 1 in the low half, 2 × 3 in the upper
theorem test_halves : after (.hadd2 {} false 3 1 (.reg 2)) 0x00003C00 0x00003C00 0 3 = some (0x00004000, 0) ∧
    after (.hmul2 {} false 3 1 (.reg 2)) 0x40000000 0x42000000 0 3 = some (0x46000000, 0) := by decide +kernel

/-! ### Conversion and special functions: values from the number formats of 02_numbers and 06_sfu -/

/-- The words and the flags that an SFU instruction sends to its registers. -/
def sent (i : Instr) (x y : Word) : Option (List Word × Nat) :=
  match exec i (mk [withV (thr 1 5) x y 0]) with
  | .next s => s.eng.sfu.head?.map fun p => (p.vals, p.flags)
  | _ => none

theorem test_conversions : sent (.cvtF32I32 {} false 3 1 0) 0xFFFFFFFF 0 = some ([0xBF800000], 0) ∧
    sent (.cvtF32N32 {} false 3 1 0) 0xFFFFFFFF 0 = some ([0x4F800000], fINEX) ∧
    sent (.cvtI32F32 {} false 3 1 0) 0x40200000 0 = some ([2], fINEX) ∧
    sent (.cvtF16F32 {} false 3 1 0) 0x3F800000 0 = some ([0x3C00], 0) ∧ sent (.cvtBf16F32 {} false 3 1 0) 0x3F800000 0 = some ([0x3F80], 0) ∧
    sent (.cvtE4m3F32 {} false 3 1 0) 0x3F800000 0 = some ([0x38], 0) ∧ sent (.cvtE5m2F32 {} false 3 1 0) 0x3F800000 0 = some ([0x3C], 0) ∧
    sent (.cvtF32E4m3 {} false 3 1 0 1) 0x3800 0 = some ([0x3F800000], 0) ∧ sent (.cvtF32I8 {} false 3 1 0 3) 0xFE000000 0 = some ([0xC0000000], 0) := by
  decide +kernel

theorem test_functions : sent (.rcpF32 {} false 3 1 0) 0x40000000 0 = some ([0x3F000000], 0) ∧ sent (.sqrtF32 {} false 3 1 0) 0x40800000 0 = some ([0x40000000], 0) ∧
    sent (.divF32 {} false 3 1 0) 0x3F800000 0x40800000 = some ([0x3E800000], 0) ∧ sent (.exp2F32 {} false 3 1 0) 0x40400000 0 = some ([0x41000000], 0) ∧
    sent (.log2F32 {} false 3 1 0) 0x41000000 0 = some ([0x40400000], 0) ∧ sent (.sintF32 {} false 3 1 0) 0x3E800000 0 = some ([0x3F800000], 0) ∧
    sent (.costF32 {} false 3 1 0) 0x3F000000 0 = some ([0xBF800000], 0) ∧ sent (.sigmF32 {} false 3 1 0) 0 0 = some ([0x3F000000], 0) ∧
    sent (.rintF32 {} false 3 1 0) 0x40200000 0 = some ([0x40000000], 0) ∧ sent (.floorF32 {} false 3 1 0) 0xBF000000 0 = some ([0xBF800000], 0) ∧
    sent (.classF32 {} false 3 1 0) 0x80000000 0 = some ([0x020], 0) := by decide +kernel

-- e (F32 0x402DF854) has log2 e = 1.442695 = 0x3FB8AA3B; 2^0.5 = 0x3FB504F3; tanh 1 = 0x3F42F7D6; all inexact
theorem test_correctly_rounded : sent (.exp2F32 {} false 3 1 0) 0x3F000000 0 = some ([0x3FB504F3], fINEX) ∧
    sent (.log2F32 {} false 3 1 0) 0x402DF854 0 = some ([0x3FB8AA3B], fINEX) ∧ sent (.tanhF32 {} false 3 1 0) 0x3F800000 0 = some ([0x3F42F7D6], fINEX) := by
  decide +kernel

/-! ### The table's words and the placing of an instruction -/

/-- Whether the first step after reset with this word placed is the exec of the instruction that the word holds. -/
def firstStepRuns (nbits w : Nat) : Bool :=
  match step (State.reset.withFetchWord nbits w) with
  | .next s => (s.threads.head?.map fun t => decide (t.pc = 8)).getD false
  | _ => false

-- ADD v3, v1, v2 (class 0 is tried first for a word that fits more than one class) and MOVSW of number 1
theorem test_table_words : decodeTableWord 32 0x0000C082 = some (.add {} false 3 1 (.reg 2)) ∧ decodeTableWord 32 0xFC00C001 = some (.movsw {} false 3 1) := by
  decide +kernel

theorem test_first_step : firstStepRuns 32 0x0000C082 = true := by decide +kernel

/-! ### Control, traps and memory: one step each -/

/-- The thread of key 0 after one exec. -/
def threadAfter (i : Instr) (s : State) : Option Thread :=
  match exec i s with
  | .next s' => getThread s' 0
  | _ => none

-- R247, R157: TRAP #5 leaves the thread on its way to the handler with code TRAP, argument 5 and TPC its own offset; TRET without a handler
theorem test_trap_taken : (threadAfter (.trap {} 5) (mk [thr 1 6])).map (fun t => t.st) = some (.trapping { code := .trap, arg := 5, tpc := 4 }) := by
  decide +kernel

-- R88: BRA by −6 words from offset 4 leaves the code buffer: ILLEGAL_CLAUSE at the branch, and the PC does not move (R85)
theorem test_bra_bad_target : (threadAfter (.bra {} 0x1FFFFA) (mk [thr 1 4])).map (fun t => (t.pc, decide (t.st = .ready))) = some (4, false) := by
  decide +kernel

-- FLAGS reads the flags before it clears those of its mask
theorem test_flags : (threadAfter (.flags {} 3 0x3F) (mk [{ thr 1 6 with flags := fINEX }])).map (fun t => ((rdV t 3).toNat, t.flags)) = some (fINEX, 0) := by
  decide +kernel

-- R3: the low byte of a word lies at the low address
theorem test_bytes_little_endian : memRead (memWrite [] 0x100 (bytesOf [0x11223344])) 0x100 2 = [0x44, 0x33] := by decide +kernel

/-! ### Witnesses: the ALU and the SFU -/

theorem wit_IntegerResults : ∀ i ∈ ([.add {} false 3 1 (.reg 2), .sub {} false 3 1 (.reg 2), .mul {} false 3 1 (.reg 2),
    .mulhI32 {} false 3 1 (.reg 2), .mulhN32 {} false 3 1 (.lit 5), .minI32 {} false 3 1 (.reg 2), .maxI32 {} true 3 1 (.reg 2),
    .minN32 {} false 3 1 (.reg 2), .maxN32 {} false 3 1 (.reg 2), .mad {} false 3 1 (.reg 2), .addsI32 {} false 3 1 (.reg 2),
    .subsI32 {} false 3 1 (.reg 2), .add64 {} false 4 2 6, .sub64 {} false 4 2 6, .madwI32 {} false 4 2 (.reg 6),
    .madwN32 {} false 4 2 (.reg 6)] : List Instr), Issues i (mk [thr 1 0]) (thr 1 0) :=
  issues_all (by decide +kernel) (by decide +kernel) (by decide +kernel)

theorem wit_BitAndByteResults : ∀ i ∈ ([.and {} false 3 1 (.reg 2), .or {} false 3 1 (.reg 2), .xor {} false 3 1 (.reg 2),
    .andn {} false 3 1 (.reg 2), .shl {} false 3 1 (.reg 2), .shr {} false 3 1 (.reg 2), .sar {} false 3 1 (.reg 2),
    .popc {} false 3 1, .clz {} false 3 1, .brev {} false 3 1, .bfeN32 {} false 3 1 (.reg 2), .bfeI32 {} false 3 1 (.reg 2),
    .bfi {} false 3 1 (.reg 2), .permb {} false 3 1 (.reg 2), .dot4I8 {} false 3 1 (.reg 2), .dot4N8 {} false 3 1 (.reg 2)] : List Instr),
    Issues i (mk [thr 1 0]) (thr 1 0) :=
  issues_all (by decide +kernel) (by decide +kernel) (by decide +kernel)

theorem wit_CompareSelectAndMoveResults : ∀ i ∈ ([.setpEq {} false 0 1 (.reg 2), .setpNe {} false 3 1 (.reg 2),
    .setpLtI32 {} false 127 1 (.reg 2), .setpLeI32 {} false 3 1 (.reg 2), .setpLtN32 {} false 3 1 (.reg 2), .setpLeN32 {} false 3 1 (.reg 2),
    .setpEqF32 {} false 3 1 (.reg 2), .setpNeF32 {} false 3 1 (.reg 2), .setpLtF32 {} false 3 1 (.reg 2), .setpLeF32 {} false 3 1 (.reg 2),
    .setpUnF32 {} false 3 1 (.reg 2), .pand {} false 3 1 2, .por {} false 0 1 2, .pxor {} false 3 1 2, .pandn {} false 3 1 2,
    .ppack {} false 3 96, .punpack {} false 3 96, .sel {} false 3 1 (.reg 2), .sel ⟨false, 1⟩ false 3 1 (.reg 2), .mov {} false 3 1,
    .movi {} false 3 7, .moviLiteral {} false 3 0x12345678] : List Instr), Issues i (mk [thr 1 0]) (thr 1 0) :=
  issues_all (by decide +kernel) (by decide +kernel) (by decide +kernel)

theorem wit_FloatResultsAreNearest : ∀ i ∈ ([.fadd {} false 3 1 (.reg 2), .fsub {} false 3 1 (.reg 2), .fmul {} false 3 1 (.reg 2),
    .ffma {} false 3 1 (.reg 2)] : List Instr), Issues i (mk [thr 1 0]) (thr 1 0) :=
  issues_all (by decide +kernel) (by decide +kernel) (by decide +kernel)

theorem wit_FloatMinimumMaximumAndPackedResults : ∀ i ∈ ([.fmin {} false 3 1 (.reg 2), .fmax {} false 3 1 (.reg 2),
    .hfma2 {} false 3 1 (.reg 2), .bfma2 {} false 3 1 (.reg 2), .hadd2 {} false 3 1 (.reg 2), .hmul2 {} false 3 1 (.reg 2)] : List Instr),
    Issues i (mk [thr 1 0]) (thr 1 0) :=
  issues_all (by decide +kernel) (by decide +kernel) (by decide +kernel)

theorem wit_AluInstructionsChangeOnlyTheirDestinations :
    ∃ i, i = Instr.fadd {} false 3 1 (.reg 2) ∧ classOf i = some 0 ∧ (∀ g u d n, i ≠ .movsw g u d n) ∧ Issues i (mk [thr 1 0]) (thr 1 0) :=
  ⟨_, rfl, rfl, fun _ _ _ _ h => (nomatch h), wit_FloatResultsAreNearest _ (.head _)⟩

theorem wit_SfuResultsComeLateAndTogether : ∀ i ∈ ([.cvtF32I32 {} false 4 8 2, .cvtF32N32 {} false 4 8 2, .cvtI32F32 {} false 4 8 2,
    .cvtN32F32 {} false 4 8 2, .cvtF16F32 {} false 4 8 2, .cvtBf16F32 {} false 4 8 2, .cvtE4m3F32 {} false 4 8 2,
    .cvtE5m2F32 {} false 4 8 2, .cvtI8F32 {} false 4 8 2, .cvtF32F16 {} false 4 8 2 1, .cvtF32Bf16 {} false 4 8 2 1,
    .cvtF32E4m3 {} false 4 8 2 3, .cvtF32E5m2 {} false 4 8 2 3, .cvtF32I8 {} false 4 8 2 3, .pk4E4m3 {} false 4 8 2,
    .pk4E5m2 {} false 4 8 2, .pk2Bf16 {} false 4 8 2, .pk2F16 {} false 4 8 2, .unpk4E4m3 {} false 4 8 2, .unpk4E5m2 {} false 4 8 2,
    .unpk8Cb4 {} false 4 8 2 7, .qntCb4 {} false 4 8 2 0, .divF32 {} false 4 8 2, .rcpF32 {} false 4 8 2, .rsqF32 {} false 4 8 2,
    .sqrtF32 {} false 4 8 2, .exp2F32 {} false 4 8 2, .log2F32 {} false 4 8 2, .sintF32 {} false 4 8 2, .costF32 {} false 4 8 2,
    .tanhF32 {} false 4 8 2, .sigmF32 {} false 4 8 2, .floorF32 {} false 4 8 2, .ceilF32 {} false 4 8 2, .truncF32 {} false 4 8 2,
    .rintF32 {} false 4 8 2, .classF32 {} false 4 8 2, .wadd {} false 16 1 2, .wrnd {} false 1 16 2, .wclr {} false 16 2] : List Instr),
    Issues i (mk [thr 1 5]) (thr 1 5) :=
  issues_all (by decide +kernel) (by decide +kernel) (by decide +kernel)

/-- A machine whose SFU holds a result for its thread. -/
def withSfu (p : SfuPend) : State := { mk [thr 1 5] with eng := { sfu := [p] } }

theorem wit_SfuResults : (∃ p, (withSfu { thread := 0, d := 3, vals := [1], taint := true, flags := 1, slot := none, window := 2 }).eng.sfu.find?
      (fun q => q.window == 2) = some p ∧ p.slot = none ∧ getThread (withSfu p) p.thread = some (thr 1 5)) ∧
    ∃ p, (withSfu { thread := 0, d := 3, vals := [], taint := false, flags := 0, slot := some (7, [0xFF]), window := 2 }).eng.sfu.find?
      (fun q => q.window == 2) = some p ∧ p.slot = some (7, [0xFF]) ∧ getThread (withSfu p) p.thread = some (thr 1 5) :=
  ⟨⟨_, rfl, by decide +kernel, by decide +kernel⟩, ⟨_, rfl, by decide +kernel, by decide +kernel⟩⟩

/-! ### Witnesses: encoding, issue, steps -/

theorem wit_ReservedOpcodesAreRefused : ∃ i, decode 6 0 none = .ok i ∧ decode 4 0x14000000 none = .ok (.exit {}) := ⟨_, rfl, rfl⟩

theorem wit_DecodingAnEncodedInstructionGivesItBack : ∀ i ∈ ([.add {} false 3 1 (.lit 5), .exit {}, .floorF32 {} false 4 8 2] : List Instr),
    (classOf i).isSome = true ∧ wellFormed i = true := by decide +kernel

/-- A machine whose code is one clause that holds a word. -/
def coded (cls w : Nat) (ts : List Thread) : State :=
  let s := placeCode State.reset 1 (clauseImage cls w)
  { s with threads := ts, fused := [] }

theorem wit_StepRunsTheDecodedInstruction :
    let s : State := { coded 0 0x0000C082 [thr 1 0] with fused := [0] }
    let s3 : State := { s with stall := false, fused := [], cur := 0 }
    (∃ (g : Grid) (hb wb : List Byte) (s0 s1 : State), getThread s 0 = some (thr 1 0) ∧ getGrid s 1 = some g ∧
      (thr 1 0).clause = some ⟨0, 0, 0, 8⟩ ∧ breakpointAt s3 (thr 1 0) = none ∧ codeWord s3 0 g 0 = some (.ok hb s0) ∧
      codeWord s3 0 g 4 = some (.ok wb s1) ∧ bitOf (wordOfBytes hb) 0 = false ∧
      decode 0 (wordOfBytes wb) none = .ok (.add {} false 3 1 (.reg 2))) ∧
    (∃ (t : Thread), t = { thr 1 4 with st := .blocked (.poll (.fence {} ⟨0, false, 0⟩)) } ∧ getThread (mk [t]) 0 = some t ∧
      isSaving (mk [t]) t = false) ∧
    classOf (.manageUnknown 3) = none ∧ (∀ core lg, Instr.manageUnknown 3 ≠ .starvationOverride core lg) ∧
    (let s : State := { mk [] with sched := [.event (.manageUnknown 3)] }
     s.fused = [] ∧ s.phase ≤ phaseOf { s with stall := false, sched := [] } (.manageUnknown 3) ∧ dueBefore { s with stall := false, sched := [] } 2 = false) :=
  ⟨⟨_, _, _, _, _, rfl, rfl, rfl, rfl, rfl, rfl, by decide +kernel, by rfl⟩, ⟨_, rfl, by decide +kernel, by decide +kernel⟩, rfl, fun _ _ h => (nomatch h),
    by decide +kernel⟩

/-- An instruction with its class and opcode, by a thread that has reached the checks of its issue. -/
def Reaches (i : Instr) (t : Thread) (cls op : Nat) : Prop :=
  getThread (mk [t]) (mk [t]).cur = some t ∧ t.st = .ready ∧ classOf i = some cls ∧ opOf i = op ∧ poisonDue t = none ∧ windowClosed t = false

/-- A thread inside a window for v3. -/
def windowed (kind cls : Nat) : Thread := { thr kind cls with windows := [{ id := 9, pc := 4, remain := 2, regs := [3], dests := [3] }] }

theorem wit_IssueChecksInOrder :
    Reaches (.add ⟨true, 0⟩ false 3 1 (.reg 2)) (thr 1 0) 0 0 ∧
    (Reaches (.add ⟨false, 1⟩ false 3 1 (.reg 2)) (thr 1 0) 0 0 ∧ guardPasses (thr 1 0) ⟨false, 1⟩ = false) ∧
    (Reaches (.ldW {} false 3 1 0 0 none) (thr 2 1) 1 4 ∧ issueCheck (.ldW {} false 3 1 0 0 none) (thr 2 1) = .bad .role) ∧
    (Reaches (.ldD {} false 3 1 0 0 none) (thr 1 1) 1 5 ∧ operandsWf 128 (.ldD {} false 3 1 0 0 none) = false) ∧
    Reaches (.add {} false 3 1 (.reg 2)) (windowed 1 0) 0 0 ∧ operandsWf 128 (.add {} false 3 1 (.reg 2)) = true ∧
      windowConflict (windowed 1 0) (uses (.add {} false 3 1 (.reg 2))) = true ∧
    -- CPY.MC with no core, with a core that its team does not have, and with one that it has, which reads a pending register
    ∀ cm ∈ ([0, 2, 1] : List (BitVec 8)), Reaches (.cpyMc {} 0 1 4 2 3 cm 2) (windowed 3 3) 3 6 ∧
      windowConflict (windowed 3 3) (uses (.cpyMc {} 0 1 4 2 3 cm 2)) = true := by
  unfold Reaches; exact ⟨by decide, by decide, by decide, by decide, by decide, by decide, by decide, by decide⟩

theorem wit_SpecialRegistersReadAndWritten :
    (∃ gr tm, getGrid (mk [thr 1 0]) 1 = some gr ∧ getTeam (mk [thr 1 0]) 0 = some tm) ∧
    (∀ i ∈ (([0x000, 0x001, 0x002, 0x003, 0x004, 0x005, 0x006, 0x007, 0x008, 0x009, 0x00A, 0x00B, 0x010, 0x011, 0x012, 0x013, 0x014, 0x020,
      0x021, 0x030, 0x031, 0x040, 0x050, 0x051, 0x052, 0x053, 0x054, 0x055, 0x056, 0x057, 0x058, 0x059, 0x05A, 0x05B, 0x060, 0x061, 0x062,
      0x063, 0x064, 0x065, 0x070, 0x080] : List (BitVec 14)).map fun n => Instr.movs {} false 3 n) ++
      ([0x020, 0x021, 0x030, 0x031] : List (BitVec 14)).map fun n => Instr.movsw {} false 1 n,
      Issues i (mk [withV (thr 1 0) 65535 0 0]) (withV (thr 1 0) 65535 0 0)) ∧
    rdV (withV (thr 1 0) 65535 0 0) 1 = 65535 ∧ (65535 : Word).extractLsb' 0 2 ≠ 0 :=
  ⟨⟨_, _, rfl, rfl⟩, issues_all (by decide +kernel) (by decide +kernel) (by decide +kernel), by decide +kernel, by decide +kernel⟩

theorem wit_MeetingAddressesHoldAndRelease :
    (∀ i ∈ ([.setm {} 2, .setmx {} 1, .clrm {}, .movsw {} false 1 0x020, .setmx {} 2, .movsw {} false 3 0x020] : List Instr),
      Issues i (mk [withV (thr 1 4) 8 0xFFFFFFFF 2]) (withV (thr 1 4) 8 0xFFFFFFFF 2)) ∧
    ∃ t : Thread, t = { thr 1 4 with st := .heldMeet 0 0 } ∧ getThread (mk [t]) 0 = some t ∧ 0 + 0 ≤ mainClocks (mk [t]) t.core :=
  ⟨issues_all (by decide +kernel) (by decide +kernel) (by decide +kernel), _, rfl, by decide +kernel, by decide +kernel⟩

theorem wit_TimeFlagsAndTrace :
    (∀ i ∈ ([.clock {} 4, .gtime {} 4, .flags {} 3 63, .trace {} 1 127] : List Instr), Issues i (mk [thr 1 6]) (thr 1 6)) ∧
    (debugOf (mk [thr 1 6]) (partOf (mk [thr 1 6]) 1)).trcen.getLsbD 127 = false ∧
    (let s : State := { mk [thr 1 6] with debugs := [{ trcen := 2 ^ 127 }] }
     Issues (.trace {} 1 127) s (thr 1 6) ∧ (debugOf s (partOf s 1)).trcen.getLsbD 127 = true) :=
  ⟨issues_all (by decide +kernel) (by decide +kernel) (by decide +kernel), by decide +kernel, ⟨by decide +kernel, by decide +kernel, by decide +kernel⟩, by decide +kernel⟩

/-- A thread that has raised a fault. -/
def faulting (tvec : Nat) : Thread := { thr 1 6 with tvec := tvec, st := .trapping { code := .trap, arg := 127, tpc := 4 } }

/-- A thread in a handler that saves a PC. -/
def handling (cls : Nat) (tpc : Word) : Thread := { thr 1 cls with tvec := 64, inHandler := true, tpc := tpc }

theorem wit_TrapsAreTakenAndReturnedFrom :
    (∀ i ∈ ([.trap {} 127, .bkpt {} 1, .tretRetry {}, .tretSkip {}] : List Instr), Issues i (mk [thr 1 6]) (thr 1 6)) ∧
    (debugOf (mk [thr 1 6]) (partOf (mk [thr 1 6]) 1)).attach = false ∧ (thr 1 6).inHandler = false ∧
    (getThread (mk [faulting 64]) 0 = some (faulting 64) ∧ (faulting 64).tvec ≠ 0 ∧ (faulting 64).inHandler = false ∧
      (∀ w ∈ (faulting 64).windows, w.poison = none → w.regs = [] ∧ w.reads = []) ∧ (mk [faulting 64]).mem.reqs = [] ∧
      (mk [faulting 64]).eng.sfu = []) ∧
    (∀ i ∈ ([.tretRetry {}, .tretSkip {}] : List Instr), Issues i (coded 0 0x0000C082 [handling 6 0]) (handling 6 0)) ∧
    (∀ i ∈ ([.tretRetry {}, .tretSkip {}] : List Instr), Issues i (coded 0 0x0000C082 [handling 6 4]) (handling 6 4)) ∧
    (handling 6 4).inHandler = true ∧ (handling 6 4).nowhere = false ∧
    (∃ gr, let s := coded 0 0x0000C082 [handling 6 0]
      getGrid s 1 = some gr ∧ clauseHolding s 0 gr 0 = none ∧ codeValue s 0 gr 0 = some 0x10000000 ∧ (0x10000000 : Nat) < 2 ^ 32 ∧
      clauseHolding s 0 gr 4 = some ⟨0, 0, 0, 8⟩ ∧ (∀ b, tretStop s (handling 6 0) gr b = .none ∧ tretStop s (handling 6 4) gr b = .none)) :=
  ⟨issues_all (by decide +kernel) (by decide +kernel) (by decide +kernel), by decide +kernel, by decide +kernel, by decide +kernel, issues_all (by decide +kernel) (by decide +kernel) (by decide +kernel),
    issues_all (by decide +kernel) (by decide +kernel) (by decide +kernel), by decide +kernel, by decide +kernel, _, rfl, by decide +kernel, by decide +kernel, by decide +kernel, by decide +kernel⟩

theorem wit_UnhandledFaultTerminatesTheGrid : ∃ g,
    getThread (mk [faulting 0]) 0 = some (faulting 0) ∧ (faulting 0).tvec = 0 ∧ getGrid (mk [faulting 0]) 1 = some g ∧
      (∀ w ∈ (faulting 0).windows, w.poison = none → w.regs = [] ∧ w.reads = []) ∧ (mk [faulting 0]).mem.reqs = [] ∧
      (mk [faulting 0]).eng.sfu = [] ∧ ((mk [faulting 0]).threads.map (·.key)).Nodup ∧ g.saved = [] :=
  ⟨_, by decide +kernel, by decide +kernel, rfl, by decide +kernel, by decide +kernel, by decide +kernel, by decide +kernel, rfl⟩

theorem wit_TransfersGoToHeaders : ∃ gr,
    let t := withV (thr 1 4) 0 4 0
    let s := coded 4 0x14000000 [t]
    getGrid s 1 = some gr ∧ t.clause = some ⟨0, 4, 0, 8⟩ ∧
    (∀ i ∈ ([.bra {} (-1), .brx {} 1, .call {} 30 (-1), .callx {} 3 1, .ret {} 1, .bra {} 0, .brx {} 2] : List Instr), Issues i s t) ∧
    (t.pc : Int) + 4 * (-1 : BitVec 21).toInt = 0 ∧ chainAt s 0 gr 0 = .hdr 0 ∧ chainAt s 0 gr 4 = .hdr 0 ∧ chainAt s 0 gr 8 = .none :=
  ⟨_, rfl, by decide +kernel, issues_all (by decide +kernel) (by decide +kernel) (by decide +kernel), by decide +kernel, by decide +kernel, by decide +kernel⟩

/-- A store of thread 0 that is still in its core. -/
def storeOp : SqOp :=
  { seq := 2, grid := 1, owner := 1, core := 0, lg := 0, tgt := { phys := 0, gang := false, idx := 0, tag := 1 }, size := 4, bytes := []
    kind := .plain, contrib := [(0, 2)] }

/-- A machine with that store. -/
def storing (ts : List Thread) : State :=
  let s := mk ts
  { s with mem := { s.mem with seq := 5, ops := [storeOp] } }

theorem wit_YieldsEndAndFencesWait :
    (∀ i ∈ ([.yield {} (.lit 0), .yield {} (.lit 65536), .nap {} (.reg 1), .wake {} 1, .wake {} 2] : List Instr),
      Issues i (mk [withV (thr 1 4) 16383 16384 0]) (withV (thr 1 4) 16383 16384 0)) ∧
    (∃ v : Thread, v = { thr 1 4 with st := .yielded 0 } ∧ getThread (mk [v]) 0 = some v ∧ 0 ≤ mainClocks (mk [v]) v.core) ∧
    (∀ i ∈ ([.fence {} ⟨0, false, 6⟩, .fence {} ⟨1, true, 0⟩, .icinv {}] : List Instr),
      Issues i (mk [withV (thr 1 6) 7 0 0]) (withV (thr 1 6) 7 0 0)) ∧
    (∀ i ∈ ([.fence {} ⟨0, false, 6⟩, .fence {} ⟨1, true, 0⟩, .icinv {}] : List Instr),
      Issues i (storing [withV (thr 1 6) 7 0 0]) (withV (thr 1 6) 7 0 0)) ∧
    (mk [thr 1 6]).mem.reqs = [] ∧ (mk [thr 1 6]).mem.ops = [] ∧
    (storeOp ∈ (storing [thr 1 6]).mem.ops ∧ (0, 2) ∈ storeOp.contrib ∧ 2 < (storing [thr 1 6]).mem.seq ∧ ¬ ackLevel 6 ≤ storeOp.level) ∧
    -- a store of another thread that the lane group could have read
    ({ storeOp with contrib := [(9, 2)] }).seenBy 0 0 = true ∧
    ∃ t : Thread, t = { thr 1 6 with st := .blocked (.poll (.fence {} ⟨0, false, 6⟩)) } ∧ getThread (mk [t]) (mk [t]).cur = some t :=
  ⟨issues_all (by decide +kernel) (by decide +kernel) (by decide +kernel), ⟨_, rfl, by decide +kernel, by decide +kernel⟩, issues_all (by decide +kernel) (by decide +kernel) (by decide +kernel),
    issues_all (by decide +kernel) (by decide +kernel) (by decide +kernel), rfl, rfl, by decide +kernel, by decide +kernel, _, rfl, by decide +kernel⟩


/-! ### Witnesses: handles, continuations, convoys, rendezvous, barriers, queues -/

/-- A machine whose team is changed. -/
def mkTeam (f : Team → Team) (ts : List Thread) : State :=
  let s := mk ts
  { s with disp := { s.disp with teams := s.disp.teams.map f } }

/-- A machine whose grid is changed. -/
def mkGrid (f : Grid → Grid) (ts : List Thread) : State :=
  let s := mk ts
  { s with disp := { s.disp with grids := s.disp.grids.map f } }

theorem wit_Handles : ∃ tm x,
    (∀ i ∈ ([.hsetFill {} 0, .hsetFull {} 0, .hsetDrain {} 0, .hsetFree {} 0, .harm {} 0 1, .harm {} 0 2, .harm {} 0 3, .hwaitF {} 0 true, .hwaitE {} 0] :
      List Instr), Issues i (mk [withV (thr 1 4) 0 16777215 16777216]) (withV (thr 1 4) 0 16777215 16777216)) ∧
    getTeam (mk [thr 1 4]) 0 = some tm ∧ tm.handles[0]? = some x ∧ x.err = false ∧ settledAt (mk [thr 1 4]) (issued (mk [thr 1 4]) (thr 1 4)) 1 = true ∧
    (∀ i ∈ ([.hsetFill {} 0, .harm {} 0 1] : List Instr), laneWaits i (mk [thr 1 4]) (issued (mk [thr 1 4]) (thr 1 4)) = false) ∧
    tm.handles[1]? = none ∧ Issues (.hsetFill {} 1) (mk [thr 1 4]) (thr 1 4) :=
  ⟨_, _, issues_all (by decide +kernel) (by decide +kernel) (by decide +kernel), rfl, rfl, by decide +kernel, by decide +kernel, by decide +kernel,
    ⟨by decide +kernel, by decide +kernel, by decide +kernel⟩⟩

theorem wit_Scopes : ∃ gr tm,
    (∀ i ∈ ([.scopeof {} 3 1 0, .scopeof {} 3 1 1, .scopeof {} 3 2 0, .scopeof {} 3 2 1, .scopeof {} 4 2 2, .scopeof {} 3 1 3, .scopeof {} 3 2 3] :
      List Instr), Issues i (mk [withV (thr 1 4) 191 192 0]) (withV (thr 1 4) 191 192 0)) ∧
    getGrid (mk [thr 1 4]) 1 = some gr ∧ getTeam (mk [thr 1 4]) 0 = some tm ∧
    (roleOfGroup gr.roles (32 / 32) = none ∧ ∃ ro, roleOfGroup gr.roles (0 / 32) = some ro ∧ ro.threads ≤ 1 % 32 ∧ 0 % 32 < ro.threads ∧
      (mk [thr 1 4]).threads.find? (fun v => v.team == 0 && v.tid == 0 && v.st != .exited) = some (thr 1 4) ∧
      (mk [{ thr 1 4 with st := .exited }]).threads.find? (fun v => v.team == 0 && v.tid == 0 && !v.isCont) = some { thr 1 4 with st := .exited }) ∧
    (gr.nteam ≤ 1 ∧ 0 < gr.nteam ∧ tm.cores.length = 1) ∧
    ∃ tm2, let s := mkTeam (fun m => { m with cores := [0, 12] }) [thr 1 4]
      getTeam s 0 = some tm2 ∧ ¬ (0 = (thr 1 4).teamIdx ∧ tm2.cores.length = 1) ∧ s.disp.teams.find? (fun m => m.grid == 1 && m.idx == 0) = some tm2 ∧
        tm2.cores ≠ [] ∧ let s3 := mkTeam (fun m => { m with cores := [0, 12], idx := 3 }) [thr 1 4]
          ∀ m ∈ s3.disp.teams, ¬ (m.grid = 1 ∧ m.idx = 0) :=
  ⟨_, _, issues_all (by decide +kernel) (by decide +kernel) (by decide +kernel), rfl, rfl, ⟨by decide +kernel, _, rfl, by decide +kernel⟩,
    by decide +kernel, _, rfl, by decide +kernel⟩

/-- A continuation record that has fired. -/
def fired : ContRec := { core := 0, handle := 0, armed := false, target := 0, v07 := List.replicate 8 7, orig := 0, reserved := true }

theorem wit_ThreadsEndAndContinue : ∃ gr tm x tm2,
    let s := coded 4 0x14000000 [thr 1 4]
    (∀ i ∈ ([.exit {}, .cont {} 0 0xFFFFFFFF, .cont {} 0 0] : List Instr), Issues i s (thr 1 4)) ∧
    getGrid s 1 = some gr ∧ getTeam s 0 = some tm ∧ tm.handles[0]? = some x ∧ x.err = false ∧ tm.rdv = [] ∧ tm.gangs = [] ∧
    (4 + 4 * (0xFFFFFFFF : Word).toInt = 0 ∧ chainAt s 0 gr 0 = .hdr 0 ∧ chainAt s 0 gr 4 = .hdr 0) ∧ takeRecord s tm 0 = some true ∧
    (let s2 := mkTeam (fun m => { m with conts := [fired] }) [{ thr 1 4 with st := .exited }]
     getTeam s2 0 = some tm2 ∧ tm2.conts[0]? = some fired ∧ tm2.saving = none ∧ gr.status = .running ∧ 8 ≤ (thr 1 4).budget ∧
      (∀ v ∈ s2.threads, ¬ (holdsSlice v = true ∧ v.core = 0 ∧ v.lg = 1)) ∧ blocksTaken s2 0 1 [] + 128 / 8 ≤ 512 ∧
      sharedFree s2 tm2 { thr 1 4 with st := .exited } 0 = false ∧ storesAcked s2 0 fired.stamp 1 = true ∧ fired.v07.length = 8 ∧ ∀ x ∈ tm2.conts, x.handle = fired.handle → fired.stamp ≤ x.stamp) ∧
    takeRecord (mkTeam (fun m => { m with conts := fired :: List.replicate 1024 { fired with reserved := false } }) [thr 1 4]) tm2 0 = none :=
  ⟨_, _, _, _, issues_all (by decide +kernel) (by decide +kernel) (by decide +kernel), rfl, rfl, rfl, by decide +kernel, rfl, rfl, by decide +kernel,
    by decide +kernel, ⟨rfl, by decide +kernel⟩, by decide +kernel⟩

/-- A convoy of thread 0 at index 63. -/
def convoy (lapsed : Bool) : Convoy :=
  { id := 255, bound := true, grid := 1, sl := 8, lt := 0, cvm := if lapsed then 0 else 2 ^ 63, cvl := if lapsed then 2 ^ 63 else 0
    heldClk := some 0, pos := [(63, 0, 0)] }

/-- A machine with that convoy. -/
def inConvoy (ts : List Thread) (v : Convoy) : State :=
  let s := mk ts
  { s with disp := { s.disp with convoys := [v] } }

theorem wit_ConvoysAndTheirLapses :
    (∀ i ∈ ([.cvjoin {} 1 2, .cvleave {}, .cvsetSl {} 1, .cvsetLt {} 2, .cvsetSl {} 2, .cvsetLt {} 3] : List Instr),
      Issues i (mk [withV (thr 1 4) 255 64 1048576]) (withV (thr 1 4) 255 64 1048576)) ∧
    (∀ i ∈ ([.cvjoin {} 1 2, .cvleave {}, .cvsetSl {} 1, .cvsetLt {} 1] : List Instr), Issues i (inConvoy [{ withV (thr 1 4) 255 63 0 with cv := some (255, 63) }] (convoy true))
      { withV (thr 1 4) 255 63 0 with cv := some (255, 63) }) ∧
    (∀ x ∈ (convoyOf (inConvoy [thr 1 4] (convoy true)) 255).pos, x.1 = 63) ∧ (convoyOf (inConvoy [thr 1 4] (convoy true)) 255).holder 63 = some 0 ∧
    (let s := inConvoy [thr 1 4] (convoy false)
     let v := convoyOf s 255
     (s.disp.convoys.map (·.id)).Nodup ∧ s.disp.cvq = [] ∧ (v.pos.map (·.1)).Nodup ∧ (∀ i, i < 64 → v.active i = true → i ∈ v.pos.map (·.1)) ∧ v.cvm ≠ 0 ∧
       v.heldClk = some s.clock ∧ (if (convoySeen s 255).tail < v.leastPos ∨ (convoySeen s 255).cvm ≠ v.cvm ∨ v.changed = true then s.clock else v.tailclk) + v.lt ≤ s.clock) :=
  ⟨issues_all (by decide +kernel) (by decide +kernel) (by decide +kernel), issues_all (by decide +kernel) (by decide +kernel) (by decide +kernel),
    by decide +kernel, by decide +kernel, by decide +kernel⟩

/-- The rendezvous instructions with their operations. -/
def rdvOps : List (Instr × RdvOp) :=
  [(.rdv {} 2, .rdv), (.shflIdx {} 3 1 2 (.imm 1), .shflIdx), (.shflXor {} 3 1 2 (.reg 1), .shflXor), (.shflUp {} 3 1 2 (.imm 31), .shflUp),
    (.shflDn {} 3 1 2 (.imm 1), .shflDn), (.voteAll {} 3 1 2, .voteAll), (.voteAny {} 3 1 2, .voteAny), (.voteBal {} 3 1 2, .voteBal),
    (.matchAny {} 3 1 2, .matchAny), (.matchAll {} 3 1 2, .matchAll), (.redxAddI32 {} 3 1 2, .addI32), (.redxMinI32 {} 3 1 2, .minI32),
    (.redxMaxI32 {} 3 1 2, .maxI32), (.redxMinN32 {} 3 1 2, .minN32), (.redxMaxN32 {} 3 1 2, .maxN32), (.redxAnd {} 3 1 2, .and),
    (.redxOr {} 3 1 2, .or), (.redxXor {} 3 1 2, .xor), (.redxFadd {} 3 1 2, .fadd), (.redxFmin {} 3 1 2, .fmin), (.redxFmax {} 3 1 2, .fmax),
    (.scanxAddI32 {} 3 1 2, .scanAdd), (.scanxFadd {} 3 1 2, .scanFadd)]

/-- Two threads of one group, the first about to arrive with a mask. -/
def pairOf (mask : Word) : List Thread :=
  [withV (thr 1 4) 5 mask 0, { thr 1 4 with key := 1, tid := 1, lane := 1, st := .blocked .rdv, blen := 8 }]

/-- The instance that the second has opened. -/
def opened (op : RdvOp) (mask : Nat) : RdvInst :=
  { grp := 0, contKey := 0, pc := 4, op := op, mask := mask, arrs := [{ thread := 1, lane := 1, val := 9, taint := true, n := 0, writes := true, d := 3 }] }

/-- The machine in which it is open. -/
def meeting (op : RdvOp) (mask : Nat) (m : Word) : State := mkTeam (fun x => { x with rdv := [opened op mask] }) (pairOf m)

theorem wit_RendezvousArrivals : ∃ tm tm2,
    (∀ m ∈ ([2, 3, 5] : List Word), ∀ c ∈ rdvOps, Issues c.1 (mk (pairOf m)) (withV (thr 1 4) 5 m 0)) ∧
    getTeam (mk (pairOf 3)) 0 = some tm ∧ tm.rdv = [] ∧
    (((mk (pairOf 5)).threads.filter fun v => sameGroup v (thr 1 4) && v.st != .exited).map fun v => v.tid % 32) = [0, 1] ∧
    getTeam (meeting .rdv 2 3) 0 = some tm2 ∧
    tm2.rdv.find? (fun k => k.grp == 0 && k.contKey == contKeyOf (thr 1 4) && k.pc == 4) = some (opened .rdv 2) ∧ (opened .rdv 2).mask ≠ (3 : Word).toNat ∧
    ((opened .rdv 2).arrs.map (·.thread)).Nodup ∧ 0 ∉ (opened .rdv 2).arrs.map (·.thread) := by
  refine ⟨_, _, fun m _ c hc => ⟨rfl, rfl, ?_⟩, rfl, rfl, by decide +kernel, rfl, by decide +kernel⟩
  have h : ∀ c ∈ rdvOps, issueCheck c.1 (thr 1 4) = .ok := by decide +kernel
  exact h c hc

theorem wit_RendezvousRelease :
    (∀ c ∈ rdvOps, Issues c.1 (meeting c.2 3 3) (withV (thr 1 4) 5 3 0) ∧ (opened c.2 3).op = c.2) ∧
    (∀ op, ∃ tm, getTeam (meeting op 3 3) 0 = some tm ∧ tm.rdv = [opened op 3] ∧ (opened op 3).grp = 0 ∧ (opened op 3).contKey = contKeyOf (thr 1 4) ∧
      (opened op 3).pc = 4 ∧ (opened op 3).mask = (3 : Word).toNat ∧ (opened op 3).arrs.map (·.lane) = [1] ∧ (opened op 3).arrs.map (·.thread) = [1] ∧
      ∃ v, getThread (meeting op 3 3) 1 = some v) ∧
    ((pairOf 3).map fun v => v.tid % 32) = [0, 1] := by
  refine ⟨fun c hc => ⟨⟨rfl, rfl, ?_⟩, rfl⟩, fun op => ⟨_, rfl, rfl, rfl, rfl, rfl, rfl, rfl, rfl, _, rfl⟩, by decide +kernel⟩
  have h : ∀ c ∈ rdvOps, issueCheck c.1 (thr 1 4) = .ok := by decide +kernel
  exact h c hc

/-- A machine of a cooperative grid with barrier 0 of its team and grid as given. -/
def atBars (b : Barrier) (ts : List Thread) : State :=
  let s := mkTeam (fun m => { m with barriers := b :: List.replicate 14 {} }) ts
  { s with disp := { s.disp with grids := s.disp.grids.map fun g => { g with coop := true, gbars := b :: List.replicate 7 {} } } }

/-- The arriving barrier instructions. -/
def arrivals : List Instr :=
  [.tbarSync {} 0, .tbarArv {} 0, .tbarRed {} 3 1 7 0 (some false), .gbarSync {} 0, .gbarArv {} 0, .gbarRed {} 3 1 2 0 (some true)]

theorem wit_BarrierInstructions : ∃ gr tm,
    (∀ i ∈ arrivals, Issues i (atBars {} [thr 1 4]) (thr 1 4)) ∧ getGrid (atBars {} [thr 1 4]) 1 = some gr ∧ gr.coop = true ∧ getTeam (atBars {} [thr 1 4]) 0 = some tm ∧
    getBar (atBars {} [thr 1 4]) 0 1 false 0 = some {} ∧ getBar (atBars {} [thr 1 4]) 0 1 true 0 = some {} ∧
    (∀ g ∈ [false, true], skipsAt g 0 (thr 1 4) = false ∧ arrivedAt g 0 (thr 1 4) = false) ∧ (thr 1 4).role ∈ [0, 1, 2, 3] ∧
    (∀ i ∈ arrivals, Issues i (atBars {} [{ thr 1 4 with arrT := 1, arrG := 1 }]) { thr 1 4 with arrT := 1, arrG := 1 }) ∧
    arrivedAt false 0 { thr 1 4 with arrT := 1, arrG := 1 } = true ∧ arrivedAt true 0 { thr 1 4 with arrT := 1, arrG := 1 } = true ∧
    (∀ i ∈ arrivals, Issues i (atBars { kind := some (some 5) } [thr 1 4]) (thr 1 4)) ∧
    getBar (atBars { kind := some (some 5) } [thr 1 4]) 0 1 false 0 = some { kind := some (some 5) } ∧
    getBar (atBars { kind := some (some 5) } [thr 1 4]) 0 1 true 0 = some { kind := some (some 5) } ∧ ((atBars {} [thr 1 4]).threads.map (·.key)).Nodup :=
  ⟨_, _, issues_all (by decide +kernel) (by decide +kernel) (by decide +kernel), rfl, rfl, rfl, rfl, rfl, by decide +kernel, by decide +kernel,
    issues_all (by decide +kernel) (by decide +kernel) (by decide +kernel), by decide +kernel, by decide +kernel,
    issues_all (by decide +kernel) (by decide +kernel) (by decide +kernel), rfl, rfl, by decide +kernel⟩

/-- A thread with the arrived and pending bits of barrier 0 given. -/
def waiting (arrived pending : Nat) : Thread := { thr 1 4 with arrT := arrived, arrG := arrived, pendT := pending, pendG := pending }

theorem wit_BarrierWaits : ∃ tm, getTeam (atBars {} [waiting 1 1]) 0 = some tm ∧
    (∀ i ∈ ([.tbarWait {} 0, .gbarWait {} 0] : List Instr), Issues i (atBars {} [waiting 0 0]) (waiting 0 0)) ∧ pendingAt false 0 (waiting 0 0) = false ∧
    (∀ i ∈ ([.tbarWait {} 0, .gbarWait {} 0] : List Instr), Issues i (atBars {} [waiting 1 1]) (waiting 1 1)) ∧
    (∀ i ∈ ([.tbarWait {} 0, .gbarWait {} 0] : List Instr), Issues i (atBars {} [waiting 0 1]) (waiting 0 1)) ∧
    (∀ g ∈ [false, true], barMember (atBars {} [waiting 1 1]) (waiting 1 1) g 0 = true ∧ pendingAt g 0 (waiting 1 1) = true ∧
      arrivedAt g 0 (waiting 1 1) = true ∧ pendingAt g 0 (waiting 0 1) = true ∧ arrivedAt g 0 (waiting 0 1) = false) :=
  ⟨_, rfl, issues_all (by decide +kernel) (by decide +kernel) (by decide +kernel), by decide +kernel,
    issues_all (by decide +kernel) (by decide +kernel) (by decide +kernel), issues_all (by decide +kernel) (by decide +kernel) (by decide +kernel),
    by decide +kernel⟩

/-- A thread that waits at barrier 0. -/
def atBar (g : Bool) : Thread :=
  { waiting (if g then 0 else 1) 1 with st := if g then .blocked (.gbar 0 false 0 false) else .blocked (.tbar 0 true 3 true), blen := 8 }

theorem wit_BarrierPhasesComplete : ∃ tm : Team, ∃ b : Barrier, ∃ a : BarArr, ∃ x : Slew,
    (b = { kind := some (some 10), arrs := [{ thread := 0, counted := false, val := 5 }] } ∧
      let s := atBars b [atBar false]
      getThread s 0 = some (atBar false) ∧ getTeam s 0 = some tm ∧ tm.barriers[0]? = some b ∧ barCounts 0 1 false 0 (atBar false) = true ∧
      b.arrs.find? (fun y => y.thread == 0 && !y.counted) = some a ∧ loadsDone s 0 a.seq = true ∧ storesAcked s 0 a.seq 1 = true ∧
      (s.threads.map (·.key)).Nodup ∧ (b.arrs.map (·.thread)).Nodup ∧ waitsIn false 0 (atBar false) = some (true, 3, true) ∧
      arrivedAt false 0 (atBar false) = true) ∧
    (x = { grid := 1, bar := 0, cores := List.range 25, clock := 0 } ∧
      let s0 := atBars {} [atBar true]
      let s : State := { s0 with clock := 1, disp := { s0.disp with slew := [x] } }
      s.disp.slew.find? (fun y => y.grid == 1 && y.bar == 0) = some x ∧ x.clock < s.clock ∧ (s.threads.map (·.key)).Nodup ∧
      (atBar true).core ∈ x.cores.take 24 ∧ (waitsIn true 0 (atBar true)).isSome = true ∧ arrivedAt true 0 (atBar true) = false) :=
  ⟨_, _, _, _, ⟨rfl, by decide +kernel, rfl, rfl, by decide +kernel, rfl, by decide +kernel⟩, rfl, by decide +kernel⟩

theorem wit_GridBarrierPhase : ∃ gr a,
    let b : Barrier := { kind := some (some 10), arrs := [{ thread := 0, counted := false, val := 5 }] }
    let u := { atBar true with arrG := 1 }
    let s := atBars b [u]
    getThread s 0 = some u ∧ getGrid s 1 = some gr ∧ gr.gbars[0]? = some b ∧ u.st ≠ .exited ∧ b.arrs.find? (fun y => y.thread == 0 && !y.counted) = some a ∧
      loadsDone s 0 a.seq = true ∧ storesAcked s 0 a.seq 5 = true ∧ ((s.threads ++ gr.saved.flatMap (·.threads)).map (·.key)).Nodup ∧
      (b.arrs.map (·.thread)).Nodup ∧ s.disp.slewLast < 16 ∧ (∀ v ∈ s.threads, v.core < 192) ∧ arrivedAt true 0 u = true ∧
      waitsIn true 0 u = some (false, 0, false) ∧
      -- an arrival that is not the last: another live thread has none
      let s2 := atBars b [u, { thr 1 4 with key := 1, tid := 1, lane := 1 }]
      getThread s2 0 = some u ∧ ({ thr 1 4 with key := 1, tid := 1, lane := 1 } : Thread) ∈ s2.threads ∧ skipsAt true 0 { thr 1 4 with key := 1, tid := 1, lane := 1 } = false :=
  ⟨_, _, by decide +kernel, rfl, rfl, by decide +kernel, rfl, by decide +kernel⟩

/-- Queue 255, of the grid's owner. -/
def hq : HwQueue := { q := 255, en := true, owner := 1 }

/-- A machine with a queue and queue operations. -/
def queued (h : HwQueue) (ops : List QOp) (ts : List Thread) : State :=
  let s := mk ts
  { s with disp := { s.disp with queues := [h], qops := ops } }

/-- The queue instructions. -/
def queueInstrs : List Instr :=
  [.qpush {} 8 255, .qpushD {} 16 255, .qpop {} 8 255, .qpushNb {} 8 255 3, .qpopNb {} 8 255 3, .qlen {} 3 255]

theorem wit_QueueInstructions : ∃ gr h1 h2 h3, getGrid (mk [thr 1 4]) 1 = some gr ∧
    (∀ s, s = mk [thr 1 4] ∨ s = queued hq [] [thr 1 4] ∨ s = queued { hq with kind := 1 } [] [thr 1 4] ∨ s = queued { hq with stopped := some 64 } [] [thr 1 4] →
      getThread s s.cur = some (thr 1 4) ∧ getGrid s 1 = some gr) ∧ (∀ i ∈ queueInstrs, issueCheck i (thr 1 4) = .ok) ∧
    queueFor (mk [thr 1 4]) 255 = none ∧
    (queueFor (queued hq [] [thr 1 4]) 255 = some h1 ∧ h1.owner = gr.owner ∧ h1.stopped = none) ∧
    (queueFor (queued { hq with kind := 1 } [] [thr 1 4]) 255 = some h2 ∧ h2.owner = gr.owner ∧ h2.kind = 1) ∧
    (queueFor (queued { hq with stopped := some 64 } [] [thr 1 4]) 255 = some h3 ∧ h3.owner = gr.owner ∧ h3.stopped = some 64) := by
  refine ⟨_, _, _, _, rfl, ?_, by decide +kernel, by decide +kernel, ⟨rfl, rfl, rfl⟩, ⟨rfl, rfl, rfl⟩, rfl, rfl, rfl⟩
  rintro s (rfl | rfl | rfl | rfl) <;> exact ⟨by decide +kernel, rfl⟩

/-- A thread that waits for the queue unit, and its operation. -/
def sender : Thread := { thr 1 4 with st := .blocked .queueOp, blen := 4 }

/-- Operations of thread 0 on queue 255. -/
def senders : List QOp :=
  [{ q := 255, thread := 0, kind := .push, d := 8, words := List.replicate 8 1, after := 0 },
    { q := 255, thread := 0, kind := .pushD, d := 8, words := List.replicate 16 1, after := 0 },
    { q := 255, thread := 0, kind := .pushNb 3, d := 8, words := List.replicate 8 1, after := 0 },
    { q := 255, thread := 0, kind := .pop, d := 8, words := [], after := 0 }, { q := 255, thread := 0, kind := .popNb 3, d := 8, words := [], after := 0 }]

theorem wit_QueueUnit : ∀ o ∈ senders, ∀ f ∈ ([[], [⟨List.replicate 8 2, none⟩]] : List (List QEntry)),
    qopOf (queued { hq with fifo := f } [o] [sender]) 255 0 = some o ∧
    ((queued { hq with fifo := f } [o] [sender]).disp.qops.filter fun x => x.q == 255 && x.thread == 0) = [o] ∧
    qopReady (queued { hq with fifo := f } [o] [sender]) o = true ∧
    queueFor (queued { hq with fifo := f } [o] [sender]) 255 = some { hq with fifo := f } ∧
    getThread (queued { hq with fifo := f } [o] [sender]) 0 = some sender ∧ unitPusher 0 = false ∧ o.blocked = false ∧ f.length + 2 ≤ 32 := by
  decide +kernel

theorem wit_QueueUnitWaits :
    let b : QOp := { q := 255, thread := 1, kind := .push, d := 8, words := List.replicate 8 1, after := 0, fset := 1, blocked := true }
    let full : HwQueue := { hq with fifo := List.replicate 32 ⟨List.replicate 8 2, none⟩ }
    (let o : QOp := { b with thread := 0, fset := 2, blocked := false }
     let s := queued full [b, o] [sender]
     qopOf s 255 0 = some o ∧ (s.disp.qops.filter fun x => x.q == 255 && x.thread == 0) = [o] ∧ qopReady s o = true ∧ o.never = false ∧ blockedAhead s o ≠ []) ∧
    (let o : QOp := { b with thread := 0, fset := 2, blocked := false, kind := .popNb 3, words := [] }
     let s := queued hq [{ b with started := true, kind := .pop, words := [] }, o] [sender, { sender with key := 1 }]
     qopOf s 255 0 = some o ∧ qopReady s o = true ∧ o.never = true ∧ halfDone s o ≠ []) ∧
    (let o : QOp := { b with thread := 0, kind := .pop, words := [], fset := 2, blocked := false, after := 1 }
     let s := queued full [{ o with thread := 1, fset := 1, after := 0, arrived := true }, o] [sender]
     qopOf s 255 0 = some o ∧ qopReady s o = false ∧ qopReleased s o = true ∧ frontQop s o = true ∧ inputBehind s o = true) := by
  decide +kernel

/-! ### Witnesses: memory -/

/-- The words of a KIND 0 buffer entry of 4,096 bytes at address 0 in stack 0. -/
def entryWords (owner rights : Nat) : List Word := [0, 0, 4096, 0, BitVec.ofNat 32 (2 ^ 31 + owner * 2 ^ 16 + 0x100 + rights), 0, 0, 0]

/-- A thread with v1 = x, and slots for the buffers 0, 2, 1, 3, 4 and 5, whose word of scopes in v2 is 6. -/
def acc (cls : Nat) (x : Word) : Thread := { withV (thr 1 cls) x 6 0 with b := [0, 2, 1, 3, 4, 5].map (fun n => BitVec.ofNat 64 (n * 2 ^ 48)) }

/-- A machine whose core 0 has buffers 2 (its owner's, R, W, A), 3 (no rights) and 4 (another owner's) and the translation of the page. -/
def mapped (ts : List Thread) : State :=
  let s := mkGrid (fun g => { g with scr := 1 }) ts
  { s with mem := { s.mem with
      seq := 5
      bufc := [⟨0, 1, 2, entryWords 1 7⟩, ⟨0, 1, 3, entryWords 1 0⟩, ⟨0, 1, 4, entryWords 2 7⟩]
      tlb := [⟨0, ⟨1, 0, 0⟩, .leaf 0x10003 3⟩] }
           disp := { s.disp with owners := [(1, [2 ^ 31, 0x100, 0, 3, 0x1000, 0, 0, 0])] } }

/-- The target of the first bytes of buffer 2. -/
def home : Target := { phys := 0x10000, gang := false, idx := 2, tag := 1 }

/-- The loads, by slot. -/
def loads (b : BitVec 3) : List Instr :=
  [.ldN8 {} false 8 1 2 b none, .ldI8 {} false 8 1 2 b none, .ldN16 {} false 8 1 2 b none, .ldI16 {} false 8 1 2 b none, .ldW {} true 8 1 2 b none,
    .ldD {} false 8 1 2 b none, .ldQ {} false 8 1 2 b none, .ldO {} false 8 1 2 b none, .ldcW {} false 8 1 2 b none, .ldcD {} false 8 1 2 b none,
    .ldaW {} false 8 1 2 b ⟨0, false, 0, 6⟩, .ldaD {} false 8 1 2 b ⟨0, true, 2, 0⟩, .ldapW {} false 8 1 2 b ⟨0, false, 0, 0⟩]

/-- The loads of convoys. -/
def convoyLoads : List Instr := [.ldvW {} false 8 1 2 1 none, .ldvD {} false 8 1 2 1 none, .ldvQ {} false 8 1 2 1 none, .ldvO {} false 8 1 2 1 none]

/-- The stores, by slot. -/
def stores (b : BitVec 3) : List Instr :=
  [.stB {} 8 1 2 b none, .stH {} 8 1 2 b none, .stW {} 8 1 2 b none, .stD {} 8 1 2 b none, .stQ {} 8 1 2 b none, .stO {} 8 1 2 b none,
    .stlW {} 8 1 2 b ⟨0, false, 0, 6⟩, .stlD {} 8 1 2 b ⟨0, true, 2, 0⟩]

/-- The atomics and reductions, by slot. -/
def atomics (b : BitVec 3) : List Instr :=
  [.atomAdd {} 8 1 2 b none, .atomMinI32 {} 8 1 2 b none, .atomMaxI32 {} 8 1 2 b none, .atomMinN32 {} 8 1 2 b none, .atomMaxN32 {} 8 1 2 b none,
    .atomAnd {} 8 1 2 b none, .atomOr {} 8 1 2 b none, .atomXor {} 8 1 2 b none, .atomXchg {} 8 1 2 b none, .atomCas {} 8 1 2 b none,
    .atomIncw {} 8 1 2 b none, .atomAdd64 {} 8 1 2 b none, .atomCas64 {} 8 1 2 b none, .atomFadd {} 8 1 2 b none, .atomWrd {} 16 1 2 b none,
    .redAdd {} 8 1 2 b none, .redFadd {} 8 1 2 b none, .redWadd {} 16 1 2 b none, .redMaxI32 {} 8 1 2 b none]

theorem issues_acc {l : List Instr} (cls : Nat) (x : Word) (h : ∀ i ∈ l, issueCheck i (thr 1 cls) = .ok) :
    ∀ i ∈ l, Issues i (mapped [acc cls x]) (acc cls x) := fun i hi => ⟨rfl, rfl, h i hi⟩

theorem wit_GlobalAccessChecksInOrder : ∃ gr ws2 ws3 ws4,
    (∀ b ∈ ([0, 1, 2, 3, 4, 5] : List (BitVec 3)), ∀ x ∈ ([0, 1, 256, 4096] : List Word), ∀ i ∈ loads b ++ stores b ++ atomics b,
      Issues i (mapped [acc 1 x]) (acc 1 x)) ∧
    getGrid (mapped [acc 1 0]) 1 = some gr ∧ (acc 1 0).acquires = 0 ∧ slotsFull (mapped [acc 1 0]) 0 = false ∧
    (∀ n ∈ [1, 2, 4, 8, 16, 32, 48], queueFull (mapped [acc 1 0]) (acc 1 0) n = false) ∧
    (∀ i ∈ convoyLoads, Issues i (mapped [acc 1 0]) (acc 1 0)) ∧ convoyHolds (mapped [acc 1 0]) (acc 1 0) = false ∧
    ((List.range 6).map fun k => (rdB (acc 1 0) k).toNat) = [0, 2, 1, 3, 4, 5].map (· * 2 ^ 48) ∧
    bufFor (mapped [acc 1 0]) (some 0) gr.owner 5 = none ∧ ownerRec (mapped [acc 1 0]) gr.owner ≠ none ∧
    bufFor (mapped [acc 1 0]) (some 0) gr.owner 2 = some ws2 ∧ bufValid (mapped [acc 1 0]) gr.owner ws2 = true ∧ (decodeBuf ws2).kind = 0 ∧
      (decodeBuf ws2).len = 4096 ∧
    bufFor (mapped [acc 1 0]) (some 0) gr.owner 3 = some ws3 ∧ bufValid (mapped [acc 1 0]) gr.owner ws3 = true ∧ (decodeBuf ws3).kind = 0 ∧
      (decodeBuf ws3).rights = 0 ∧
    bufFor (mapped [acc 1 0]) (some 0) gr.owner 4 = some ws4 ∧ bufValid (mapped [acc 1 0]) gr.owner ws4 = true ∧ (decodeBuf ws4).kind = 0 ∧
      (decodeBuf ws4).rights = 7 ∧ (decodeBuf ws4).owner ≠ gr.owner := by
  refine ⟨_, _, _, _, fun b hb x _ => issues_acc 1 x ?_, rfl, by decide +kernel, by decide +kernel, by decide +kernel, issues_acc 1 0 (by decide +kernel),
    by decide +kernel, by decide +kernel, by decide +kernel, by decide +kernel, rfl,
    by decide +kernel, by decide +kernel, by decide +kernel, rfl, by decide +kernel, by decide +kernel, by decide +kernel, rfl, by decide +kernel⟩
  have h : ∀ b ∈ ([0, 1, 2, 3, 4, 5] : List (BitVec 3)), ∀ i ∈ loads b ++ stores b ++ atomics b, issueCheck i (thr 1 1) = .ok := by decide +kernel
  exact h b hb

/-- The words of an entry of owner 1 of a kind, a mode, rights and a caddy slot. -/
def kindWords (kind mode rights cslot : Nat) : List Word :=
  [0, 0, 4096, 0, BitVec.ofNat 32 (2 ^ 31 + kind * 2 ^ 29 + 2 ^ 16 + mode * 2 ^ 8 + rights), BitVec.ofNat 32 cslot, 0, 0]

/-- The machine with such an entry as buffer 2, a translation, pages of another package, and caddy slot 3, whose generation 0 is in a state
and pinned or not. -/
def bufPaged (ws : List Word) (tlb : List TlbEntry) (far : List (PageKey × RemotePage)) (state : Nat) (pins : List (Nat × Nat)) : State :=
  let s := mapped [acc 1 0]
  { s with
    mem := { s.mem with bufc := [⟨0, 1, 2, ws⟩], tlb := tlb, podPages := far
                        tbl := memWrite s.mem.tbl (0x42000 + 128 * 3) (bytesOf [0x80000001, 0, 0, 0, 0x1000, 0, 0, 0, 4096, 0]) }
    disp := { s.disp with caddies := [{ slot := 3, state := [state, 0] }], grids := s.disp.grids.map fun g => { g with pins := pins } } }

theorem wit_PageChecks :
    let near : PageKey := ⟨1, 0, 0⟩
    (∀ i ∈ loads 1 ++ stores 1 ++ atomics 1, Issues i (bufPaged (kindWords 0 1 7 0) [] [] 0 []) (acc 1 0)) ∧
    (∀ s ∈ [bufPaged (kindWords 0 1 7 0) [⟨0, near, .denied⟩] [] 0 [], bufPaged (kindWords 0 1 7 0) [⟨0, near, .missing true⟩] [] 0 [],
        bufPaged (kindWords 0 1 7 0) [] [] 0 []], ∃ ws, bufFor s (some 0) 1 2 = some ws ∧ bufValid s 1 ws = true ∧ (decodeBuf ws).kind = 0 ∧
          (decodeBuf ws).mode = 1 ∧ bitOf (decodeBuf ws).rights 2 = true ∧ (decodeBuf ws).owner = 1) ∧
    pageOf 1 0 0 = near ∧ tlbFor (bufPaged [] [⟨0, near, .denied⟩] [] 0 []) 0 near = some .denied ∧
    tlbFor (bufPaged [] [⟨0, near, .missing true⟩] [] 0 []) 0 near = some (.missing true) ∧
    tlbFor (bufPaged [] [] [] 0 []) 0 near = none ∧ (bufPaged [] [] [] 0 []).mem.miss = [] ∧
    -- a buffer of another package
    (∀ x ∈ [RemotePage.missing, .refused],
      let far := remotePage 1 0 (remoteAddr 1 2 0)
      let s := bufPaged (kindWords 0 4 7 0) [] [(far, x)] 0 []
      bufFor s (some 0) 1 2 = some (kindWords 0 4 7 0) ∧ bufValid s 1 (kindWords 0 4 7 0) = true ∧ (decodeBuf (kindWords 0 4 7 0)).mode = 4 ∧
        assoc s.mem.podPages far = some x) ∧
    -- a generation that the grid has pinned, none pinned, one that is LOADING, and none
    (∀ c ∈ [((1, 1, [(3, 0)], 3), some 0), ((1, 1, [], 3), none), ((2, 2, [], 1), some 0), ((2, 2, [], 3), none)],
      let ((kind, rights, pins, st), gen) := c
      let s := bufPaged (kindWords kind 0 rights 3) [] [] st pins
      bufFor s (some 0) 1 2 = some (kindWords kind 0 rights 3) ∧ bufValid s 1 (kindWords kind 0 rights 3) = true ∧
        (decodeBuf (kindWords kind 0 rights 3)).kind = kind ∧
        (if kind = 1 then assoc pins 3 else caddyGenIn s 3 1) = gen ∧ caddyBase s 3 0 = 0x1000 ∧ caddyLen s 3 0 = 4096) := by
  refine ⟨fun i hi => ⟨rfl, rfl, (issues_acc 1 0 (by decide +kernel) i hi).2.2⟩, ?_, by decide +kernel⟩
  intro s hs
  refine ⟨kindWords 0 1 7 0, ?_⟩
  revert s
  decide +kernel

theorem wit_LoadsEnterOneRequest : ∃ gr,
    (∀ i ∈ loads 1 ++ convoyLoads, Issues i (mapped [acc 1 0]) (acc 1 0)) ∧ getGrid (mapped [acc 1 0]) 1 = some gr ∧ (acc 1 0).acquires = 0 ∧
    slotsFull (mapped [acc 1 0]) 0 = false ∧ (acc 1 0).cv = none ∧ physOk home.phys = true ∧
    ∀ n ∈ [1, 2, 4, 8, 16, 32], checkAccess (cacheBuf (mapped [acc 1 0]) 0 gr.owner 2)
      { core := some 0, owner := gr.owner, grid := 1, idx := 2, off := 0, size := n, align := n, right := 0 } = .ok home :=
  ⟨_, issues_acc 1 0 (by decide +kernel), rfl, by decide +kernel⟩

/-- A member of a convoy about to load at v1. -/
def member (x : Word) : Thread := { acc 1 x with cv := some (255, 63) }

/-- The machine of the member, at position 8 or 7, in a convoy with a tail at 0. -/
def loading (x : Word) (pos : Nat) : State :=
  let s := mapped [member x]
  let v : Convoy := { id := 255, bound := true, grid := 1, sl := 8, lt := 64, cvm := 3 * 2 ^ 62, pos := [(62, 1, 0), (63, 0, pos)] }
  { s with disp := { s.disp with convoys := [v], convoysSeen := [v] } }

theorem wit_ConvoyLoads : ∃ gr,
    (∀ x n, ∀ i ∈ convoyLoads, Issues i (loading x n) (member x)) ∧ getGrid (loading 0 8) 1 = some gr ∧
    (member 0).acquires = 0 ∧ slotsFull (loading 0 8) 0 = false ∧ (member 0).stepped = false ∧ (convoyOf (loading 0 8) 255).holder 63 = some 0 ∧
    ((convoySeen (loading 0 8) 255).active 63 = true ∧ (convoySeen (loading 0 8) 255).tail + (convoySeen (loading 0 8) 255).sl ≤ (convoyOf (loading 0 8) 255).posOf 63) ∧
    ¬ ((convoySeen (loading 0 7) 255).tail + (convoySeen (loading 0 7) 255).sl ≤ (convoyOf (loading 0 7) 255).posOf 63) ∧
    (2 : Int) % 4 ≠ 0 ∧ (convoyOf (loading 2 7) 255).holder 63 = some 0 ∧
    ∀ n ∈ [4, 8, 16, 32], checkAccess (cacheBuf (loading 0 7) 0 gr.owner 2)
      { core := some 0, owner := gr.owner, grid := 1, idx := 2, off := 0, size := n, align := n, right := 0 } = .ok home := by
  refine ⟨_, fun x n i hi => ⟨rfl, rfl, ?_⟩, rfl, by decide +kernel⟩
  have h : ∀ i ∈ convoyLoads, issueCheck i (thr 1 1) = .ok := by decide +kernel
  exact h i hi

/-- A plain store in the queue of core 0, lane group 0. -/
def queuedStore : SqOp :=
  { seq := 3, grid := 1, owner := 1, core := 0, lg := 0, tgt := home, size := 1, bytes := [(0x10000, 9)], kind := .plain, contrib := [(0, 3)] }

/-- A machine with operations of stores. -/
def withOps (ops : List SqOp) (ts : List Thread) : State :=
  let s := mapped ts
  { s with mem := { s.mem with ops := ops } }

theorem wit_StoresAndAtomicsEnterTheQueue : ∃ gr,
    (∀ i ∈ stores 1 ++ atomics 1, Issues i (mapped [acc 1 0]) (acc 1 0)) ∧ (∀ i ∈ stores 1, Issues i (withOps [queuedStore] [acc 1 0]) (acc 1 0)) ∧
    getGrid (mapped [acc 1 0]) 1 = some gr ∧ ¬ ((debugOf (mapped [acc 1 0]) gr.part).attach = true ∧ (debugOf (mapped [acc 1 0]) gr.part).target = 1) ∧
    (∀ n ∈ [1, 2, 4, 8, 16, 32, 48], queueFull (mapped [acc 1 0]) (acc 1 0) n = false ∧ queueFull (withOps [queuedStore] [acc 1 0]) (acc 1 0) n = false) ∧
    mergeInto (mapped [acc 1 0]) 0 0 1 home = none ∧ mergeInto (withOps [queuedStore] [acc 1 0]) 0 0 1 home = some 3 ∧
    (∀ n ∈ [1, 2, 4, 8, 16, 32], ownLoadPending (mapped [acc 1 0]) (acc 1 0) home n = false ∧
      ∀ s ∈ [mapped [acc 1 0], withOps [queuedStore] [acc 1 0]], checkAccess (cacheBuf s 0 gr.owner 2)
        { core := some 0, owner := gr.owner, grid := 1, idx := 2, off := 0, size := n, align := n, right := 1 } = .ok home) ∧
    ∀ n ∈ [4, 8, 48], ownLoadPending (mapped [acc 1 0]) (acc 1 0) home n = false ∧ checkAccess (cacheBuf (mapped [acc 1 0]) 0 gr.owner 2)
      { core := some 0, owner := gr.owner, grid := 1, idx := 2, off := 0, size := n, align := if n = 48 then 64 else n, right := 2 } = .ok home :=
  ⟨_, issues_acc 1 0 (by decide +kernel), fun i hi => ⟨rfl, rfl, (issues_acc 1 0 (by decide +kernel) i (List.mem_append_left (atomics 1) hi)).2.2⟩, rfl,
    by decide +kernel⟩

/-- The scratchpad accesses. -/
def scratchInstrs : List Instr :=
  [.ldsW {} false 8 1 2 none, .ldsD {} false 8 1 2 none, .ldsQ {} false 8 1 2 none, .ldsO {} false 8 1 2 none, .ldfragN {} false 8 1 2 none,
    .ldfragT8 {} false 8 1 2 none, .ldfragT16 {} false 8 1 2 none, .stsW {} 8 1 2 none, .stsD {} 8 1 2 none, .stsQ {} 8 1 2 none, .stsO {} 8 1 2 none,
    .atomsAdd {} 8 1 2 none, .atomsCas {} 8 1 2 none, .atomsMaxN32 {} 8 1 2 none, .atomsXchg {} 8 1 2 none]

theorem wit_ScratchpadAccessesAndBufferSlots : ∃ gr tm,
    (∀ x ∈ ([0, 0x200003E0, 33, 0x30000000] : List Word), ∀ i ∈ scratchInstrs ++ [.setb {} 2 2 7, .getb {} 2 2 7], Issues i (mapped [acc 1 x]) (acc 1 x)) ∧
    getGrid (mapped [acc 1 0]) 1 = some gr ∧ getTeam (mapped [acc 1 0]) 0 = some tm ∧ (acc 1 0).acquires = 0 ∧
    -- v1 = 0: aligned for every form; v1 = 2000 03E0h: mode 2, the last 32 bytes; v1 = 33: aligned for none; v1 = 3000 0000h: no mode
    0 + 32 ≤ 1024 * gr.scr ∧ 0x3E0 + 32 ≤ 1024 * gr.scr ∧ 0 < tm.cores.length ∧ (0x200003E0 : Word).extractLsb' 23 5 = 0 ∧
    ((0x200003E0 : Word).extractLsb' 28 4).toNat = 2 ∧ ((0x200003E0 : Word).extractLsb' 0 20).toNat = 0x3E0 ∧ 33 % 4 ≠ 0 ∧ 33 % 2 ≠ 0 ∧ 33 / 32 % 32 ≠ 0 ∧
    ((0x30000000 : Word).extractLsb' 28 4).toNat = 3 ∧ (mapped [acc 1 0]).fused = [] := by
  refine ⟨_, _, fun x _ => issues_acc 1 x ?_, rfl, rfl, by decide +kernel⟩
  decide +kernel

theorem wit_ScratchBoundsOfAFusedSet : ∃ w x, encode (.ldsW {} false 8 1 2 none) = some w ∧
    let s : State := { coded 1 w.w [acc 1 0, { acc 1 4 with key := 1, lane := 1 }] with fused := [1] }
    Issues (.ldsW {} false 8 1 2 none) s (acc 1 0) ∧ s.cur ∉ s.fused ∧
      (match prepare s 1 with
        | .run s1 j => if j = .ldsW {} false 8 1 2 none then getThread s1 1 else none
        | _ => none) = some x ∧ issueCheck (.ldsW {} false 8 1 2 none) x = .ok ∧ x.grid = 1 ∧ x.team = 0 ∧ rdV x 1 = 4 :=
  ⟨_, _, rfl, ⟨by decide +kernel, by decide +kernel, by decide +kernel⟩, by decide +kernel, rfl, by decide +kernel⟩

/-- A word's load by thread 0. -/
def wordLoad (st : ReqStage) (acq : Option Nat) : Req :=
  { id := 2, thread := 0, pc := 4, grid := 1, owner := 1, core := 0, lg := 0, tgt := home, size := 4, fmt := .words 1, d := 8, window := 2, acq := acq, stage := st }

/-- A machine with that load, with the line in the core's L1. -/
def withLoad (r : Req) : State :=
  let s := mapped [{ acc 1 0 with windows := [{ id := 2, pc := 4, remain := 1, regs := [8], dests := [8] }], outMem := { count := 1, pc := 4 } }]
  { s with mem := { s.mem with reqs := [r], l1 := [(0, [{ line := 0x10000, tag := 1, bytes := List.replicate 64 7 }])] } }

/-- The accesses of a scratchpad, about to reach bank 0 of the team's core 0. -/
def atBank (k : ScrKind) : Req := { wordLoad .atCore none with scr := some { team := 0, tc := 0, mode := 2, off := 0x20, kind := k, fset := 1, lane := 0 } }

theorem wit_ScratchpadBanks :
    (∀ k ∈ [ScrKind.words 1, .t8, .t16, .store [1, 2, 3, 4], .atomic .add [5], .atomic .cas [5, 6], .atomic .maxN32 [5], .atomic .xchg [5]],
      let acc : ScrAcc := { team := 0, tc := 0, mode := 2, off := 0x20, kind := k, fset := 1, lane := 0 }
      let s := withLoad (atBank k)
      (getTeam s 0).isSome = true ∧ s.mem.reqs.find? (fun x => x.id == 2) = some (atBank k) ∧ (atBank k).copy = none ∧ (atBank k).stage = .atCore ∧ (atBank k).scr = some acc ∧
        lexLess (bankKey s (atBank k) acc) ((assoc s.banked (bankCore s acc)).getD []) = false ∧ ∀ x ∈ bankBlock s (atBank k) acc, bankBehind s x.1 x.2 = false) ∧
    (uBit (.ldW {} true 8 1 2 1 none) = true ∧ ({ mapped [acc 1 0] with ureq := some 3 } : State).ureq = some 3) := by decide +kernel

theorem wit_LoadsReturnTheirData :
    (∀ r ∈ [wordLoad (.data [1, 2, 3, 4] false) none, wordLoad (.data [1, 2, 3, 4] true) (some 2), wordLoad .atCore none],
      (withLoad r).mem.reqs.find? (fun x => x.id == 2) = some r ∧ r.copy = none ∧ (getThread (withLoad r) r.thread).isSome = true ∧ r.threads.Nodup ∧ r.fmt = .words 1) ∧
    coreSource (withLoad (wordLoad .atCore none)) (wordLoad .atCore none) = some [7, 7, 7, 7] := by decide +kernel

/-- A release at scope S of thread 0 at a level. -/
def releaseAt (S level : Nat) : SqOp := { queuedStore with seq := 4, kind := .release S 4, contrib := [(0, 4)], level := level, stamps := [1] }

/-- A plain store at a level. -/
def storeAt (level : Nat) : SqOp := { queuedStore with level := level, stamps := [0] }

/-- A load with a PROMOTE. -/
def promoting (p : Option (List Nat)) (ops : List SqOp) : State :=
  let s := withOps ops [acc 1 0]
  { s with mem := { s.mem with reqs := [{ wordLoad .atCore (some 2) with promote := [(0, p)] }] } }

theorem wit_StoresPassTheGatesAndPromoteWaits :
    ((withOps [releaseAt 2 0] [acc 1 0]).mem.ops.filter fun x => x.level == 0 && x.core == 0 && x.lg == 0).head? = some (releaseAt 2 0) ∧
    -- an earlier store that is not acknowledged holds the release
    ((withOps [storeAt 1, releaseAt 2 0] [acc 1 0]).mem.ops.filter fun x => x.level == 0 && x.core == 0 && x.lg == 0).head? = some (releaseAt 2 0) ∧
    (0, 3) ∈ (storeAt 1).contrib ∧ ¬ min 2 5 ≤ (storeAt 1).level ∧
    (∀ o ∈ [[releaseAt 2 0], [storeAt 1, releaseAt 2 0], [storeAt 1, releaseAt 2 1]], (withOps o [acc 1 0]).mem.ops.Pairwise fun x y => ¬ (x.seq = y.seq ∧ x.part = y.part)) ∧
    (∀ l ∈ [1, 2, 3], (withOps [releaseAt 2 l] [acc 1 0]).mem.ops.find? (fun x => x.seq == 4) = some (releaseAt 2 l)) ∧
    -- an older operation of the line goes first
    (∀ l ∈ [1, 2, 3], (storeAt l).seq ≠ (releaseAt 2 l).seq ∧ (storeAt l).level = (releaseAt 2 l).level ∧ (storeAt l).stamps.headD 0 < (releaseAt 2 l).stamps.headD 0) ∧
    (∃ r, (promoting none [releaseAt 2 1]).mem.reqs.find? (fun x => x.id == 2) = some r ∧ (getThread (promoting none [releaseAt 2 1]) r.thread).isSome = true ∧ assoc r.promote 0 = some none) ∧
    (∃ r, (promoting (some [4]) []).mem.reqs.find? (fun x => x.id == 2) = some r ∧ assoc r.promote 0 = some (some [4])) ∧
    releaseAt 2 1 ∈ (promoting (some [4]) [releaseAt 2 1]).mem.ops := by
  refine ⟨by decide +kernel, by decide +kernel, by decide +kernel, by decide +kernel, by decide +kernel, by decide +kernel, by decide +kernel, ⟨_, rfl, rfl, rfl⟩, ⟨_, rfl, rfl⟩,
    by decide +kernel⟩

/-- The Strait entry of a word's load. -/
def entryOf (closed : Bool) (core : Nat) : StraitEntry :=
  { line := 0x10000, pkg := none, cores := [core], bytes := List.replicate 64 7, infos := [{ tag := some 1 }, {}], closed := closed, reqs := [2] }

/-- A machine with a load and Strait entries. -/
def atSlice (r : Req) (es : List StraitEntry) : State :=
  let s := mapped [acc 1 0]
  { s with mem := { s.mem with reqs := [r], entries := es } }

theorem wit_StraitReadsMergeAndReply :
    (∀ es ∈ [[], [entryOf false 1], [entryOf true 1]], let s := atSlice (wordLoad .atCore none) es
      let r := wordLoad .atCore none
      s.mem.reqs.find? (fun x => x.id == 2) = some r ∧ r.copy = none ∧ r.tgt.pkg = none ∧ r.tgt.phys / 64 * 64 + 64 ≤ discBase ∧ r.atomic = false ∧
      r.promote = [] ∧ olderUnbound s r = false ∧ coreSource s r = none ∧ overlapping s r = [] ∧ (∀ e ∈ s.mem.entries, r.core ∉ e.cores) ∧
      aheadOf s r.core none 0x10000 = false ∧ coreWaiting s r = false ∧ r.scr = none ∧
      (s.mem.entries.filter fun e => lineKey e.pkg e.line / 2 ^ 48 == 0x10000 / 2 ^ 48).length < 16384 ∧ ∀ x ∈ s.mem.reqs, x.arrived = false) ∧
    (let r : Req := wordLoad .atCore none
     let a : Req := { r with id := 1, core := 1, thread := 9, tgt := { home with phys := 0x10040 }, arrived := true }
     let s : State := atSlice r []
     let s : State := { s with mem := { s.mem with reqs := [a, r] } }
     -- a request that waits at the slice and is granted first
     s.mem.reqs.find? (fun x => x.id == 2) = some r ∧ olderUnbound s r = false ∧ coreSource s r = none ∧ overlapping s r = [] ∧ coreWaiting s r = false ∧
      aheadOf s r.core none 0x10000 = false ∧ a ∈ s.mem.reqs ∧ a.stage = .atCore ∧
      lexLess (grantKey s.clock a.left a.slack a.id) (grantKey s.clock r.left r.slack 2) = true ∧ r.arrived = false) ∧
    (let r : Req := wordLoad .atCore none
     let s := atSlice r [entryOf false 0]
     entryWith s r.core none 0x10000 = some (entryOf false 0) ∧ r.noL1 = false ∧ r.noInstall = false ∧ r.core ∉ (entryOf false 0).dirty ∧ r.core ∉ (entryOf false 0).noInst) ∧
    (let s := atSlice (wordLoad .atEntry none) [entryOf false 0]
     s.mem.entries[0]? = some (entryOf false 0) ∧ (entryOf false 0).line = 0x10000 ∧ s.mem.entries.Nodup ∧
      s.mem.reqs.find? (fun x => x.id == 2) = some (wordLoad .atEntry none) ∧ (wordLoad .atEntry none).threads.Nodup ∧ (wordLoad .atEntry none).thread < 2 ^ 64 ∧
      0x10000 - 0x10000 + 4 ≤ 64) := by decide +kernel

/-- A machine with one operation about to be performed at home, and the poison of the atom it reaches. -/
def atHome (q : SqOp) (poison : Bool) : State :=
  let s := withOps [q] [acc 1 0]
  { s with mem := { s.mem with atoms := [(0x800, { tag := some 1, poison := poison })] } }

theorem wit_StoresAreWrittenAtHome : ∀ x ∈ [storeAt 4, releaseAt 2 4, { storeAt 4 with bytes := (List.range 32).map fun i => (0x10000 + i, 5) }],
    ∀ p ∈ [false, true], let s := atHome x p
    opFor s x.seq = some x ∧ x.level = 4 ∧ firstAtGate s x = true ∧ x.tgt.pkg = none ∧ x.tgt.cad = none ∧ x.trace = none ∧
      x.bytes ≠ [] ∧ (∀ b ∈ x.bytes, 0x10000 ≤ b.1 ∧ b.1 < 0x10000 + 32) ∧ (x.bytes.map (·.1)).Nodup ∧ Memory.wf s.mem.hbm = true := by decide +kernel

/-- An atomic operation at home. -/
def atomicAt (op : AtomOp) : SqOp :=
  { queuedStore with size := match op with | .add64 => 8 | .cas64 => 8 | .wadd => 48 | _ => 4
                     bytes := [], kind := .atomic op (List.replicate 11 3) (some 2), level := 4, stamps := [0] }

theorem wit_AtomicsActOnTheValueAtHome :
    ∀ op ∈ [AtomOp.add, .minI32, .maxI32, .minN32, .maxN32, .and, .or, .xor, .xchg, .cas, .incw, .add64, .cas64, .fadd, .wadd], ∀ p ∈ [false, true],
    let x := atomicAt op
    let s := atHome x p
    opFor s x.seq = some x ∧ x.kind = .atomic op (List.replicate 11 3) (some 2) ∧ x.lane = none ∧ (s.mem.ops.map fun y => (y.seq, y.part)).Nodup ∧
      laneBlock s x = [x] ∧ x.level = 4 ∧ inLane s (kettleLane x.tgt) = [] ∧ laneBehind s [x] x = false ∧ x.held = false ∧
      (let y : SqOp := { x with lane := some 5 }
       opFor (atHome y p) y.seq = some y ∧ laneHead (atHome y p) (kettleLane y.tgt) = some y) ∧
      x.tgt.pkg = none ∧ x.tgt.cad = none ∧ x.trace = none ∧ (x.level ≠ 4) = False ∧ ({ x with level := 3 } : SqOp).level ≠ 4 ∧
      x.size = (match op with | .add64 => 8 | .cas64 => 8 | .wadd => 48 | _ => 4) ∧ x.tgt.phys / 64 = (x.tgt.phys + x.size - 1) / 64 ∧ x.tgt.phys + x.size ≤ discBase ∧
      Memory.wf s.mem.hbm = true := by decide +kernel


theorem wit_AtomicsWaitForTheirPlace :
    let x := atomicAt .add
    let z : SqOp := { x with seq := 2, fset := 7, tgt := { home with phys := 0x10000 }, held := true, stamps := [1] }
    let s := withOps [z, x] [acc 1 0]
    opFor s x.seq = some x ∧ x.lane = none ∧ (s.mem.ops.map fun y => (y.seq, y.part)).Nodup ∧ laneBlock s x = [x] ∧ laneBehind s [x] x = true ∧ x.held = false ∧
      x.level = 4 ∧ x.tgt.pkg = none ∧ x.stamps.headD 0 < z.stamps.headD 0 := by decide +kernel

/-! ### Witnesses: engines and pages -/

/-- A machine whose team is of MATRIX (2) or COPY (3) threads, with one KiB of scratchpad and the buffers of `mapped`. -/
def engine (kind : Nat) (f : Team → Team) (ts : List Thread) : State :=
  let s := mapped ts
  { s with disp := { s.disp with
      grids := s.disp.grids.map fun g => { g with roles := [{ kind := kind, groups := 1, threads := 32, budget := 128 }, {}, {}, {}] }
      teams := s.disp.teams.map f } }

/-- A thread of the MATRIX team with a gang, a word in v1 and a layout word in v4 to v6. -/
def mthr (gang : Nat) (x w0 w2 : Word) : Thread := { thr 2 2 with v := [0, x, 0, 0, w0, 0, w2], mgang := gang }

/-- The instructions of a MATRIX thread that are not of a gang. -/
def matrixInstrs : List Instr := [.mgang {} 1, .mrel {}, .mopf {}, .mzero {} 3, .mcb {} 1 7, .mwait {}]

theorem wit_MatrixInstructionsIssue : ∃ tm,
    (∀ x, ∀ i ∈ matrixInstrs, Issues i (engine 2 id [mthr 0 x 0 0]) (mthr 0 x 0 0)) ∧ getTeam (engine 2 id [mthr 0 0 0 0]) 0 = some tm ∧
    -- v1 of MGANG: 0; a count of 1 and of 7; rowsets 2 and 3; rowsets 0 and 1
    bitsOf (1024 + 0) 12 10 < 2 ∧ 6 < bitsOf (7 * 1024) 12 10 ∧ ¬ (bitsOf 2050 9 0 ≤ rsetOf (mthr 0 2050 0 0)) ∧
    (bitsOf 2048 9 0 ≤ rsetOf (mthr 0 2048 0 0) ∧ rsetOf (mthr 0 2048 0 0) < bitsOf 2048 9 0 + bitsOf 2048 12 10 ∧
      ∀ r ∈ [0, 1], (rowsetRole (engine 2 id []) (mthr 0 2048 0 0) r).any (fun d => d.kind == 2) = true ∧ runOf tm (r / 2) = runOf tm 0) ∧
    -- v1 of MCB: 16, past the allocation, the last 32 bytes
    16 % 32 ≠ 0 ∧ ¬ 1024 + 32 ≤ scrBytes (engine 2 id []) 1 ∧ 992 + 32 ≤ scrBytes (engine 2 id []) 1 ∧ 0 < tm.cores.length ∧ (engine 2 id []).fused = [] ∧
    (∃ w : Window, w.open = true ∧ w.poison = none ∧ w.regs ≠ [] ∧
      Issues (.mopf {}) (engine 2 id [{ mthr 0 0 0 0 with windows := [w] }]) { mthr 0 0 0 0 with windows := [w] }) := by
  refine ⟨_, fun x i hi => ⟨rfl, rfl, ?_⟩, rfl, by decide +kernel, by decide +kernel, by decide +kernel, by decide +kernel, by decide +kernel,
    by decide +kernel, by decide +kernel, by decide +kernel, rfl, ⟨9, 4, 3, [99], [], none, [99], 0⟩, by decide +kernel, rfl, by decide +kernel,
    ⟨by decide +kernel, by decide +kernel, by decide +kernel⟩⟩
  have h : ∀ i ∈ matrixInstrs, issueCheck i (thr 2 2) = .ok := by decide +kernel
  exact h i hi

/-- The gang instructions. -/
def gangInstrs : List Instr :=
  [.mmaE4e4 {} 8 4 16 1 2 true 2, .mmaE4e5 {} 8 4 16 1 2 false 2, .mmaE5e4 {} 8 4 16 1 2 false 2, .mmaE5e5 {} 8 4 16 1 2 false 2,
    .mmaCb4 {} 8 4 16 1 2 true 7 2, .mmaBf16 {} 8 4 1 true 2, .mmaF16 {} 8 4 1 false 2, .mmaI8 {} 8 4 1 false 2, .mload {} .cb4 8 16 2 7 2]

/-- Another thread of the gang. -/
def mate (st : Sch) : Thread := { mthr 2048 0 0 0 with key := 1, tid := 17, lane := 17, st := st, blen := 4 }

/-- The arrival of that thread at an MMA. -/
def arrived (keep : Bool) : GangArr :=
  { thread := 1, member := 17, opc := 0, afmt := 0, tile := 1, slw := [0, 0, 0], keep := keep, kslot := 0, sb := 2, x1 := 8, x3 := 16, window := 2, mopf := 0 }

/-- A machine with a gang instance that the other thread has joined. -/
def ganged (gang : Nat) (keep : Bool) : State :=
  engine 2 (fun m => { m with gangs := [{ gang := gang, n := 1, arrs := [arrived keep] }] }) [mthr 2048 0 0 0, mate (.blocked .gang)]

theorem wit_GangInstructions : ∃ tm tm2 tm3 tm4,
    (∀ g w0 w2, ∀ i ∈ gangInstrs, Issues i (engine 2 id [mthr g 0 w0 w2]) (mthr g 0 w0 w2)) ∧
    getTeam (engine 2 id [mthr 2048 0 0 0]) 0 = some tm ∧ tm.gangs = [] ∧
    -- layout words: a reserved bit; a reserved third word; mode 3; plain
    bitsOf (2 ^ 23) 27 23 ≠ 0 ∧ 2 ^ 16 ≤ (0x10000 : Word).toNat ∧ bitsOf (2 ^ 23 - 1) 27 23 = 0 ∧ 3 ≤ bitsOf (0x30000000) 31 28 ∧
    (∀ i < 32, ∀ b < 128, ¬ scrBytes (engine 2 id []) 1 ≤ slwOff [0, 0, 0] b i 0) ∧ (∀ i < 64, ∀ b < 64, ¬ scrBytes (engine 2 id []) 1 ≤ slwOff [0, 0, 0] b i 0) ∧
    (∀ i < 16, ∀ b < 256, ¬ scrBytes (engine 2 id []) 1 ≤ slwOff [0, 0, 0] b i 0) ∧
    -- another gang that shares a rowset; an arrival that disagrees; one that agrees
    (∀ c ∈ [(2049, false), (2048, false), (2048, true)], ∀ i ∈ gangInstrs, Issues i (ganged c.1 c.2) (mthr 2048 0 0 0)) ∧
    getTeam (ganged 2049 false) 0 = some tm2 ∧ tm2.gangs.filter (fun g => g.gang != 2048 && gangsMeet g.gang 2048) ≠ [] ∧
    getTeam (ganged 2048 false) 0 = some tm3 ∧ (arrived false).keep ≠ true ∧ getTeam (ganged 2048 true) 0 = some tm4 ∧
    tm4.gangs.filter (fun g => g.gang == 2048 && g.n == 0 + 1) = [{ gang := 2048, n := 1, arrs := [arrived true] }] ∧ tm4.gangs.Nodup ∧
    getThread (ganged 2048 true) 1 = some (mate (.blocked .gang)) ∧ ((tm4.gangs.flatMap (·.arrs)).map (·.thread)).Nodup ∧ (mate (.blocked .gang)).core = 0 ∧
    (arrived true).thread ≠ (ganged 2048 true).cur ∧ (engine 2 id []).fused = [] ∧
    -- a member that has not arrived
    rsetOf (mate .ready) = 1 ∧ (mate .ready).st ≠ .exited := by
  have h : ∀ i ∈ gangInstrs, issueCheck i (thr 2 2) = .ok := by decide +kernel
  exact ⟨_, _, _, _, fun g w0 w2 i hi => ⟨rfl, rfl, h i hi⟩, rfl, rfl, by decide +kernel, by decide +kernel, by decide +kernel, by decide +kernel, by decide +kernel,
    by decide +kernel, by decide +kernel, fun c _ i hi => ⟨rfl, rfl, h i hi⟩, rfl, by decide +kernel, rfl, by decide +kernel, rfl, by decide +kernel,
    by decide +kernel, rfl, by decide +kernel, by decide +kernel⟩

/-- A machine whose core 0 has accepted a matrix operation. -/
def accepted (op : MatOp) : State :=
  let s := engine 2 id [mthr 2048 0 0 0, mate (.blocked .gang)]
  { s with eng := { s.eng with matq := [(0, op)] } }

theorem wit_MatrixEnginePerformsOneOperation : ∃ tm, getTeam (accepted (.mzero 0 1)) 0 = some tm ∧
    (∀ op ∈ [MatOp.mzero 0 1, .mcb 0 0 7 32 0], (accepted op).eng.matq.find? (fun y => y.1 == 0) = some (0, op)) ∧ 32 % 32 = 0 ∧
    ∀ c ∈ [(0, 0), (1, 0), (2, 1), (3, 1), (4, 2), (5, 3), (6, 4), (7, 5), (9, 2)],
      let a : GangArr := { arrived true with opc := c.1, afmt := c.2 }
      let g : GangInst := { gang := 2048, n := 1, arrs := [a] }
      (accepted (.gang 0 g false)).eng.matq.find? (fun y => y.1 == 0) = some (0, .gang 0 g false) ∧ (a.opc < 8 ∨ a.opc = 9) ∧ a.afmt ≤ 5 ∧
        (g.arrs.map (·.thread)).Nodup ∧ (∀ b ∈ g.arrs, (getThread (accepted (.gang 0 g false)) b.thread).isSome = true) ∧
        cellsWf (tileOf (accepted (.gang 0 g false)) 0 a.tile) = true ∧ (a.opc < 8 → a.afmt = (mmaFmts a.opc).1) :=
  ⟨_, rfl, by decide +kernel, by decide +kernel, by decide +kernel⟩

theorem wit_HeldLatch : ∃ x : Nat × MatOp, x = (0, .gang 0 { gang := 2048, n := 1, arrs := [arrived true] } true) ∧
    ∀ row < 32, (({ rows := List.replicate 32 (List.replicate 32 0x38), scales := List.replicate 32 0 } : LatchRows).rows.getD row []).length = 32 :=
  ⟨_, rfl, by decide +kernel⟩

/-- A COPY thread with a slot for buffer 2, v1 as given and the numbers of a copy in v8 and v9. -/
def cthr (x : Word) : Thread := { acc 3 x with kind := 3, v := [0, x, 0, 0, 0, 0, 0, 0, 0x10004, 4] }

/-- The copies. -/
def copies : List Instr :=
  [.cpyG2s {} 0 1 4 2 8 2, .cpyG2sT8 {} 0 1 4 2 8 2,
    .cpyG2sT16 {} 0 1 4 2 8 2, .cpyS2g {} 0 1 4 2 8 2, .cpyS2ga {} 0 1 4 2 8 2, .cpyG2g {} 0 1 4 2 8 2, .cpyS2s {} 0 4 4 8 2,
    .cpyMc {} 0 1 4 2 8 2 2, .cpyMc {} 0 1 4 2 8 1 2, .cpyV2s {} 0 1 4 2 8 2, .gtrinv {} 1 1, .cpywait {}, .pghint {} 1 2 2]

/-- A machine with copies. -/
def copying (cs : List Copy) (ts : List Thread) : State :=
  let s := engine 3 (fun m => { m with handles := [{ exp := 4 }] }) ts
  { s with eng := { s.eng with copies := cs } }

/-- A CPY.S2S of one row of four bytes, from the layout at v4 to itself. -/
def s2s : Copy :=
  { id := 9, thread := 0, grid := 1, owner := 1, team := 0, core := 0, form := .s2s, pc := 4, hnd := 0, slwD := [0x100, 0, 0], slwS := [0, 0, 0], orig := [0x10004, 0] }

theorem wit_CopyInstructionsEnterTheEngine : ∃ tm e,
    (∀ x ∈ ([0, 16, 32] : List Word), ∀ i ∈ copies, Issues i (copying [] [cthr x]) (cthr x)) ∧ getTeam (copying [] [cthr 0]) 0 = some tm ∧
    (∀ i ∈ ([.mdrain {} .bf16 0 3 1 2 8 2, .mdraina {} 0 3 1 2 8 2, .mdrains {} .f32 0 3 4 8 2] : List Instr),
      Issues i (copying [] [{ cthr 0 with kind := 2 }]) { cthr 0 with kind := 2 }) ∧
    (poisonDue (cthr 0) = none ∧ windowClosed (cthr 0) = false ∧ guardPasses (cthr 0) {} = true ∧ (cthr 0).kind = 3) ∧
    2 ^ tm.cores.length ≤ (2 : BitVec 8).toNat ∧ (1 : BitVec 8).toNat < 2 ^ tm.cores.length ∧
    (16 % 32 ≠ 0 ∧ bufFor (copying [] [cthr 32]) (some 0) (ownerOf (copying [] [cthr 32]) 1) 2 = some e ∧
      bufValid (copying [] [cthr 32]) (ownerOf (copying [] [cthr 32]) 1) e = true ∧ (copying [] [cthr 32]).mem.ops = [] ∧
      (ownerRec (copying [] [cthr 32]) (ownerOf (copying [] [cthr 32]) 1)).isSome = true) ∧
    (s2s ∈ (copying [s2s] [cthr 0]).eng.copies ∧ s2s.form.isDrain = false ∧ ∀ i ∈ copies, Issues i (copying [s2s] [cthr 0]) (cthr 0)) := by
  have h : ∀ i ∈ copies, issueCheck i (thr 3 3) = .ok := by decide +kernel
  exact ⟨_, _, fun x _ i hi => ⟨rfl, rfl, h i hi⟩, rfl, issues_all (by decide +kernel) (by decide +kernel) (by decide +kernel), by decide +kernel,
    by decide +kernel, by decide +kernel,
    ⟨by decide +kernel, rfl, by decide +kernel, rfl, by decide +kernel⟩, by decide +kernel, rfl, fun i hi => ⟨rfl, rfl, h i hi⟩⟩

/-- A COPY thread that is the member of a convoy at its limit. -/
theorem wit_ConvoyCopy : ∃ t : Thread, t = { member 0 with kind := 3 } ∧ (let s : State := { loading 0 8 with threads := [t] }
    Issues (.cpyV2s {} 0 1 4 2 8 2) s t ∧ t.stepped = false ∧ convoyHolds s (issued s t) = true ∧
      convoyHolds ({ loading 0 7 with threads := [t] }) (issued s t) = false) :=
  ⟨_, rfl, ⟨by decide +kernel, by decide +kernel, by decide +kernel⟩, by decide +kernel⟩

/-- The thread of a copy that waits for its acceptance. -/
def awaiting : Thread := { cthr 0 with st := .blocked .copyAccept, blen := 8 }

theorem wit_CopiesAreAccepted : ∃ tm h,
    (copying [s2s] [awaiting]).eng.copies.find? (fun x => x.id == 9) = some s2s ∧ getThread (copying [s2s] [awaiting]) 0 = some awaiting ∧
    getTeam (copying [s2s] [awaiting]) 0 = some tm ∧ s2s.ptrA = none ∧ s2s.ptrB = none ∧ copyFault (copying [s2s] [awaiting]) s2s = none ∧
    copyFault (copying [{ s2s with slwD := [2 ^ 23, 0, 0] }] [awaiting]) { s2s with slwD := [2 ^ 23, 0, 0] } = some .illegalOperand ∧
    tm.handles[0]? = some h ∧ h.err = false ∧ h.state < 2 ∧ h.rsv + s2s.bytes * 1 ≤ h.exp ∧ h.infl < 255 ∧
    (tm.handles[63]? = none ∧ h.exp < h.rsv + ({ s2s with orig := [0x10005, 0] } : Copy).bytes * 1) :=
  ⟨_, _, by decide +kernel, by decide +kernel, rfl, by decide +kernel, by decide +kernel, by decide +kernel, by decide +kernel, rfl, by decide +kernel⟩

/-- The copy once accepted. -/
def moving (checked : Bool) : Copy := { s2s with accepted := true, dests := [0], units := 4, checked := checked }

theorem wit_CopiesAreWrittenAndFinished : ∃ tm h,
    (∀ b, (copying [moving b] [cthr 0]).eng.copies.find? (fun x => x.id == 9) = some (moving b)) ∧ getTeam (copying [moving true] [cthr 0]) 0 = some tm ∧
    tm.handles[0]? = some h ∧ (moving true).failed = [] ∧ (moving true).buf = [] ∧ (moving true).adding = [] ∧ (moving true).stores = [] ∧ (moving true).after = 0 ∧ (moving true).written = [] ∧
    (moving true).dests = [0] ∧ ((moving true).chunks 0).length = 1 ∧ (moving true).elemsIn 0 0 1 = [0, 1, 2, 3] ∧
    (∀ n < 4, ∀ m < 4, scrMap 0 (slwOff [0x100, 0, 0] (n % 4) (n / 4 % 1) 0) = scrMap 0 (slwOff [0x100, 0, 0] (m % 4) (m / 4 % 1) 0) → n = m) ∧
    Memory.wf (tm.scratch.getD 0 []) = true ∧ (copying [moving true] [cthr 0]).mem.ops = [] ∧
    ((({ moving true with written := [(0, 0, 1)] } : Copy).written.filter fun w => w.1 == 0).map fun w => ((moving true).elemsIn 0 w.2.1 w.2.2).length).sum = 4 :=
  ⟨_, _, by intro b; cases b <;> decide +kernel, rfl, rfl, rfl, rfl, rfl, rfl, rfl, rfl, rfl, by decide +kernel, by decide +kernel, by decide +kernel, by decide +kernel, rfl, by decide +kernel⟩

/-- A COPY thread with the words of a near-memory command in v8 to v15: AXPY of 16 elements of buffer 2, or a bad operation. -/
def nthr (op : Word) : Thread :=
  { cthr 0x100 with v := [0, 0x100, 0, 0, 0, 0, 0, 0, op, 16, 0, 0x20000, if op = 4 then 0 else 64, if op = 4 then 0 else 0x20000, 5, 6] }

/-- A machine with near-memory commands, whose buffer 2 has every right. -/
def nearby (cs : List NmCmd) (ts : List Thread) : State :=
  let s := engine 3 id ts
  { s with mem := { s.mem with bufc := [⟨0, 1, 2, entryWords 1 31⟩] }, eng := { s.eng with nm := cs } }

/-- Its command. -/
def nmCmd (op : Nat) : NmCmd :=
  { id := 9, thread := 0, grid := 1, owner := 1, core := 0, stack := 0, words := [BitVec.ofNat 32 op, 16, 0, 0x20000, 64, 0x20000, 5, 6], dst := [home]
    srcA := if op = 4 then [] else [{ home with phys := 0x10040 }], record := { home with phys := 0x10100 }, after := 5 }

theorem wit_NearMemoryCommandsRun :
    (∀ op, ∀ i ∈ ([.nmc {} 1 8 1 2, .nmwait {}] : List Instr), Issues i (nearby [] [nthr op]) (nthr op)) ∧
    (checkAccess (cacheBuf (nearby [] [nthr 1]) 0 1 2) { core := some 0, owner := ownerOf (nearby [] [nthr 1]) 1, grid := 1, idx := 2, off := 0x100, size := 16, align := 16, right := 1 } =
      .ok { home with phys := 0x10100 } ∧ physOk 0x10100 = true) ∧
    (∀ off ∈ [0, 64], checkAccess (cacheBuf (nearby [] [nthr 1]) 0 1 2)
      { core := some 0, owner := ownerOf (nearby [] [nthr 1]) 1, grid := 1, idx := 2, off := ((off : Nat) : Int), size := min 64 (4 * 16 - 64 * 0), align := 1, right := rightN } =
        .ok { home with phys := 0x10000 + off }) ∧
    (let e := decodeBuf (entryWords 1 31)
     bufFor (nearby [] [nthr 1]) (some 0) 1 2 = some (entryWords 1 31) ∧ bufValid (nearby [] [nthr 1]) 1 (entryWords 1 31) = true ∧ e.kind = 0 ∧ e.mode = 1 ∧
      bitOf e.rights 4 = true ∧ bitOf e.rights 1 = true ∧ bitOf e.rights 0 = true ∧ e.owner = 1 ∧ 64 + 4 * 16 ≤ e.len) ∧
    (∀ op ∈ [1, 2, 3, 4], ∀ sent, (nearby [{ nmCmd op with sent := sent }] [{ nthr 1 with st := .blocked .nmcSend }]).eng.nm.find? (fun x => x.id == 9) =
      some { nmCmd op with sent := sent }) ∧
    (∃ q ∈ (withOps [storeAt 4] []).mem.ops, ∃ d ∈ q.contrib, d.1 = (nmCmd 1).thread ∧ d.2 < (nmCmd 1).after ∧ q.level < 5) ∧
    (∀ op ∈ [1, 2, 3, 4], (nmCmd op).words.length = 8 ∧ ((nmCmd op).words.getD 0 0).toNat % 256 = op ∧ (nmCmd op).dst[0]? = some home ∧
      (if op = 4 then (nmCmd op).srcA = [] else (nmCmd op).srcA[0]? = some { home with phys := 0x10040 })) ∧
    (nmCmd 1).record.phys % 16 = 0 := by
  have h : ∀ i ∈ ([.nmc {} 1 8 1 2, .nmwait {}] : List Instr), issueCheck i (thr 3 3) = .ok := by decide +kernel
  refine ⟨fun op i hi => ⟨rfl, rfl, h i hi⟩, by decide +kernel, by decide +kernel, by decide +kernel, by decide +kernel, ⟨_, .head _, _, .head _, rfl, ?_⟩,
    by decide +kernel, by decide +kernel⟩
  decide +kernel

/-- A table region in which owner 1 has the buffer table at 100h, with buffer 2 of mode DEVICE, and the leaf of its page as given. -/
def tables (leaf : Nat) : Memory :=
  let put (m : Memory) (a v : Nat) : Memory := memWrite m a (bytesOfWord 8 v)
  put (put (put (put (memWrite [] 0x140 (bytesOf [0, 0, 0x10000, 0, BitVec.ofNat 32 (2 ^ 31 + 2 ^ 16 + 15), 0, 0, 0])) 0x1000 0x2001) 0x2000 0x3001) 0x3000 0x4001) 0x4000 leaf

/-- The page. -/
def page : PageKey := ⟨1, 0, 0⟩

/-- A machine with these tables, a thread parked on the page, and open questions. -/
def paged (leaf : Nat) (qs : List OpenQ) : State :=
  let s := mk [{ acc 1 0 with st := .parked page 0x2000000000000 }]
  { s with mem := { s.mem with tbl := tables leaf, miss := [(0, page)] }
           disp := { s.disp with owners := [(1, [2 ^ 31, 0x100, 0, 3, 0x1000, 0, 0, 0])], openQs := qs } }

theorem wit_PageWalksAndService :
    (0, page) ∈ (paged 0 []).mem.miss ∧ (∃ t ∈ (paged 0 []).threads, ∃ a, t.st = .parked page a) ∧
    walk (paged 0x10003 []) 1 0 0 = .leaf 0x10003 3 ∧ walk (paged 0 []) 1 0 0 = .missing false ∧ walk (paged 6 []) 1 0 0 = .denied ∧
    (∃ o rcd, ownerRec (paged 0 []) 1 = some rcd ∧ leafSlot (paged 0 []).mem.tbl 0 0 4 rcd.proot 0 = some o) ∧ 0x10000 % 4096 = 0 ∧
    Memory.wf (paged 0 []).mem.tbl = true ∧ fnHost (paged 0 []) 3 = false ∧
    ∃ q : OpenQ, (paged 0 [⟨3, 0, .pageFault page, 0, 100, some 1⟩]).disp.openQs.find? (fun x => x.what == .pageFault page) = some q ∧ q.answer = some 1 :=
  ⟨by decide +kernel, ⟨_, .head _, _, rfl⟩, by decide +kernel, by decide +kernel, by decide +kernel, ⟨_, _, rfl, by rfl⟩, by decide +kernel, by decide +kernel, by decide +kernel,
    _, rfl, rfl⟩

theorem wit_PagesMoveWithTheirBytes :
    leafOf (paged 0x10003 []) page = some (0x4000, 0x10003, 3) ∧ leafOf (paged 0x10043 []) page = some (0x4000, 0x10043, 3) ∧
    pageMode (paged 0x10003 []) page = some (0, 0) ∧ page.va % levelBytes 3 = 0 ∧ Memory.wf (paged 0x10003 []).mem.tbl = true ∧ (paged 0x10003 []).mem.ops = [] ∧
    (paged 0x10003 []).mem.reqs = [] ∧ pteRot 0x10003 = 0 ∧ bitOf 0x10003 6 = false ∧ bitOf 0x10043 6 = true ∧ bitOf 0x10043 8 = false ∧
    assoc (paged 0x10003 []).mem.transit page = none ∧
    (∃ q : OpenQ, (paged 0x10003 [⟨1, 0, .pageRot page, 0, 100, some 5⟩]).disp.openQs.find? (fun y => y.what == .pageRot page) = some q ∧ q.answer = some 5) ∧
    (∀ r ∈ [none, some 5], assoc ([(page, r)] : List (PageKey × Option Nat)) page = some r) ∧
    (∀ x ∈ [0x100, 0x140], walkSlot (paged x []) 1 0 0 = some 0x4000 ∧ pageMode (paged x []) page = some (0, 0) ∧ memNat (paged x []).mem.tbl 0x4000 8 = x ∧
      bitOf x 0 = false ∧ bitOf x 8 = true ∧ bitOf x 6 = decide (x = 0x140)) ∧
    (let t : TierPage := { page := page, bytes := [(0, 9)], infos := [(0, { tag := some 1 })] }
     [t].find? (fun e => e.page == page) = some t ∧ Memory.wf t.bytes = true ∧ (∀ c ∈ t.bytes, c.1 < levelBytes 3) ∧ (∀ c ∈ t.infos, 32 * c.1 < levelBytes 3) ∧
      (t.infos.map (·.1)).Nodup ∧ ∀ c ∈ t.infos, c.2 ≠ {}) ∧
    (page.psz < 3 ∧ (paged 0x10003 []).eng.nm = [] ∧ (paged 0x10003 []).mem.pageUse = [] ∧ fnHost (paged 0x10003 []) 2 = false ∧
      -- a command that holds the page; a page that has been used less recently
      (∃ c : NmCmd, c = { nmCmd 1 with pages := [page] } ∧ ∃ k ∈ c.pages, k.owner = page.owner ∧ page.va < k.va + pageBytes k.psz ∧ k.va < page.va + levelBytes 3) ∧
      (let s : State := paged 0x10003 []
       let s : State := { s with mem := { s.mem with pageUse := [(⟨1, 0x10000, 0⟩, 3), (page, 5)], tbl := memWrite (memWrite s.mem.tbl 0x4008 (bytesOfWord 8 0x20003)) 0x148 (bytesOf [0x20000]) } }
       pagesMeet page ⟨1, 0x10000, 0⟩ = false ∧ tierMovable s ⟨1, 0x10000, 0⟩ = true ∧ ¬ lastUse s page ≤ lastUse s ⟨1, 0x10000, 0⟩)) ∧
    (∀ b, cellGet (paged 0x100 []).mem.hbm b = 0 ∧ assoc (paged 0x100 []).mem.atoms (b / 32) = none) := by
  refine ⟨by decide +kernel, by decide +kernel, by decide +kernel, by decide +kernel, by decide +kernel, rfl, rfl, by decide +kernel, by decide +kernel, by decide +kernel,
    by decide +kernel, rfl, ⟨_, rfl, rfl⟩, by decide +kernel, by decide +kernel, by decide +kernel,
    ⟨by decide +kernel, rfl, rfl, by decide +kernel, ⟨_, rfl, page, .head _, by decide +kernel⟩, by decide +kernel⟩, fun b => ⟨rfl, rfl⟩⟩


/-! ### Witnesses: dispatch -/

/-- A machine in STATE READY whose partition 0 has owner 1 and layers 0 and 1, with the tables of owner 1 and a word 5 at the start of its buffer 2. -/
def dev (d : Dispatcher) : State :=
  { State.reset with
    regs := { state := 3, parts := 0x80010003 :: List.replicate 15 0, savePool := 1000 }
    mem := { tbl := tables 0x10003, hbm := [(0x10000, 5)], atoms := [(0x800, { tag := some 1 })] }
    disp := { d with owners := [(1, [2 ^ 31, 0x100, 0, 3, 0x1000, 0, 0, 0])] } }

/-- A launch queue of owner 1 with a packet. -/
def launch (ws : List Word) : HwQueue := { q := 5, en := true, kind := 1, owner := 1, fifo := [⟨ws.take 8, none⟩, ⟨ws.drop 8, none⟩] }

/-- A GRID packet of one thread, with some words given; its code is buffer 2. -/
def gridWords (w0 w5 w9 : Word) : List Word := [w0, 0, 0x20000, 0, 1, w5, 0, 0, 0, w9, 0, 0, 0x100, 0x20000, 0, 0]

/-- The state once a packet has been taken. -/
def popped (s : State) : State :=
  match takePacket s 5 with
  | .done s1 _ => s1
  | _ => s

/-- The machine with a packet. -/
def offered (ws : List Word) : State := dev { queues := [launch ws] }

/-- A packet that its dispatcher may take. -/
def Offered (ws : List Word) : Prop := headPacket (offered ws) 5 = some (launch ws, ws) ∧ ringHeld (offered ws) 5 = false ∧ ws.length = 16 ∧ ∃ es, takePacket (offered ws) 5 = .done (popped (offered ws)) es

theorem wit_LaunchPacketsAreTaken :
    (Offered (gridWords 0x20001 0x110041 0) ∧ Offered (gridWords 1 0x110040 0) ∧ Offered (gridWords 1 0x110041 513) ∧ Offered (gridWords 1 0x110041 0)) ∧
    2 ^ 17 ≤ (0x20001 : Word).toNat ∧ bitsOf 0x110040 5 0 < 1 ∧ 512 < (513 : Word).toNat ∧
    (let s1 := popped (offered (gridWords 1 0x110041 0))
     gridCode s1 1 0 (gridWords 1 0x110041 0) (currentPins s1) = none ∧ s1.disp.grids.length < 1024 ∧
       recordCheck s1 (.command 5) 1 0x2000000000100 32 = .ok { phys := 0x10100, gang := false, idx := 2, tag := 1 } ∧
       layersGood s1 (gridOf (pinCaddies s1) 1 1 0 (gridWords 1 0x110041 0) (.queue 5 none) (currentPins s1) s1.disp.cadCount) [1, 0] = true ∧
       unitCheck s1 (.command 5) 1 0 0x2000000000100 32 32 rightW = .ok { phys := 0x10100, gang := false, idx := 2, tag := 1 } ∧
       atomHalves false 0x10100 = [0x808] ∧ Memory.wf s1.mem.hbm = true) ∧
    (Offered [2, 0, 0, 0, 0, 0, 0, 0, 0, 0, 0, 0, 0, 0, 0, 0] ∧
      waitCode (popped (offered [2, 0, 0, 0, 0, 0, 0, 0, 0, 0, 0, 0, 0, 0, 0, 0])) 1 [2, 0, 0, 0, 0, 0, 0, 0, 0, 0, 0, 0, 0, 0, 0, 0] = none) ∧
    (let w : WaitPkt := { q := 5, owner := 1, code := 0x2000000000000, value := 6, done := 0, grids := [], polled := 0 }
     let s := dev { waits := [w] }
     s.disp.waits.find? (fun y => y.q == 5) = some w ∧ unitCheck s (.wait 5) 1 0 0x2000000000000 4 4 rightR = .ok { phys := 0x10000, gang := false, idx := 2, tag := 1 } ∧
       readTarget s { phys := 0x10000, gang := false, idx := 2, tag := 1 } 0 4 = ([5, 0, 0, 0], false)) ∧
    -- a wait for grids alone, for a grid that is there, for a word that it may not read and for one that is poisoned; each with a record
    (∀ d ∈ [(0 : Quad), 0x2000000000100, 0x5000000000000], ∀ c ∈ [(0 : Quad), 0x2000000000000, 0x5000000000000], ∀ g ∈ [[], [2]],
      let w : WaitPkt := { q := 5, owner := 1, code := c, value := 5, done := d, grids := g, polled := 0 }
      let s := dev { waits := [w] }
      s.disp.waits.find? (fun y => y.q == 5) = some w) ∧
    (let s := dev {}
     recordCheck s (.wait 5) 1 0x2000000000100 32 = .ok { phys := 0x10100, gang := false, idx := 2, tag := 1 } ∧ recordCheck { s with mem := { s.mem with tbl := tables 6 } } (.wait 5) 1 0x2000000000100 32 = .fault .pageDenied ∧
       unitCheck s (.wait 5) 1 0 0x5000000000000 4 4 rightR = .fault .bufIndex ∧
       (readTarget { s with mem := { s.mem with atoms := [(0x800, { tag := some 1, poison := true })] } } { phys := 0x10000, gang := false, idx := 2, tag := 1 } 0 4).2 = true) := by
  unfold Offered
  exact ⟨⟨⟨by decide +kernel, rfl, rfl, _, rfl⟩, ⟨by decide +kernel, rfl, rfl, _, rfl⟩, ⟨by decide +kernel, rfl, rfl, _, rfl⟩, ⟨by decide +kernel, rfl, rfl, _, rfl⟩⟩, by decide +kernel,
    by decide +kernel, by decide +kernel, by decide +kernel, ⟨⟨by decide +kernel, rfl, rfl, _, rfl⟩, by decide +kernel⟩, by decide +kernel, fun d _ c _ g _ => rfl,
    ⟨by decide +kernel, by decide +kernel, by decide +kernel, by decide +kernel⟩⟩

/-- Grid 1 of one thread, with a waiting team on layer 0 since a clock, and a class of service. -/
def gridOne (prio : Nat) (waiting : List (Nat × Nat × Nat)) : Grid :=
  { id := 1, owner := 1, part := 0, prio := prio, coop := false, code := 0, codeLen := 8, entry := 0, tvec := 0, param := 7, done := 0, nteam := 1
    roles := [{ kind := 1, groups := 1, threads := 1, budget := 128 }, {}, {}, {}], scr := 1, nhnd := 0, gangr := 0, cvhint := 0, cls := 0, origin := .queue 5 none
    waiting := waiting }

/-- A machine at a clock with grids, teams and threads. -/
def running (clock : Nat) (gs : List Grid) (ms : List Team) (ts : List Thread) : State :=
  { dev { grids := gs, teams := ms, nextKey := 7, nextGrid := 9 } with clock := clock, threads := ts }

theorem wit_TeamsAreAdmittedWhole : ∃ g,
    let s := running 2400000 [gridOne 0 [(0, 0, 0)]] [] []
    getGrid s 1 = some g ∧ assoc g.waiting 0 = some (0, 0) ∧ g.status = .running ∧ 1 = g.id ∧ (∀ d ∈ g.roles, d.threads ≤ 32) ∧ s.disp.openQs = [] ∧
    eventQueue s (fnMode s 0).evq = none ∧ layerOk s g.part 0 = true ∧ earlierFits s { grid := 1, team := 0, layer := 0, saved := false } = false ∧
    0 ∈ chooseLayers s g 0 0 (fitFree s g) ∧ (0 = [11].headD 0 / 12 ∧ g.coop = false ∧ s.disp.nextKey = 7) ∧
    reservedFrom s 0 g 0 = false ∧ coresOk s g 0 [11] = true ∧ s.disp.teams = [] ∧ s.threads = [] ∧ g.reserving = [] ∧ 0 + 2400000 ≤ s.clock ∧
    (running 2399999 [gridOne 0 [(0, 0, 0)]] [] []).clock < 0 + 2400000 :=
  ⟨_, rfl, by decide +kernel, by decide +kernel, rfl, by decide +kernel, rfl, by decide +kernel, by decide +kernel, by decide +kernel, by decide +kernel,
    by decide +kernel, by decide +kernel, by decide +kernel, rfl, rfl, rfl, by decide +kernel⟩

/-- A resident team of grid 2, and its thread. -/
def teamTwo (saving : Option (Option Nat)) : Team :=
  { key := 3, grid := 2, idx := 0, layer := 0, cores := [0], runs := [(0, 1)], handles := [{}], barriers := List.replicate 15 {}, scratch := [[]], scratchValid := [[0]]
    granules := [[0]], resident := 0, saving := saving }

/-- Its grid. -/
def gridTwo : Grid := { gridOne 0 [] with id := 2 }

/-- Its thread. -/
def threadTwo : Thread := { thr 1 4 with key := 3, grid := 2, team := 3 }

/-- A saved team of grid 1. -/
def block (move : Option Nat) : SaveBlock :=
  { team := { teamTwo none with key := 4, grid := 1 }, threads := [{ threadTwo with key := 4, grid := 1, team := 4 }], tiles := [], slots := [], move := move }

theorem wit_SavedTeamsReserve : ∀ c ∈ [false, true], let g := { gridOne 0 [] with saved := [block none], coop := c }
    ∀ t ∈ [2400000, 2399999], getGrid (running t [g] [] []) 1 = some g ∧ g.status = .running ∧ assoc g.waiting 0 = none ∧
      g.saved.find? (fun x => x.team.idx == 0) = some (block none) ∧ layerOk (running t [g] [] []) g.part 0 = true ∧ g.reserving = [] ∧ (block none).since = 0 := by decide +kernel

theorem wit_TeamsAreSavedAndRestored :
    (let full := (List.range 24).map fun c => { teamTwo none with key := 100 + c, cores := [c], layer := c / 12, granules := [List.range 512] }
     let s0 := running 2400000 [{ gridOne 1 [(0, 0, 0)] with scr := 512 }, gridTwo] full []
     let s : State := { s0 with regs := { s0.regs with savePool := Config.saveBlockBytes 0 0 1024 0 } }
     let m := { teamTwo none with key := 100, granules := [List.range 512] }
     getTeam s 100 = some m ∧ m.saving = none ∧ (s.disp.teams.filter fun x => x.key == 100) = [m] ∧ gridTwo.coop = false ∧ poolFits s [m] = true ∧ m ∈ victims s { gridOne 1 [(0, 0, 0)] with scr := 512 } ∧
       fitsSomewhere (withoutSaving s) { gridOne 1 [(0, 0, 0)] with scr := 512 } 0 = false) ∧
    (let s := running 5 [gridTwo] [teamTwo (some none)] [threadTwo]
     getTeam s 3 = some (teamTwo (some none)) ∧ teamQuiet s (teamTwo (some none)) = true ∧ getGrid s 2 = some gridTwo ∧ (s.disp.teams.map (·.key)).Nodup) ∧
    (let g := { gridOne 0 [] with saved := [block none] }
     let s := running 5 [g] [] []
     getGrid s 1 = some g ∧ g.saved.find? (fun x => x.team.idx == 0) = some (block none) ∧ layerOk s 0 0 = true ∧ 0 ∈ restoreLayers s g (block none) ∧ g.coop = false ∧
       earlierFits s { grid := 1, team := 0, layer := 0, saved := true } = false ∧ restoreOk s g (block none) 0 [5] = true ∧ s.mem.ops = [] ∧ s.disp.teams = []) ∧
    -- a saved cooperative grid; a move that has its cores
    (let g := { gridOne 0 [] with saved := [block none], coop := true }
     let s := running 5 [g] [] []
     g.saved.length + g.doneTeams = g.nteam ∧ (g.saved.head?.map fun x => x.team.idx) = some 0 ∧ (restoreList s g g.saved [5]).isSome = true ∧
       (block (some 0)).move = some (5 / 12)) := by
  refine ⟨⟨by decide +kernel, rfl, by decide +kernel, rfl, ?_, by decide +kernel, by decide +kernel⟩, by decide +kernel, by decide +kernel, by decide +kernel⟩
  have h : 0 + (Config.saveBlockBytes 0 0 1024 0 + 0) ≤ Config.saveBlockBytes 0 0 1024 0 * 2 ^ 20 := by omega
  exact decide_eq_true h

theorem wit_TeamsAreDonatedAndClassed :
    (let s := running 5 [{ gridOne 0 [(0, 1, 0), (1, 1, 0), (2, 1, 0)] with nteam := 3 }] [] []
     couldTake s 0 0 = true ∧ layerCanAdmit s 0 = false ∧ (shippable s 0 1).length = 3 ∧ 1 = (0 + 1 + 0) % 16 ∧ partLayer s 0 1 = true) ∧
    (let s := running 5 [gridOne 0 []] [] []
     let o : OpenQ := ⟨2, 0, Question.classify 1, 0, 100, some 2⟩
     ({ s with disp := { s.disp with openQs := [o] } }).disp.openQs.find? (fun x => x.what == Question.classify 1) = some o) ∧
    (∀ c ∈ [(65536, true), (65535, false)], let s := running c.1 [{ gridTwo with classMeas := some (3, 0, 64, 4) }] [teamTwo none] []
     getTeam s 3 = some (teamTwo none) ∧ decide (0 + 65536 ≤ s.clock) = c.2) := by
  decide +kernel

theorem wit_TeamsAndGridsComplete :
    (∀ c ∈ [({ threadTwo with st := .exited }, true), (threadTwo, false)], let s := running 5 [gridTwo] [teamTwo none] [c.1]
     getTeam s 3 = some (teamTwo none) ∧ getGrid s 2 = some gridTwo ∧ s.eng = {} ∧ (teamTwo none).conts = [] ∧ decide (c.1.st = .exited) = c.2) ∧
    (let g : Grid := { gridTwo with doneTeams := 1, done := 0x2000000000100 }
     let s := running 5 [g] [] []
     getGrid s 2 = some g ∧ g.doneTeams = g.nteam ∧ s.mem.ops = [] ∧ s.eng = {} ∧ (∀ y ∈ s.disp.grids, y.origin = .queue 5 none) ∧ s.disp.queues = [] ∧
       recordCheck s (.done 2) 1 0x2000000000100 32 = .ok { phys := 0x10100, gang := false, idx := 2, tag := 1 } ∧
       recordCheck { s with mem := { s.mem with tbl := tables 6 } } (.done 2) 1 0x2000000000100 32 = .fault .pageDenied ∧ atomHalves false 0x10100 = [0x808] ∧
       (assoc s.mem.atoms 0x808).getD {} = {} ∧ Memory.wf s.mem.hbm = true) ∧
    -- a contained grid, with the queue of function 8 or none
    (let x : HwQueue := { hq with q := 5, kind := 3, owner := 0 }
     let g : Grid := { gridTwo with status := .contained 1 0 5, wrote := [2, 3] }
     let s : State := running 5 [g] [] []
     let e : State := { s with disp := { s.disp with queues := [x], fnModes := List.replicate 9 { evq := 5 } } }
     getGrid s 2 = some g ∧ getGrid e 2 = some g ∧ eventQueue e (fnMode e 8).evq = some x ∧ x.ringCount = 0 ∧ x.fifo.length ≤ 30 ∧ pushesWait e 5 = false ∧ x.kind ≠ 1 ∧
       eventQueue s (fnMode s 8).evq = none ∧ s.debugs.length = 16 ∧ (s.debugs.getD 0 {}).pcnt.length = 16 ∧ partOwner s 0 = 1) := by
  exact ⟨by decide +kernel, ⟨by decide +kernel, rfl, rfl, rfl, by decide +kernel, rfl, by decide +kernel, by decide +kernel, by decide +kernel, by decide +kernel,
    by decide +kernel⟩, by decide +kernel⟩

theorem wit_ErrorsAreContained :
    (let s := running 5 [gridTwo] [teamTwo none] [threadTwo]
     getGrid s 2 = some gridTwo ∧ threadTwo.st ≠ .exited ∧ threadTwo.core = 0 ∧ threadTwo.lg = 0 ∧ threadTwo.depth = 0 ∧ threadTwo.lane / 8 = 0 / 8 ∧
       (∀ t ∈ s.threads, t.grid = 2 ∧ t.lg ≠ 1) ∧ getTeam s 3 = some (teamTwo none) ∧ (teamTwo none).cores[0]? = some 0 ∧ 0 ∈ (teamTwo none).scratchValid.getD 0 [] ∧
       1 ∉ (teamTwo none).scratchValid.getD 0 [] ∧ assoc s.eng.matTeam 0 = none ∧ bitOf ((ownerLoaded s 2).getD 0 0).toNat 31 = false ∧
       (running 5 [{ gridTwo with owner := 2 }] [] []).disp.grids.filter (fun x => x.owner == 2) = [{ gridTwo with owner := 2 }] ∧
       (∀ x ∈ [none, some (1, 2)], ∀ k ∈ [CoreUnit.slice 0 1 0 0, .tiles 0], assoc (x.toList.map fun v => (k, v)) k = x) ∧ gridTwo.owner = 1 ∧
       assoc ([(0, 3)] : List (Nat × Nat)) 0 = some 3 ∧ (withOps [{ storeAt 0 with grid := 2 }] []).mem.ops.find? (fun y => y.seq == 3) = some { storeAt 0 with grid := 2 }) ∧
    (∀ b, let r : Req := { wordLoad .atEntry none with again := b }
      (atSlice r [entryOf false 0]).mem.entries[0]? = some (entryOf false 0) ∧ (entryOf false 0).link = none ∧ r ∈ (atSlice r [entryOf false 0]).mem.reqs) ∧
    (entryOf false 0).line + 64 ≤ discBase ∧ ((dev {}).mem.atoms.map (·.1)).Pairwise (· < ·) ∧ physOk 0x10000 = true ∧
    (let s := dev { caddies := [{ slot := 1, state := [2, 0] }] }
     2 ≤ (caddyOf s 1).state.getD 0 0 ∧ (caddyOf s 1).slot = 1 ∧ eventQueue s (fnMode s 4).evq = none ∧ eventQueue s (fnMode s 8).evq = none) ∧
    4 ∈ ({ keys := [4] } : MemSys).keys ∧
    ((∀ x ∈ (dev {}).debugs, x.pcnt.length = 16) ∧ 16 ≤ (dev {}).debugs.length ∧ partEn (dev {}) 0 = true ∧ partOwner (dev {}) 0 = 1) ∧
    -- the read of another package, once and twice
    (∀ b, let e : StraitEntry := { entryOf true 0 with link := some (1, 0, 8, false), cores := [], reqs := [], again := b }
      (atSlice (wordLoad .atCore none) [e]).mem.entries[0]? = some e) := by
  refine ⟨by decide +kernel, by intro b; cases b <;> decide +kernel, by decide +kernel, by decide +kernel, by decide +kernel, by decide +kernel, by decide +kernel, by decide +kernel,
    by intro b; cases b <;> decide +kernel⟩

/-- The words of a graph node: kind, the number of its predecessors, its successors, and its body. -/
def nodeWords (kind npred : Nat) (succs : List Nat) (body : List Word) : List Word :=
  [word kind, word (npred + 2 ^ 16 * succs.length), word (succs.getD 0 0 + 2 ^ 16 * succs.getD 1 0)] ++ List.replicate 13 0 ++ body ++ List.replicate (16 - body.length) 0

/-- The cells of bytes from an address on. -/
def cellsAt (a : Nat) (bs : List Byte) : Memory := (bs.zipIdx.map fun x => (a + x.2, x.1)).filter fun c => c.2 != 0

/-- The tables with graph 0 of owner 1: node 0, a JOIN, then the node given, then two JOINs. -/
def graphTables (kind : Nat) (succs : List Nat) (body : List Word) : Memory :=
  tables 0x10003 ++ cellsAt 0x8000 (bytesOf (4 :: List.replicate 15 0) ++ bytesOf (nodeWords 4 0 [1] []) ++ bytesOf (nodeWords kind 1 succs body) ++
    bytesOf (nodeWords 4 (if 2 ∈ succs then 1 else 0) [] []) ++ bytesOf (nodeWords 4 (if 3 ∈ succs then 1 else 0) [] [])) ++
    cellsAt 0x4A000 (bytesOf [2 ^ 31 + 1, 0x200, 0, 0, 0x240, 0, 0, 0])

/-- The machine with that graph. -/
def graphs (kind : Nat) (succs : List Nat) (body : List Word) (d : Dispatcher) : State :=
  let s := dev d
  { s with mem := { s.mem with tbl := graphTables kind succs body } }

/-- A kick of graph 0. -/
def kickOf (patch : Quad) : Kick := { part := 0, owner := 1, graph := 0, patch := patch }

theorem wit_KickPackets : let ws : List Word := 3 :: List.replicate 15 0
    let s := graphs 4 [2, 3] [] { queues := [launch ws] }
    headPacket s 5 = some (launch ws, ws) ∧ ringHeld s 5 = false ∧ (∃ es, takePacket s 5 = .done (popped s) es) ∧ pktReserved ws = false ∧
      pktPtrsOk (popped s) 1 0 ws = true ∧ pktOwnerOk (popped s) 1 = true ∧ graphResident (popped s) 0 = true ∧ graphOwner (popped s) 0 = 1 :=
  ⟨by decide +kernel, rfl, ⟨_, rfl⟩, by decide +kernel, by decide +kernel, by decide +kernel, by decide +kernel, by decide +kernel⟩

theorem wit_GraphReplaysStartAndComplete :
    (∀ k ∈ [4, 6], let s := graphs k [2, 3] [] { kicks := [kickOf 0] }
     s.disp.kicks[0]? = some (kickOf 0) ∧ s.disp.replays = [] ∧ bitOf (graphWord s 0 0) 31 = true ∧ bitsOf (graphWord s 0 0) 11 0 = 1 ∧ bitsOf (graphWord s 0 0) 30 12 = 0 ∧
       graphWord s 0 5 = 0 ∧ graphWord s 0 6 = 0 ∧ graphWord s 0 7 = 0 ∧ memNat s.mem.tbl (64 * graphWord s 0 1) 4 % 2 ^ 17 = 4 ∧
       memNat s.mem.tbl (0x8000 + 64 + 128 * 1) 4 = k ∧ memNat s.mem.tbl (0x8000 + 64 + 128 * 1 + 4) 4 = 0x20001 ∧ memNat s.mem.tbl (0x8000 + 64 + 128 * 2 + 4) 4 = 1 ∧
       Memory.wf s.mem.tbl = true) ∧
    -- a patch table of five entries that ends after its second word, with a word that it may not hold, at the start of buffer 2
    (let s := graphs 4 [2, 3] [] { kicks := [kickOf 0x2000000000000] }
     let t : Target := { phys := 0x10000, gang := false, idx := 2, tag := 1 }
     unitCheck s (.replay 0) 1 0 0x2000000000000 4 4 rightR = .ok t ∧ readTarget s t 0 4 = (bytesOfWord 4 5, false) ∧
       unitCheck s (.replay 0) 1 0 (0x2000000000000 + 4 * 1) 4 4 rightR = .ok { t with phys := 0x10004 } ∧
       readTarget s { t with phys := 0x10004 } 0 4 = (bytesOfWord 4 0, false) ∧ (5 : Nat) ≤ 4096) ∧
    (let x : Replay := { id := 0, graph := 0, owner := 1, obj := 0x8000, cnt := 0x9000, done := 0x2000000000100, part := 0, nodes := [{ finished := true }] }
     let s := graphs 4 [2, 3] [] { replays := [x] }
     s.disp.replays.find? (fun y => y.id == 0) = some x ∧ (∀ z ∈ x.nodes, z.finished = true) ∧
       unitCheck s (.replay 0) 1 0 0x2000000000100 32 32 rightW = .ok { phys := 0x10100, gang := false, idx := 2, tag := 1 } ∧
       recordCheck s (.replay 0) 1 0x2000000000100 32 = .ok { phys := 0x10100, gang := false, idx := 2, tag := 1 }) := by
  decide +kernel

/-- A replay of graph 0 whose node 1 has started, launched a grid or none, and done some iterations. -/
def replayOf (grid iter : Nat) : Replay :=
  { id := 0, graph := 0, owner := 1, obj := 0x8000, cnt := 0x9000, done := 0, part := 0
    nodes := [{ started := true, finished := true }, { started := true, grid := grid, iter := iter }, { count := 1 }, { count := 1 }] }

theorem wit_GraphNodesFinish :
    -- node 1 as COND, WHILE, JOIN and NOTIFY on the word at the start of buffer 2, and a COND beyond its buffers
    (∀ c ∈ [(2, 0x20000, 0), (3, 0x20000, 0), (3, 0x20000, 9), (4, 0, 0), (5, 0x20000, 0), (2, 0x50000, 0)],
      let s := graphs c.1 [2, 3] [0, BitVec.ofNat 32 c.2.1, 9, 0] { replays := [replayOf 0 c.2.2] }
      let x := replayOf 0 c.2.2
      s.disp.replays.find? (fun y => y.id == 0) = some x ∧ x.nodes[1]? = some { started := true, iter := c.2.2 } ∧ x.stopped = none ∧ nodeKind s 0x8000 1 = c.1 ∧
        succList s 0x8000 1 = [2, 3] ∧ bodyWord s 0x8000 x.patches 1 2 = 9) ∧
    (let s := graphs 2 [2, 3] [0, 0x20000] {}
     let t : Target := { phys := 0x10000, gang := false, idx := 2, tag := 1 }
     unitCheck s (.node 0 1) 1 0 0x2000000000000 4 4 rightR = .ok t ∧ unitCheck s (.node 0 1) 1 0 0x2000000000000 4 4 rightW = .ok t ∧
       readTarget s t 0 4 = (bytesOfWord 4 5, false) ∧ unitCheck s (.node 0 1) 1 0 0x5000000000000 4 4 rightR = .fault .bufIndex) ∧
    -- a COPY of four bytes, to 100h from 0
    (let b : List Word := [0x100, 0x20000, 0, 0x20000, 4]
     let s := graphs 1 [2] b { replays := [replayOf 0 0] }
     nodeKind s 0x8000 1 = 1 ∧ 
       (match copyTargets s (replayOf 0 0) 1 0x2000000000100 0x2000000000000 (copyPieces 0x2000000000100 0x2000000000000 (4 + 1) 0 4) [] with
         | .ok _ => true
         | _ => false) = true) ∧
    -- a GRID, before and after its launch
    (let s := graphs 0 [2] (gridWords 1 0x110041 0) { replays := [replayOf 0 0] }
     nodeKind s 0x8000 1 = 0 ∧ (List.range 16).map (fun j => word (bodyWord s 0x8000 [] 1 j)) = gridWords 1 0x110041 0 ∧
       launchBehind s (replayOf 0 0) 1 = false ∧ gridCode s 1 0 (gridWords 1 0x110041 0) [] = none ∧ partLayers s 0 ≠ [] ∧ getGrid s 77 = none) := by
  refine ⟨by decide +kernel, by decide +kernel, by decide +kernel, by decide +kernel⟩


/-! ### Witnesses: the device, its host, debug and power -/

theorem wit_DeviceRegistersAndKicks :
    -- words of PART1: layers 1 and 2, where partition 0 has 0 and 1; owner 0; layers 4 and 5 of owner 2
    (let s := dev {}
     s.regs.state ≠ 15 ∧ s.regs.parts.length = 16 ∧ s.regs.lbudget.length = 16 ∧ s.regs.kstat.length = 16 ∧
       (bitOf 0x80020006 31 = true ∧ bitOf 0x80020006 1 = true ∧ bitOf (s.regs.parts.getD 0 0).toNat 31 = true ∧ bitOf (s.regs.parts.getD 0 0).toNat 1 = true) ∧
       (bitOf 0x80000030 31 = true ∧ bitsOf 0x80000030 27 16 = 0 ∧ (s.regs.parts.getD 0 0).toNat &&& 0x30 = 0) ∧
       (bitsOf 0x80020030 30 28 = 0 ∧ bitsOf 0x80020030 27 16 ≠ 0) ∧ s.regs.premove = []) ∧
    ({ dev {} with regs := { state := 15 } } : State).regs.state = 15 ∧
    (let s := graphs 4 [2, 3] [] {}
     s.regs.state = 3 ∧ bitOf (s.regs.parts.getD 0 0).toNat 31 = true ∧ bitOf (memNat s.mem.tbl 0x4A000 4) 31 = true ∧
       bitsOf (memNat s.mem.tbl 0x4A000 4) 11 0 = bitsOf (s.regs.parts.getD 0 0).toNat 27 16 ∧ bitOf (memNat s.mem.tbl 0x4A020 4) 31 = false ∧
       (s.disp.kicks.filter fun k => k.part == 0 && k.queue.isNone).length < 16 ∧ 16 ≤ ((List.replicate 16 (kickOf 0)).filter fun k => k.part == 0 && k.queue.isNone).length) := by
  decide +kernel

/-- A host memory whose descriptor, at 1000h, names an image of 242 bytes at 2000h. -/
def descriptor (w4 : Word) : Memory := memWrite [] 0x1000 (bytesOf [0x2000, 0, 242, 0, w4, 1, 0x100])

theorem wit_BringUpAndAttestation :
    (dev {}).regs.state ≠ 0 ∧ State.reset.regs.state = 0 ∧
    -- a descriptor of one unit of memory, and one that passes
    (let w : Word → Nat → Nat := fun c i => memNat (descriptor c) (0x1000 + 4 * i) 4
     w 1 4 < 2 ∧ (List.range 16).map (w 2) = [0x2000, 0, 242, 0, 2, 1, 0x100, 0, 0, 0, 0, 0, 0, 0, 0, 0] ∧ bitsOf 0x100 7 6 = 0 ∧ bitsOf 0x100 14 8 = 1 ∧
       1 * 2 ^ 20 + 0x68000 ≤ 2 * 2 ^ 26 ∧ (0 + 2) * 2 ^ 26 ≤ 8 * stackBytes) ∧
    -- an image with a wrong first word
    memNat (descriptor 2) 0x2000 4 ≠ 0x454C5446 ∧
    (∀ st ∈ [1, 2], ∀ a, ∀ b, let inp : BringUp := { imageRead := a, trained := b }
      let s : State := { State.reset with regs := { state := st, bootlo := 0x1000, bootIn := some inp } }
      s.regs.state = st ∧ s.regs.bootIn = some inp) ∧ (dev {}).regs.attbusy = false ∧ ({ attbusy := true } : Regs).attbusy = true ∧ Memory.wf (dev {}).mem.hostMem = true := by
  decide +kernel

theorem wit_HostAndLinkReachTheDevice :
    (let s := dev {}
     s.regs.state = 3 ∧ queueFor s 5 = none ∧ physOk 0x10000 = true ∧ physOk (0x10000 + 31) = true ∧ (assoc s.mem.atoms (0x10000 / 32)).getD {} = { tag := some 1 } ∧
       Memory.wf s.mem.tbl = true ∧ Memory.wf s.mem.hbm = true ∧ Memory.wf s.mem.hostMem = true) ∧
    (∀ x ∈ [hq, { hq with fifo := [⟨List.replicate 8 1, none⟩] }, { hq with stopped := some 64 }, { hq with tail := 1, fifo := List.replicate 32 ⟨List.replicate 8 1, none⟩ }],
      let s : State := { dev { queues := [{ x with q := 5 }] } with picked := [] }
      queueFor s 5 = some { x with q := 5 } ∧ s.disp.queues.find? (fun y => y.q == 5) = some { x with q := 5 } ∧ s.mem.parks = [] ∧ s.disp.qops = []) ∧
    hq.room 1 = true ∧ ({ hq with tail := 1, fifo := List.replicate 32 ⟨List.replicate 8 1, none⟩ } : HwQueue).room 1 = false ∧
    (let s := dev {}
     true ∉ s.regs.ports ∧ true ∈ ({ dev {} with regs := { (dev {}).regs with ports := [true] } } : State).regs.ports ∧
       unitAccess s 1 0 (2 * 2 ^ 48 + 0x100) 4 4 rightA = .ok { phys := 0x10100, gang := false, idx := 2, tag := 1 } ∧ unitAccess s 1 0 (5 * 2 ^ 48) 4 4 rightA = .fault .bufIndex ∧
       unitAccess s 1 0 (2 * 2 ^ 48 + 0x100) 8 1 rightR = .ok { phys := 0x10100, gang := false, idx := 2, tag := 1 } ∧
       unitAccess s 1 0 (2 * 2 ^ 48 + 0x100) 8 1 rightW = .ok { phys := 0x10100, gang := false, idx := 2, tag := 1 } ∧
       unitAccess s 1 0 (5 * 2 ^ 48) 8 1 rightR = .fault .bufIndex ∧ unitAccess s 1 0 (5 * 2 ^ 48) 8 1 rightW = .fault .bufIndex) ∧
    (∀ st ∈ [ReqStage.atCore, .atEntry], let r : Req := { wordLoad st none with tgt := { home with pkg := some 3 } }
     (atSlice r []).mem.reqs.find? (fun x => x.id == 2) = some r ∧ r.tgt.pkg ≠ none ∧ r.stage = st ∧ r.atomic = false ∧ r.copy = none) ∧
    (let e : StraitEntry := { entryOf true 0 with link := some (1, 4, 8, false), cores := [], reqs := [] }
     entryFree (dev {}) none 0x10100 = true ∧ 0x10100 % 64 + 8 ≤ 64 ∧ (atSlice (wordLoad .atCore none) [e]).mem.entries[0]? = some e ∧ e.bytes.length = 64) ∧
    (let s : State := { dev {} with regs := { state := 3, tblBase := 2, tblSize := 1 } }
     0x8001000 / 2 ^ 48 * stackBytes + 0x8001000 % 2 ^ 48 = s.regs.tblBase * 2 ^ 26 + 0x1000 ∧ 0x1000 < s.regs.tblSize * 2 ^ 26 ∧ physOk 0x8001000 = true) ∧
    (let x : SqOp := { storeAt 4 with tgt := { home with pkg := some 3 } }
     (withOps [x] []).mem.ops.find? (fun y => y.seq == 3) = some x ∧ x.tgt.pkg ≠ none ∧ x.level = 4 ∧ x.lane = none) := by
  refine ⟨by decide +kernel, by decide +kernel, by decide +kernel, by decide +kernel, by decide +kernel, by decide +kernel, by decide +kernel, by decide +kernel,
    by decide +kernel⟩

/-- A machine whose MANAGE queue 5, of an owner, holds one command. -/
def commanded (owner : Nat) (ws : List Word) (d : Dispatcher) : State :=
  dev { d with queues := { q := 5, en := true, kind := 2, owner := owner, fifo := [⟨ws, none⟩] } :: d.queues }

/-- A command's words, with a completion pointer into buffer 2 or none. -/
def command (w0 o w2 w3 w4 : Word) (record : Bool) : List Word :=
  [w0, o, w2, w3, w4, 0, if record then 0x100 else 0, if record then 0x20000 else 0]

theorem atHead_commanded (owner : Nat) (ws : List Word) (d : Dispatcher) (h : ws.length = 8)
    (hd : d.qops = []) :
    AtHead (commanded owner ws d) 5 { q := 5, en := true, kind := 2, owner := owner, fifo := [⟨ws, none⟩] } ⟨ws, none⟩ [] :=
  ⟨rfl, rfl, rfl, rfl, rfl, by simp [ringHeld, ringWaits, commanded, dev, hd], ⟨rfl, by show 0 < 2 ^ 32; decide⟩, rfl, h⟩

theorem wit_ManagementCommandsAreChecked :
    (∀ c o w2 w3 r d, d.qops = [] → AtHead (commanded 1 (command c o w2 w3 0 r) d) 5 { q := 5, en := true, kind := 2, owner := 1, fifo := [⟨command c o w2 w3 0 r, none⟩] }
      ⟨command c o w2 w3 0 r, none⟩ []) ∧
    -- owner 2 in a queue of owner 1; commands of the administrator alone; a slot of another administrator; arguments out of range
    (2 % 2 ^ 12 ≠ 1 ∧ bitsOf (memNat (dev {}).mem.tbl (0x42000 + 128 * 7) 4) 11 0 ≠ 1 ∧ ¬ (65537 : Nat) ≤ 65536 ∧ ¬ (256 : Nat) < 256 ∧ ¬ (9 : Nat) < 9 ∧ 9 < 10 % 2 ^ 8) ∧
    (let s := commanded 1 (command 1 1 2 1 0 true) {}
     let t : Target := { phys := 0x10100, gang := false, idx := 2, tag := 1 }
     unitCheck s (.command 5) 1 0 0x2000000000100 16 16 rightW = .ok t ∧ recordCheck s (.command 5) 1 0x2000000000100 16 = .ok t ∧ t.pkg = none ∧ t.phys % 16 = 0 ∧ Memory.wf s.mem.hbm = true ∧
       (∀ h ∈ atomHalves t.gang t.phys, ((assoc s.mem.atoms h).getD {}).poison = false ∧ ((assoc s.mem.atoms h).getD {}).ue = false) ∧
       unitCheck s (.command 5) 1 0 0x5000000000000 16 16 rightW = .fault .bufIndex) := by
  exact ⟨fun c o w2 w3 r d hd => atHead_commanded _ _ _ rfl hd, by decide +kernel, by decide +kernel⟩

theorem wit_ManagementCommandEffects :
    (∀ owner c o w2 w3 w4 d, d.qops = [] → AtHead (commanded owner (command c o w2 w3 w4 false) d) 5
      { q := 5, en := true, kind := 2, owner := owner, fifo := [⟨command c o w2 w3 w4 false, none⟩] } ⟨command c o w2 w3 w4 false, none⟩ []) ∧
    (let s := commanded 0 (command 2 1 0 0 1 false) {}
     s.mem.ops = [] ∧ s.mem.reqs = [] ∧ s.eng.nm = [] ∧ eventQueue s (fnMode s 8).evq = none ∧ (∃ ws, assoc s.disp.owners 1 = some ws ∧ bitOf (ws.getD 0 0).toNat 31 = true) ∧
       bitOf (memNat s.mem.tbl (64 * 1) 4) 31 = false ∧ (s.disp.grids.map (·.id)).Nodup) ∧
    -- commands that have acted and wait, before and after what came before them is done; a record for an owner whose key is erased
    (let x (m : Nat) : HwQueue := { q := 5, en := true, kind := 2, mark := some (m, command 2 1 0 0 0 false) }
     let s (m : Nat) : State := dev { queues := [x m] }
     (∀ m ∈ [3, 9], queueFor (s m) 5 = some (x m)) ∧ (s 9).mem.ops = [] ∧ (s 9).mem.reqs = [] ∧ (s 9).eng.nm = [] ∧ (storeAt 4).tgt.tag = 1 ∧ (storeAt 4).seq < 9) ∧
    (let s : State := commanded 0 (command 3 1 0 0 0 false) {}
     let s1 : State := { s with mem := { s.mem with keys := [1], tbl := memWrite s.mem.tbl 64 (bytesOf [0x80000000]) } }
     1 ∈ s1.mem.keys ∧ bitOf (memNat s1.mem.tbl (64 * 1) 4) 31 = true) ∧
    -- QDESC of a queue that is absent, of one that is enabled and that the table ends, and of a descriptor that Table 13 forbids
    (∃ d, let s := commanded 0 (command 4 0 9 0 0 false) {}
      let s1 : State := { s with mem := { s.mem with tbl := memWrite s.mem.tbl (0x40000 + 32 * 9) (bytesOf [0x80010005, 0, 0, 0x20000, 0, 0, 0, 0]) } }
      queueFor s1 9 = none ∧ qdescWords s1 9 = d ∧ bitOf (d.getD 0 0).toNat 31 = true ∧ qdescOk s1 d = true) ∧
    (let y : HwQueue := { q := 9, en := true, owner := 1, logcap := 5, ring := 0x0002000000000000 }
     let s := commanded 0 (command 4 0 9 0 0 false) { queues := [y] }
     let s1 (v : Word) : State := { s with mem := { s.mem with tbl := memWrite s.mem.tbl (0x40000 + 32 * 9) (bytesOf [v, 0, 0, 0x20000, 0, 0, 0, 0]) } }
     (∀ v ∈ [0x00010005, 0x80010005], queueFor (s1 v) 9 = some y ∧ qdescOk (s1 v) (qdescWords (s1 v) 9) = true ∧ y.logcap = bitsOf v.toNat 4 0 ∧ y.owner = bitsOf v.toNat 27 16 ∧
       y.ring = (qdescWords (s1 v) 9).getD 3 0 ++ (qdescWords (s1 v) 9).getD 2 0) ∧ qdescOk (s1 0x00010004) (qdescWords (s1 0x00010004) 9) = false) ∧
    -- a caddy slot of owner 1, with a generation that may be switched to, or one that loads
    (let s := commanded 1 (command 6 1 1 0 0 false) { caddies := [{ slot := 1, state := [2, 1] }] }
     let s1 : State := { s with mem := { s.mem with tbl := memWrite s.mem.tbl (0x42000 + 128) (bytesOf [0x80010001]) } }
     caddyAdmin s1 1 = 1 ∧ caddyEn s1 1 = true ∧ (caddyOf s1 1).state.length = 2 ∧ (caddyOf s1 1).state.getD 0 0 = 2 ∧ (caddyOf s1 1).sus.getD 0 false = false ∧
       (caddyOf s1 1).state.getD 1 0 ≠ 2 ∧ eventQueue s1 (fnMode s1 4).evq = none) ∧
    (∀ a ∈ [none, some 0, some 1], ([⟨4, 0, .cadswitch 5 1 0, 1, 100, a⟩] : List OpenQ).find? (fun y => y.what == .cadswitch 5 1 0) = some ⟨4, 0, .cadswitch 5 1 0, 1, 100, a⟩) ∧
    (let s := commanded 0 (command 9 0 1 0 3 false) { openQs := [⟨1, 0, .pageRot page, 1, 0, none⟩] }
     s.disp.openQs.find? (fun y => y.fn == 1 && y.seqNo == 0 && y.answer.isNone) = some ⟨1, 0, .pageRot page, 1, 0, none⟩ ∧ 0 ≤ s.clock ∧ s.clock ≤ 0 ∧ 0 < (running 5 [] [] []).clock) := by
  refine ⟨fun _ c o w2 w3 w4 d hd => atHead_commanded _ _ _ rfl hd, ⟨rfl, rfl, rfl, by decide +kernel, ⟨_, rfl, by decide +kernel⟩, by decide +kernel, by decide +kernel⟩,
    by decide +kernel, by decide +kernel, ⟨_, by decide +kernel, rfl, by decide +kernel, by decide +kernel⟩, ?_, by decide +kernel, by decide +kernel,
    by decide +kernel⟩
  intro y s s1
  refine ⟨fun v hv => ?_, by decide +kernel⟩
  obtain rfl | rfl : v = 0x00010005 ∨ v = 0x80010005 := by simpa using hv
  · decide +kernel
  · decide +kernel

/-- A machine whose partition 0 is debugged: its target is grid 1, with a breakpoint at 4, one sample each 256 clocks on queue 5, and a channel. -/
def debugged (attach : Bool) (ts : List Thread) : State :=
  let s := queued { hq with q := 5, kind := 3, owner := 0 } [] ts
  let d : Debug := { attach := attach, target := 1, evq := 5, sper := 256, bpc := 4 :: List.replicate 7 0, ben := true :: List.replicate 7 false }
  { s with clock := 256, ready := [0], debugs := d :: List.replicate 15 {}, regs := { s.regs with state := 3 }, power := { s.power with clocks := List.replicate 16 256 } }

theorem wit_DebugStopsStepsAndSamples :
    (let s := debugged false [thr 1 0]
     s.phase ≤ 4 ∧ beats s 0 = true ∧ s.picked = [] ∧ s.fused = [] ∧ thr 1 0 ∈ s.threads ∧ (thr 1 0).key ∈ s.ready ∧ (thr 1 0).st = .ready ∧ (thr 1 0).stopped = false ∧
       (thr 1 0).stopAsk = none ∧ isSaving s (thr 1 0) = false ∧
       (thr 1 0).readySince + 256 ≤ mainClocks s 0 ∧ s.regs.state = 3 ∧ (thr 1 0).stepping ≠ 1 ∧ (thr 1 0).lane < 32) ∧
    (let s := debugged true [thr 1 0]
     let d := s.debugs.getD 0 {}
     getThread s 0 = some (thr 1 0) ∧ (∃ g, getGrid s 1 = some g ∧ g.part = 0) ∧ d.attach = true ∧ d.target = (thr 1 0).grid ∧ (thr 1 0).skipBrk = false ∧ s.cur = 0 ∧ (∃ c, (thr 1 0).clause = some c ∧ (thr 1 0).pc < c.stop) ∧
       d.ben.getD 0 false = true ∧ d.bpc.getD 0 0 = (thr 1 0).pc ∧ s.debugs.length = 16 ∧ (eventQueue s 5).isSome = true) ∧
    -- a thread with a stop asked of it, at rest and with a result that it still waits for
    (∀ c ∈ [([], true), ([{ id := 1, pc := 0, remain := 3, regs := [8] }], false)], let u : Thread := { thr 1 0 with stopAsk := some none, windows := c.1 }
      let s := debugged true [u]
      getThread s u.key = some u ∧ ((allThreads s).map (·.key)).Nodup ∧ u.stopAsk ≠ none ∧ u.key ∉ s.fused ∧
        (u.windows.all fun w => decide (w.regs = [] ∨ w.poison ≠ none)) = c.2) ∧
    -- lines of Table 2: SPER 255 is too small and 256 is not; an unknown mode of a breakpoint; an unknown action of a watch region
    ((255 : Nat) < 256 ∧ ¬ (256 : Nat) < 256 ∧ 6 ≤ (6 : Word).toNat ∧ 12 ≤ (12 : Word).toNat) ∧
    (∀ b, let u : Thread := { thr 1 0 with stopped := b }
      let s := debugged true [u]
      u ∈ allThreads s ∧ u.grid = 1 ∧ u.teamIdx = 0 ∧ u.tid = 0 ∧ u.st ≠ .exited ∧ u.st ≠ .ended ∧ ((getGrid s u.grid).map (·.part)).getD 0 = 0 ∧ getThread s u.key = some u) ∧
    (let s := debugged true [thr 1 0]
     (s.debugs.getD 0 {}).sper ≠ 0 ∧ 0 + (s.debugs.getD 0 {}).sper ≤ s.clock ∧ (s.debugs.getD 0 {}).sampled = [] ∧ (thr 1 0).lastIssue ≠ s.clock + 1) ∧
    -- threads to sample: about to enter a handler, one whose copy is not accepted yet, one that is held, one that is stopped
    (∀ u ∈ [{ thr 1 0 with st := .trapping { code := .handle, tpc := 4 }, tvec := 64 }, { thr 1 0 with st := .blocked .copyAccept }, { thr 1 0 with st := .heldConvoy },
        { thr 1 0 with stopped := true }, { thr 1 0 with windows := [{ id := 1, pc := 0, remain := 0, regs := [8] }] }, { thr 1 0 with st := .blocked .gang },
        { thr 1 0 with st := .parked page 0 }, { thr 1 0 with st := .yielded 9 }, { thr 1 0 with st := .heldMeet 0 0 }],
      let s := debugged true [u]
      u ∈ s.threads ∧ u.core = 0 ∧ u.st ≠ .exited ∧ u.st ≠ .ended ∧ ((getGrid s u.grid).map (·.part)).getD 0 = 0 ∧ (s.debugs.getD 0 {}).target = u.grid) := by
  refine ⟨by decide +kernel, ⟨by decide +kernel, ⟨_, rfl, rfl⟩, by decide +kernel, by decide +kernel, by decide +kernel, rfl, ⟨_, rfl, by decide +kernel⟩, by decide +kernel⟩, by decide +kernel, by decide +kernel,
    by intro b; cases b <;> decide +kernel, by decide +kernel, by decide +kernel⟩

/-- A machine whose partition 0 has layer 0 at 96 °C and layer 1 at 91 °C, with grid 2's team on layer 0. -/
def warm (saving : Option (Option Nat)) (qs : List OpenQ) : State :=
  let s := running 600000 [gridTwo] [teamTwo saving] [threadTwo]
  { s with power := { temps := [96, 91] ++ List.replicate 14 0 }, disp := { s.disp with openQs := qs } }

theorem wit_PowerAndThermalControl :
    ((dev {}).regs.state = 3 ∧ State.reset.regs.state ≠ 3 ∧ (dev {}).power.integ.length = 16 ∧ (dev {}).power.ration.length = 16 ∧ (dev {}).power.want.length = 16 ∧
      (dev {}).power.temps.length = 16 ∧ (dev {}).power.period.length = 16) ∧
    (let s : State := { dev {} with power := { want := 570 :: List.replicate 15 600 } }
     (bitsOf s.regs.regActive.toNat (2 * 0 + 1) (2 * 0) = 0 ∧ s.power.want.getD 0 600 = 570) ∧
       (∀ l < 16, bitsOf s.regs.regActive.toNat (2 * l + 1) (2 * l) = 0 → 570 ≤ s.power.want.getD l 600) ∧ 570 ≠ s.power.mhz.getD 0 600 ∧
       (dev {}).power.mhz.getD 0 600 = (dev {}).power.want.getD 0 600 ∧ eventQueue s (fnMode s 7).evq = none) ∧
    (∀ a ∈ [some 0, some 1, none], ∃ y ∈ ([⟨7, 0, .opPoint 0 570, 1, 100, a⟩] : List OpenQ), y.what = .opPoint 0 570 ∧ y.answer = a) ∧
    ((∀ l < 16, (dev {}).power.period.getD l 0 = 0) ∧ ({ period := 1 :: List.replicate 15 0 } : Power).period.getD 0 0 ≠ ({ period := 1 :: List.replicate 15 0 } : Power).period.getD 1 0 ∧
      (dev {}).power.mhz.length = 4) ∧
    (let s := warm none []
     getTeam s 3 = some (teamTwo none) ∧ getGrid s 2 = some gridTwo ∧ bitOf (s.regs.parts.getD 0 0).toNat 0 = true ∧ bitOf (s.regs.parts.getD 0 0).toNat 1 = true ∧
       95 < s.power.temps.getD 0 0 ∧ s.power.temps.getD 1 0 ≤ 95 ∧ (teamTwo none).movedAt = none ∧ layerOk s 0 1 = true ∧ s.power.temps.getD 1 0 + 5 ≤ s.power.temps.getD 0 0 ∧
       reservedFrom s 1 gridTwo 0 = false ∧
       (restoreCores s gridTwo { team := teamTwo none, threads := teamThreads s (teamTwo none), tiles := [], slots := [] } 1 []).isSome = true ∧ s.power.lastMove.getD 0 none = none ∧ s.power.lastMove.length = 16 ∧ eventQueue s (fnMode s 6).evq = none ∧ 12 / 12 = 1 ∧ hintCores s gridTwo.cvhint = []) ∧
    (teamQuiet (warm (some (some 1)) []) (teamTwo (some (some 1))) = true ∧ gridTwo.saved = [] ∧ (warm (some (some 1)) []).mem.ops = [] ∧
      (storeAt 4).contrib = [(0, 3)] ∧ ((warm (some (some 1)) []).disp.teams.map (·.key)).Nodup) := by
  refine ⟨by decide +kernel, by decide +kernel, by decide +kernel, by decide +kernel, by decide +kernel, by decide +kernel⟩

theorem wit_PartitionsStayDisjoint : partsOk State.reset.regs.parts := by
  have k : ∀ i < 16, (List.replicate 16 (0 : Word)).getD i 0 = 0 := by decide +kernel
  have z : bitOf (0 : Word).toNat 31 = false := by decide +kernel
  refine ⟨rfl, fun w hw => ?_, fun i _ hi _ _ h => ?_⟩
  · rw [List.eq_of_mem_replicate hw]; decide +kernel
  · rw [show State.reset.regs.parts.getD i 0 = 0 from k i hi, z] at h; cases h

theorem wit_MemoryStaysCanonical :
    Memory.wf (dev {}).mem.hbm = true ∧ Memory.wf (dev {}).mem.tbl = true ∧ Memory.wf (dev {}).mem.hostMem = true ∧ (dev {}).mem.pods = [] ∧ (dev {}).disp.teams = [] ∧
      (dev {}).disp.grids = [] := ⟨by decide +kernel, by decide +kernel, by decide +kernel, rfl, rfl, rfl⟩

end

end Sys2Proof.Tests
end

section
/-! PROOF. Words, bits and signed readings: the model's functions on numbers as the library's on bit vectors (R3, R48, R76). -/

namespace Sys2Proof

theorem toNat_word (n : Nat) : (word n).toNat = n % 2 ^ 32 := BitVec.toNat_ofNat ..

@[simp] theorem word_toNat (x : Word) : word x.toNat = x := by
  rw [word, BitVec.ofNat_toNat, BitVec.setWidth_eq]

/-- The bits of a word made from a number are the number's. -/
theorem getLsbD_word (n : Nat) {i : Nat} (hi : i < 32) : (word n).getLsbD i = n.testBit i := by
  rw [word, BitVec.getLsbD_ofNat, decide_eq_true hi, Bool.true_and]

theorem bitOf_eq_testBit (n i : Nat) : bitOf n i = n.testBit i := by
  rw [bitOf, Nat.testBit_eq_decide_div_mod_eq]
  rfl

/-- The top bit of an n-bit number says whether its two's-complement reading is negative. -/
theorem sextInt_toNat {n : Nat} (x : BitVec n) : sextInt x.toNat n = x.toInt := by
  rw [sextInt, Nat.mod_eq_of_lt x.isLt, BitVec.toInt_eq_toNat_cond]
  by_cases h : 2 * x.toNat < 2 ^ n
  · rw [if_neg (Nat.not_le.2 h), if_pos h]
  · rw [if_pos (Nat.not_lt.1 h), if_neg h]

theorem sextInt_eq_toInt (x n : Nat) : sextInt x n = (BitVec.ofNat n x).toInt := by
  rw [← sextInt_toNat, BitVec.toNat_ofNat, sextInt, sextInt, Nat.mod_mod]

theorem intBits_eq (i : Int) (n : Nat) : intBits i n = (BitVec.ofInt n i).toNat := (BitVec.toNat_ofInt i).symm

theorem toNat_append_words (hi lo : Word) : (hi ++ lo).toNat = lo.toNat + 2 ^ 32 * hi.toNat := by
  rw [BitVec.toNat_append, ← Nat.shiftLeft_add_eq_or_of_lt lo.isLt, Nat.shiftLeft_eq]
  omega

/-- A bit field is what the library extracts. -/
theorem bitsOf_toNat {n : Nat} (x : BitVec n) (hi lo : Nat) : bitsOf x.toNat hi lo = (x.extractLsb' lo (hi + 1 - lo)).toNat := by
  rw [bitsOf, BitVec.extractLsb'_toNat, Nat.shiftRight_eq_div_pow]

theorem wordOfInt_eq (i : Int) : wordOfInt i = BitVec.ofInt 32 i := by
  rw [wordOfInt, intBits_eq]
  exact word_toNat _

end Sys2Proof
end

section
/-! PROOF. The shapes of the ALU instructions (R109 to R114): what each does once its instruction issues. -/

namespace Sys2Proof.Machine

open Sys2Proof.Safety

/-! ### Operands are read from the thread as it was before it issued -/

@[simp] theorem rdV_issued (s : State) (t : Thread) (r : Nat) : rdV (issued s t) r = rdV t r := rfl
@[simp] theorem rdTaint_issued (s : State) (t : Thread) (r : Nat) : rdTaint (issued s t) r = rdTaint t r := rfl
@[simp] theorem rdSrc_issued (s : State) (t : Thread) (b : Src) : rdSrc (issued s t) b = rdSrc t b := by cases b <;> rfl
@[simp] theorem taintSrc_issued (s : State) (t : Thread) (b : Src) : taintSrc (issued s t) b = taintSrc t b := by cases b <;> rfl
@[simp] theorem rdP_issued (s : State) (t : Thread) (i : Nat) : rdP (issued s t) i = rdP t i := rfl
@[simp] theorem rdPair_issued (s : State) (t : Thread) (r : Nat) : rdPair (issued s t) r = rdPair t r := rfl

/-! ### Pairs (R49) -/

@[simp] theorem taintMany_two (t : Thread) (r : Nat) : taintMany t r 2 = (rdTaint t r || rdTaint t (r + 1)) := by
  simp [taintMany, List.range_succ]

/-- A pair is read with its upper register on top. -/
theorem rdPair_eq (t : Thread) (r : Nat) : rdPair t r = (rdV t (r + 1) ++ rdV t r).toNat := (toNat_append_words ..).symm

/-- A pair is written as its two halves. -/
theorem wrPair_toNat (t : Thread) (r : Nat) (x : BitVec 64) (m : Bool) :
    wrPair t r x.toNat m = wrV (wrV t r (x.extractLsb' 0 32) m) (r + 1) (x.extractLsb' 32 32) m := by
  have lo : word x.toNat = x.extractLsb' 0 32 := by
    apply BitVec.eq_of_toNat_eq
    rw [toNat_word, BitVec.extractLsb'_toNat, Nat.shiftRight_zero]
  have hi : word (x.toNat / 2 ^ 32) = x.extractLsb' 32 32 := by
    apply BitVec.eq_of_toNat_eq
    rw [toNat_word, BitVec.extractLsb'_toNat, Nat.shiftRight_eq_div_pow]
  simp only [wrPair, wordsOfNat, wrMany, lo, hi]

/-! ### The shapes -/

section Shapes

variable {i : Instr} {s : State} {t : Thread} (h : Issues i s t)
include h

theorem aluAB_next {d a : Reg} {b : Src} {f : Word → Word → Word} {z : Word} (hz : f (rdV t a.toNat) (rdSrc t b) = z) :
    aluAB i s d a b f = .next (retire i s (wrV (issued s t) d.toNat z (rdTaint t a.toNat || taintSrc t b))) := by
  rw [aluAB, simple_of_issues h]
  simp only [rdV_issued, rdSrc_issued, rdTaint_issued, taintSrc_issued, hz]

theorem aluA_next {d a : Reg} {f : Word → Word} {z : Word} (hz : f (rdV t a.toNat) = z) :
    aluA i s d a f = .next (retire i s (wrV (issued s t) d.toNat z (rdTaint t a.toNat))) := by
  rw [aluA, simple_of_issues h]
  simp only [rdV_issued, rdTaint_issued, hz]

theorem aluABD_next {d a : Reg} {b : Src} {f : Word → Word → Word → Word} {z : Word}
    (hz : f (rdV t a.toNat) (rdSrc t b) (rdV t d.toNat) = z) :
    aluABD i s d a b f =
      .next (retire i s (wrV (issued s t) d.toNat z (rdTaint t a.toNat || taintSrc t b || rdTaint t d.toNat))) := by
  rw [aluABD, simple_of_issues h]
  simp only [rdV_issued, rdSrc_issued, rdTaint_issued, taintSrc_issued, hz]

theorem aluABF_next {d a : Reg} {b : Src} {f : Word → Word → Word × Nat} {z : Word} {fl : Nat}
    (hz : f (rdV t a.toNat) (rdSrc t b) = (z, fl)) :
    aluABF i s d a b f =
      .next (retire i s (orFlags (wrV (issued s t) d.toNat z (rdTaint t a.toNat || taintSrc t b)) fl)) := by
  rw [aluABF, simple_of_issues h]
  simp only [rdV_issued, rdSrc_issued, rdTaint_issued, taintSrc_issued, hz]

theorem aluABDF_next {d a : Reg} {b : Src} {f : Word → Word → Word → Word × Nat} {z : Word} {fl : Nat}
    (hz : f (rdV t a.toNat) (rdSrc t b) (rdV t d.toNat) = (z, fl)) :
    aluABDF i s d a b f =
      .next (retire i s (orFlags (wrV (issued s t) d.toNat z (rdTaint t a.toNat || taintSrc t b || rdTaint t d.toNat)) fl)) := by
  rw [aluABDF, simple_of_issues h]
  simp only [rdV_issued, rdSrc_issued, rdTaint_issued, taintSrc_issued, hz]

theorem aluPairs_next {d a b : Reg} {f : Nat → Nat → Nat} {z : BitVec 64}
    (hz : f (rdPair t a.toNat) (rdPair t b.toNat) = z.toNat) :
    aluPairs i s d a b f =
      .next (retire i s (let m := rdTaint t a.toNat || rdTaint t (a.toNat + 1) || (rdTaint t b.toNat || rdTaint t (b.toNat + 1))
        wrV (wrV (issued s t) d.toNat (z.extractLsb' 0 32) m) (d.toNat + 1) (z.extractLsb' 32 32) m)) := by
  rw [aluPairs, simple_of_issues h]
  simp only [rdPair_issued, taintMany_two, rdTaint_issued, hz, wrPair_toNat]

theorem aluMadw_next {d a : Reg} {b : Src} {f : Word → Word → Nat → Nat} {z : BitVec 64}
    (hz : f (rdV t a.toNat) (rdSrc t b) (rdPair t d.toNat) = z.toNat) :
    aluMadw i s d a b f =
      .next (retire i s (let m := rdTaint t a.toNat || taintSrc t b || (rdTaint t d.toNat || rdTaint t (d.toNat + 1))
        wrV (wrV (issued s t) d.toNat (z.extractLsb' 0 32) m) (d.toNat + 1) (z.extractLsb' 32 32) m)) := by
  rw [aluMadw, simple_of_issues h]
  simp only [rdPair_issued, rdV_issued, rdSrc_issued, taintSrc_issued, taintMany_two, rdTaint_issued, hz, wrPair_toNat]

end Shapes

end Sys2Proof.Machine
end

section
/-! PROOF. Integer arithmetic (R115 to R117). -/

namespace Sys2Proof.Machine

open Sys2Proof.Safety

theorem aluMulhI_eq (x y : Word) : aluMulhI x y = (x.signExtend 64 * y.signExtend 64).extractLsb' 32 32 := by
  have prod : x.signExtend 64 * y.signExtend 64 = BitVec.ofInt 64 (x.toInt * y.toInt) := (BitVec.ofInt_mul ..).symm
  rw [aluMulhI, wordOfInt_eq, sextInt_toNat, sextInt_toNat, prod]
  generalize x.toInt * y.toInt = k
  apply BitVec.eq_of_toNat_eq
  rw [BitVec.extractLsb'_toNat, BitVec.toNat_ofInt, BitVec.toNat_ofInt, Nat.shiftRight_eq_div_pow]
  omega

theorem aluMulhN_eq (x y : Word) : aluMulhN x y = (x.setWidth 64 * y.setWidth 64).extractLsb' 32 32 := by
  apply BitVec.eq_of_toNat_eq
  rw [aluMulhN, toNat_word, BitVec.extractLsb'_toNat, BitVec.toNat_mul, Nat.shiftRight_eq_div_pow,
    BitVec.toNat_setWidth_of_le (by omega), BitVec.toNat_setWidth_of_le (by omega)]
  generalize x.toNat * y.toNat = k
  omega

/-- At equal operands the two ways to choose the smaller meet. -/
theorem aluMinI_eq (x y : Word) : aluMinI x y = if x.slt y then x else y := by
  simp only [aluMinI, sextInt_toNat, BitVec.slt_iff_toInt_lt]
  rcases lt_trichotomy x.toInt y.toInt with h | h | h
  · rw [if_neg h.not_gt, if_pos h]
  · rw [BitVec.eq_of_toInt_eq h, ite_self]
  · rw [if_pos h, if_neg h.not_gt]

theorem aluMaxI_eq (x y : Word) : aluMaxI x y = if x.slt y then y else x := by
  simp only [aluMaxI, sextInt_toNat, BitVec.slt_iff_toInt_lt]

theorem aluMinN_eq (x y : Word) : aluMinN x y = if x.ult y then x else y := by
  simp only [aluMinN, BitVec.ult_iff_lt, BitVec.lt_def]
  rcases lt_trichotomy x.toNat y.toNat with h | h | h
  · rw [if_neg h.not_gt, if_pos h]
  · rw [BitVec.eq_of_toNat_eq h, ite_self]
  · rw [if_pos h, if_neg h.not_gt]

theorem aluMaxN_eq (x y : Word) : aluMaxN x y = if x.ult y then y else x := by
  simp only [aluMaxN, BitVec.ult_iff_lt, BitVec.lt_def]

/-- Saturation clamps, and flags exactly the values that it changes (R116). -/
theorem satI32_eq (i : Int) :
    satI32 i = (BitVec.ofInt 32 (max (-(2 ^ 31)) (min (2 ^ 31 - 1) i)), if i < -(2 ^ 31) ∨ 2 ^ 31 - 1 < i then fSATD else 0) := by
  rw [satI32]
  by_cases hi : 2 ^ 31 - 1 < i
  · rw [if_pos hi, if_pos (.inr hi), min_eq_left hi.le]
    rfl
  by_cases lo : i < -(2 ^ 31)
  · rw [if_neg hi, if_pos lo, if_pos (.inl lo), min_eq_right (by omega), max_eq_left lo.le]
    rfl
  · rw [if_neg hi, if_neg lo, if_neg (by omega), min_eq_right (by omega), max_eq_right (by omega), wordOfInt_eq]

theorem aluAdds_eq (x y : Word) : aluAdds x y = satI32 (x.toInt + y.toInt) := by rw [aluAdds, sextInt_toNat, sextInt_toNat]

theorem aluSubs_eq (x y : Word) : aluSubs x y = satI32 (x.toInt - y.toInt) := by rw [aluSubs, sextInt_toNat, sextInt_toNat]

theorem add_mod_eq_toNat (x y : BitVec 64) : (x.toNat + y.toNat) % 2 ^ 64 = (x + y).toNat := (BitVec.toNat_add x y).symm

theorem sub_mod_eq_toNat (x y : BitVec 64) : (x.toNat + 2 ^ 64 - y.toNat) % 2 ^ 64 = (x - y).toNat := by
  have := y.isLt
  rw [BitVec.toNat_sub]
  congr 1
  omega

theorem aluMadwI_eq (x y : Word) (z : BitVec 64) : aluMadwI x y z.toNat = (z + x.signExtend 64 * y.signExtend 64).toNat := by
  rw [aluMadwI, intBits_eq, sextInt_toNat, sextInt_toNat, BitVec.ofInt_add, BitVec.ofInt_mul, BitVec.ofInt_natCast, BitVec.ofNat_toNat,
    BitVec.setWidth_eq]
  rfl

theorem aluMadwN_eq (x y : Word) (z : BitVec 64) : aluMadwN x y z.toNat = (z + x.setWidth 64 * y.setWidth 64).toNat := by
  rw [aluMadwN, BitVec.toNat_add, BitVec.toNat_mul, BitVec.toNat_setWidth_of_le (by omega), BitVec.toNat_setWidth_of_le (by omega),
    Nat.add_mod_mod]

/-- Settles O1: each instruction has the shape of its operands, and its function on numbers is the table's on bit vectors. -/
theorem integerResults : Obligations.IntegerResults := by
  unfold Obligations.IntegerResults
  simp only [List.forall_mem_cons, List.not_mem_nil, false_imp_iff, implies_true, and_true]
  refine ⟨fun g u d a b s t => ⟨⟨?_, ?_, ?_, ?_, ?_, ?_, ?_, ?_, ?_⟩, ?_⟩, fun g u d a b s t => ⟨?_, ?_⟩,
    fun g u d a b c s t => ⟨⟨?_, ?_⟩, ?_, ?_⟩⟩ <;> intro h
  · exact (exec_add ..).trans (aluAB_next h rfl)
  · exact (exec_sub ..).trans (aluAB_next h rfl)
  · exact (exec_mul ..).trans (aluAB_next h rfl)
  · exact (exec_mulhI32 ..).trans (aluAB_next h (aluMulhI_eq ..))
  · exact (exec_mulhN32 ..).trans (aluAB_next h (aluMulhN_eq ..))
  · exact (exec_minI32 ..).trans (aluAB_next h (aluMinI_eq ..))
  · exact (exec_maxI32 ..).trans (aluAB_next h (aluMaxI_eq ..))
  · exact (exec_minN32 ..).trans (aluAB_next h (aluMinN_eq ..))
  · exact (exec_maxN32 ..).trans (aluAB_next h (aluMaxN_eq ..))
  · exact (exec_mad ..).trans (aluABD_next h rfl)
  · exact (exec_addsI32 ..).trans (aluABF_next h ((aluAdds_eq ..).trans (satI32_eq _)))
  · exact (exec_subsI32 ..).trans (aluABF_next h ((aluSubs_eq ..).trans (satI32_eq _)))
  · exact (exec_add64 ..).trans (aluPairs_next h (by rw [rdPair_eq, rdPair_eq]; exact add_mod_eq_toNat ..))
  · exact (exec_sub64 ..).trans (aluPairs_next h (by rw [rdPair_eq, rdPair_eq]; exact sub_mod_eq_toNat ..))
  · exact (exec_madwI32 ..).trans (aluMadw_next h (by rw [rdPair_eq]; exact aluMadwI_eq ..))
  · exact (exec_madwN32 ..).trans (aluMadw_next h (by rw [rdPair_eq]; exact aluMadwN_eq ..))

end Sys2Proof.Machine
end
section
/-! PROOF. Logic, shifts, counts, fields and bytes (R118 to R123). -/

namespace Sys2Proof.Machine

open Sys2Proof.Safety

/-! ### Shifts (R118) -/

theorem aluShl_eq (x y : Word) : aluShl x y = x <<< y.toNat := by
  rw [aluShl]
  split
  · next h => exact (BitVec.shiftLeft_eq_zero h).symm
  · exact BitVec.eq_of_toNat_eq (by rw [toNat_word, BitVec.toNat_shiftLeft, Nat.shiftLeft_eq])

theorem aluShr_eq (x y : Word) : aluShr x y = x >>> y.toNat := by
  rw [aluShr]
  split
  · next h => exact (BitVec.ushiftRight_eq_zero h).symm
  · rw [← Nat.shiftRight_eq_div_pow, ← BitVec.toNat_ushiftRight, word_toNat]

/-- An arithmetic shift past the word leaves copies of the sign. -/
theorem sshiftRight_of_le (x : Word) {n : Nat} (h : 32 ≤ n) : x.sshiftRight n = if x.msb then 0xFFFFFFFF else 0 := by
  have ones : (0xFFFFFFFF : Word) = BitVec.allOnes 32 := rfl
  apply BitVec.eq_of_getLsbD_eq
  intro i hi
  rw [BitVec.getLsbD_sshiftRight, if_neg (by omega), decide_eq_false (by omega), Bool.not_false, Bool.true_and, ones]
  cases x.msb
  · exact BitVec.getLsbD_zero.symm
  · rw [if_pos rfl, BitVec.getLsbD_allOnes, decide_eq_true hi]

theorem aluSar_eq (x y : Word) : aluSar x y = x.sshiftRight y.toNat := by
  rw [aluSar]
  split
  · next h => rw [sshiftRight_of_le x h, bitOf_eq_testBit, BitVec.testBit_toNat, BitVec.msb_eq_getLsbD_last]
  · rw [wordOfInt_eq, sextInt_toNat, ← Int.shiftRight_eq_div_pow, ← BitVec.toInt_sshiftRight, BitVec.ofInt_toInt]

/-! ### Counts (R119) -/

theorem popcount_eq (n x : Nat) : popcount n x = ((List.range n).filter fun i => x.testBit i).length := by
  induction n generalizing x with
  | zero => rfl
  | succ n ih =>
    have tail : ((fun i => x.testBit i) ∘ Nat.succ) = fun i => (x / 2).testBit i := funext fun i => Nat.testBit_succ x i
    rw [popcount, ih, List.range_succ_eq_map, List.filter_cons, List.filter_map, tail, Nat.testBit_zero]
    rcases Nat.mod_two_eq_zero_or_one x with h | h <;> simp [h, Nat.add_comm]

theorem toNat_aluPopc (x : Word) : (aluPopc x).toNat = ((List.range 32).filter fun i => x.getLsbD i).length := by
  have le := List.length_filter_le (fun i => x.toNat.testBit i) (List.range 32)
  rw [List.length_range] at le
  rw [aluPopc, toNat_word, popcount_eq, Nat.mod_eq_of_lt (by omega)]
  rfl

/-- CLZ counts down to the most significant 1 bit; 0 has none. -/
theorem aluClz_spec (x : Word) : (aluClz x).toNat ≤ 32 ∧ (∀ i, 32 ≤ i + (aluClz x).toNat → x.getLsbD i = false) ∧
    ((aluClz x).toNat < 32 → x.getLsbD (31 - (aluClz x).toNat) = true) := by
  by_cases h : x.toNat = 0
  · have hx : x = 0 := BitVec.eq_of_toNat_eq h
    subst hx
    exact ⟨le_rfl, fun i _ => BitVec.getLsbD_zero, fun h => absurd h (lt_irrefl 32)⟩
  · have top : Nat.log2 x.toNat < 32 := (Nat.log2_lt h).2 x.isLt
    have count : (aluClz x).toNat = 31 - Nat.log2 x.toNat := by
      rw [aluClz, if_neg (by simpa using h), toNat_word, Nat.mod_eq_of_lt (by omega)]
    rw [count]
    refine ⟨by omega, fun i hi => ?_, fun _ => ?_⟩
    · rw [← BitVec.testBit_toNat]
      exact Nat.testBit_lt_two_pow ((Nat.log2_lt h).1 (by omega))
    · rw [← BitVec.testBit_toNat, show 31 - (31 - Nat.log2 x.toNat) = Nat.log2 x.toNat by omega]
      exact Nat.testBit_log2 h

theorem reverseBits_lt (n x : Nat) : reverseBits n x < 2 ^ n := by
  induction n generalizing x with
  | zero => exact Nat.one_pos
  | succ n ih =>
    have := ih (x / 2)
    have : x % 2 * 2 ^ n ≤ 1 * 2 ^ n := Nat.mul_le_mul_right _ (by omega)
    rw [reverseBits, Nat.pow_succ]
    omega

theorem testBit_reverseBits (n x i : Nat) (hi : i < n) : (reverseBits n x).testBit i = x.testBit (n - 1 - i) := by
  induction n generalizing x with
  | zero => exact absurd hi (Nat.not_lt_zero i)
  | succ n ih =>
    rw [reverseBits, Nat.mul_comm, Nat.testBit_two_pow_mul_add _ (reverseBits_lt n _)]
    split
    · next h => rw [ih _ h, ← Nat.testBit_succ, show (n - 1 - i).succ = n + 1 - 1 - i by omega]
    · next h =>
      obtain rfl : i = n := by omega
      simp [Nat.testBit_zero]

theorem getLsbD_aluBrev (x : Word) {i : Nat} (hi : i < 32) : (aluBrev x).getLsbD i = x.getLsbD (31 - i) := by
  rw [aluBrev, getLsbD_word _ hi, testBit_reverseBits 32 _ _ hi, BitVec.testBit_toNat]

/-! ### Fields (R120, R121) -/

theorem fieldPos_eq (y : Word) : fieldPos y = (y.extractLsb' 0 5).toNat := bitsOf_toNat y 4 0

theorem fieldWidth_eq (y : Word) : fieldWidth y = min (y.extractLsb' 8 6).toNat (32 - fieldPos y) := by
  rw [fieldWidth, bitsOf_toNat]

theorem getLsbD_aluBfeN (x y : Word) {i : Nat} (hi : i < 32) :
    (aluBfeN x y).getLsbD i = (decide (i < fieldWidth y) && x.getLsbD (fieldPos y + i)) := by
  rw [aluBfeN, getLsbD_word _ hi, Nat.testBit_mod_two_pow, Nat.testBit_div_two_pow, BitVec.testBit_toNat, Nat.add_comm]

/-- The sign of a field is its last bit, and it fills the word. -/
theorem getLsbD_aluBfeI (x y : Word) {i : Nat} (hi : i < 32) :
    (aluBfeI x y).getLsbD i = (decide (0 < fieldWidth y) && x.getLsbD (fieldPos y + min i (fieldWidth y - 1))) := by
  have bit {j : Nat} (hj : j < fieldWidth y) :
      (BitVec.ofNat (fieldWidth y) (x.toNat / 2 ^ fieldPos y)).getLsbD j = x.getLsbD (fieldPos y + j) := by
    rw [BitVec.getLsbD_ofNat, decide_eq_true hj, Bool.true_and, Nat.testBit_div_two_pow, BitVec.testBit_toNat, Nat.add_comm]
  rw [aluBfeI]
  by_cases hw : fieldWidth y = 0
  · simp [hw]
  rw [if_neg (by simpa using hw), wordOfInt_eq, sextInt_eq_toInt, ← BitVec.signExtend, BitVec.getLsbD_signExtend, decide_eq_true hi,
    decide_eq_true (Nat.pos_of_ne_zero hw), Bool.true_and, Bool.true_and]
  split
  · next h => rw [bit h, min_eq_left (by omega)]
  · rw [BitVec.msb_eq_getLsbD_last, bit (by omega), min_eq_right (by omega)]

/-- BFI keeps the bits of D below and above the field. -/
theorem getLsbD_aluBfi (x y o : Word) {i : Nat} (hi : i < 32) :
    (aluBfi x y o).getLsbD i =
      if fieldPos y ≤ i ∧ i < fieldPos y + fieldWidth y then x.getLsbD (i - fieldPos y) else o.getLsbD i := by
  simp only [aluBfi]
  generalize fieldPos y = p
  generalize fieldWidth y = w
  have layers : o.toNat % 2 ^ p + x.toNat % 2 ^ w * 2 ^ p + o.toNat / 2 ^ (p + w) * 2 ^ (p + w) =
      2 ^ p * (2 ^ w * (o.toNat / 2 ^ (p + w)) + x.toNat % 2 ^ w) + o.toNat % 2 ^ p := by
    rw [Nat.pow_add]
    ring
  rw [getLsbD_word _ hi, layers, Nat.testBit_two_pow_mul_add _ (Nat.mod_lt _ (Nat.two_pow_pos p)),
    Nat.testBit_two_pow_mul_add _ (Nat.mod_lt _ (Nat.two_pow_pos w))]
  rcases Nat.lt_or_ge i p with below | h
  · rw [if_pos below, if_neg (by omega), Nat.testBit_mod_two_pow, decide_eq_true below, Bool.true_and, BitVec.testBit_toNat]
  rw [if_neg (by omega)]
  rcases Nat.lt_or_ge i (p + w) with inside | above
  · rw [if_pos (by omega), if_pos ⟨h, inside⟩, Nat.testBit_mod_two_pow, decide_eq_true (by omega), Bool.true_and, BitVec.testBit_toNat]
  · rw [if_neg (by omega), if_neg (by omega), Nat.testBit_div_two_pow, BitVec.testBit_toNat,
      show i - p - w + (p + w) = i by omega]

/-! ### Bytes (R122, R123) -/

theorem byteOf_toNat {n : Nat} (x : BitVec n) (i : Nat) : byteOf x.toNat i = (x.extractLsb' (8 * i) 8).toNat := by
  rw [byteOf, BitVec.extractLsb'_toNat, Nat.shiftRight_eq_div_pow]

/-- A byte of a word put together from four bytes. -/
theorem extract_fourBytes {p : Nat → Nat} (hp : ∀ i, p i < 256) {i : Nat} (hi : i < 4) :
    (word (p 0 + 2 ^ 8 * p 1 + 2 ^ 16 * p 2 + 2 ^ 24 * p 3)).extractLsb' (8 * i) 8 = BitVec.ofNat 8 (p i) := by
  have := hp 0
  have := hp 1
  have := hp 2
  have := hp 3
  apply BitVec.eq_of_toNat_eq
  rw [BitVec.extractLsb'_toNat, toNat_word, Nat.shiftRight_eq_div_pow, BitVec.toNat_ofNat]
  interval_cases i <;> omega

theorem permByte_lt (src sel : Nat) : permByte src sel < 256 := by
  have : byteOf src (sel % 8) < 256 := Nat.mod_lt _ (by omega)
  simp only [permByte]
  split
  · split <;> omega
  · exact this

/-- A selector of 8 or more gives copies of the sign of the byte that its low three bits select. -/
theorem permByte_toNat (src : BitVec 64) {sel : Nat} (h : sel < 16) :
    BitVec.ofNat 8 (permByte src.toNat sel) =
      if 8 ≤ sel then (if (src.extractLsb' (8 * (sel % 8)) 8).msb then 0xFF else 0x00) else src.extractLsb' (8 * (sel % 8)) 8 := by
  simp only [permByte, byteOf_toNat]
  generalize src.extractLsb' (8 * (sel % 8)) 8 = y
  have sign : (y.toNat / 128 == 1) = y.msb := by
    have := y.isLt
    rw [BitVec.msb_eq_decide, beq_eq_decide]
    exact decide_eq_decide.2 (by omega)
  rcases Nat.lt_or_ge sel 8 with low | high
  · rw [if_neg (by simp; omega), if_neg (by omega), BitVec.ofNat_toNat, BitVec.setWidth_eq]
  · rw [if_pos (by simp; omega), if_pos high, sign]
    cases y.msb <;> rfl

theorem extract_aluPermb (x y o : Word) {i : Nat} (hi : i < 4) :
    (aluPermb x y o).extractLsb' (8 * i) 8 =
      let sel := (y.extractLsb' (4 * i) 4).toNat
      let src : BitVec 8 := (o ++ x).extractLsb' (8 * (sel % 8)) 8
      if 8 ≤ sel then (if src.msb then 0xFF else 0x00) else src := by
  have bytes := extract_fourBytes (p := fun i => permByte (x.toNat + 2 ^ 32 * o.toNat) (y.extractLsb' (4 * i) 4).toNat)
    (fun i => permByte_lt ..) hi
  simp only [aluPermb, bitsOf_toNat]
  refine bytes.trans ?_
  rw [← toNat_append_words]
  exact permByte_toNat _ (y.extractLsb' (4 * i) 4).isLt

theorem aluDot4I_eq (x y o : Word) : aluDot4I x y o =
    o + ((x.extractLsb' (8 * 0) 8).signExtend 32 * (y.extractLsb' (8 * 0) 8).signExtend 32 +
      (x.extractLsb' (8 * 1) 8).signExtend 32 * (y.extractLsb' (8 * 1) 8).signExtend 32 +
      (x.extractLsb' (8 * 2) 8).signExtend 32 * (y.extractLsb' (8 * 2) 8).signExtend 32 +
      (x.extractLsb' (8 * 3) 8).signExtend 32 * (y.extractLsb' (8 * 3) 8).signExtend 32) := by
  simp only [aluDot4I, wordOfInt_eq, byteOf_toNat, sextInt_toNat, List.range_succ, List.range_zero, List.nil_append, List.cons_append,
    List.map_cons, List.map_nil, List.sum_cons, List.sum_nil, BitVec.ofInt_add, BitVec.ofInt_mul, BitVec.ofInt_natCast,
    BitVec.ofNat_toNat, BitVec.setWidth_eq, BitVec.signExtend, add_zero, add_assoc]

theorem aluDot4N_eq (x y o : Word) : aluDot4N x y o =
    o + ((x.extractLsb' (8 * 0) 8).setWidth 32 * (y.extractLsb' (8 * 0) 8).setWidth 32 +
      (x.extractLsb' (8 * 1) 8).setWidth 32 * (y.extractLsb' (8 * 1) 8).setWidth 32 +
      (x.extractLsb' (8 * 2) 8).setWidth 32 * (y.extractLsb' (8 * 2) 8).setWidth 32 +
      (x.extractLsb' (8 * 3) 8).setWidth 32 * (y.extractLsb' (8 * 3) 8).setWidth 32) := by
  simp only [aluDot4N, word, byteOf_toNat, List.range_succ, List.range_zero, List.nil_append, List.cons_append,
    List.map_cons, List.map_nil, List.sum_cons, List.sum_nil, BitVec.ofNat_add, BitVec.ofNat_mul,
    BitVec.ofNat_toNat, BitVec.setWidth_eq, add_zero, add_assoc]

/-- Settles O2: each instruction has the shape of its operands, and its function on numbers is the rule's, bit by bit or byte by byte. -/
theorem bitAndByteResults : Obligations.BitAndByteResults := by
  unfold Obligations.BitAndByteResults
  simp only [List.forall_mem_cons, List.not_mem_nil, false_imp_iff, implies_true, and_true, ← fieldPos_eq, ← fieldWidth_eq]
  refine ⟨fun g u d a b s t => ⟨?_, ?_, ?_, ?_, ?_, ?_, ?_⟩, fun g u d a s t => ⟨?_, ?_, ?_⟩,
    fun g u d a b s t => ⟨⟨?_, ?_⟩, ?_⟩, fun g u d a b s t => ⟨?_, ?_, ?_⟩⟩ <;> intro h
  · exact (exec_and ..).trans (aluAB_next h rfl)
  · exact (exec_or ..).trans (aluAB_next h rfl)
  · exact (exec_xor ..).trans (aluAB_next h rfl)
  · exact (exec_andn ..).trans (aluAB_next h rfl)
  · exact (exec_shl ..).trans (aluAB_next h (aluShl_eq ..))
  · exact (exec_shr ..).trans (aluAB_next h (aluShr_eq ..))
  · exact (exec_sar ..).trans (aluAB_next h (aluSar_eq ..))
  · exact ⟨_, toNat_aluPopc _, (exec_popc ..).trans (aluA_next h rfl)⟩
  · exact ⟨_, aluClz_spec _, (exec_clz ..).trans (aluA_next h rfl)⟩
  · exact ⟨_, fun _ => getLsbD_aluBrev _, (exec_brev ..).trans (aluA_next h rfl)⟩
  · exact ⟨_, fun _ => getLsbD_aluBfeN _ _, (exec_bfeN32 ..).trans (aluAB_next h rfl)⟩
  · exact ⟨_, fun _ => getLsbD_aluBfeI _ _, (exec_bfeI32 ..).trans (aluAB_next h rfl)⟩
  · exact ⟨_, fun _ => getLsbD_aluBfi _ _ _, (exec_bfi ..).trans (aluABD_next h rfl)⟩
  · exact ⟨_, fun _ => extract_aluPermb _ _ _, (exec_permb ..).trans (aluABD_next h rfl)⟩
  · exact (exec_dot4I8 ..).trans (aluABD_next h (aluDot4I_eq ..))
  · exact (exec_dot4N8 ..).trans (aluABD_next h (aluDot4N_eq ..))

end Sys2Proof.Machine
end
section
/-! PROOF. F32 patterns: what the model's unpacking and order say of a word's sign and magnitude bits (R47, R53). -/

namespace Sys2Proof.Machine

open Sys2Proof.Safety

theorem bitOf_sign (x : Word) : bitOf x.toNat 31 = x.msb := by
  rw [bitOf_eq_testBit, BitVec.testBit_toNat, BitVec.msb_eq_getLsbD_last]

/-- A pattern is a NaN exactly where its exponent field is full and its fraction is not 0, that is, where its magnitude is above the infinity's. -/
theorem unpack_f32_of_nan {x : Word} (h : f32Nan x = true) : unpack .f32 x.toNat = .nan (!x.getLsbD 22) := by
  have mag : 0x7F800000 < x.toNat % 2 ^ 31 := of_decide_eq_true h
  have ex : bitsOf x.toNat (Fmt.f32.width - 2) Fmt.f32.fb = 2 ^ Fmt.f32.eb - 1 := by
    simp only [bitsOf, Fmt.width, Fmt.fb, Fmt.eb]
    omega
  have fr : x.toNat % 2 ^ Fmt.f32.fb ≠ 0 := by
    simp only [Fmt.fb]
    omega
  have quiet : bitOf (x.toNat % 2 ^ Fmt.f32.fb) (Fmt.f32.fb - 1) = x.getLsbD 22 := by
    rw [bitOf_eq_testBit, Nat.testBit_mod_two_pow, BitVec.testBit_toNat]
    rfl
  have inf : Fmt.f32.hasInf = true := rfl
  simp only [unpack, ex, quiet, inf, beq_self_eq_true, Bool.true_or, Bool.and_self, if_true, Bool.true_and]
  rw [if_neg (by simpa using fr)]

theorem isNan_unpack_f32_of_not_nan {x : Word} (h : f32Nan x = false) : (unpack .f32 x.toNat).isNan = false := by
  have mag : ¬ 0x7F800000 < x.toNat % 2 ^ 31 := of_decide_eq_false h
  have inf : Fmt.f32.hasInf = true := rfl
  simp only [unpack, inf, Bool.true_or, Bool.and_true, Bool.true_and, beq_iff_eq]
  by_cases full : bitsOf x.toNat (Fmt.f32.width - 2) Fmt.f32.fb = 2 ^ Fmt.f32.eb - 1
  · have fr : x.toNat % 2 ^ Fmt.f32.fb = 0 := by
      simp only [bitsOf, Fmt.width, Fmt.fb, Fmt.eb] at full ⊢
      omega
    rw [if_pos full, if_pos fr]
    rfl
  · rw [if_neg full]
    split <;> rfl

@[simp] theorem isNan_unpack_f32 (x : Word) : (unpack .f32 x.toNat).isNan = f32Nan x := by
  cases h : f32Nan x
  · exact isNan_unpack_f32_of_not_nan h
  · rw [unpack_f32_of_nan h]
    rfl

@[simp] theorem isSnan_unpack_f32 (x : Word) : (unpack .f32 x.toNat).isSnan = f32Snan x := by
  cases h : f32Nan x
  · have : (unpack .f32 x.toNat).isNan = false := isNan_unpack_f32_of_not_nan h
    rw [f32Snan, h, Bool.false_and]
    revert this
    cases unpack .f32 x.toNat <;> simp [Val.isNan, Val.isSnan]
  · rw [unpack_f32_of_nan h, f32Snan, h, Bool.true_and]
    rfl

theorem orderKey_toNat (x : Word) : orderKey x.toNat = f32Order x := by
  rw [orderKey, f32Order, bitOf_sign, f32Mag]
  split <;> omega

/-- No two patterns have the same place in the order of R53. -/
theorem f32Order_inj {x y : Word} (h : f32Order x = f32Order y) : x = y := by
  have hx := x.isLt
  have hy := y.isLt
  apply BitVec.eq_of_toNat_eq
  simp only [f32Order, f32Mag, BitVec.msb_eq_decide, decide_eq_true_eq] at h
  split at h <;> split at h <;> omega

end Sys2Proof.Machine
end

section
/-! PROOF. Predicates, compares, select and moves (R124 to R129). -/

namespace Sys2Proof.Machine

open Sys2Proof.Safety

/-! ### Predicates written -/

/-- A write of a predicate changes the predicates alone. -/
theorem wrP_rest (t : Thread) (d : Nat) (x : Bool) : wrP t d x = { t with p := (wrP t d x).p } := by
  rw [wrP]
  split <;> rfl

/-- A write beyond the predicates is lost. -/
theorem wrP_of_le (t : Thread) {d : Nat} (x : Bool) (hd : 128 ≤ d) : wrP t d x = t := by
  have lost : BitVec.ofNat 128 (2 ^ d) = 0#128 := by
    apply BitVec.eq_of_toNat_eq
    rw [BitVec.toNat_ofNat]
    exact Nat.mod_eq_zero_of_dvd (Nat.pow_dvd_pow 2 hd)
  have d0 : ¬ (d == 0) = true := by
    rw [beq_iff_eq]
    omega
  cases x
  · rw [wrP, if_neg d0, lost, if_neg Bool.false_ne_true, BitVec.not_zero, BitVec.and_allOnes]
  · rw [wrP, if_neg d0, lost, if_pos rfl, BitVec.or_zero]

/-- PUNPACK's writes change the predicates alone. -/
theorem unpackPreds_rest (t : Thread) (base x n : Nat) : unpackPreds t base x n = { t with p := (unpackPreds t base x n).p } := by
  induction n with
  | zero => rfl
  | succ n ih =>
    rw [unpackPreds, wrP_rest]
    rw [ih]

/-- Each predicate of the run takes its own bit. -/
theorem rdP_unpackPreds (t : Thread) (base x n : Nat) {i : Nat} (hi : i < 128) :
    rdP (unpackPreds t base x n) i =
      if i = 0 then true else if base ≤ i ∧ i < base + n then x.testBit (i - base) else rdP t i := by
  by_cases h0 : i = 0
  · subst h0
    rfl
  rw [if_neg h0]
  induction n with
  | zero => rw [unpackPreds, if_neg (by omega)]
  | succ n ih =>
    rw [unpackPreds]
    by_cases last : i = base + n
    · subst last
      rw [rdP_wrP _ _ _ _ hi hi, if_neg h0, if_pos rfl, if_pos ⟨by omega, by omega⟩, bitOf_eq_testBit, Nat.add_sub_cancel_left]
    · have other : rdP (wrP (unpackPreds t base x n) (base + n) (bitOf x n)) i = rdP (unpackPreds t base x n) i := by
        rcases Nat.lt_or_ge (base + n) 128 with hd | hd
        · rw [rdP_wrP _ _ _ _ hd hi, if_neg h0, if_neg last]
        · rw [wrP_of_le _ _ hd]
      rw [other, ih]
      exact if_congr (by omega) rfl rfl

theorem packPreds_lt (t : Thread) (base n : Nat) : packPreds t base n < 2 ^ n := by
  induction n with
  | zero => exact Nat.one_pos
  | succ n ih =>
    rw [packPreds, Nat.pow_succ]
    cases rdP t (base + n) <;> simp only [boolNat] <;> simp <;> omega

theorem testBit_packPreds (t : Thread) (base n : Nat) {i : Nat} (hi : i < n) : (packPreds t base n).testBit i = rdP t (base + i) := by
  induction n with
  | zero => exact absurd hi (Nat.not_lt_zero i)
  | succ n ih =>
    rw [packPreds, Nat.add_comm, Nat.mul_comm, Nat.testBit_two_pow_mul_add _ (packPreds_lt t base n)]
    split
    · next h => exact ih h
    · obtain rfl : i = n := by omega
      cases h : rdP t (base + i) <;> simp [boolNat]

/-! ### Compares (R124) -/

/-- The place of a pattern that is no NaN among the F32 values, −0 at +0's. -/
def f32Key (x : Word) : Int := if x.msb then -(x.toNat % 2 ^ 31 : Nat) else (x.toNat % 2 ^ 31 : Nat)

/-- The model's comparison is by the places, once no operand is a NaN. -/
theorem fpCmp_toNat (x y : Word) :
    fpCmp x.toNat y.toNat = if f32Nan x || f32Nan y then .un
      else if f32Key x < f32Key y then .lt else if f32Key x = f32Key y then .eq else .gt := by
  have place (x : Word) : (if x.toNat % 2 ^ 31 == 0 then 0 else orderKey x.toNat) =
      if f32Key x < 0 then f32Key x - 1 else f32Key x := by
    rw [orderKey, bitOf_sign, f32Key]
    generalize x.toNat % 2 ^ 31 = m
    simp only [beq_iff_eq]
    cases x.msb
    · simp only [Bool.false_eq_true, if_false]
      split <;> split <;> omega
    · simp only [if_true]
      split <;> split <;> omega
  simp only [fpCmp, isNan_unpack_f32, place]
  generalize f32Key x = i
  generalize f32Key y = j
  congr 1
  refine if_congr ?_ rfl (if_congr ?_ rfl rfl) <;> split <;> split <;> omega

theorem cmpUnF_eq (x y : Word) : cmpUnF x y = (f32Nan x || f32Nan y) := by
  rw [cmpUnF, fpCmp_toNat]
  cases f32Nan x || f32Nan y
  · rw [if_neg Bool.false_ne_true]
    split
    · rfl
    · split <;> rfl
  · rfl

theorem cmpEqF_eq (x y : Word) : cmpEqF x y = (!(f32Nan x || f32Nan y) && decide (f32Key x = f32Key y)) := by
  rw [cmpEqF, fpCmp_toNat]
  cases f32Nan x || f32Nan y
  · rcases lt_trichotomy (f32Key x) (f32Key y) with h | h | h
    · simp [h, h.ne]
    · simp [h]
    · simp [h.not_gt, h.ne']
  · rfl

theorem cmpLtF_eq (x y : Word) : cmpLtF x y = (!(f32Nan x || f32Nan y) && decide (f32Key x < f32Key y)) := by
  rw [cmpLtF, fpCmp_toNat]
  cases f32Nan x || f32Nan y
  · rcases lt_trichotomy (f32Key x) (f32Key y) with h | h | h
    · simp [h]
    · simp [h]
    · simp [h.not_gt, h.ne']
  · rfl

theorem cmpLeF_eq (x y : Word) : cmpLeF x y = (!(f32Nan x || f32Nan y) && decide (f32Key x ≤ f32Key y)) := by
  rw [cmpLeF, cmpLtF_eq, cmpEqF_eq, ← Bool.and_or_distrib_left, ← Bool.decide_or]
  simp only [le_iff_lt_or_eq]

theorem not_cmpEqF_eq (x y : Word) : (!cmpEqF x y) = (f32Nan x || f32Nan y || decide (f32Key x ≠ f32Key y)) := by
  rw [cmpEqF_eq, Bool.not_and, Bool.not_not, decide_not]

theorem cmpLtI_eq (x y : Word) : cmpLtI x y = x.slt y := by
  rw [cmpLtI, sextInt_toNat, sextInt_toNat]
  rfl

theorem cmpLeI_eq (x y : Word) : cmpLeI x y = x.sle y := by
  rw [cmpLeI, sextInt_toNat, sextInt_toNat]
  rfl

/-! ### The shapes that write a predicate -/

/-- A write of a predicate as the statements put it: nothing but the predicates changes, and of them only the one named. -/
theorem wrP_issued_spec (s : State) (t : Thread) (d : Reg) (x : Bool) :
    wrP (issued s t) d.toNat x = { issued s t with p := (wrP (issued s t) d.toNat x).p } ∧
      ∀ i, i < 128 → rdP (wrP (issued s t) d.toNat x) i = if i = 0 then true else if i = d.toNat then x else rdP t i :=
  ⟨wrP_rest _ _ _, fun _ hi => rdP_wrP _ _ _ _ d.isLt hi⟩

theorem aluCmp_next {i : Instr} {s : State} {t : Thread} (h : Issues i s t) {d a : Reg} {b : Src} {f : Word → Word → Bool} {x : Bool}
    (hx : f (rdV t a.toNat) (rdSrc t b) = x) :
    ∃ w : Thread, aluCmp i s d a b f = .next (retire i s w) ∧ w = { issued s t with p := w.p } ∧
      ∀ k, k < 128 → rdP w k = if k = 0 then true else if k = d.toNat then x else rdP t k := by
  refine ⟨_, ?_, wrP_issued_spec s t d x⟩
  rw [aluCmp, simple_of_issues h, rdV_issued, rdSrc_issued, hx]

theorem aluPred_next {i : Instr} {s : State} {t : Thread} (h : Issues i s t) {d a b : Reg} {f : Bool → Bool → Bool} {x : Bool}
    (hx : f (rdP t a.toNat) (rdP t b.toNat) = x) :
    ∃ w : Thread, aluPred i s d a b f = .next (retire i s w) ∧ w = { issued s t with p := w.p } ∧
      ∀ k, k < 128 → rdP w k = if k = 0 then true else if k = d.toNat then x else rdP t k := by
  refine ⟨_, ?_, wrP_issued_spec s t d x⟩
  rw [aluPred, simple_of_issues h, rdP_issued, rdP_issued, hx]

theorem punpack_next {g : Guard} {u : Bool} {d a : Reg} {s : State} {t : Thread} (h : Issues (.punpack g u d a) s t) :
    ∃ w : Thread, exec (.punpack g u d a) s = .next (retire (.punpack g u d a) s w) ∧
      (∀ i, i < 128 → rdP w i = if i = 0 then true
        else if d.toNat ≤ i ∧ i < d.toNat + 32 then (rdV t a.toNat).getLsbD (i - d.toNat) else rdP t i) ∧
      w = { issued s t with p := w.p } := by
  refine ⟨unpackPreds (issued s t) d.toNat (rdV t a.toNat).toNat 32, ?_, fun i hi => ?_, unpackPreds_rest ..⟩
  · rw [exec_punpack, execPunpack, simple_of_issues h, rdV_issued]
  · rw [rdP_unpackPreds _ _ _ _ hi, BitVec.testBit_toNat, rdP_issued]

theorem ppack_next {g : Guard} {u : Bool} {d a : Reg} {s : State} {t : Thread} (h : Issues (.ppack g u d a) s t) :
    ∃ y : Word, (∀ i, i < 32 → y.getLsbD i = rdP t (a.toNat + i)) ∧
      exec (.ppack g u d a) s = .next (retire (.ppack g u d a) s (wrV (issued s t) d.toNat y false)) := by
  refine ⟨word (packPreds (issued s t) a.toNat 32), fun i hi => ?_, ?_⟩
  · rw [getLsbD_word _ hi, testBit_packPreds _ _ _ hi, rdP_issued]
  · rw [exec_ppack, execPpack, simple_of_issues h]

/-! ### Select and moves (R127 to R129) -/

/-- A guard field names p0, or a predicate of its window, negated or not (R87, R88). -/
theorem guardPasses_eq (t : Thread) (g : Guard) :
    guardPasses t g =
      if g.k = 0 then true else Bool.xor g.n (rdP t (8 * ((t.clause.map (·.gw)).getD 0) + g.k.toNat)) := by
  rw [guardPasses]
  by_cases hk : g.k = 0
  · rw [if_pos hk, hk]
    rfl
  · have : ¬ g.k.toNat = 0 := fun e => hk (BitVec.eq_of_toNat_eq e)
    rw [if_neg hk, beq_eq_false_iff_ne.2 this, Bool.false_or, Bool.xor_comm]

theorem sel_next {g : Guard} {u : Bool} {d a : Reg} {b : Src} {s : State} {t : Thread} (h : Issues (.sel g u d a b) s t) :
    exec (.sel g u d a b) s = .next (retire (.sel g u d a b) s (wrV (issued s t) d.toNat
      (if guardPasses t g then rdV t a.toNat else rdSrc t b) (rdTaint t a.toNat || taintSrc t b))) := by
  have guard : guardPasses (issued s t) g = guardPasses t g := rfl
  rw [exec_sel, execSel, simple_of_issues h, guard, rdV_issued, rdSrc_issued, rdTaint_issued, taintSrc_issued]

theorem movi_next {g : Guard} {u : Bool} {d : Reg} {imm : BitVec 14} {s : State} {t : Thread} (h : Issues (.movi g u d imm) s t) :
    exec (.movi g u d imm) s =
      .next (retire (.movi g u d imm) s (wrV (issued s t) d.toNat (imm.signExtend 32) false)) := by
  rw [exec_movi, execMovi, simple_of_issues h, wordOfInt_eq, sextInt_toNat]
  rfl

/-- Settles O3: a compare writes one predicate with its condition, which on F32 patterns is the order of their places; the
predicate logic, select and the moves have the value of their operands. -/
theorem compareSelectAndMoveResults : Obligations.CompareSelectAndMoveResults := by
  unfold Obligations.CompareSelectAndMoveResults
  simp only [List.forall_mem_cons, List.not_mem_nil, false_imp_iff, implies_true, and_true]
  refine ⟨fun g u d a b s t => ⟨?_, ?_, ?_, ?_, ?_, ?_, ?_, ?_, ?_, ?_, ?_⟩, fun g u d a b s t => ⟨⟨?_, ?_, ?_, ?_⟩, ?_, ?_⟩,
    fun g u d a b imm w s t => ⟨?_, ?_, ?_, ?_⟩⟩ <;> intro h
  · rw [exec_setpEq]; exact aluCmp_next h rfl
  · rw [exec_setpNe]; exact aluCmp_next h decide_not.symm
  · rw [exec_setpLtI32]; exact aluCmp_next h (cmpLtI_eq ..)
  · rw [exec_setpLeI32]; exact aluCmp_next h (cmpLeI_eq ..)
  · rw [exec_setpLtN32]; exact aluCmp_next h rfl
  · rw [exec_setpLeN32]; exact aluCmp_next h rfl
  · rw [exec_setpEqF32]; exact aluCmp_next h (cmpEqF_eq ..)
  · rw [exec_setpNeF32]; exact aluCmp_next h (not_cmpEqF_eq ..)
  · rw [exec_setpLtF32]; exact aluCmp_next h (cmpLtF_eq ..)
  · rw [exec_setpLeF32]; exact aluCmp_next h (cmpLeF_eq ..)
  · rw [exec_setpUnF32]; exact aluCmp_next h (cmpUnF_eq ..)
  · rw [exec_pand]; exact aluPred_next h rfl
  · rw [exec_por]; exact aluPred_next h rfl
  · rw [exec_pxor]; exact aluPred_next h rfl
  · rw [exec_pandn]; exact aluPred_next h rfl
  · exact ppack_next h
  · exact punpack_next h
  · rw [← guardPasses_eq]; exact sel_next h
  · exact (exec_mov ..).trans (aluA_next h rfl)
  · exact movi_next h
  · exact (exec_moviLiteral ..).trans (simple_of_issues h _)

end Sys2Proof.Machine
end
section
/-! PROOF. The pattern of every delivered result lies within the width of its format (R47, R52, R61). -/

namespace Sys2Proof.Machine

theorem Fmt.width_eq (f : Fmt) : f.width = f.eb + f.fb + 1 := by
  rw [Fmt.width, Nat.add_assoc, Nat.add_comm]

theorem signBits_le (f : Fmt) (neg : Bool) : signBits f neg ≤ 2 ^ (f.eb + f.fb) := by
  rw [signBits, Fmt.width_eq]
  split
  · exact le_rfl
  · exact Nat.zero_le _

/-- A sign over a magnitude pattern stays within the format. -/
theorem signBits_add_lt {f : Fmt} {neg : Bool} {n : Nat} (h : n < 2 ^ (f.eb + f.fb)) : signBits f neg + n < 2 ^ f.width := by
  have := signBits_le f neg
  rw [Fmt.width_eq, Nat.pow_succ]
  omega

theorem canonNan_lt (f : Fmt) : f.canonNan < 2 ^ f.width := by cases f <;> decide

theorem infBits_lt (f : Fmt) : f.infBits < 2 ^ (f.eb + f.fb) := by cases f <;> decide

theorem maxBits_lt (f : Fmt) : f.maxBits < 2 ^ (f.eb + f.fb) := by cases f <;> decide

/-- The largest finite value has an exponent field of the format. -/
theorem unpack_maxBits (f : Fmt) : ∃ m e, unpack f f.maxBits = .fin false m e ∧ e + f.fb + f.bias < (2 ^ f.eb : Nat) := by
  cases f <;> exact ⟨_, _, rfl, by decide⟩

/-- A significand of fb + 1 bits and an exponent field of eb bits pack into eb + fb bits below the sign. -/
theorem packFin_lt {f : Fmt} {neg : Bool} {m : Nat} {q : Int} (hm : m < 2 ^ (f.fb + 1)) (hq : q + f.fb + f.bias < (2 ^ f.eb : Nat)) :
    packFin f neg m q < 2 ^ f.width := by
  have field : (q + f.fb + f.bias).toNat + 1 ≤ 2 ^ f.eb := by
    have := Nat.two_pow_pos f.eb
    omega
  have room := Nat.mul_le_mul_right (2 ^ f.fb) field
  rw [Nat.pow_succ] at hm
  apply signBits_add_lt
  rw [Nat.pow_add]
  split
  · have := Nat.le_mul_of_pos_left (2 ^ f.fb) (Nat.two_pow_pos f.eb)
    omega
  · rw [Nat.add_mul, Nat.one_mul] at room
    omega

/-- Rounding a magnitude at a unit that leaves k bits below its leading one gives at most 2^(k+1) units. -/
theorem roundAt_le (mode : Rnd) (neg : Bool) (m k : Nat) (e q : Int) (sticky : Bool) (h : (Nat.log2 m : Int) + e - k ≤ q) :
    (roundAt mode neg m e q sticky).1 ≤ 2 ^ (k + 1) := by
  have hm : m < 2 ^ (Nat.log2 m + 1) := Nat.lt_log2_self
  rw [roundAt]
  split
  · calc m * 2 ^ (e - q).toNat ≤ 2 ^ (Nat.log2 m + 1) * 2 ^ (e - q).toNat := Nat.mul_le_mul_right _ hm.le
      _ = 2 ^ (Nat.log2 m + 1 + (e - q).toNat) := (Nat.pow_add ..).symm
      _ ≤ 2 ^ (k + 1) := Nat.pow_le_pow_right (by omega) (by omega)
  · have quot : m / 2 ^ (q - e).toNat < 2 ^ (k + 1) := by
      rw [Nat.div_lt_iff_lt_mul (Nat.two_pow_pos _), ← Nat.pow_add]
      exact hm.trans_le (Nat.pow_le_pow_right (by omega) (by omega))
    simp only
    split <;> omega

/-- A rounded magnitude is renormalised to fb + 1 bits. -/
theorem roundMag_m_lt (f : Fmt) (mode : Rnd) (neg : Bool) (m : Nat) (e : Int) (sticky : Bool) :
    (roundMag f mode neg m e sticky).m < 2 ^ (f.fb + 1) := by
  have le := roundAt_le mode neg m f.fb e (max (Nat.log2 m + e) f.emin - f.fb) sticky (by omega)
  have := Nat.two_pow_pos (f.fb + 1)
  simp only [roundMag]
  split <;> omega

/-- A rounded magnitude that does not overflow has an exponent field of its format. -/
theorem roundMag_q_lt {f : Fmt} {mode : Rnd} {neg : Bool} {m : Nat} {e : Int} {sticky : Bool}
    (h : (roundMag f mode neg m e sticky).ovf = false) : (roundMag f mode neg m e sticky).q + f.fb + f.bias < (2 ^ f.eb : Nat) := by
  obtain ⟨mm, me, top, field⟩ := unpack_maxBits f
  have le : (roundMag f mode neg m e sticky).q ≤ me := by
    simp only [roundMag, top, decide_eq_false_iff_not, not_or, not_lt] at h ⊢
    exact h.1
  omega

theorem overflowBits_lt (f : Fmt) (mode : Rnd) (neg : Bool) : overflowBits f mode neg < 2 ^ f.width := by
  have branch (toInf : Bool) : (if toInf then (if f.hasInf then signBits f neg + f.infBits else f.canonNan)
      else signBits f neg + f.maxBits) < 2 ^ f.width := by
    split
    · split
      · exact signBits_add_lt (infBits_lt f)
      · exact canonNan_lt f
    · exact signBits_add_lt (maxBits_lt f)
  exact branch _

theorem deliver_lt (f : Fmt) (mode : Rnd) (sat neg : Bool) (m : Nat) (e : Int) (sticky : Bool) :
    (deliver f mode sat neg m e sticky).1 < 2 ^ f.width := by
  simp only [deliver]
  split
  · exact signBits_add_lt (n := 0) (Nat.two_pow_pos _)
  · split
    · split
      · exact signBits_add_lt (maxBits_lt f)
      · exact overflowBits_lt f mode neg
    · next h => exact packFin_lt (roundMag_m_lt ..) (roundMag_q_lt (by simpa using h))

theorem finish_lt (f : Fmt) (snan : Bool) (r : Option Val) : (finish f snan r).1 < 2 ^ f.width := by
  rcases r with _ | ⟨neg, m, e⟩ | neg | sig
  · exact canonNan_lt f
  · exact deliver_lt ..
  · exact signBits_add_lt (infBits_lt f)
  · exact canonNan_lt f

theorem fpAdd_lt (f : Fmt) (a b : Nat) : (fpAdd f a b).1 < 2 ^ f.width := finish_lt ..

theorem fpMul_lt (f : Fmt) (a b : Nat) : (fpMul f a b).1 < 2 ^ f.width := finish_lt ..

theorem fpFma_lt (f : Fmt) (a b c : Nat) : (fpFma f a b c).1 < 2 ^ f.width := finish_lt ..

end Sys2Proof.Machine
end

section
/-! PROOF. FMIN and FMAX, and the packed 16-bit instructions (R131, R132). -/

namespace Sys2Proof.Machine

open Sys2Proof.Safety

/-! ### FMIN and FMAX (R53, R131) -/

/-- What FMIN and FMAX give: an operand that is no NaN, the canonical NaN without one, and the first of the order otherwise. -/
theorem aluF_fpPick (greater : Bool) (x y : Word) : aluF (fpPick greater) x y =
    (if f32Nan x then (if f32Nan y then 0x7FC00000 else y) else if f32Nan y then x
      else if decide (f32Order x < f32Order y) != greater then x else y,
     if f32Snan x || f32Snan y then fINVL else 0) := by
  have pair (p : Nat × Nat) {z : Word} {fl : Nat} (h : p = (z.toNat, fl)) : (word p.1, p.2) = (z, fl) := by rw [h, word_toNat]
  refine pair _ ?_
  simp only [fpPick, isNan_unpack_f32, isSnan_unpack_f32, orderKey_toNat, flagIf]
  cases f32Nan x <;> cases f32Nan y
  · simp only [Bool.false_eq_true, if_false]
    split <;> rfl
  · rfl
  · rfl
  · rfl

/-- At operands that are not ordered strictly, which are equal, FMAX may take either. -/
theorem pick_greater (x y : Word) :
    (if decide (f32Order x < f32Order y) != true then x else y) = if decide (f32Order y < f32Order x) then x else y := by
  rcases lt_trichotomy (f32Order x) (f32Order y) with h | h | h
  · simp [h, h.not_gt]
  · rw [f32Order_inj h, ite_self, ite_self]
  · simp [h, h.not_gt]

theorem aluF_fmin (x y : Word) : aluF (fpPick false) x y =
    (if f32Nan x then (if f32Nan y then 0x7FC00000 else y) else if f32Nan y then x
      else if decide (f32Order x < f32Order y) then x else y,
     if f32Snan x || f32Snan y then fINVL else 0) := by
  rw [aluF_fpPick, Bool.bne_false]

theorem aluF_fmax (x y : Word) : aluF (fpPick true) x y =
    (if f32Nan x then (if f32Nan y then 0x7FC00000 else y) else if f32Nan y then x
      else if decide (f32Order y < f32Order x) then x else y,
     if f32Snan x || f32Snan y then fINVL else 0) := by
  rw [aluF_fpPick, pick_greater]

/-! ### Packed elements (R48, R54, R132) -/

theorem halfOf_eq (x : Word) (i : Nat) : halfOf x i = (x.extractLsb' (16 * i) 16).toNat := by
  rw [halfOf, BitVec.extractLsb'_toNat, Nat.shiftRight_eq_div_pow]

/-- Two elements of 16 bits are read back from the word that holds them. -/
theorem halfOf_packed2 {f : Nat → Nat × Nat} (h : ∀ i, (f i).1 < 2 ^ 16) :
    halfOf (packed2 f).1 0 = (f 0).1 ∧ halfOf (packed2 f).1 1 = (f 1).1 := by
  have h0 := h 0
  have h1 := h 1
  simp only [halfOf, packed2, toNat_word]
  constructor <;> omega

/-- Settles O6: FMIN and FMAX pick by the order of the patterns; a packed result holds the two elements' results, each
within its 16 bits. -/
theorem floatMinimumMaximumAndPackedResults : Obligations.FloatMinimumMaximumAndPackedResults := by
  unfold Obligations.FloatMinimumMaximumAndPackedResults
  simp only [List.forall_mem_cons, List.not_mem_nil, false_imp_iff, implies_true, and_true, ← halfOf_eq]
  refine ⟨fun g u d a b s t => ⟨?_, ?_⟩, fun g u d a b s t => ⟨?_, ?_, ?_, ?_⟩⟩ <;> intro h
  · exact (exec_fmin ..).trans (aluABF_next h (aluF_fmin ..))
  · exact (exec_fmax ..).trans (aluABF_next h (aluF_fmax ..))
  · obtain ⟨lo, hi⟩ := halfOf_packed2 fun _ => fpFma_lt .f16 _ _ _
    exact ⟨_, lo, hi, (exec_hfma2 ..).trans (aluABDF_next h rfl)⟩
  · obtain ⟨lo, hi⟩ := halfOf_packed2 fun _ => fpFma_lt .bf16 _ _ _
    exact ⟨_, lo, hi, (exec_bfma2 ..).trans (aluABDF_next h rfl)⟩
  · obtain ⟨lo, hi⟩ := halfOf_packed2 fun _ => fpAdd_lt .f16 _ _
    exact ⟨_, lo, hi, (exec_hadd2 ..).trans (aluABF_next h rfl)⟩
  · obtain ⟨lo, hi⟩ := halfOf_packed2 fun _ => fpMul_lt .f16 _ _
    exact ⟨_, lo, hi, (exec_hmul2 ..).trans (aluABF_next h rfl)⟩

end Sys2Proof.Machine
end
